-- ==== Sys2Proof/Word.lean ====
section
/-! DEFINITION. The word types of the machine and their plainest arithmetic (R3, R7, R11, R68). -/

namespace Sys2Proof

/-- A 64-bit pattern: a register, an effective address, a doubleword of memory. -/
abbrev Word := BitVec 64
/-- One byte of memory. -/
abbrev Byte := BitVec 8
/-- One instruction word (R68). -/
abbrev IWord := BitVec 32
/-- An 8-bit register field (R15). -/
abbrev Reg := BitVec 8
/-- A 4-bit vector register field (R17). -/
abbrev VReg := BitVec 4

end Sys2Proof
end

