-- ==== Sys2Proof/Config.lean ====
section
/-! DEFINITION. What an implementation fixes, and the values the spec leaves open. The constants of R1 are
definitions; the open values are constants without a body, so no proof can see what they are. -/

namespace Sys2Proof.Config

/-- Logical chiplets (R1, R330). -/
def chiplets : Nat := 576
/-- Logical cores (R1, R330). -/
def cores : Nat := 4608
/-- Logical cores of a chiplet (R1). -/
def coresPerChiplet : Nat := 8
/-- Chiplet sites (R1). -/
def sites : Nat := 624
/-- Site columns (R330). -/
def siteColumns : Nat := 26
/-- Register-file entries of a core (R14). -/
def fileEntries : Nat := 2048
/-- HBM stacks (R201). -/
def hbmStacks : Nat := 48
/-- Mailbox entries of a core (R163). -/
def mailboxEntries : Nat := 64
/-- Entries of a core's send queue (R161). -/
def sendQueueEntries : Nat := 16
/-- Instructions in a core's vector queue (R170). -/
def vectorQueueEntries : Nat := 4
/-- Instructions in a core's matrix queue (R280). -/
def matrixQueueEntries : Nat := 8
/-- Words of an inbound port FIFO (R168). -/
def portWords : Nat := 8
/-- Barges in a core's barge queue (R173). -/
def bargeQueueEntries : Nat := 8
/-- Records of a fault ring (R300). -/
def ringRecords : Nat := 4096
/-- Image slots of a partition's barge hold (R310). -/
def holdSlots : Nat := 64
/-- Unacknowledged messages a stream holds (R335). -/
def streamWindow : Nat := 64
/-- Hops after which a router drops a message (R334). -/
def maxHops : Nat := 64
/-- Lines in the hold of a slice (R223). -/
def holdLines : Nat := 16
/-- Entries of a core's TLB (R218). -/
def coreTlb : Nat := 32
/-- Entries of a chiplet's TLB (R218). -/
def chipletTlb : Nat := 4096
/-- Receive slots of a wharf direction (R348). -/
def wharfSlots : Nat := 1024

/-- MODEL: numbers of free words that one save record takes. -/
def recordWords : Nat := 38912

/-- The first 64 bits of SHAKE256 over a compared message (R319). FREE VALUE: the spec does not give the byte
layout of the hashed fields, so the hash is an opaque function of the kind and of a list of 52-bit physical target, size,
byte mask and data. -/
opaque pairHash : Nat → List (Nat × Nat × Nat × Nat) → Word

/-- The answer of the DOE mailbox to an SPDM request, from the digests of the loaded images (R362).
FREE VALUE: the spec gives the protocol by name only. -/
opaque spdmAnswer : Nat → List (BitVec 512) → Nat

/-- SHAKE256 with a 64-byte digest (R362). FREE VALUE: the spec names the function only. -/
opaque shake256 : Nat → BitVec 512

/-- Ed448 verification of a signature over an image under a public key (R362). FREE VALUE: the spec names it only. -/
opaque ed448 : Nat → Nat → Nat → Bool

/-- AES-256-XTS under a key pair, with a 128-bit tweak, of a 16-byte data unit (R228). FREE VALUE: the spec names it only. -/
opaque aesXts : BitVec 512 → BitVec 128 → BitVec 128 → BitVec 128

/-- The key pair that a key slot holds when it has been installed for the n-th time (R228, R229). FREE VALUE. -/
opaque keyPair : BitVec 6 → Nat → BitVec 512

/-- The answer of the DOE mailbox to a CDAT request (R349). FREE VALUE: the spec gives the protocol by name only. -/
opaque cdatAnswer : Nat → Nat

/-- How a SEND and a refusal are laid out in the payload of wharf flits (R347): panel, core, context, descriptor or
header, value. FREE VALUE: the spec gives no layout. -/
opaque sendPayload : BitVec 12 → Nat → Nat → Word → Word → Nat
opaque refusalPayload : BitVec 12 → Nat → Word → Word → Nat

/-- An access that one panel asks another for (R343, R344): source panel and slot, the slot there and the generation it is
taken to have, a number that the answer names, C and PIN of the leaf, address, size, and what is asked: 0 a read, 1 a write
of `a`, 16 and above an AMO, 24 a CAS of `b` for `a`, 32 and above a RED, 40 and above a LINEOP, each with its function. -/
structure FabricAccess where
  panel : BitVec 12
  src : BitVec 6
  slot : BitVec 6
  gen : BitVec 16
  num : Nat
  c : Bool
  pin : Option Nat
  pa : Nat
  size : Nat
  kind : Nat
  a : BitVec 128
  b : Word
deriving DecidableEq, Repr

/-- How an access and an answer to one are laid out. FREE VALUE: the spec gives no layout. -/
opaque accessPayload : BitVec 12 → FabricAccess → Nat
/-- The payload that answers the access with a number that a panel asked for: none where it is refused. -/
opaque answerPayload : BitVec 12 → Nat → Option (BitVec 128) → Nat

/-- What the payloads a wharf received say, newest last: a SEND (source panel, core, context, descriptor, value), a
refusal (core, header, payload), an access, or the answer to one (its number, and the old value unless refused).
FREE VALUE. -/
opaque inboundSend : List Nat → Option (BitVec 12 × Nat × Nat × Word × Word)
opaque inboundRefusal : List Nat → Option (Nat × Word × Word)
opaque inboundAccess : List Nat → Option FabricAccess
opaque inboundAnswer : List Nat → Option (Nat × Option (BitVec 128))

/-- What another panel answers to an access of an engine, a queue command or the lock-keeper of this one (R343): the old
value, or none where it refuses. FREE VALUE, applied to a counter of State. -/
opaque fabricAnswer : Nat → Option (BitVec 128)

/-- The byte of another panel that an instruction fetch through a fabric slot reads at an address there (R343), or none where
it refuses. FREE VALUE, applied to a counter of State. -/
opaque fabricFetch : Nat → Nat → Option Byte

/-- What a register, a strip or a sector holds after an event that the spec leaves without a value.
FREE VALUE, applied to a counter of State. -/
opaque freeWord : Nat → Word

end Sys2Proof.Config
end

