-- ==== Sys2Proof/Syntax.lean ====
section
/-! DEFINITION. The steps of the machine: one constructor for every row of spec/opcode_table.json.
The first 177 kinds are the encoded instructions of R73 and R74, one instruction word each: an EXT word
is an instruction of its own, whose effect is to widen the immediate of the word after it (R77).
The other 131 are the steps of cores, memories, engines, lock-keeper, routers and host that
spec/95_what_each_step_holds.md lists; their arguments name the queued item they concern and the
choices the spec leaves to the device. -/

namespace Sys2Proof

/-- Element type T of a vector instruction (R69). -/
inductive ElemType where
  | fp64 | fp32 | fp16 | bf16 | i64 | i32 | i16
deriving DecidableEq, Repr

/-- Mask field M (R69). -/
inductive MaskSel where
  | all | m0 | m1 | notM0
deriving DecidableEq, Repr

/-- A mask selector (R145). -/
inductive MaskReg where
  | m0 | m1
deriving DecidableEq, Repr

/-- Kind of FENCE (R75). -/
inductive FenceKind where
  | acq | rel | ar | sc
deriving DecidableEq, Repr

/-- Type codes 0 to 10 of VCVT and MREAD (R136). -/
inductive CvtType where
  | f64 | f32 | f16 | bf16 | i64 | i32 | i16 | i8 | i4 | e4m3 | e5m2
deriving DecidableEq, Repr

/-- Matrix type codes 0 to 9 (R281). -/
inductive MatType where
  | fp64 | fp32 | fp16 | bf16 | e4m3 | e5m2 | i8 | i4 | sb8 | sb4
deriving DecidableEq, Repr

/-- The inbound port FIFOs of a core (R167). -/
inductive InPort where
  | nup | pn | pe | ps | pw
deriving DecidableEq, Repr

/-- A direction of the mesh (R334). -/
inductive Dir where
  | north | east | south | west
deriving DecidableEq, Repr

/-- How the lock-keeper resolves a held unbacked line (R223). -/
inductive HeldChoice where
  /-- It raises the job's reservation, or marks the line taken: the line becomes RESIDENT. -/
  | taken
  /-- It names a late slot at this physical address: the line becomes SPILLED. -/
  | lateSlot (pa : Nat)
deriving DecidableEq, Repr

/-- Where an uncorrectable error strikes (R311): a 16-byte sector of physical memory or of a cache,
a register-file entry, or a CIM strip's byte is read through its sector. -/
inductive ErrorPlace where
  | sector (s : Nat)
  | l1 (core s : Nat)
  | l2 (s : Nat)
  | entry (core index : Nat)
  /-- Strip i of a chiplet's CIM macros. -/
  | strip (chip i : Nat)
  /-- The sector in flight to a core with piece j of the k-th outstanding result of context x. -/
  | flight (core x k j : Nat)
deriving DecidableEq, Repr

/-- The array in which a corrected error is met (R328, R365), whose element a number names: the 16-byte rows of a basin bank, the
sectors of HBM and core-local memory, the sectors of an L1, the entries of a register file, the strips of a chiplet. -/
inductive ErrorArray where
  | bank (chip bank : Nat)
  | sectors
  | l1 (core : Nat)
  | entries (core : Nat)
  | strips (chip : Nat)
deriving DecidableEq, Repr

/-- A region whose cores have ended, and the order in which the routers combine what its sets still hold (R66, R249). -/
structure RegionEnd where
  region : Nat
  order : List (Nat × Nat)
deriving DecidableEq, Repr

/-- A lane of a request (R342). -/
structure LaneRef where
  req : Nat
  lane : Nat
deriving DecidableEq, Repr

/-- A wharf flit (R347): the link header, the 116 payload bytes as one number, and its CRC (bytes 124 to 127). -/
structure Flit where
  lseq : BitVec 16
  lack : BitVec 16
  nak : Bool
  kind : BitVec 3
  payload : Nat
  crc : BitVec 32
deriving DecidableEq, Repr

/-- The steps of the machine. -/
inductive Instr where
  /-- ADD (R100, A3). -/
  | add (sw : Bool) (d a b : Reg)
  /-- SUB (R100, A3). -/
  | sub (sw : Bool) (d a b : Reg)
  /-- MUL (R100, A3). -/
  | mul (sw : Bool) (d a b : Reg)
  /-- MULH (R100, A3). -/
  | mulh (sw : Bool) (d a b : Reg)
  /-- MULHU (R100, A3). -/
  | mulhu (sw : Bool) (d a b : Reg)
  /-- DIV (R100, A3). -/
  | div (sw : Bool) (d a b : Reg)
  /-- DIVU (R100, A3). -/
  | divu (sw : Bool) (d a b : Reg)
  /-- REM (R100, A3). -/
  | rem (sw : Bool) (d a b : Reg)
  /-- REMU (R100, A3). -/
  | remu (sw : Bool) (d a b : Reg)
  /-- AND (R100, A3). -/
  | and (sw : Bool) (d a b : Reg)
  /-- OR (R100, A3). -/
  | or (sw : Bool) (d a b : Reg)
  /-- XOR (R100, A3). -/
  | xor (sw : Bool) (d a b : Reg)
  /-- ANDN (R100, A3). -/
  | andn (sw : Bool) (d a b : Reg)
  /-- SHL (R100, A3). -/
  | shl (sw : Bool) (d a b : Reg)
  /-- SHR (R100, A3). -/
  | shr (sw : Bool) (d a b : Reg)
  /-- SHRA (R100, A3). -/
  | shra (sw : Bool) (d a b : Reg)
  /-- MIN (R100, A3). -/
  | min (sw : Bool) (d a b : Reg)
  /-- MAX (R100, A3). -/
  | max (sw : Bool) (d a b : Reg)
  /-- MINU (R100, A3). -/
  | minu (sw : Bool) (d a b : Reg)
  /-- MAXU (R100, A3). -/
  | maxu (sw : Bool) (d a b : Reg)
  /-- SETEQ (R100, A3). -/
  | seteq (sw : Bool) (d a b : Reg)
  /-- SETLT (R100, A3). -/
  | setlt (sw : Bool) (d a b : Reg)
  /-- SETLTU (R100, A3). -/
  | setltu (sw : Bool) (d a b : Reg)
  /-- SEL (R101, A3). -/
  | sel (sw : Bool) (d a b : Reg)
  /-- ADDI (R102, IM8). -/
  | addi (sw : Bool) (d a imm : BitVec 8)
  /-- ANDI (R102, IM8). -/
  | andi (sw : Bool) (d a imm : BitVec 8)
  /-- ORI (R102, IM8). -/
  | ori (sw : Bool) (d a imm : BitVec 8)
  /-- XORI (R102, IM8). -/
  | xori (sw : Bool) (d a imm : BitVec 8)
  /-- SHLI (R102, IM8). -/
  | shli (sw : Bool) (d a imm : BitVec 8)
  /-- SHRI (R102, IM8). -/
  | shri (sw : Bool) (d a imm : BitVec 8)
  /-- SHRAI (R102, IM8). -/
  | shrai (sw : Bool) (d a imm : BitVec 8)
  /-- MOVI (R103, IM16). -/
  | movi (sw : Bool) (d : Reg) (imm : BitVec 16)
  /-- CLZ (R104, A2F). -/
  | clz (sw : Bool) (d a : Reg)
  /-- CTZ (R104, A2F). -/
  | ctz (sw : Bool) (d a : Reg)
  /-- POPC (R104, A2F). -/
  | popc (sw : Bool) (d a : Reg)
  /-- SEXT_B (R104, A2F). -/
  | sextB (sw : Bool) (d a : Reg)
  /-- SEXT_H (R104, A2F). -/
  | sextH (sw : Bool) (d a : Reg)
  /-- SEXT_W (R104, A2F). -/
  | sextW (sw : Bool) (d a : Reg)
  /-- ZEXT_B (R104, A2F). -/
  | zextB (sw : Bool) (d a : Reg)
  /-- ZEXT_H (R104, A2F). -/
  | zextH (sw : Bool) (d a : Reg)
  /-- ZEXT_W (R104, A2F). -/
  | zextW (sw : Bool) (d a : Reg)
  /-- BSWAP (R104, A2F). -/
  | bswap (sw : Bool) (d a : Reg)
  /-- MOV (R104, A2F). -/
  | mov (sw : Bool) (d a : Reg)
  /-- FADD_D (R105, A3). -/
  | faddD (sw : Bool) (d a b : Reg)
  /-- FADD_S (R105, A3). -/
  | faddS (sw : Bool) (d a b : Reg)
  /-- FSUB_D (R105, A3). -/
  | fsubD (sw : Bool) (d a b : Reg)
  /-- FMUL_D (R105, A3). -/
  | fmulD (sw : Bool) (d a b : Reg)
  /-- FMUL_S (R105, A3). -/
  | fmulS (sw : Bool) (d a b : Reg)
  /-- FDIV_D (R105, A3). -/
  | fdivD (sw : Bool) (d a b : Reg)
  /-- FFMA_D (R106, A3). -/
  | ffmaD (sw : Bool) (d a b : Reg)
  /-- FFMA_S (R106, A3). -/
  | ffmaS (sw : Bool) (d a b : Reg)
  /-- FCMPEQ_D (R105, A3). -/
  | fcmpeqD (sw : Bool) (d a b : Reg)
  /-- FCMPLT_D (R105, A3). -/
  | fcmpltD (sw : Bool) (d a b : Reg)
  /-- FSQRT_D (R107, A2F). -/
  | fsqrtD (sw : Bool) (d a : Reg)
  /-- FSQRT_S (R107, A2F). -/
  | fsqrtS (sw : Bool) (d a : Reg)
  /-- FABS_D (R107, A2F). -/
  | fabsD (sw : Bool) (d a : Reg)
  /-- FNEG_D (R107, A2F). -/
  | fnegD (sw : Bool) (d a : Reg)
  /-- FCLASS_D (R108, A2F). -/
  | fclassD (sw : Bool) (d a : Reg)
  /-- FCVT_D_S (R107, A2F). -/
  | fcvtDS (sw : Bool) (d a : Reg)
  /-- FCVT_S_D (R107, A2F). -/
  | fcvtSD (sw : Bool) (d a : Reg)
  /-- FCVT_D_L (R107, A2F). -/
  | fcvtDL (sw : Bool) (d a : Reg)
  /-- FCVT_L_D (R107, A2F). -/
  | fcvtLD (sw : Bool) (d a : Reg)
  /-- FCVT_S_H (R107, A2F). -/
  | fcvtSH (sw : Bool) (d a : Reg)
  /-- FCVT_H_S (R107, A2F). -/
  | fcvtHS (sw : Bool) (d a : Reg)
  /-- FCVT_S_BF (R107, A2F). -/
  | fcvtSBf (sw : Bool) (d a : Reg)
  /-- FCVT_BF_S (R107, A2F). -/
  | fcvtBfS (sw : Bool) (d a : Reg)
  /-- BEQ (R110, BR). -/
  | beq (sw : Bool) (a b : Reg) (off : BitVec 8)
  /-- BNE (R110, BR). -/
  | bne (sw : Bool) (a b : Reg) (off : BitVec 8)
  /-- BLT (R110, BR). -/
  | blt (sw : Bool) (a b : Reg) (off : BitVec 8)
  /-- BGE (R110, BR). -/
  | bge (sw : Bool) (a b : Reg) (off : BitVec 8)
  /-- BLTU (R110, BR). -/
  | bltu (sw : Bool) (a b : Reg) (off : BitVec 8)
  /-- BGEU (R110, BR). -/
  | bgeu (sw : Bool) (a b : Reg) (off : BitVec 8)
  /-- BMB (R111, BX). -/
  | bmb (sw : Bool) (p : Bool) (i : BitVec 6) (off : BitVec 16)
  /-- BCR (R112, BX). -/
  | bcr (sw : Bool) (p : Bool) (n : BitVec 7) (off : BitVec 16)
  /-- JMP (R113, JP). -/
  | jmp (sw : Bool) (off : BitVec 24)
  /-- CALL (R113, JP). -/
  | call (sw : Bool) (off : BitVec 24)
  /-- JR (R114, A2F). -/
  | jr (sw : Bool) (a : Reg)
  /-- CALLR (R114, A2F). -/
  | callr (sw : Bool) (a : Reg)
  /-- RET (R114, A2F). -/
  | ret (sw : Bool)
  /-- LOOP (R115, BX). -/
  | loop (sw : Bool) (c : Reg) (off : BitVec 16)
  /-- LD_B (R116, R117, IM8). -/
  | ldB (sw : Bool) (d a imm : BitVec 8)
  /-- LD_H (R116, R117, IM8). -/
  | ldH (sw : Bool) (d a imm : BitVec 8)
  /-- LD_W (R116, R117, IM8). -/
  | ldW (sw : Bool) (d a imm : BitVec 8)
  /-- LD_D (R116, R117, IM8). -/
  | ldD (sw : Bool) (d a imm : BitVec 8)
  /-- LDU_B (R116, R117, IM8). -/
  | lduB (sw : Bool) (d a imm : BitVec 8)
  /-- LDU_H (R116, R117, IM8). -/
  | lduH (sw : Bool) (d a imm : BitVec 8)
  /-- LDU_W (R116, R117, IM8). -/
  | lduW (sw : Bool) (d a imm : BitVec 8)
  /-- ST_B (R116, R117, IM8). -/
  | stB (sw : Bool) (d a imm : BitVec 8)
  /-- ST_H (R116, R117, IM8). -/
  | stH (sw : Bool) (d a imm : BitVec 8)
  /-- ST_W (R116, R117, IM8). -/
  | stW (sw : Bool) (d a imm : BitVec 8)
  /-- ST_D (R116, R117, IM8). -/
  | stD (sw : Bool) (d a imm : BitVec 8)
  /-- PREF (R119, IM8). -/
  | pref (sw : Bool) (a imm : BitVec 8)
  /-- VADD (R132, VV). -/
  | vadd (sw : Bool) (vd va vb : VReg) (t : ElemType) (m : MaskSel) (f : BitVec 3)
  /-- VSUB (R132, VV). -/
  | vsub (sw : Bool) (vd va vb : VReg) (t : ElemType) (m : MaskSel) (f : BitVec 3)
  /-- VMUL (R132, VV). -/
  | vmul (sw : Bool) (vd va vb : VReg) (t : ElemType) (m : MaskSel) (f : BitVec 3)
  /-- VFMA (R132, VV). -/
  | vfma (sw : Bool) (vd va vb vc : VReg) (t : ElemType) (m : MaskSel) (f : BitVec 3)
  /-- VMIN (R132, VV). -/
  | vmin (sw : Bool) (vd va vb : VReg) (t : ElemType) (m : MaskSel) (f : BitVec 3)
  /-- VMAX (R132, VV). -/
  | vmax (sw : Bool) (vd va vb : VReg) (t : ElemType) (m : MaskSel) (f : BitVec 3)
  /-- VLOGIC (R132, VV). -/
  | vlogic (sw : Bool) (vd va vb : VReg) (t : ElemType) (m : MaskSel) (f : BitVec 3)
  /-- VSHIFT (R132, VV). -/
  | vshift (sw : Bool) (vd va vb : VReg) (t : ElemType) (m : MaskSel) (f : BitVec 3)
  /-- VCMP (R133, VV). -/
  | vcmp (sw : Bool) (md : MaskReg) (va vb : VReg) (t : ElemType) (m : MaskSel) (f : BitVec 3)
  /-- VSEL (R134, VV). -/
  | vsel (sw : Bool) (vd va vb : VReg) (t : ElemType) (m : MaskSel)
  /-- VCVT (R136, R137, VV). -/
  | vcvt (sw : Bool) (vd va : VReg) (src dst : CvtType) (m : MaskSel) (p : BitVec 3)
  /-- VUNARY (R132, VV; vb is not read). -/
  | vunary (sw : Bool) (vd va vb : VReg) (t : ElemType) (m : MaskSel) (f : BitVec 3)
  /-- VRED (R138, VV; vb is not read). -/
  | vred (sw : Bool) (vd va vb : VReg) (t : ElemType) (m : MaskSel) (f : BitVec 3)
  /-- VSCAN (R138, VV; vb is not read). -/
  | vscan (sw : Bool) (vd va vb : VReg) (t : ElemType) (m : MaskSel) (f : BitVec 3)
  /-- VBCAST (R139, VX). -/
  | vbcast (sw : Bool) (v : VReg) (xa : Reg) (t : ElemType) (k : Bool)
  /-- VEXT (R139, VX). -/
  | vext (sw : Bool) (v : VReg) (xa : Reg) (lane : BitVec 8) (t : ElemType)
  /-- VINS (R139, VX). -/
  | vins (sw : Bool) (v : VReg) (xa : Reg) (lane : BitVec 8) (t : ElemType) (k : Bool)
  /-- VPERM (R135, VV). -/
  | vperm (sw : Bool) (vd va vb vc : VReg) (t : ElemType) (m : MaskSel)
  /-- VLD (R140, VX). -/
  | vld (sw : Bool) (v : VReg) (xa : Reg) (imm : BitVec 8) (t : ElemType) (k : Bool)
  /-- VST (R140, VX). -/
  | vst (sw : Bool) (v : VReg) (xa : Reg) (imm : BitVec 8) (t : ElemType) (k : Bool)
  /-- VLDS (R140, VX). -/
  | vlds (sw : Bool) (v : VReg) (xa xb : Reg) (t : ElemType) (k : Bool)
  /-- VSTS (R140, VX). -/
  | vsts (sw : Bool) (v : VReg) (xa xb : Reg) (t : ElemType) (k : Bool)
  /-- VGATH (R143, VX). -/
  | vgath (sw : Bool) (v : VReg) (xa : Reg) (vi : VReg) (t : ElemType) (k : Bool)
  /-- VSCAT (R143, VX). -/
  | vscat (sw : Bool) (v : VReg) (xa : Reg) (vi : VReg) (t : ElemType) (k : Bool)
  /-- MAND (R145, A2F). -/
  | mand (sw : Bool) (md ma mb : MaskReg)
  /-- MOR (R145, A2F). -/
  | mor (sw : Bool) (md ma mb : MaskReg)
  /-- MXOR (R145, A2F). -/
  | mxor (sw : Bool) (md ma mb : MaskReg)
  /-- MANDN (R145, A2F). -/
  | mandn (sw : Bool) (md ma mb : MaskReg)
  /-- MNOT (R145, A2F). -/
  | mnot (sw : Bool) (md ma : MaskReg)
  /-- MPOPC (R145, A2F). -/
  | mpopc (sw : Bool) (d : Reg) (ma : MaskReg)
  /-- MFIRST (R145, A2F). -/
  | mfirst (sw : Bool) (d : Reg) (ma : MaskReg)
  /-- MSET (R145, A2F). -/
  | mset (sw : Bool) (md : MaskReg) (a : Reg)
  /-- MGET (R145, A2F). -/
  | mget (sw : Bool) (d : Reg) (ma : MaskReg)
  /-- SPAWN (R154, A3). -/
  | spawn (sw : Bool) (d a b : Reg)
  /-- REAP (R155, A3). -/
  | reap (sw : Bool) (d a : Reg)
  /-- REPART (R156, A3). -/
  | repart (sw : Bool) (d a : Reg)
  /-- SEND (R159, A3). -/
  | send (sw : Bool) (a b : Reg)
  /-- WAITM (R165, A3). -/
  | waitm (sw : Bool)
  /-- RECVM (R166, A3). -/
  | recvm (sw : Bool) (d : Reg)
  /-- CLRF (R158, A3). -/
  | clrf (sw : Bool) (d : Reg)
  /-- MIGRATE (R172, A3). -/
  | migrate (sw : Bool) (a : Reg)
  /-- TRIGGER (R190, A3). -/
  | trigger (sw : Bool) (a b : Reg)
  /-- BAR (R194, A3). -/
  | bar (sw : Bool) (d a : Reg)
  /-- FENCE (R242, AT). -/
  | fence (sw : Bool) (kind : FenceKind) (scope : BitVec 4)
  /-- AMO_ADD (R246, AT). -/
  | amoAdd (sw : Bool) (d a : Reg) (scope : BitVec 4) (ord : Bool)
  /-- AMO_MIN (R246, AT). -/
  | amoMin (sw : Bool) (d a : Reg) (scope : BitVec 4) (ord : Bool)
  /-- AMO_MAX (R246, AT). -/
  | amoMax (sw : Bool) (d a : Reg) (scope : BitVec 4) (ord : Bool)
  /-- AMO_MINU (R246, AT). -/
  | amoMinu (sw : Bool) (d a : Reg) (scope : BitVec 4) (ord : Bool)
  /-- AMO_MAXU (R246, AT). -/
  | amoMaxu (sw : Bool) (d a : Reg) (scope : BitVec 4) (ord : Bool)
  /-- AMO_AND (R246, AT). -/
  | amoAnd (sw : Bool) (d a : Reg) (scope : BitVec 4) (ord : Bool)
  /-- AMO_OR (R246, AT). -/
  | amoOr (sw : Bool) (d a : Reg) (scope : BitVec 4) (ord : Bool)
  /-- AMO_XCHG (R246, AT). -/
  | amoXchg (sw : Bool) (d a : Reg) (scope : BitVec 4) (ord : Bool)
  /-- CAS (R247, CA). -/
  | cas (sw : Bool) (d a : Reg) (b scope : BitVec 4)
  /-- RED_FADD_ORD (R248, RD). -/
  | redFaddOrd (sw : Bool) (a b : Reg) (scope : BitVec 4) (ord : Bool)
  /-- RED_FADD_FAST (R248, RD). -/
  | redFaddFast (sw : Bool) (a b : Reg) (scope : BitVec 4) (ord : Bool)
  /-- RED_IADD (R248, RD). -/
  | redIadd (sw : Bool) (a b : Reg) (scope : BitVec 4) (ord : Bool)
  /-- RED_MIN (R248, RD). -/
  | redMin (sw : Bool) (a b : Reg) (scope : BitVec 4) (ord : Bool)
  /-- RED_MAX (R248, RD). -/
  | redMax (sw : Bool) (a b : Reg) (scope : BitVec 4) (ord : Bool)
  /-- SCOPEW (R241, AT). -/
  | scopew (sw : Bool) (a : Reg) (scope : BitVec 4)
  /-- CLEAN (R225, AT). -/
  | clean (sw : Bool) (d a : Reg) (scope : BitVec 4)
  /-- INVAL (R225, AT). -/
  | inval (sw : Bool) (d a : Reg) (scope : BitVec 4)
  /-- DISCARD (R225, AT). -/
  | discard (sw : Bool) (d a : Reg) (scope : BitVec 4)
  /-- ZERO (R225, AT). -/
  | zero (sw : Bool) (d a : Reg) (scope : BitVec 4)
  /-- RESERVE (R221, A3). -/
  | reserve (sw : Bool) (d a : Reg)
  /-- BANKMODE (R208, A3). -/
  | bankmode (sw : Bool) (d a b : Reg)
  /-- COPY (R256 to R258, A3). -/
  | copy (sw : Bool) (a b : Reg)
  /-- SBIND (R264, R265, A3). -/
  | sbind (sw : Bool) (d a : Reg)
  /-- BUFINIT (R269, A3). -/
  | bufinit (sw : Bool) (a b : Reg)
  /-- BUFACQ (R271, A3). -/
  | bufacq (sw : Bool) (d a : Reg)
  /-- BUFREL (R272, A3). -/
  | bufrel (sw : Bool) (a b : Reg)
  /-- QPUSH (R277, A3). -/
  | qpush (sw : Bool) (d a b : Reg)
  /-- QPOP (R277, A3). -/
  | qpop (sw : Bool) (d a : Reg)
  /-- QSTEAL (R277, A3). -/
  | qsteal (sw : Bool) (d a b : Reg)
  /-- MLOADB (R286, MX). -/
  | mloadb (sw : Bool) (d a : Reg)
  /-- MMA (R290, R291, MX). -/
  | mma (sw : Bool) (acc : BitVec 2) (z : Bool) (sn : BitVec 3) (t : MatType) (b : Reg)
  /-- MMAS (R290, R292, MX). -/
  | mmas (sw : Bool) (acc : BitVec 2) (z : Bool) (sn sk : BitVec 3) (t : MatType) (b : Reg)
  /-- MREAD (R293, MX). -/
  | mread (sw : Bool) (vd : VReg) (acc : BitVec 2) (t : CvtType) (b : Reg)
  /-- NOP (R121, A2F). -/
  | nop (sw : Bool)
  /-- BRK (R122, A2F). -/
  | brk (sw : Bool)
  /-- TRAP (R123, A2F). -/
  | trap (sw : Bool) (a : Reg)
  /-- IDLE (R124, A2F). -/
  | idle (sw : Bool)
  /-- RDCTL (R125, A2F). -/
  | rdctl (sw : Bool) (d : Reg) (ctl : BitVec 8)
  /-- WRCTL (R126, A2F). -/
  | wrctl (sw : Bool) (ctl : BitVec 8) (a : Reg)
  /-- REP (R80 to R85, RP; len and times less one). -/
  | rep (sw : Bool) (len : BitVec 4) (times : BitVec 6) (sd sa sb : BitVec 4)
  /-- EXT (R77 to R79, EX). -/
  | ext (payload : BitVec 24)
  /-- OUTSTANDING_RESULT_WRITE (R22: thread x of core c, piece j of its k-th outstanding result; bits picks the mask bits of a mask piece). -/
  | outstandingResultWrite (c x k j : Nat) (bits : Word)
  /-- PARK_CONDITION_HOLDS (R152). -/
  | parkConditionHolds (c x : Nat)
  /-- VECTOR_GRANT (R170). -/
  | vectorGrant (chip unit : Nat)
  /-- SEND_ARRIVAL (R160: the oldest SEND delivered to core c). -/
  | sendArrival (c : Nat)
  /-- REFUSAL_DELIVERY (R160). -/
  | refusalDelivery (c : Nat)
  /-- MAILBOX_MESSAGE_ARRIVAL (R164). -/
  | mailboxMessageArrival (c : Nat)
  /-- NOTICE_DELIVERY (R300). -/
  | noticeDelivery (c : Nat)
  /-- PORT_WORD_ARRIVAL (R168: the oldest word in flight to that FIFO of core c). -/
  | portWordArrival (c : Nat) (port : InPort)
  /-- ERROR_TOKEN (R314: one more token into the FIFO port of core c, whose partner is sealed). -/
  | errorToken (c : Nat) (port : InPort)
  /-- BARGE_ARRIVAL (R173). -/
  | bargeArrival (c : Nat)
  /-- BARGE_HOLD (R310). -/
  | bargeHold (c : Nat)
  /-- BARGE_TAKE (R174). -/
  | bargeTake (c x : Nat)
  /-- BARGE_END (R174). -/
  | bargeEnd (c x : Nat)
  /-- MEMORY_ACCESS (R233: lane of request r; fill keeps a copy in the L1 (R203), victim is an L2 sector the access displaces). -/
  | memoryAccess (r lane : Nat) (fill : Bool) (victim : Option Nat)
  /-- ACKNOWLEDGEMENT (R233). -/
  | acknowledgement (c x i : Nat)
  /-- ATOMIC_PERFORM (R245). -/
  | atomicPerform (r : Nat)
  /-- LINEOP_PERFORM (R226). -/
  | lineopPerform (r : Nat)
  /-- RED_CONTRIBUTION (R249). -/
  | redContribution (r : Nat)
  /-- REDUCTION_SET_COMPLETE (R249: set k; order is the routers choice of R66). -/
  | reductionSetComplete (k : Nat) (order : List (Nat × Nat))
  /-- PAGE_WALK (R217). -/
  | pageWalk (c : Nat) (vahi : BitVec 8) (va : Word)
  /-- L1_EVICTION (R203). -/
  | l1Eviction (c line : Nat)
  /-- BANK_ACCESS (R210). -/
  | bankAccess (r lane : Nat)
  /-- BANKMODE_REQUEST (R208). -/
  | bankmodeRequest (chip : Nat)
  /-- BANK_SWITCH_COMPLETE (R209). -/
  | bankSwitchComplete (chip bank : Nat)
  /-- BANK_FAILURE (R212). -/
  | bankFailure (chip bank : Nat)
  /-- HELD_LINE_RESOLVE (R223). -/
  | heldLineResolve (line : Nat) (how : HeldChoice)
  /-- UNBACKED_ALLOCATION_RESUME (R223). -/
  | unbackedAllocationResume (r lane : Nat)
  /-- UNBACKED_LINE_MOVE (R224). -/
  | unbackedLineMove (line : Nat)
  /-- SCOPEW_HANDLE (R241). -/
  | scopewHandle (p : Nat)
  /-- SCOPE_INSTALL (R241). -/
  | scopeInstall (c : Nat)
  /-- SCOPEW_ANSWER (R241). -/
  | scopewAnswer (p : Nat)
  /-- RESERVE_REQUEST (R221). -/
  | reserveRequest (p : Nat)
  /-- BARRIER_ARRIVAL (R195: the oldest arrival delivered to home core c). -/
  | barrierArrival (c : Nat)
  /-- BARRIER_RESULT (R196). -/
  | barrierResult (c unit : Nat)
  /-- QPUSH_COMMAND (R277). -/
  | qpushCommand (r : Nat)
  /-- QPOP_COMMAND (R277). -/
  | qpopCommand (r : Nat)
  /-- QSTEAL_COMMAND (R277). -/
  | qstealCommand (r : Nat)
  /-- BUFINIT_REQUEST (R269). -/
  | bufinitRequest (r : Nat)
  /-- BUFACQ_REQUEST (R271). -/
  | bufacqRequest (r : Nat)
  /-- BUFACQ_GRANT (R271). -/
  | bufacqGrant (chip bank base : Nat) (produce : Bool)
  /-- BUFREL_REQUEST (R272). -/
  | bufrelRequest (r : Nat)
  /-- BUFFER_SECTOR_COUNTED (R274). -/
  | bufferSectorCounted (o : Nat)
  /-- COPY_ELEMENT (R258). -/
  | copyElement (o l : Nat)
  /-- COPY_COMPLETION (R261). -/
  | copyCompletion (o : Nat)
  /-- STREAM_FILL (R263). -/
  | streamFill (c n : Nat)
  /-- STREAM_DRAIN (R263: output operation n of core c). -/
  | streamDrain (c n : Nat)
  /-- OUTPUT_BINDING_COMPLETION (R267). -/
  | outputBindingCompletion (o : Nat)
  /-- ROW_POP (R288). -/
  | rowPop (c : Nat)
  /-- MATRIX_GRANT (R283). -/
  | matrixGrant (chip : Nat)
  /-- MLOADB_STEP (R286). -/
  | mloadbStep (chip : Nat)
  /-- MMA_STEP (R291). -/
  | mmaStep (chip : Nat)
  /-- MMAS_STEP (R292). -/
  | mmasStep (chip : Nat)
  /-- MREAD_STEP (R293). -/
  | mreadStep (chip : Nat)
  /-- MATRIX_IDLE (R284). -/
  | matrixIdle (chip : Nat)
  /-- COLUMN_UNIT_RELEASE (R284). -/
  | columnUnitRelease (chip u : Nat)
  /-- NOTIFY (R352). -/
  | notify (f : Nat) (q : BitVec 8)
  /-- TRIGGER_DEC (R191). -/
  | triggerDec (p : Nat)
  /-- TRIGGER_ARM (R191). -/
  | triggerArm (p : Nat)
  /-- TRIGGER_NOTIFY (R191). -/
  | triggerNotify (p : Nat)
  /-- PRIORITY_AGING (R183). -/
  | priorityAging (p k : Nat)
  /-- REGION_PLACE (R186). -/
  | regionPlace (p : Nat)
  /-- CORE_PART_END (R188). -/
  | corePartEnd (c : Nat)
  /-- REGION_COMPLETE (R188). -/
  | regionComplete (e : RegionEnd)
  /-- PACKET_COMPLETION (R185). -/
  | packetCompletion (p : Nat)
  /-- SAVE_ENGINE_WRITE (R324). -/
  | saveEngineWrite (c : Nat)
  /-- REGION_RESUME (R324). -/
  | regionResume (g : Nat)
  /-- IMAGE_WRITE (R302). -/
  | imageWrite (c x : Nat)
  /-- FAULT_RECORD (R300: the k-th record waiting in partition p). -/
  | faultRecord (p k : Nat)
  /-- RESUME_REISSUE (R307). -/
  | resumeReissue (c : Nat)
  /-- RESUME_SKIP (R307). -/
  | resumeSkip (c : Nat)
  /-- RESUME_IMAGE_PC (R307). -/
  | resumeImagePc (c : Nat)
  /-- KILL (R307). -/
  | kill (c : Nat)
  /-- STOP (R321). -/
  | stop (c : Nat)
  /-- WAKE (R307). -/
  | wake (c : Nat)
  /-- IMAGE (R307). -/
  | image (c : Nat)
  /-- ENGINE_RESUME (R255). -/
  | engineResume (c : Nat)
  /-- ENGINE_END (R255). -/
  | engineEnd (c : Nat)
  /-- UNSEAL (R316). -/
  | unseal (c : Nat)
  /-- LAUNCH_BARGE (R310). -/
  | launchBarge (c : Nat)
  /-- REGION_FAULTED (R304). -/
  | regionFaulted (g : Nat) (grade : BitVec 2)
  /-- JOB_KILL (R326; landed are the requests whose writes complete (R327)). -/
  | jobKill (slot : BitVec 6) (grade : BitVec 2) (landed : List Nat)
  /-- KEY_SLOT_SWEEP (R229). -/
  | keySlotSweep (slot : BitVec 6)
  /-- UNCORRECTABLE_ERROR (R311). -/
  | uncorrectableError (place : ErrorPlace)
  /-- CONTAINMENT_RESTART (R316). -/
  | containmentRestart (c spare : Nat)
  /-- CORRECTED_ERROR (R365). -/
  | correctedError (c : Nat) (array : ErrorArray) (i : Nat)
  /-- CORRECTED_ERROR_NOTICE (R366). -/
  | correctedErrorNotice (p : Nat)
  /-- PAIR_COMPARE (R319). -/
  | pairCompare (k : Nat)
  /-- PAIR_TIMEOUT (R319). -/
  | pairTimeout (k : Nat)
  /-- HEARTBEAT_READ (R360). -/
  | heartbeatRead (p : Nat)
  /-- PARTITION_RESET (R198). -/
  | partitionReset (p : Nat) (landed : List Nat)
  /-- SURVEY_REFRESH (R358). -/
  | surveyRefresh
  /-- PARTITION_DRAINED (R357). -/
  | partitionDrained (p : Nat)
  /-- SWEEP_LINE (R329). -/
  | sweepLine (chip : Nat) (cim : Bool)
  /-- REMAP_LOAD (R332; failed are the routers that fail to load). -/
  | remapLoad (failed : List Nat)
  /-- REMAP_FLIP (R332). -/
  | remapFlip
  /-- REMAP_CONFIRM (R332). -/
  | remapConfirm
  /-- REMAP_IDLE (R332). -/
  | remapIdle
  /-- ROUTER_HOP (R334; dir is the adaptive choice of path (R235)). -/
  | routerHop (k : Nat) (dir : Dir)
  /-- STREAM_MESSAGE_ARRIVAL (R336). -/
  | streamMessageArrival (k : Nat)
  /-- RETRANSMIT_TIMEOUT (R337). -/
  | retransmitTimeout (k : Nat)
  /-- REHOME (R342). -/
  | rehome (l : LaneRef)
  /-- LINE_RELEASE (R341). -/
  | lineRelease (line : Nat)
  /-- SITE_DEATH (R340). -/
  | siteDeath (px py : Nat)
  /-- WHARF_FLIT_RECEIVE (R348). -/
  | wharfFlitReceive (w : Nat) (flit : Flit)
  /-- WHARF_RESEND_TIMEOUT (R348). -/
  | wharfResendTimeout (w : Nat)
  /-- WHARF_FAILURE (R346). -/
  | wharfFailure (w : Nat)
  /-- CXL_MEM_ACCESS (R350). -/
  | cxlMemAccess (f : Nat) (hp : Word) (size : Nat) (write : Option Word)
  /-- SPDM_REQUEST (R362). -/
  | spdmRequest (req : Nat)
  /-- POWER_ON (R361). -/
  | powerOn
  /-- SITE_POWER_ON (R361; deadCores are the cores that fail their self-test). -/
  | sitePowerOn (deadCores : BitVec 9)
  /-- WARM_RESET (R9). -/
  | warmReset
  /-- FUNCTION_RESET (R328). -/
  | functionReset (f : Nat)
  /-- DRAIN (R357: the oldest GREQ request (R354)). -/
  | drain
  /-- UNDRAIN (R357: the oldest GREQ request (R354)). -/
  | undrain
  /-- OFFLINE (R357: the oldest GREQ request (R354)). -/
  | offline
  /-- ONLINE (R357: the oldest GREQ request (R354)). -/
  | online
  /-- KILL_JOB (R326: the oldest GREQ request (R354)). -/
  | killJob
  /-- SET_AGE (R183: the oldest GREQ request (R354)). -/
  | setAge
  /-- SET_STRENGTH (R329: the oldest GREQ request (R354)). -/
  | setStrength
  /-- SET_TOUT (R337: the oldest GREQ request (R354)). -/
  | setTout
  /-- RETIRE_CORE (R339: the oldest GREQ request (R354)). -/
  | retireCore
  /-- SET_POWER (R363: the oldest GREQ request (R354)). -/
  | setPower
  /-- SET_FABRIC_SLOT (R355: the oldest GREQ request (R354)). -/
  | setFabricSlot
  /-- SET_FABRIC_ADMISSION (R355: the oldest GREQ request (R354)). -/
  | setFabricAdmission
  /-- SET_FABRIC_SEND_ADMISSION (R355: the oldest GREQ request (R354)). -/
  | setFabricSendAdmission
  /-- SET_FABRIC_ROUTE (R355: the oldest GREQ request (R354)). -/
  | setFabricRoute
  /-- SURVEY_NOW (R358: the oldest GREQ request (R354)). -/
  | surveyNow
  /-- SET_QUEUE_REGISTER (R356: the oldest GREQ request (R354)). -/
  | setQueueRegister
  /-- SET_QUEUE_REMOVE (R356: the oldest GREQ request (R354)). -/
  | setQueueRemove
  /-- NRING (R353). -/
  | nring (f : Nat) (v : Word)
  /-- REGISTER_WRITE (R352). -/
  | registerWrite (f off size : Nat) (v : Word)
deriving DecidableEq, Repr

end Sys2Proof
end

