-- ==== Sys2Proof/Machine/State.lean ====
section
/-! DEFINITION. The state of one HL-576 panel as plain data, the reasons a step can stop, and the machine after
reset. Every piece names the rule of spec/ that gives it. -/

namespace Sys2Proof.Machine

/-! ### Tags, scopes and translation -/

/-- An owner tag: a key slot with its generation (R228). The null tag is `none` of `Option Tag`. -/
structure Tag where
  slot : BitVec 6
  gen : BitVec 16
deriving DecidableEq, Repr

/-- A translation root: the level-0 table's physical address and the key slot (R215). -/
structure Root where
  table : Nat
  slot : BitVec 6
deriving DecidableEq, Repr

/-- An entry of a scope table, or the image SCOPEW reads (R238). -/
structure ScopeEntry where
  chiplets : Nat
  gen : BitVec 16
  valid : Bool
  hbm : Bool
  l2 : Bool
  l1 : Bool
  cores : BitVec 8
  rwbase : Word
  rwlines : Nat
deriving DecidableEq, Repr

/-- A scope as an operation sampled it (R239, R240). -/
inductive Scope where
  | thread
  | core
  | chiplet (c : Nat)
  | job
  | entry (index : Nat) (e : ScopeEntry)
deriving DecidableEq, Repr

/-- A leaf of the translation (R216). -/
structure Leaf where
  pin : Nat
  hp : Bool
  c : Bool
  frame : Nat
  key : BitVec 6
  ub : Bool
  x : Bool
  w : Bool
  rd : Bool
  us : Bool
  /-- Level 2 (1 GiB block) or 3 (64 KiB page). -/
  level : Nat
deriving DecidableEq, Repr

/-- A TLB entry: the root and virtual page it serves, the leaf, and the physical addresses of the table entries it
derives from (R218, R226). -/
structure TlbEntry where
  root : Root
  page : Nat
  leaf : Leaf
  derived : List Nat
deriving DecidableEq, Repr

/-! ### Threads -/

/-- The states of a context (R147). -/
inductive CtxState where
  | free | empty | runnable | parked | idling | halted | departed | killed
deriving DecidableEq, Repr

/-- A release that a later instruction waits for: the writes of the thread with a request number below `before` whose
destination lies in `scope` (R242, R243). -/
structure Release where
  before : Nat
  scope : Scope
deriving DecidableEq, Repr

/-- The condition a PARKED thread waits for (R148, R152). -/
inductive Park where
  /-- S: every outstanding result is written (R23). -/
  | outstanding
  /-- The listed outstanding results are written (R242 acquire, R246, R271). -/
  | results (ids : List Nat)
  /-- A sequentially consistent fence (R242). -/
  | seqCst (ids : List Nat) (r : Release)
  /-- A held instruction: every pending release is complete (R242). -/
  | held
  /-- An armed, empty window register (R157). -/
  | armed (n : Nat)
  /-- An inbound FIFO must hold `need` words (R96). -/
  | portIn (p : InPort) (need : Nat)
  /-- An outbound link, named by the port register number, must have room (R96). -/
  | portOut (port : Nat) (need : Nat)
  /-- An input stream must supply `need` elements (R266). -/
  | streamIn (n need : Nat)
  /-- An output stream must accept `need` elements (R266). -/
  | streamOut (n need : Nat)
  /-- SBIND: claimed rows not yet popped (R288). -/
  | streamRows (n : Nat)
  /-- WAITM (R165). -/
  | mail
  /-- A mailbox entry can be reserved (R164). -/
  | reserve
  /-- COPY: a mailbox entry can be reserved and fewer than 32 COPYs are in flight (R258). -/
  | copySlot
  /-- REAP of a context (R155). -/
  | reap (x : Nat)
  /-- REPART (R156). -/
  | repart
  /-- MIGRATE: outstanding results written, earlier stores acknowledged (R172). -/
  | migrate
  /-- An AMO or RED with ord = 1: the release at the scope sampled under this index is complete (R240, R246, R248). -/
  | acked (sc : BitVec 4) (r : Release)
  /-- TRIGGER, BAR: every earlier write in the scope sampled under this index is acknowledged (R190, R194, R240). -/
  | written (sc : BitVec 4) (r : Release)
  /-- BUFREL consume: every earlier load performed (R272). -/
  | loadsDone (before : Nat)
  /-- BUFREL produce: every earlier write to a chiplet acknowledged (R272). -/
  | chipAcked (chip : Option Nat) (before : Nat)
  /-- Context 0 of a set-up core before its region starts (R189). -/
  | start
deriving DecidableEq, Repr

/-- What an outstanding result is of, as far as a fence, a stop or an image write tells them apart (R242, R302). -/
inductive OutKind where
  | load | atomic | recvm | bar | bufacq | scopew | other
deriving DecidableEq, Repr

/-- One destination of an outstanding result (R22): an operand register, or bits of the predicate word. -/
inductive Piece where
  | reg (n : Reg) (v : Word) (poison : Bool)
  | mask (bits : Word) (v : Word) (poison : Bool)
deriving DecidableEq, Repr

/-- An outstanding result (R20, R22). -/
structure Outst where
  id : Nat
  kind : OutKind
  pieces : List Piece
  flags : BitVec 5
  /-- The core can write it. -/
  ready : Bool
deriving DecidableEq, Repr

/-- A performed write whose acknowledgement is under way (R233). -/
structure Unacked where
  id : Nat
  chip : Nat
deriving DecidableEq, Repr

/-- A window of the register file and everything a thread owns (R13). -/
structure Ctx where
  /-- R147. -/
  st : CtxState
  /-- Why a PARKED thread waits (R148). -/
  park : Option Park
  /-- PC, bits 1:0 zero (R13). -/
  pc : Word
  /-- MODEL: payloads of the EXT words taken so far of the prefixed instruction at `pc`, first at the head (R77). -/
  pre : List (BitVec 24)
  /-- `win`.BASE and `win`.SIZE (R14, R36). -/
  base : Nat
  size : Nat
  /-- Predicate word (R18) and the poison marks of m0 and m1 (R311). -/
  pred : Word
  poison0 : Bool
  poison1 : Bool
  /-- `fpctl`.RM and `fpflags` 4:0 (R35). -/
  rm : BitVec 2
  flags : BitVec 5
  /-- `tid`.P and `tid`.B (R35). -/
  priv : Bool
  barge : Bool
  /-- MODEL: the context was declared a barge context by SPAWN (R153). -/
  bargeCtx : Bool
  /-- `repst` (R36). -/
  repA : Bool
  repFrm : BitVec 24
  repJ : BitVec 6
  repI : BitVec 4
  /-- `lpst`.D (R36) and the loop registers (R30). -/
  lpD : Nat
  lc0 : Word
  ls0 : Word
  le0 : Word
  lc1 : Word
  ls1 : Word
  le1 : Word
  /-- Return-address store, position 0 oldest, and `rasp`, `rasd` (R26). -/
  ras : Tab Word
  rasp : Word
  rasd : Nat
  /-- `rasb`.BASE and `rasb`.LIM (R37). -/
  rbase : Nat
  rlim : Nat
  /-- `vahi`.HI (R37). -/
  vahi : BitVec 8
  /-- Wake bit (R124). -/
  wake : Bool
  /-- First core cycle at which the thread may take a slot (R149, R154). -/
  notBefore : Nat
  /-- Outstanding results in issue order (R22). -/
  outst : List Outst
  /-- Reissue list: requests a fault stopped or cancelled (R118, R302). -/
  reissue : List Nat
  /-- Performed writes not yet acknowledged (R233). -/
  unacked : List Unacked
  /-- Pending releases (R242). -/
  releases : List Release
  /-- The scope index and the sample that an instruction waited under, until it completes (R240). -/
  sampled : Option (BitVec 4 × Release)
  /-- Attempts in a row that lost basin bank arbitration (R211). -/
  tries : Nat
  /-- Bytes the thread stored since it last synchronised its fetch, by physical address, with the value fetch still sees
  (R43). -/
  shadow : Tab Byte
  /-- FENCE.SC at scope 0 has run; the next taken transfer ends the shadow (R43). -/
  synced : Bool
  /-- Sequence number of the next fault record of this context (R300). -/
  recNo : Nat
  /-- HALTED: address of the faulting instruction (R301) and whether the fault came after issue (R307). -/
  ipc : Word
  late : Bool
  /-- Code of the fault that halted the thread. -/
  hcode : BitVec 8
  /-- The port whose error token halted it (R315). -/
  hport : Option InPort
  /-- Address of the image a STOP names, with the translation it is under, until it is written (R307). -/
  stopTo : Option (Word × Root × BitVec 8)
  /-- The state a STOP found the thread in (R321, R325). -/
  was : Option CtxState
  /-- The image is still to be written (R302). -/
  imageDue : Bool
  /-- Job tag of the window (R228). -/
  tag : Option Tag
deriving DecidableEq, Repr

/-- The bits of R38 and the neutral values of the rest: what a context holds when it has no thread. -/
def Ctx.free : Ctx where
  st := .free
  park := none
  pc := 0
  pre := []
  base := 0
  size := 0
  pred := 0xFFFFFFFFFFFFFFFF
  poison0 := false
  poison1 := false
  rm := 0
  flags := 0
  priv := false
  barge := false
  bargeCtx := false
  repA := false
  repFrm := 0
  repJ := 0
  repI := 0
  lpD := 0
  lc0 := 0
  ls0 := 0
  le0 := 0
  lc1 := 0
  ls1 := 0
  le1 := 0
  ras := []
  rasp := 0
  rasd := 0
  rbase := 0
  rlim := 0
  vahi := 0
  wake := false
  notBefore := 0
  outst := []
  reissue := []
  unacked := []
  releases := []
  sampled := none
  tries := 0
  shadow := []
  synced := false
  recNo := 0
  ipc := 0
  late := false
  hcode := 0
  hport := none
  stopTo := none
  was := none
  imageDue := false
  tag := none

/-! ### Requests of threads to memory and to other units -/

/-- One element of a request: its address, size, store data, and what a load found. -/
structure Lane where
  idx : Nat
  va : Word
  size : Nat
  data : Word
  done : Bool
  got : Word
  gotPoison : Bool
deriving DecidableEq, Repr

/-- Names a set of contributions (R249): the translation root and 72-bit address of the scope table, the entry, its generation
and the set number. -/
structure SetKey where
  root : Root
  vahi : BitVec 8
  table : Word
  index : Nat
  gen : BitVec 16
  number : Nat
deriving DecidableEq, Repr

/-- What a request asks for. -/
inductive ReqKind where
  /-- Scalar load into `d` (R117). -/
  | load (d : Reg) (signed : Bool)
  /-- Vector load into `vd` with lanes of `w` bits over the old register values (R141, R143). -/
  | vload (vd : VReg) (w : Nat)
  | store
  | amo (fn : BitVec 3) (d : Reg) (operand : Word)
  | cas (d : Reg) (expect new : Word)
  /-- RED; `set` names the set that a contribution to a reduction window joined (R249). -/
  | red (fn : BitVec 3) (v : Word) (close : Bool) (set : Option SetKey)
  | lineop (fn : BitVec 2)
  /-- Reads of MLOADB for the matrix-queue entry with this number (R286). -/
  | mload (entry : Nat)
  /-- Image reads of SCOPEW for table entry `sc` (R241). -/
  | scopew (sc : BitVec 4)
  | qpush (d : Reg) (payload result : Word)
  | qpop (d : Reg)
  | qsteal (d : Reg) (barrier : Word)
  | bufinit (b : Word)
  | bufacq (d : Reg) (produce : Bool)
  | bufrel (produce : Bool) (slot : Word)
  /-- An arrival of BAR that its home rejected (R195). -/
  | bar (a0 a1 : Word)
deriving DecidableEq, Repr

/-- A request in flight (R117, R118, R233, R245, R269 to R277). -/
structure Req where
  id : Nat
  core : Nat
  ctx : Nat
  kind : ReqKind
  lanes : List Lane
  vahi : BitVec 8
  root : Root
  priv : Bool
  /-- Address of the issuing instruction. -/
  ipc : Word
  /-- Sampled scope (R240), re-sampled at a reissue. -/
  scope : Scope
  scopeIdx : BitVec 4
  /-- Outstanding result it completes. -/
  out : Option Nat
  /-- In a reissue list: not performed until a RESUME (R118). -/
  held : Bool
  /-- Vector access whose endpoint lies on another chiplet: adaptive class (R235). -/
  vector : Bool
  /-- Operand record (R301). -/
  oprs : List Word
  /-- Home chiplets that its lanes were sent to (R341, R342). -/
  homes : List (Option Nat)
  /-- Number among the task's compared messages, in a paired region, until the twin matched (R318, R319). -/
  pairNo : Option Nat
  /-- The twin's request, which ends with this one (R319). -/
  twin : Option Nat
deriving DecidableEq, Repr

/-! ### Core parts -/

/-- An entry of the register file (R14) with its full and armed bits (R157) and poison mark (R311). -/
structure RegEntry where
  val : Word
  full : Bool
  armed : Bool
  poison : Bool
deriving DecidableEq, Repr

/-- What SPAWN and placement leave in an entry (R154). -/
def RegEntry.clear : RegEntry := ⟨0, true, false, false⟩

/-- A core-shared register (R13, R311). -/
structure CReg where
  val : Word
  poison : Bool
deriving DecidableEq, Repr

/-- A write to a core-shared register that becomes visible in slot `due` (R19). -/
structure CWrite where
  due : Nat
  n : Nat
  val : Word
  poison : Bool
  /-- Place in issue order of the instruction it is of. -/
  seq : Nat
deriving DecidableEq, Repr

/-- A mailbox entry: the fields of its header (R163) and its payload. -/
structure Mail where
  kind : BitVec 8
  ctx : BitVec 6
  srcCore : BitVec 13
  srcCtx : BitVec 6
  tag : BitVec 16
  payload : Word
deriving DecidableEq, Repr

/-- A word of a port with its error-token mark (R168). -/
structure PortWord where
  val : Word
  token : Bool
deriving DecidableEq, Repr

/-- A SEND on its way (R159): descriptor, value, issuer, its privilege, and the translation a service SEND carries (R307). -/
structure SendMsg where
  desc : Word
  val : Word
  core : Nat
  ctx : Nat
  priv : Bool
  root : Root
  vahi : BitVec 8
  /-- First cycle at which a SEND to the issuing core takes effect (R161). -/
  notBefore : Nat
  /-- Panel of a sender on another panel (R345). -/
  panel : Option (BitVec 12)
  /-- The thread that sent its twin, which a refusal goes to as well (R319). -/
  twin : Option (Nat × Nat)
deriving DecidableEq, Repr

/-- A barge (R171). -/
structure Barge where
  srcCore : Nat
  srcCtx : Nat
  dst : Nat
  /-- Region of the thread, as `Core.region` numbers it (R310). -/
  region : Nat
  pc : Word
  pred : Word
  rm : BitVec 2
  flags : BitVec 5
  vahi : BitVec 8
  regs : List Word
deriving DecidableEq, Repr

/-- Engine fault state of a suspended operation: code, element, sector, failing address, access kind, walk level (R255, R301). -/
structure EngFault where
  code : BitVec 8
  elem : Nat
  sect : Nat
  va : Word
  acc : BitVec 8
  level : Nat
deriving DecidableEq, Repr

/-- Pattern of a copy or stream: base, extents, strides (R256, R264). -/
structure Pattern where
  base : Word
  e0 : Nat
  e1 : Nat
  e2 : Nat
  s0 : Int
  s1 : Int
  s2 : Int
deriving DecidableEq, Repr

/-- What an engine operation does (R253). -/
inductive OpKind where
  /-- COPY, with its control word (R257). -/
  | copy (src dst : Pattern) (index : Word) (ctl : Word) (pf : Bool) (extent : Nat)
  /-- Output binding of stream `sn` (R264). -/
  | outStream (sn : Nat) (pat : Pattern) (es : Nat)
deriving DecidableEq, Repr

/-- An engine operation (R252, R253, R255). -/
structure EngineOp where
  id : Nat
  /-- Operation sequence number, counted per core (R253). -/
  seq : BitVec 32
  core : Nat
  ctx : Nat
  target : Nat
  kind : OpKind
  tag : BitVec 16
  scope : Scope
  ord : Bool
  /-- Operand record (R253). -/
  oprs : List Word
  ipc : Word
  root : Root
  vahi : BitVec 8
  priv : Bool
  total : Nat
  /-- Every element below `next` is performed, and those of `extra` above it, each with whether it counts in OOR. -/
  next : Nat
  extra : List (Nat × Bool)
  /-- Elements out of range or poisoned (R260). -/
  oor : Nat
  /-- Output binding: pushed values not drained, with poison marks, and how many were pushed. -/
  buf : List (Word × Bool)
  pushed : Nat
  /-- Output binding: no more pushes come (R265, R266). -/
  closed : Bool
  /-- Buffer refused it (R273), or it was ended as unrecoverable (R255). -/
  refused : Bool
  ended : Option Nat
  /-- Bytes of a to-buffer copy written and not yet counted (R274). -/
  written : Nat
  fault : Option EngFault
  /-- First sector of element `next` still to be performed (R255). -/
  sect : Nat
  /-- Records of the operation (R300). -/
  recs : Nat
  /-- The second of two matched operations: it writes nothing (R319). -/
  mute : Bool
  /-- Engine that performs it, as ENG of R301 codes it (R259). -/
  eng : BitVec 3
  /-- Region of the issuing thread (R263). -/
  region : Nat
  pairNo : Option Nat
  /-- The twin's operation, which ends with this one (R319). -/
  twin : Option Nat
deriving DecidableEq, Repr

/-- An input binding of a stream (R263 to R267, R288). -/
structure InBind where
  pat : Pattern
  es : Nat
  sx : Bool
  ord : Bool
  vahi : BitVec 8
  root : Root
  priv : Bool
  total : Nat
  /-- Next element to read from memory. -/
  next : Nat
  /-- Elements popped. -/
  popped : Nat
  /-- Buffered elements, oldest first, with poison marks. -/
  buf : List (Nat × Bool)
  /-- The first sector of element `next` still to be read, and what those before it held, with their mark (R255). -/
  sect : Nat
  part : Nat × Bool
  /-- Rows claimed by queued matrix instructions and not popped (R288). -/
  claimed : Nat
  fault : Option EngFault
  recs : Nat
  /-- Ended as unrecoverable: the rest pops as poisoned zeros (R267). -/
  ended : Bool
  ctx : Nat
  seq : BitVec 32
  ipc : Word
  oprs : List Word
  region : Nat
deriving DecidableEq, Repr

/-- What a stream register is bound to (R263). -/
inductive Binding where
  | unbound
  | input (b : InBind)
  /-- Output: the number of its engine operation. -/
  | output (op : Nat)
deriving DecidableEq, Repr

/-- Accumulator classes (R281). -/
inductive AccClass where
  | fp64 | fp32 | int32
deriving DecidableEq, Repr

/-- An accumulator (R289); element (i, j) is at key 64·i + j, zero where not listed. -/
structure Acc where
  cls : AccClass
  flags : BitVec 5
  elems : Tab Word
  /-- Elements marked poisoned (R288). -/
  poison : Tab Bool
deriving DecidableEq, Repr

/-- After placement (R289). -/
def Acc.clear : Acc := ⟨.fp32, 0, [], []⟩

/-- A queued matrix instruction (R282). -/
inductive MxKind where
  | mloadb (d : Reg) (a0 a1 a2 : Word) (req : Option Nat)
  | mma (acc : BitVec 2) (z : Bool) (sn : BitVec 3) (t : MatType) (entry : Nat) (need : Nat)
  | mmas (acc : BitVec 2) (z : Bool) (sn : BitVec 3) (t : MatType) (entry : Nat) (need skip run : Nat) (emp : Bool)
  | mread (vd : VReg) (acc : BitVec 2) (t : CvtType) (row col : Nat) (poison : Bool)
deriving DecidableEq, Repr

structure MxEntry where
  id : Nat
  ctx : Nat
  kind : MxKind
  /-- Outstanding result of MLOADB and MREAD. -/
  out : Option Nat
  /-- MLOADB: the doublewords read, once every byte is read (R283), and whether one was poisoned. -/
  loaded : List Word
  poison : Bool
deriving DecidableEq, Repr

/-- A member's record in a barrier unit (R193, R195). -/
structure Member where
  core : Nat
  ctx : Nat
  out : Nat
  ipc : Word
  lag : Nat
  rank : Nat
  arv : Bool
  streak : Nat
deriving DecidableEq, Repr

/-- A bound barrier unit (R195, R196). -/
structure BarUnit where
  obj : Word
  vahi : BitVec 8
  root : Root
  priv : Bool
  members : Nat
  scope : BitVec 4
  episode : Nat
  arrived : Nat
  first : Nat
  steal : Word
  mem : Tab Member
  lastm : Nat
  maxlag : Nat
  /-- The episode is complete and its object written; results are still to be sent (R196). -/
  complete : Bool
deriving DecidableEq, Repr

/-- A BAR arrival on its way to the home (R194). -/
structure BarMsg where
  core : Nat
  ctx : Nat
  a0 : Word
  a1 : Word
  vahi : BitVec 8
  root : Root
  priv : Bool
  out : Nat
  ipc : Word
deriving DecidableEq, Repr

/-- A service command that reached its core (R307), with its descriptor and its sender. -/
structure Cmd where
  desc : Word
  core : Nat
  src : Nat
  twin : Option (Nat × Nat)
  b : Word
  root : Root
  vahi : BitVec 8
deriving DecidableEq, Repr

/-- An L1 sector (R203): 16 bytes, dirty bit, owner tag, poison mark, whether its page is coherent, the chiplet its page
pins (R204), and for a non-coherent page which bytes it holds and which of them the core wrote: an allocation on a write
fills no other byte. -/
structure L1Sector where
  data : BitVec 128
  dirty : Bool
  tag : Tag
  poison : Bool
  coh : Bool
  pin : Option Nat
  valid : BitVec 16
  wrote : BitVec 16
deriving DecidableEq, Repr

/-- An L2 sector at the slice that holds it, with the chiplet its page pins (R204) and the place of its line in the slice:
row r of bank b is place 8,192 · b + r (R206). -/
structure L2Sector where
  data : BitVec 128
  dirty : Bool
  tag : Tag
  poison : Bool
  home : Nat
  pin : Option Nat
  place : Nat
deriving DecidableEq, Repr

/-- A thread of the vector queue's entry: the context and its outstanding result (R170). -/
structure VqEntry where
  ctx : Nat
  out : Nat
deriving DecidableEq, Repr

/-- Messages between stations that the streams of R335 carry. -/
inductive Body where
  | send (m : SendMsg)
  /-- The two flits of a barge (R171), and the region of its thread. -/
  | barge (flits : List Word × List Word) (region : Nat)
  | bar (m : BarMsg)
  /-- TRIGGER: kind, address, vahi, issuer (R190). -/
  | trigger (kind : Nat) (a : Word) (vahi : BitVec 8) (core ctx : Nat) (root : Root) (priv : Bool)
  /-- SCOPEW: table, entry, image doublewords, issuer's outstanding result (R241). -/
  | scopew (table : Word) (vahi : BitVec 8) (root : Root) (sc : BitVec 4) (image : List Word) (core ctx out : Nat)
      (ipc a : Word)
  /-- RESERVE (R221). -/
  | reserve (core ctx out : Nat) (a : Word)
  /-- A refusal that returns to a sender on another panel (R160, R345). -/
  | refused (panel : BitVec 12) (core : Nat) (m : Mail)
  /-- An access for another panel (R343). -/
  | access (panel : BitVec 12) (x : Config.FabricAccess)
  /-- The answer to an access that another panel asked for: the old value, or none where it is refused (R343). -/
  | reply (panel : BitVec 12) (num : Nat) (v : Option (BitVec 128))
deriving DecidableEq, Repr

/-- A core (R13, R146 to R174, R263, R280). -/
structure Core where
  /-- Number of contexts N (R146). -/
  n : Nat
  /-- Register file of 2,048 entries (R14). -/
  rf : Tab RegEntry
  /-- c0 to c31 and their pending writes (R19). -/
  cregs : Tab CReg
  cpend : List CWrite
  /-- Issue slots since core reset; `cycle` reads it modulo 2^64 (R36, R149). -/
  cycle : Nat
  /-- Context that issued most recently (R149). -/
  last : Nat
  /-- `mxwt`.WT (R37). -/
  mxwt : BitVec 4
  /-- Contexts; FREE where not listed. -/
  ctxs : Tab Ctx
  /-- Mailbox entries in arrival order and reserved entries (R163, R164). -/
  mail : List Mail
  reserved : Nat
  /-- SEND messages, refusals and notices that wait for an entry (R160, R164, R300). -/
  waitSend : List Mail
  waitRefuse : List Mail
  waitNotice : List Mail
  /-- Send queue (R161). -/
  sendq : List SendMsg
  /-- Refusals for other panels that wait for a live wharf (R160, R346). -/
  outRefuse : List (BitVec 12 × Nat × Mail)
  /-- Messages the core's station has performed, in arrival order (R336). -/
  inbox : List Body
  /-- Service commands in arrival order (R307). -/
  cmds : List Cmd
  /-- Link table: partners of ndn, pn, pe, ps, pw, at keys 0xA1 to 0xA5 (R167). -/
  links : Tab Nat
  /-- Inbound FIFOs and words in flight to them (R168), at keys 0 to 4 for nup, pn, pe, ps, pw. -/
  fifos : Tab (List PortWord)
  flying : Tab (List PortWord)
  /-- Barge queue and barges that wait for room (R173). -/
  bargeq : List Barge
  bargeWait : List Barge
  /-- s0 to s7 (R263). -/
  strm : Tab Binding
  /-- Vector queue (R170). -/
  vq : List VqEntry
  /-- Matrix queue, row buffer with poison marks, accumulators, B table (R280). -/
  mxq : List MxEntry
  rowbuf : List (Nat × Bool)
  accs : Tab Acc
  btab : Tab (Nat × MatType)
  /-- Barrier units 0 to 3 (R193) and arrivals waiting at them. -/
  units : Tab BarUnit
  barq : List BarMsg
  /-- STRAGLAG and STRAGN as placement loads them (R188). -/
  straglag : Nat
  stragn : Nat
  /-- Scope cache, entries 4 to 15 (R237), and entries on their way (R241). -/
  scopes : Tab ScopeEntry
  installs : List (Nat × ScopeEntry)
  /-- Set numbers per scope entry and generation, at key 2^16 · index + generation (R249). -/
  setNo : Tab Nat
  /-- Translation root and job tag of the running job (R215, R228). -/
  root : Root
  tag : Option Tag
  /-- L1D, keyed by sector number (R203). -/
  l1 : Tab L1Sector
  tlb : List TlbEntry
  /-- Operation sequence number (R253). -/
  opSeq : BitVec 32
  /-- Compared messages of the task (R318). -/
  pairNo : Nat
  /-- The core is sealed (R314), is stopped for pre-emption (R321) or retirement (R339). -/
  sealed : Bool
  stopped : Bool
  retiring : Bool
  /-- Region number plus one, 0 for none, and task number of the core's part; the part has ended (R188). -/
  region : Nat
  task : Nat
  twin : Bool
  ended : Bool
  /-- Number of error-logic records (R300). -/
  recNo : Nat
deriving DecidableEq, Repr

/-- A core after reset: no thread, `mxwt` 1 (R37), nothing queued. DESIGN CHOICE (log entry 84): N is 8 before a placement
(R146), and context 0 counts as the last to issue (R149). -/
def Core.clear : Core where
  n := 8
  rf := []
  cregs := []
  cpend := []
  cycle := 0
  last := 0
  mxwt := 1
  ctxs := []
  mail := []
  reserved := 0
  waitSend := []
  waitRefuse := []
  waitNotice := []
  sendq := []
  outRefuse := []
  inbox := []
  cmds := []
  links := []
  fifos := []
  flying := []
  bargeq := []
  bargeWait := []
  strm := []
  vq := []
  mxq := []
  rowbuf := []
  accs := []
  btab := []
  units := []
  barq := []
  straglag := 0xFFFFFFFF
  stragn := 0
  scopes := []
  installs := []
  setNo := []
  root := ⟨0, 0⟩
  tag := none
  l1 := []
  tlb := []
  opSeq := 0
  pairNo := 0
  sealed := false
  stopped := false
  retiring := false
  region := 0
  task := 0
  twin := false
  ended := false
  recNo := 0

/-! ### Chiplets -/

/-- Modes of a basin bank (R206). -/
inductive BankMode where
  | cache | scratch | fifo
deriving DecidableEq, Repr

/-- States of a slot of a circular buffer (R270). -/
inductive SlotState where
  | free | filling | full | held
deriving DecidableEq, Repr

structure Slot where
  st : SlotState
  valid : Nat
  poison : Bool
deriving DecidableEq, Repr

/-- A circular buffer (R268); `base` is its byte offset in the bank. -/
structure CBuf where
  base : Nat
  size : Nat
  count : Nat
  pk : Bool
  fill : Nat
  take : Nat
  bytes : Nat
  slots : List Slot
  /-- BUFACQ requests waiting, consume and produce, in arrival order (R271). -/
  waitC : List Nat
  waitP : List Nat
deriving DecidableEq, Repr

/-- A basin bank (R206 to R212, R329). -/
structure Bank where
  mode : BankMode
  /-- Mode it is switching to, with the request's result (R209). -/
  moveTo : Option BankMode
  holder : Option Nat
  failed : Bool
  strength : Bool
  bufs : List CBuf
deriving DecidableEq, Repr

def Bank.clear : Bank := ⟨.cache, none, none, false, false, []⟩

/-- A BANKMODE request at a bank controller (R208). -/
structure BankReq where
  core : Nat
  ctx : Nat
  out : Nat
  mask : BitVec 32
  mode : BankMode
  region : Nat
  /-- Switch under way: the banks switched, and those still switching. -/
  moving : Option (BitVec 32 × List Nat)
deriving DecidableEq, Repr

/-- A CIM slot: strip and scale array as little-endian numbers, owner tag (R280, R285), and whether a byte loaded into
it was poisoned. -/
structure Strip where
  data : Nat
  scale : Nat
  tag : Option Tag
  poison : Bool
deriving DecidableEq, Repr

/-- A sweeper (R329). -/
structure Sweeper where
  passes : BitVec 16
  str : Bool
  pos : BitVec 24
deriving DecidableEq, Repr

/-- A logical chiplet's shared units. -/
structure Chiplet where
  /-- The slice is in the live set (R204, R340). -/
  live : Bool
  banks : Tab Bank
  breqs : List BankReq
  tlb : List TlbEntry
  cim : Tab Strip
  /-- Matrix arbiter: pointer, granted core with steps done, idle, column units released (R283, R284). -/
  mxPtr : Nat
  mxGrant : Option (Nat × Nat)
  mxIdle : Bool
  mxReleased : BitVec 8
  /-- Round-robin pointers of the two vector units (R170). -/
  vecPtr : Tab Nat
  sweepBasin : Sweeper
  sweepCim : Sweeper
  /-- Unbacked lines held by the slice, in order (R223). -/
  hold : List Nat
  /-- Records of the chiplet's router and slice (R300). -/
  recNo : Nat
deriving DecidableEq, Repr

def Sweeper.clear : Sweeper := ⟨0, false, 0⟩

/-- A chiplet after boot: live, every bank in CACHE mode (R206), the matrix unit idle (R284, R361). -/
def Chiplet.clear : Chiplet where
  live := true
  banks := []
  breqs := []
  tlb := []
  cim := []
  mxPtr := 0
  mxGrant := none
  mxIdle := true
  mxReleased := 0
  vecPtr := []
  sweepBasin := Sweeper.clear
  sweepCim := Sweeper.clear
  hold := []
  recNo := 0

/-! ### Memory -/

/-- Storage state of an unbacked line (R223); ABSENT lines are not listed. -/
inductive UbState where
  | resident
  | held
  | spilled (slot : Nat)
deriving DecidableEq, Repr

structure UbLine where
  st : UbState
  home : Nat
  tag : Tag
  pin : Option Nat
  /-- RESIDENT: its place in the slice, as an L2 line has one (R206). -/
  place : Nat
deriving DecidableEq, Repr

/-- A key slot (R228, R229, R343) and the job that runs under it (R326). -/
structure KeySlot where
  gen : BitVec 16
  /-- Number of the key pair installed, counted over the slot's life (R228, R229). -/
  key : Nat
  /-- Tables of the job, when the slot holds one. -/
  root : Option Root
  /-- Partition of the job. -/
  part : Nat
  /-- Writes are refused until the sweep ends (R229). -/
  sweeping : Bool
  /-- Fabric slot: panel, remote slot, remote generation (R343). -/
  fabric : Option (BitVec 12 × BitVec 6 × BitVec 16)
  /-- Admission table: source panel and slot (R343). -/
  allowed : List (BitVec 12 × BitVec 6)
deriving DecidableEq, Repr

def KeySlot.clear : KeySlot := ⟨0, 0, none, 0, false, none, []⟩

/-- One contribution to a reduction window (R249, R65). -/
structure Contribution where
  core : Nat
  ctx : Nat
  req : Nat
  pa : Nat
  pin : Option Nat
  fn : BitVec 3
  val : Word
  tag : Tag
deriving DecidableEq, Repr

/-- A set of contributions (R249), its contributions in issue order. -/
structure RedSet where
  key : SetKey
  members : List Nat
  closed : List Nat
  contribs : List Contribution
  region : Nat
deriving DecidableEq, Repr

/-! ### Regions, packets and partitions -/

/-- The fields a region resolves to (R175, R176). -/
structure Fields where
  prio : Nat
  fdom : Nat
  mxshare : Nat
  nctx : Nat
  link : BitVec 6
  place : Bool
  paired : Bool
  vahi : BitVec 8
  stragn : Nat
  gx : Nat
  gy : Nat
  cores : Nat
  basin : Nat
  unbk : Nat
  straglag : Nat
  scopetab : Word
  entry : Word
  arg : Word
  latepool : Word
  save : Word
  ckdir : Nat
  ckoff : Nat
  cksize : Nat
deriving DecidableEq, Repr

/-- STATE of a region (R175). -/
inductive RegionState where
  | new | armed | waiting | running | preempted | complete | faulted | killed | bad
deriving DecidableEq, Repr

/-- A late-frame pool with the translations of its three ranges, page by page, as placement fixed them (R222). -/
structure Pool where
  ubase : Word
  shadow : Word
  bitmap : Word
  /-- The unbacked names of the pages covered, as numbers of 64 KiB pages. -/
  names : List Nat
  /-- Leaf and physical page of each page of SHADOW. -/
  backed : List (Leaf × Nat)
  /-- Leaf and physical page of each page that holds bytes of the spill bitmap. -/
  bits : List (Leaf × Nat)
deriving DecidableEq, Repr

/-- A region the lock-keeper has taken (R184, R188). -/
structure Region where
  part : Nat
  slot : BitVec 6
  root : Root
  /-- Block address with bits 71:64, and the addresses of its chain (R176). -/
  block : Word
  vahi : BitVec 8
  chain : List Word
  f : Fields
  signal : Word
  st : RegionState
  /-- Host queue number and sequence number, or none for a device launch (R183). -/
  packet : Option (Nat × Nat × BitVec 32)
  argovr : Word
  /-- Cores of the tasks, and of the second copy (R186). -/
  tasks : List Nat
  copy : List Nat
  /-- Unbacked lines reserved (R220). -/
  reserved : Nat
  grade : BitVec 2
  /-- Codes of records that were not repaired and whose thread or operation has ended (R303). -/
  lasting : List (BitVec 8)
  /-- A compared message was forwarded (R320); forwarding has stopped. -/
  forwarded : Bool
  mismatch : Bool
  /-- Late-frame pool (R222). -/
  pool : Option Pool
  /-- Order of launch (R184). -/
  order : Nat
  /-- Priority P of its packet (R183), when it began to wait, and the lock-keeper cycles waited, in steps of AGE. -/
  rank : Nat
  since : Nat
  waited : Nat
  /-- What the save engine keeps of each core, by task; the second copy's tasks follow (R324, R325). -/
  saved : Tab Core
  /-- The reissue lists of the saved cores (R302, R325). -/
  savedReqs : List Req
deriving DecidableEq, Repr

/-- A packet the lock-keeper has taken and not completed (R180 to R185). -/
structure Packet where
  func : Nat
  queue : Nat
  seq : BitVec 32
  record : Word
  /-- The lock-keeper's copy (R181). -/
  words : List Word
  /-- Completion code and grade, when it is to be completed (R180). -/
  code : Option (BitVec 4 × BitVec 4)
deriving DecidableEq, Repr

/-- A registered host queue (R179, R356). -/
structure HostQueue where
  func : Nat
  num : Nat
  slot : BitVec 6
  vahi : BitVec 8
  desc : Word
  /-- The descriptor as the lock-keeper read it last, and whether it takes packets from the queue (R179). -/
  seen : List Word
  on : Bool
  /-- When the oldest packet became ready, and the cycles it has waited, in steps of AGE (R182, R183). -/
  since : Option Nat
  waited : Nat
deriving DecidableEq, Repr

/-- A device launch that is ready or armed (R191). -/
structure Launch where
  block : Word
  vahi : BitVec 8
  root : Root
  core : Nat
  ctx : Nat
  ready : Bool
  since : Nat
  waited : Nat
deriving DecidableEq, Repr

/-- A fault record (R301) that waits to be written. -/
structure FaultRec where
  src : BitVec 3
  /-- MODEL: the chiplet whose router or slice raised it; no part of the record. -/
  router : Nat
  grade : BitVec 2
  code : BitVec 8
  eng : BitVec 3
  ctx : Nat
  core : Nat
  seq : Nat
  opseq : BitVec 32
  cpc : Word
  ipc : Word
  va : Word
  elem : Nat
  sect : Nat
  level : Nat
  acc : BitVec 8
  vahi : BitVec 8
  arg : Word
  image : Word
  oprs : List Word
deriving DecidableEq, Repr

/-- States of a partition (R357). -/
inductive PartState where
  | active | draining | drained | offline
deriving DecidableEq, Repr

/-- A SCOPEW the lock-keeper is carrying out: the cores still to acknowledge (R241). -/
structure ScopeWork where
  core : Nat
  ctx : Nat
  out : Nat
  left : List Nat
deriving DecidableEq, Repr

/-- A partition (R183, R191, R198, R300, R354). -/
structure Part where
  chiplets : List Nat
  lk : Nat
  standby : Nat
  func : Nat
  st : PartState
  /-- Aging interval AGE (R183). -/
  age : Nat
  queues : List HostQueue
  packets : List Packet
  /-- Packets to be run again after a reset (R199). -/
  replays : List Packet
  /-- Armed and ready device launches, and held counts at 72-bit block addresses (R191). -/
  launches : List Launch
  /-- The region taken first and not yet placed or resumed (R184). -/
  first : Option Nat
  heldCounts : Tab Nat
  /-- TRIGGERs, SCOPEWs, RESERVEs and error notices received, in arrival order. -/
  trigq : List Body
  scopeq : List Body
  scopeWork : Option ScopeWork
  resq : List Body
  errq : List Word
  /-- Records waiting for the ring (R300). -/
  recs : List FaultRec
  recNo : Nat
  /-- Held barges by slot (R310). -/
  holdBarges : Tab Barge
  /-- Last heartbeat read and consecutive reads without a change (R360). -/
  beat : Word
  beatSame : Nat
  /-- SEND admission table (R345). -/
  allowed : List (BitVec 12)
  /-- SIGNAL_IN_DOUBT records: queue number and sequence number (R199). -/
  doubt : List (Nat × BitVec 32)
  /-- Times of the last three corrected-error notices of each core (R366). -/
  errLog : Tab (List Nat)
deriving DecidableEq, Repr

def Part.clear : Part where
  chiplets := []
  lk := 0
  standby := 1
  func := 0
  st := .active
  age := 1048576
  queues := []
  packets := []
  replays := []
  launches := []
  first := none
  heldCounts := []
  trigq := []
  scopeq := []
  scopeWork := none
  resq := []
  errq := []
  recs := []
  recNo := 0
  holdBarges := []
  beat := 0
  beatSame := 0
  allowed := []
  doubt := []
  errLog := []

/-! ### Network -/

/-- Stations (R335). -/
inductive Station where
  | core (n : Nat)
  | chiplet (c : Nat)
  | base (s : Nat)
  | wharf (w : Nat)
deriving DecidableEq, Repr

/-- A stream between two stations (R335, R336). -/
structure Stream where
  src : Station
  dst : Station
  ordered : Bool
  /-- Source: next number and retransmit buffer. -/
  nextSeq : BitVec 16
  unacked : List (BitVec 16 × Body)
  /-- Destination: expected number, performed map, answers kept. -/
  expected : BitVec 16
  map : BitVec 64
  answers : List (BitVec 16)
  /-- The destination starts afresh: it answers RESYNC and takes the resend's lowest number (R339). -/
  resync : Bool
deriving DecidableEq, Repr

/-- What a flight carries on a stream. -/
inductive Freight where
  | message (seq : BitVec 16) (b : Body)
  | answer (seq : BitVec 16)
  | resync
deriving DecidableEq, Repr

/-- A message between routers: its stream, freight, site reached, and hops made (R334). -/
structure Flight where
  src : Station
  dst : Station
  ordered : Bool
  freight : Freight
  px : Nat
  py : Nat
  hops : Nat
deriving DecidableEq, Repr

/-- A site (R330, R332, R359, R361). -/
structure Site where
  powered : Bool
  /-- Live physical cores 0 to 8. -/
  cores : BitVec 9
  fenced : Bool
  /-- 0 live, 1 spare, 2 retired, 3 failed at boot. -/
  state : BitVec 2
deriving DecidableEq, Repr

/-- A remap table: 32-bit entries (R331); one not listed holds the boot mapping, or before any load its reset value 0. -/
structure Remap where
  set : Bool
  core : Tab (BitVec 32)
  chip : Tab (BitVec 32)
deriving DecidableEq, Repr

/-- A checkpoint (R317): PC, predicate word, registers with poison marks, and the image of core-local memory by sectors. -/
structure Checkpoint where
  pc : Word
  pred : Word
  regs : List (Word × Bool)
  loff : Nat
  image : List (Word × Bool)
deriving DecidableEq, Repr

/-- An update of the remap table that waits for its turn or is in progress (R332, R333). -/
inductive Update where
  /-- Bring-up and warm reset: the first table, under TG 0 (R361). -/
  | boot (r : Remap)
  /-- Live retirement of core n to physical core pc of its site (R339); the entry it leaves. -/
  | retire (n pc : Nat) (old : BitVec 32)
  /-- Restart of core c of region g (0 for none, else its number plus one) on physical core pc of site (px, py), from a
  checkpoint, with the arrivals that its barrier units had accepted (R316). -/
  | restart (c g px py pc : Nat) (k : Option Checkpoint) (kept : List BarMsg)
  /-- The death of site (px, py) with its logical cores and chiplets (R340). -/
  | death (px py : Nat) (ns cs : List Nat)
deriving DecidableEq, Repr

/-- A wharf (R346, R348). -/
structure Wharf where
  live : Bool
  /-- Messages that wait for room, oldest first, with the station each comes from. -/
  queue : List (Station × Body)
  /-- Messages of which not every flit has been returned, with the LSEQ of the last one. -/
  taken : List (BitVec 16 × Station × Body)
  /-- Sender: next LSEQ and flits not returned, oldest first. -/
  nextSeq : BitVec 16
  sent : List Flit
  /-- Receiver: highest LSEQ received in order, and NAK to set. -/
  got : BitVec 16
  nak : Bool
  /-- Payloads received in order. -/
  rx : List Nat
  /-- Flits sent, as they left: outside the panel. -/
  out : List Flit
deriving DecidableEq, Repr

def Wharf.clear : Wharf := ⟨true, [], [], 0, [], 0xFFFF, false, [], []⟩

/-- A first or second twin held at a router (R319). -/
structure PairMsg where
  region : Nat
  task : Nat
  count : Nat
  twin : Bool
  hash : Word
  /-- A message to forward, a request, or an engine operation. -/
  body : Option (Station × Station × Body)
  req : Option Nat
  op : Option Nat
deriving DecidableEq, Repr

/-! ### Host -/

/-- An HDM range (R350). -/
structure Hdm where
  hp : Nat
  size : Nat
  pa : Nat
  key : BitVec 6
  c : Bool
deriving DecidableEq, Repr

/-- A notice written to host memory (R353): NSEQ, KIND, CODE, QUEUE, PART, VALUE. -/
structure Notice where
  hp : Word
  nseq : BitVec 32
  kind : BitVec 8
  code : BitVec 8
  queue : BitVec 8
  part : BitVec 8
  value : Word
deriving DecidableEq, Repr

/-- The error counters of R328. -/
structure Counters where
  ceSram : Nat
  ceHbm : Nat
  ueMarked : Nat
  ueConsumed : Nat
  restarts : Nat
  mismatch : Nat
  faults : Nat
deriving DecidableEq, Repr

def Counters.clear : Counters := ⟨0, 0, 0, 0, 0, 0, 0⟩

/-- A function's registers and what belongs to it (R328, R350, R352, R353). -/
structure Func where
  gop : BitVec 8
  garg : BitVec 56
  done : Bool
  gst : BitVec 8
  gval : BitVec 48
  nring : Word
  /-- Notices counted since the function's reset or the last write of NRING. -/
  nseq : Nat
  /-- Notices written, newest first: host memory lies outside the panel. -/
  notices : List Notice
  hdm : List Hdm
  counters : Counters
  /-- Value a CXL.mem or register read returned last. -/
  readData : Word
deriving DecidableEq, Repr

def Func.clear : Func := ⟨0, 0, true, 0, 0, 0, 0, [], [], Counters.clear, 0⟩

/-! ### Reasons -/

/-- Why the machine stops with a fault. Every fault of the spec halts a thread, suspends an operation or ends a region,
which are next states; what is left are places that do not exist. -/
inductive Fault where
  /-- UNCORRECTABLE_ERROR at a sector, or CXL_MEM_ACCESS through a range, that lies where R201 gives no storage. SAFE: the
  run stops. -/
  | reserved (pa : Nat)
  /-- CXL_MEM_ACCESS of a function at a host-physical address outside its HDM ranges (R350): no device address. SAFE. -/
  | noRange (f hp : Nat)
deriving DecidableEq, Repr

/-- Why the machine gives no meaning. -/
inductive Refusal where
  /-- An arm of `exec` not written yet. SAFE. -/
  | notModelled (mnemonic : String)
  /-- Raised by an event row whose event cannot happen in the state: nothing is queued where it takes its item, or a rule
  forbids it there. No behaviour of the machine is left out. SAFE. -/
  | notEnabled
deriving DecidableEq, Repr

/-! ### The panel -/

/-- Survey header (R358); its buffers lie in memory from `at_`. -/
structure Survey where
  gen : Nat
  cur : Bool
  at_ : Nat
deriving DecidableEq, Repr

/-- Progress of bring-up: step of R361, sites powered on. -/
structure Boot where
  step : Nat
  sites : Nat
deriving DecidableEq, Repr

/-- An image that boot loads, with its public key, its signature and its security version (R362). -/
structure Image where
  code : Nat
  key : Nat
  sig : Nat
  version : Nat
deriving DecidableEq, Repr

/-- What boot checks images against, and the images: the vendor-key digest and the security-version count in fuses, the boot
firmware, Pyoskeb, and the images loaded (R362). -/
structure Trust where
  digest : BitVec 512
  version : Nat
  firmware : Image
  pyoskeb : Image
  loaded : List Image
deriving DecidableEq, Repr

/-- Places of the service area (R300, R332, R333, R359): physical addresses. -/
structure Service where
  remapImage : Nat
  remapLock : Nat
  /-- Partition record of partition 0; partition p is 64·p above (R359). -/
  record : Nat
  /-- Ring control line of partition 0; partition p is 2^20·p above (R300). -/
  ring : Nat
  /-- Image area of partition 0; partition p is 2^31·p above. -/
  images : Nat
deriving DecidableEq, Repr

/-- A move of the agenda: an issue slot of a core, an issue slot in which the chosen thread loses basin bank arbitration
(R211), an event row, or what happens beside the event rows: some routers take a new table before the others (R332), a function's
lock-keeper writes its HDM ranges (R350), and the DOE mailbox answers a CDAT request (R349). -/
inductive Move where
  | slot (core : Nat)
  | lost (core : Nat)
  | event (i : Instr)
  | flips (routers : BitVec 624)
  | ranges (f : Nat) (l : List Hdm)
  | cdat (req : Nat)
deriving DecidableEq, Repr

/-- The state of the panel. -/
structure State where
  /-- MODEL: core and context that hold the issue slot. -/
  cur : Nat
  ctx : Nat
  /-- MODEL: the moves to come; when none is left, the issue slot of core `turn`. -/
  agenda : List Move
  turn : Nat
  cores : Tab Core
  chips : Tab Chiplet
  /-- Bytes of HBM, basin window and core-local range by panel-local physical address (R201). -/
  mem : List Host.Cell
  /-- Owner tags, keyed by sector number in HBM and by the first sector of the line elsewhere (R202, R210, R228). -/
  otag : Tab Tag
  /-- Poison marks of sectors (R311) and code bits (R329). -/
  poison : Tab Bool
  code : Tab Bool
  l2 : Tab L2Sector
  ub : Tab UbLine
  /-- Requests in flight in issue order, and the next request, operation and outstanding-result number. -/
  reqs : List Req
  fresh : Nat
  ops : List EngineOp
  redsets : List RedSet
  slots : Tab KeySlot
  parts : Tab Part
  regions : Tab Region
  /-- Links of the network (R335) and messages between routers (R334). -/
  streams : List Stream
  flights : List Flight
  pairs : List PairMsg
  /-- Twins of outstanding results: the other core, context and result (R319). -/
  mirrors : Tab (Nat × Nat × Nat)
  /-- Remap table and table generation of the routers (R331): during a flip, of those that have not switched yet; the pending
  table, and the routers, as site numbers, that have switched to it and the next generation (R332). -/
  remap : Remap
  pending : Option Remap
  tg : BitVec 16
  flipped : BitVec 624
  /-- The table before the last flip, until phase 3 has fenced what it alone named (R332). -/
  former : Option Remap
  /-- Updates of the table in the order in which they take the lock; the first may be in progress (R333). -/
  updates : List Update
  /-- The step that the ordered class takes at a site between two sites under a generation, once a message took it (R334). -/
  paths : Tab Dir
  /-- Accesses asked of other panels and not answered, by number: request and lane (R343). -/
  asks : Tab (Nat × Nat)
  /-- Sites, wharves, routes (R346), TOUT (R337). -/
  sites : Tab Site
  wharves : Tab Wharf
  routes : Tab (BitVec 16)
  tout : Nat
  power : Nat
  panel : BitVec 12
  funcs : Tab Func
  /-- Guast requests in arrival order: the calling function (R354). -/
  guast : List Nat
  unattributed : Counters
  survey : Survey
  boot : Boot
  svc : Service
  /-- Partitions that Pyoskeb makes at step 7 of R361. -/
  plan : Tab Part
  /-- What boot trusts (R362). -/
  trust : Trust
  /-- Answers the DOE mailbox has given (R362). -/
  doe : List Nat
  /-- Parity banks' strengths (R355). -/
  parity : Tab Bool
deriving DecidableEq, Repr

/-- The machine right after reset: bring-up has run to its end (R361), the service partition holds chiplet 0 (R360),
every bank is in CACHE mode (R206), no thread runs and memory lists nothing. -/
def State.reset : State where
  cur := 0
  ctx := 0
  agenda := []
  turn := 0
  cores := []
  chips := []
  mem := []
  otag := []
  poison := []
  code := []
  l2 := []
  ub := []
  reqs := []
  fresh := 0
  ops := []
  redsets := []
  slots := []
  parts := [(0, { Part.clear with chiplets := [0] })]
  regions := []
  streams := []
  flights := []
  pairs := []
  mirrors := []
  remap := ⟨true, [], []⟩
  pending := none
  tg := 0
  flipped := 0
  former := none
  updates := []
  paths := []
  asks := []
  sites := []
  wharves := []
  routes := []
  tout := 40000
  power := 21000
  panel := 0
  funcs := []
  guast := []
  unattributed := Counters.clear
  survey := ⟨0, false, 0x2E000000000⟩
  boot := ⟨7, 624⟩
  svc := ⟨0x2D000000000, 0x2D000100000, 0x2D000200000, 0x2C000000000, 0x1C000000000⟩
  plan := [(0, { Part.clear with chiplets := [0] })]
  trust := ⟨0, 0, ⟨0, 0, 0, 0⟩, ⟨0, 0, 0, 0⟩, [⟨0, 0, 0, 0⟩, ⟨0, 0, 0, 0⟩]⟩
  doe := []
  parity := []

end Sys2Proof.Machine
end

