-- ==== Sys2Proof/Machine/Memory.lean ====
section
/-! DEFINITION. Bytes, owner tags, poison marks, caches, homes and translation (R200 to R231). Byte order is decided
here once (R7). -/

namespace Sys2Proof.Machine

/-! ### Bytes -/

/-- What a byte reads as: zero where nothing is listed. -/
def readByte (m : List Host.Cell) (a : Nat) : Byte := Tab.getD m a 0

/-- Writes one byte; a zero is not listed. -/
def writeByte (m : List Host.Cell) (a : Nat) (v : Byte) : List Host.Cell := Tab.put m a v 0

/-- The little-endian value of the bytes from `a` (R7). -/
def readBytes (m : List Host.Cell) (a : Nat) : Nat → Nat
  | 0 => 0
  | n + 1 => (readByte m a).toNat + 256 * readBytes m (a + 1) n

/-- Stores the low bytes of a value from `a` upward (R7). -/
def writeBytes (m : List Host.Cell) (a : Nat) : Nat → Nat → List Host.Cell
  | 0, _ => m
  | n + 1, v => writeBytes (writeByte m a (BitVec.ofNat 8 v)) (a + 1) n (v / 256)

/-- Sets bytes to zero. -/
def zeroBytes (m : List Host.Cell) (a : Nat) : Nat → List Host.Cell
  | 0 => m
  | n + 1 => zeroBytes (writeByte m a 0) (a + 1) n

/-- The canonical form of memory: addresses strictly rising, no listed byte zero. -/
def Memory.wf (m : List Host.Cell) : Bool := Tab.wf m && m.all (fun c => c.2 != 0)

/-! ### The physical map (R201) -/

inductive PaKind where
  | hbm | unbacked | basin | coreLocal | reserved
deriving DecidableEq, Repr

def hbmEnd : Nat := 0x30000000000
def ubBase : Nat := 0x2000000000000
def ubEnd : Nat := 0x4000000000000
def basinBase : Nat := 0x4000000000000
def basinEnd : Nat := 0x4000240000000
def localBase : Nat := 0x5000000000000
def localEnd : Nat := 0x5000012000000

/-- Where a physical address lies (R201). -/
def paKind (pa : Nat) : PaKind :=
  if pa < hbmEnd then (if (pa % 0x1000000000) / 0x10000 ≤ 976561 then .hbm else .reserved)
  else if ubBase ≤ pa ∧ pa < ubEnd then .unbacked
  else if basinBase ≤ pa ∧ pa < basinEnd then .basin
  else if localBase ≤ pa ∧ pa < localEnd then .coreLocal
  else .reserved

/-- Physical address of byte `o` of core `n`'s core-local memory (R201). -/
def localPa (n o : Nat) : Nat := localBase + n * 0x10000 + o % 0x10000

/-- Physical address of byte `o` of bank `b` of chiplet `c` (R201). -/
def basinPa (c b o : Nat) : Nat := basinBase + c * 0x1000000 + b * 0x80000 + o

/-- Sector number of a physical address. -/
def sectorOf (pa : Nat) : Nat := pa / 16

/-- Whether owner tags cover whole 64-byte lines there (R202, R210), rather than sectors (R228). -/
def lineTagged (pa : Nat) : Bool := decide (basinBase ≤ pa)

/-- First byte, size and key of the tagged unit that holds an address. -/
def unitBase (pa : Nat) : Nat := if lineTagged pa then pa / 64 * 64 else pa / 16 * 16
def unitSize (pa : Nat) : Nat := if lineTagged pa then 64 else 16
def unitKey (pa : Nat) : Nat := unitBase pa / 16

/-- The tag that a slot's current generation gives (R228). -/
def State.slotTag (s : State) (slot : BitVec 6) : Tag := ⟨slot, (Tab.getD s.slots slot.toNat KeySlot.clear).gen⟩

/-- Whether a slot accepts no writes because its sweep runs (R229). -/
def State.slotSweeping (s : State) (t : Tag) : Bool := (Tab.getD s.slots t.slot.toNat KeySlot.clear).sweeping

/-- Whether a write under a tag is accepted: the tag carries its slot's current generation, and the slot is not swept
(R229, R327). -/
def State.tagCurrent (s : State) (t : Tag) : Bool :=
  t.gen == (Tab.getD s.slots t.slot.toNat KeySlot.clear).gen && !s.slotSweeping t

/-! ### Storage with owner tags -/

/-- One byte read with a tag: zero for a unit that carries another tag (R202, R210, R228). -/
def State.physByte (s : State) (t : Tag) (pa : Nat) : Byte :=
  if Tab.find s.otag (unitKey pa) = some t then readByte s.mem pa else 0

/-- The little-endian value of `n` bytes read with a tag. -/
def State.physRead (s : State) (t : Tag) (pa : Nat) : Nat → Nat
  | 0 => 0
  | n + 1 => (s.physByte t pa).toNat + 256 * s.physRead t (pa + 1) n

/-- Whether one of `n` bytes read with the tag lies in a poisoned sector (R311). -/
def State.physPoison (s : State) (t : Tag) (pa : Nat) : Nat → Bool
  | 0 => false
  | n + 1 => (decide (Tab.find s.otag (unitKey pa) = some t) && Tab.getD s.poison (sectorOf pa) false)
      || s.physPoison t (pa + 1) n

/-- Clears the poison marks of `n` sectors from `k`. -/
def clearPoison (p : Tab Bool) (k : Nat) : Nat → Tab Bool
  | 0 => p
  | n + 1 => clearPoison (Tab.erase p k) (k + 1) n

/-! ### Codes of the sectors of basin banks (R211, R329)

The code bit of a sector of a data bank stands at the sector number of its place in the basin window, whatever the bank's
mode; that of a parity bank's sector behind them. -/

/-- Sector j of the line at a place of slice c. -/
def rowKey (c place j : Nat) : Nat := sectorOf (basinPa c 0 0) + 4 * place + j

/-- Sector i of parity bank g of chiplet c. -/
def parityKey (c g i : Nat) : Nat := basinEnd / 16 + (2 * c + g) * 32768 + i

/-- A write of a sector of a data bank stores it, and its group's parity sector, with the codes of the present strengths. -/
def State.encode (s : State) (t : Tab Bool) (row : Nat) : Tab Bool :=
  let c := (16 * row - basinBase) / 0x1000000
  let b := (16 * row - basinBase) / 0x80000 % 32
  let bank := Tab.getD (Tab.getD s.chips c Chiplet.clear).banks b Bank.clear
  Tab.put (Tab.put t row bank.strength false) (parityKey c (b / 16) (row % 32768)) (Tab.getD s.parity (2 * c + b / 16) false) false

/-- The sector of a data bank that holds a sector of the basin window, or of a RESIDENT unbacked line. -/
def State.rowOf (s : State) (k : Nat) : Option Nat :=
  match paKind (16 * k) with
  | .basin => some k
  | .unbacked =>
    match Tab.find s.ub (k / 4) with
    | some u => if u.st = .resident then some (rowKey u.home u.place (k % 4)) else none
    | none => none
  | _ => none

/-- Code bits after a write of `n` sectors from `k` (R329). -/
def State.codeSectors (s : State) (t : Tab Bool) (k : Nat) : Nat → Tab Bool
  | 0 => t
  | n + 1 =>
    s.codeSectors (match s.rowOf k with
      | some row => s.encode t row
      | none => t) (k + 1) n

/-- Code bits after a write of `n` bytes (R329). -/
def State.codeAfter (s : State) (pa n : Nat) : Tab Bool :=
  s.codeSectors s.code (sectorOf pa) ((pa + n - 1) / 16 + 1 - sectorOf pa)

/-- Code bits after the four sectors of a line are written at a place. -/
def State.codeLine (s : State) (c place : Nat) : Tab Bool := [0, 1, 2, 3].foldl (fun t j => s.encode t (rowKey c place j)) s.code

/-- A write under another tag first zeroes the unit, which then takes the tag (R202, R210, R228). -/
def State.claimUnit (s : State) (t : Tag) (pa : Nat) : State :=
  if Tab.find s.otag (unitKey pa) = some t then s
  else { s with
    mem := zeroBytes s.mem (unitBase pa) (unitSize pa)
    otag := Tab.set s.otag (unitKey pa) t
    poison := clearPoison s.poison (unitKey pa) (unitSize pa / 16)
    code := s.codeAfter (unitBase pa) (unitSize pa) }

/-- Claims the units of `n` bytes. -/
def State.claimUnits (s : State) (t : Tag) (pa : Nat) : Nat → State
  | 0 => s
  | n + 1 => (s.claimUnit t pa).claimUnits t (pa + 1) n

/-- Clears the marks of the sectors that a write of `n` bytes covers whole (R311). -/
def coverPoison (p : Tab Bool) (pa n : Nat) : Tab Bool :=
  let first := (pa + 15) / 16
  clearPoison p first ((pa + n) / 16 - first)

/-- A write of `n` bytes with a tag; dropped when the tag's generation is not current (R229, R327). -/
def State.physWrite (s : State) (t : Tag) (pa n v : Nat) : State :=
  if s.tagCurrent t then
    let s := s.claimUnits t pa n
    { s with mem := writeBytes s.mem pa n v, poison := coverPoison s.poison pa n, code := s.codeAfter pa n }
  else s

/-- Marks the sectors of `n` bytes poisoned (R311). -/
def markSectors (p : Tab Bool) (k : Nat) : Nat → Tab Bool
  | 0 => p
  | n + 1 => markSectors (Tab.set p k true) (k + 1) n

def State.markPoison (s : State) (pa n : Nat) : State :=
  { s with poison := markSectors s.poison (sectorOf pa) ((pa + n - 1) / 16 + 1 - sectorOf pa) }

/-! ### Homes (R204) -/

/-- Partition that holds a chiplet. -/
def partOfChiplet (c : Nat) : Tab Part → Option Nat
  | [] => none
  | (p, x) :: t => if x.chiplets.contains c then some p else partOfChiplet c t

def State.chip (s : State) (c : Nat) : Chiplet := Tab.getD s.chips c Chiplet.clear

/-- The live chiplets a key slot's lines are homed at, in increasing number (R204). -/
def State.domain (s : State) (slot : BitVec 6) : List Nat :=
  let all := List.range Config.chiplets
  let live := fun c => (s.chip c).live
  if slot = 0 then all.filter live
  else
    let p := (Tab.getD s.slots slot.toNat KeySlot.clear).part
    let cs := (Tab.getD s.parts p Part.clear).chiplets
    all.filter (fun c => cs.contains c && live c)

/-- The home chiplet of a line (R204). -/
def State.home (s : State) (hp : Bool) (pin : Nat) (slot : BitVec 6) (pa : Nat) : Nat :=
  let d := s.domain slot
  if hp && d.contains pin then pin
  else
    let h := ((pa / 64) * 0x9E3779B97F4A7C15 % 2 ^ 64) / 2 ^ 32
    d.getD (h * d.length / 2 ^ 32) 0

/-- The home of a line whose page pins a chiplet, or none (R204). -/
def State.homeAt (s : State) (pin : Option Nat) (slot : BitVec 6) (pa : Nat) : Nat :=
  s.home pin.isSome (pin.getD 0) slot pa

/-! ### Places of lines in a slice (R206, R209) -/

def Chiplet.bank (c : Chiplet) (b : Nat) : Bank := Tab.getD c.banks b Bank.clear

/-- Lines that a CACHE bank holds (R206). -/
def bankLines : Nat := 8192

/-- Whether new lines may take places in a bank: it is in CACHE mode and stays there (R209 step 1). -/
def Chiplet.allocates (c : Chiplet) (b : Nat) : Bool := (c.bank b).mode == .cache && (c.bank b).moveTo.isNone

/-- The places of slice `c` that its lines take: those of L2 lines, and of RESIDENT unbacked lines. -/
def State.usedPlaces (s : State) (c : Nat) : List Nat :=
  (s.l2.filter (fun e => e.2.home == c)).map (fun e => e.2.place)
    ++ (s.ub.filter (fun e => e.2.home == c && e.2.st == .resident)).map (fun e => e.2.place)

/-- The first free row of a bank, if it has one. -/
def freeRow (used : List Nat) (b : Nat) : Option Nat :=
  ((List.range (used.length + 1)).find? (fun r => decide (r < bankLines) && !used.contains (bankLines * b + r))).map
    (fun r => bankLines * b + r)

/-- A place for another line at slice `c`; none where its CACHE banks are full. -/
def State.freePlace (s : State) (c : Nat) : Option Nat :=
  let used := s.usedPlaces c
  ((List.range 32).filter (s.chip c).allocates).findSome? (freeRow used)

/-- The place of a backed line at slice `c`: the one its sectors have there, or a new one. -/
def State.linePlace (s : State) (c line : Nat) : Option Nat :=
  match s.l2.find? (fun e => e.1 / 4 == line && e.2.home == c) with
  | some e => some e.2.place
  | none => s.freePlace c

/-! ### Cache sectors -/

/-- A sector as an agent finds it: 16 bytes as a number, its tag and its mark. -/
structure SectorVal where
  data : Nat
  tag : Option Tag
  poison : Bool
deriving DecidableEq, Repr

/-- The `n` bytes from offset `o` of a sector value. -/
def sliceOf (d o n : Nat) : Nat := d / 256 ^ o % 256 ^ n

/-- A sector value with `n` bytes from offset `o` replaced. -/
def spliceIn (d o n v : Nat) : Nat := d % 256 ^ o + (v % 256 ^ n) * 256 ^ o + d / 256 ^ (o + n) * 256 ^ (o + n)

/-- A read of part of a sector with a tag (R228). -/
def SectorVal.read (x : SectorVal) (t : Tag) (o n : Nat) : Nat × Bool :=
  if x.tag = some t then (sliceOf x.data o n, x.poison) else (0, false)

/-- A write of part of a sector with a tag (R228, R311). -/
def SectorVal.write (x : SectorVal) (t : Tag) (o n v : Nat) : SectorVal :=
  let base := if x.tag = some t then x else ⟨0, some t, false⟩
  ⟨spliceIn base.data o n v, some t, base.poison && decide (n < 16)⟩

/-- The sector as HBM, or the storage of an unbacked line, holds it. -/
def State.storedSector (s : State) (k : Nat) : SectorVal :=
  ⟨readBytes s.mem (k * 16) 16, Tab.find s.otag k, Tab.getD s.poison k false⟩

/-- Puts a sector into storage; dropped when its tag is not current (R229). -/
def State.storeSector (s : State) (k : Nat) (x : SectorVal) : State :=
  match x.tag with
  | none => s
  | some t =>
    if s.tagCurrent t then
      { s with
        mem := writeBytes s.mem (k * 16) 16 x.data
        otag := Tab.set s.otag k t
        poison := if x.poison then Tab.set s.poison k true else Tab.erase s.poison k
        code := s.codeSectors s.code k 1 }
    else s

/-- The sector at its home slice: the L2 copy, else storage (R203, R204). -/
def State.homeSector (s : State) (k : Nat) : SectorVal :=
  match Tab.find s.l2 k with
  | some x => ⟨x.data.toNat, some x.tag, x.poison⟩
  | none => s.storedSector k

/-- The dirty L1 copy of a coherent sector, if a core holds one (R203). -/
def dirtyCopy (k : Nat) : Tab Core → Option L1Sector
  | [] => none
  | (_, c) :: t =>
    match Tab.find c.l1 k with
    | some x => if x.dirty && x.coh then some x else dirtyCopy k t
    | none => dirtyCopy k t

/-- The value a coherent read finds (R233, R234). -/
def State.cohSector (s : State) (k : Nat) : SectorVal :=
  match dirtyCopy k s.cores with
  | some x => ⟨x.data.toNat, some x.tag, x.poison⟩
  | none => s.homeSector k

/-- Drops the coherent L1 copies of a sector. -/
def dropCopies (k : Nat) : Tab Core → Tab Core
  | [] => []
  | (n, c) :: t =>
    (n, match Tab.find c.l1 k with
        | some x => if x.coh then { c with l1 := Tab.erase c.l1 k } else c
        | none => c) :: dropCopies k t

/-- Puts a sector at its home: in the L2 slice for a backed line, in the slice's own storage for an unbacked one. A
slice that still holds the line of an older domain stays its holder (R341). A backed line for which the slice has no place is
served without being allocated (R220). -/
def State.putHome (s : State) (k : Nat) (pin : Option Nat) (x : SectorVal) : State :=
  if paKind (k * 16) = .unbacked then s.storeSector k x
  else
    match x.tag with
    | none => s
    | some t =>
      match Tab.find s.l2 k with
      | some y =>
        { s with
          l2 := Tab.set s.l2 k ⟨BitVec.ofNat 128 x.data, true, t, x.poison, y.home, pin, y.place⟩
          code := s.encode s.code (rowKey y.home y.place (k % 4)) }
      | none =>
        let home := s.homeAt pin t.slot (k * 16)
        match s.linePlace home (k / 4) with
        | some p =>
          { s with
            l2 := Tab.set s.l2 k ⟨BitVec.ofNat 128 x.data, true, t, x.poison, home, pin, p⟩
            code := s.encode s.code (rowKey home p (k % 4)) }
        | none => s.storeSector k x

/-- Makes the coherent L1 copies of a sector clean. -/
def cleanCopies (k : Nat) : Tab Core → Tab Core
  | [] => []
  | (n, c) :: t =>
    (n, match Tab.find c.l1 k with
        | some x => if x.coh then { c with l1 := Tab.set c.l1 k { x with dirty := false } } else c
        | none => c) :: cleanCopies k t

/-- Recalls the dirty L1 copy of a sector to its home; the copies stay as clean ones (R203). -/
def State.recall (s : State) (k : Nat) : State :=
  match dirtyCopy k s.cores with
  | some x => { (s.putHome k x.pin ⟨x.data.toNat, some x.tag, x.poison⟩) with cores := cleanCopies k s.cores }
  | none => s

/-- The home writes its dirty sector to HBM and keeps it clean (R226). -/
def State.flushHome (s : State) (k : Nat) : State :=
  match Tab.find s.l2 k with
  | some x =>
    if x.dirty then
      { (s.storeSector k ⟨x.data.toNat, some x.tag, x.poison⟩) with l2 := Tab.set s.l2 k { x with dirty := false } }
    else s
  | none => s

/-- The home drops its copy of a sector. -/
def State.dropHome (s : State) (k : Nat) : State := { s with l2 := Tab.erase s.l2 k }

/-- Every byte of a sector. -/
def allBytes : BitVec 16 := 0xFFFF

/-- Whether core n's L1 of 256 lines holds the line, or has room for it (R1, R203). -/
def State.l1Room (s : State) (n line : Nat) : Bool :=
  let ls := ((Tab.getD s.cores n Core.clear).l1.map (fun e => e.1 / 4)).dedup
  ls.contains line || decide (ls.length < 256)

/-- Puts a sector into core n's L1. -/
def State.putL1 (s : State) (n k : Nat) (x : L1Sector) : State :=
  let c := Tab.getD s.cores n Core.clear
  { s with cores := Tab.set s.cores n { c with l1 := Tab.set c.l1 k x } }

/-! ### Coherent and non-coherent access of one sector -/

/-- The value a core's coherent read finds: its own copy, else the dirty copy or the home's (R203). -/
def State.agentSector (s : State) (core k : Nat) : SectorVal :=
  match Tab.find (Tab.getD s.cores core Core.clear).l1 k with
  | some x => if x.coh then ⟨x.data.toNat, some x.tag, x.poison⟩ else s.cohSector k
  | none => s.cohSector k

/-- A backed sector that a read brings into its home slice stays there as a clean one, where the slice has a place. -/
def State.allocHome (s : State) (k : Nat) (pin : Option Nat) (x : SectorVal) : State :=
  match Tab.find s.l2 k, x.tag with
  | none, some t =>
    let home := s.homeAt pin t.slot (k * 16)
    match paKind (k * 16), s.linePlace home (k / 4) with
    | .hbm, some p =>
      { s with
        l2 := Tab.set s.l2 k ⟨BitVec.ofNat 128 x.data, false, t, x.poison, home, pin, p⟩
        code := s.encode s.code (rowKey home p (k % 4)) }
    | _, _ => s
  | _, _ => s

/-- A coherent read by core n of `n` bytes in one sector; with `fill` the home and the L1 keep copies (R203, R233). -/
def State.cohRead (s : State) (core : Nat) (t : Tag) (pa size : Nat) (pin : Option Nat) (fill : Bool) :
    State × Nat × Bool :=
  let k := sectorOf pa
  let x := s.agentSector core k
  let (v, p) := x.read t (pa % 16) size
  if fill then
    let s := (s.recall k).allocHome k pin x
    match x.tag with
    | some xt => (s.putL1 core k ⟨BitVec.ofNat 128 x.data, false, xt, x.poison, true, pin, allBytes, 0⟩, v, p)
    | none => (s, v, p)
  else (s, v, p)

/-- A coherent write by core n: every other L1 copy is dropped and the new value stands in the writer's L1 (`fill`) or
at the home (R233). Dropped when the tag is not current. -/
def State.cohWrite (s : State) (core : Nat) (t : Tag) (pa size v : Nat) (pin : Option Nat) (fill : Bool) : State :=
  if s.tagCurrent t then
    let k := sectorOf pa
    let x := (s.cohSector k).write t (pa % 16) size v
    let s := { s with cores := dropCopies k s.cores }
    if fill then s.putL1 core k ⟨BitVec.ofNat 128 x.data, true, t, x.poison, true, pin, allBytes, 0⟩ else s.putHome k pin x
  else s

/-- Byte i of a sector value. -/
def byteOf (d i : Nat) : Nat := d / 256 ^ i % 256

/-- A sector value with the bytes of `m` from `a` and the others from `b`. -/
def mixBytes (m : BitVec 16) (a b : Nat) : Nat :=
  (List.range 16).foldr (fun i acc => byteOf (if m.getLsbD i then a else b) i + 256 * acc) 0

/-- The bytes from offset `o` on, `n` of them. -/
def byteMask (o n : Nat) : BitVec 16 := BitVec.ofNat 16 ((2 ^ n - 1) * 2 ^ o)

/-- A sector of storage as a write under `t` finds it (R228). -/
def SectorVal.under (x : SectorVal) (t : Tag) : SectorVal := if x.tag = some t then x else ⟨0, some t, false⟩

/-- What a core sees of a sector it holds: the bytes it does not hold come from HBM (R203). -/
def L1Sector.over (x : L1Sector) (y : SectorVal) : SectorVal :=
  if x.valid = allBytes then ⟨x.data.toNat, some x.tag, x.poison⟩
  else ⟨mixBytes x.valid x.data.toNat (y.under x.tag).data, some x.tag, x.poison || (y.under x.tag).poison⟩

/-- What HBM holds after the bytes that the core wrote of a sector are written back: no other byte is written (R203). -/
def L1Sector.onto (x : L1Sector) (y : SectorVal) : SectorVal :=
  if x.wrote = allBytes then ⟨x.data.toNat, some x.tag, x.poison⟩
  else ⟨mixBytes x.wrote x.data.toNat (y.under x.tag).data, some x.tag, x.poison || (y.under x.tag).poison⟩

/-- The sector a core sees of a non-coherent page: its own L1 copy, else HBM (R203). -/
def State.ownSector (s : State) (core k : Nat) : SectorVal :=
  match Tab.find (Tab.getD s.cores core Core.clear).l1 k with
  | some x => x.over (s.storedSector k)
  | none => s.storedSector k

/-- A non-coherent read (R203). -/
def State.ncRead (s : State) (core : Nat) (t : Tag) (pa size : Nat) (fill : Bool) : State × Nat × Bool :=
  let k := sectorOf pa
  let x := s.ownSector core k
  let (v, p) := x.read t (pa % 16) size
  match fill, Tab.find (Tab.getD s.cores core Core.clear).l1 k, x.tag with
  | true, none, some xt => (s.putL1 core k ⟨BitVec.ofNat 128 x.data, false, xt, x.poison, false, none, allBytes, 0⟩, v, p)
  | true, some y, _ => (s.putL1 core k { y with data := BitVec.ofNat 128 x.data, poison := x.poison, valid := allBytes }, v, p)
  | _, _, _ => (s, v, p)

/-- The L1 sector into which a non-coherent write of core n goes: its own copy, or a new one that holds no byte; one of
another tag becomes zero first (R228). -/
def State.ncTarget (s : State) (core k : Nat) (t : Tag) : L1Sector :=
  match Tab.find (Tab.getD s.cores core Core.clear).l1 k with
  | some x =>
    if x.tag = t then { x with coh := false, wrote := if x.coh then (if x.dirty then allBytes else 0) else x.wrote }
    else ⟨0, true, t, false, false, none, allBytes, allBytes⟩
  | none => ⟨0, true, t, false, false, none, 0, 0⟩

/-- A non-coherent write: performed in the issuing core's L1 at once; no other byte of the sector is read or filled (R141,
R203, R233). -/
def State.ncWrite (s : State) (core : Nat) (t : Tag) (pa size v : Nat) : State :=
  if s.tagCurrent t then
    let k := sectorOf pa
    let x := s.ncTarget core k t
    let m := byteMask (pa % 16) size
    s.putL1 core k
      { x with
        data := BitVec.ofNat 128 (spliceIn x.data.toNat (pa % 16) size v)
        dirty := true
        poison := x.poison && decide (size < 16)
        valid := x.valid ||| m
        wrote := x.wrote ||| m }
  else s

/-- Writes a core's dirty non-coherent sector to HBM, keeping it clean (R203, R226). -/
def State.flushOwn (s : State) (core k : Nat) : State :=
  match Tab.find (Tab.getD s.cores core Core.clear).l1 k with
  | some x =>
    if x.dirty && !x.coh then
      (s.storeSector k (x.onto (s.storedSector k))).putL1 core k { x with dirty := false, wrote := 0 }
    else s
  | none => s

/-- Drops a core's L1 copy of a sector. -/
def State.dropL1 (s : State) (core k : Nat) : State :=
  let c := Tab.getD s.cores core Core.clear
  { s with cores := Tab.set s.cores core { c with l1 := Tab.erase c.l1 k } }

/-! ### Translation (R215 to R219) -/

/-- Access kinds, numbered as ACC of R301. -/
inductive AccKind where
  | load | store | atomic | fetch | lineRead | lineWrite | engRead | engWrite | idxRead
deriving DecidableEq, Repr

def AccKind.code : AccKind → BitVec 8
  | .load => 0
  | .store => 1
  | .atomic => 2
  | .fetch => 3
  | .lineRead | .lineWrite => 4
  | .engRead => 5
  | .engWrite => 6
  | .idxRead => 7

/-- Whether a leaf's X, W and RD bits allow an access (R217, R254). -/
def AccKind.allowed (k : AccKind) (l : Leaf) : Bool :=
  match k with
  | .load | .lineRead | .engRead | .idxRead => l.rd
  | .store | .lineWrite | .engWrite => l.w
  | .atomic => l.rd && l.w
  | .fetch => l.x

/-- Fault codes that the walk and the checks of R217 raise (R305). -/
def cTRANSLATION : BitVec 8 := 0x16
def cPTE_FORMAT : BitVec 8 := 0x17
def cPERMISSION : BitVec 8 := 0x18

/-- A failed translation: code and level. -/
structure WalkFault where
  code : BitVec 8
  level : Nat
deriving DecidableEq, Repr

/-- What one table entry says (R216, R217). -/
inductive Entry where
  | table (next : Nat)
  | leaf (l : Leaf)
  | bad (code : BitVec 8)
deriving DecidableEq, Repr

def bitOf (e i : Nat) : Bool := e / 2 ^ i % 2 == 1
def fieldOf (e hi lo : Nat) : Nat := e / 2 ^ lo % 2 ^ (hi + 1 - lo)

/-- An entry read at a level, checked by the first two rows of R217. -/
def entryAt (level e : Nat) : Entry :=
  match e % 4 with
  | 0 => .bad cTRANSLATION
  | 1 =>
    if level = 3 || fieldOf e 63 52 != 0 || bitOf e 16 || fieldOf e 15 4 != 0 || fieldOf e 3 2 != 0 then
      .bad cPTE_FORMAT
    else .table (fieldOf e 51 17 * 2 ^ 17)
  | 2 =>
    if level < 2 || bitOf e 8 || fieldOf e 3 2 != 0 || (level == 2 && fieldOf e 29 16 != 0) || 575 < fieldOf e 63 54 then
      .bad cPTE_FORMAT
    else
      .leaf { pin := fieldOf e 63 54, hp := bitOf e 53, c := bitOf e 52, frame := fieldOf e 51 16,
              key := BitVec.ofNat 6 (fieldOf e 15 10), ub := bitOf e 9, x := bitOf e 7, w := bitOf e 6,
              rd := bitOf e 5, us := bitOf e 4, level := level }
  | _ => .bad cPTE_FORMAT

/-- The doubleword the walker reads under the root's key slot; it observes cached copies of the table (R215, R219). -/
def State.walkRead (s : State) (slot : BitVec 6) (pa : Nat) : Nat :=
  ((s.cohSector (sectorOf pa)).read (s.slotTag slot) (pa % 16) 8).1

/-- The walk from a table at a level, `fuel` levels deep (R215, R217), with the addresses of the entries read. An entry that
names a table outside HBM maps no table. -/
def State.walk (s : State) (slot : BitVec 6) (va : Nat) : Nat → Nat → Nat → List Nat → Except WalkFault (Leaf × List Nat)
  | 0, level, _, _ => .error ⟨cPTE_FORMAT, level⟩
  | fuel + 1, level, table, seen =>
    let pa := table + 8 * (va / 2 ^ (16 + 14 * (3 - level)) % 16384)
    if paKind pa ≠ .hbm then .error ⟨cPTE_FORMAT, level - 1⟩
    else match entryAt level (s.walkRead slot pa) with
    | .bad code => .error ⟨code, level⟩
    | .table next => s.walk slot va fuel (level + 1) next (seen ++ [pa])
    | .leaf l => .ok (l, seen ++ [pa])

/-- The physical address through a leaf (R215). -/
def Leaf.pa (l : Leaf) (va : Nat) : Nat :=
  if l.level = 2 then l.frame / 2 ^ 14 * 2 ^ 30 + va % 2 ^ 30 else l.frame * 2 ^ 16 + va % 2 ^ 16

/-- The checks of rows 3 to 6 of R217; none when the access passes. -/
def Leaf.check (l : Leaf) (va : Nat) (k : AccKind) (priv : Bool) : Option (BitVec 8) :=
  let kind := paKind (l.pa va)
  if kind = .reserved then some cPTE_FORMAT
  else if l.ub && !l.c then some cPTE_FORMAT
  else if l.ub != decide (kind = .unbacked) then some cPTE_FORMAT
  else if (kind = .basin || kind = .coreLocal) && (l.c || l.hp || l.pin != 0) then some cPTE_FORMAT
  else if (!l.us && !priv) || !k.allowed l then some cPERMISSION
  else none

/-- The page of a TLB entry that serves an address. -/
def TlbEntry.serves (e : TlbEntry) (r : Root) (va : Nat) : Bool :=
  e.root == r && e.page == (if e.leaf.level = 2 then va / 2 ^ 30 else va / 2 ^ 16)

/-- The leaf an access of core n uses: from its TLB, its chiplet's TLB, or a walk. A TLB holds no translation that failed a
check, so an entry that fails `ok` does not serve (R218). -/
def State.leafFor (s : State) (n : Nat) (r : Root) (va : Nat) (ok : Leaf → Bool) : Except WalkFault (Leaf × List Nat) :=
  let serves := fun (e : TlbEntry) => e.serves r va && ok e.leaf
  match (Tab.getD s.cores n Core.clear).tlb.find? serves, (s.chip (n / 8)).tlb.find? serves with
  | some e, _ => .ok (e.leaf, e.derived)
  | none, some e => .ok (e.leaf, e.derived)
  | none, none => s.walk r.slot va 4 0 r.table []

/-- The 72-bit virtual address (R39). -/
def virtual (vahi : BitVec 8) (ea : Word) : Nat := vahi.toNat * 2 ^ 64 + ea.toNat

/-- A translated access: its leaf and physical address, or its fault (R217). -/
def State.translate (s : State) (n : Nat) (r : Root) (vahi : BitVec 8) (ea : Word) (k : AccKind) (priv : Bool) :
    Except WalkFault (Leaf × Nat) :=
  let va := virtual vahi ea
  match s.leafFor n r va (fun l => (l.check va k priv).isNone) with
  | .error e => .error e
  | .ok (l, _) =>
    match l.check va k priv with
    | some code => .error ⟨code, l.level⟩
    | none => .ok (l, l.pa va)

/-- The local window (R40). -/
def inLocalWindow (ea : Word) : Bool := decide (0xFFFFFFFFFFFF0000 ≤ ea.toNat)

/-- The chiplet a page pins. -/
def Leaf.pinned (l : Leaf) : Option Nat := if l.hp then some l.pin else none

/-- Whether a page belongs to another panel (R343). -/
def State.isFabric (s : State) (l : Leaf) : Bool := (Tab.getD s.slots l.key.toNat KeySlot.clear).fabric.isSome

/-- A destination that lies in scopes 0, 1 and 3 alone: another panel (R344). -/
def fabricChip : Nat := 1024

/-- The home of a translated line (R204). -/
def State.homeOf (s : State) (l : Leaf) (pa : Nat) : Nat := s.home l.hp l.pin l.key pa

/-- Destination chiplet of an access of core n (R232). -/
def State.destChiplet (s : State) (n : Nat) (l : Leaf) (pa : Nat) : Nat :=
  if s.isFabric l then fabricChip
  else
    match paKind pa with
    | .basin => (pa - basinBase) / 0x1000000
    | .coreLocal => (pa - localBase) / 0x10000 / 8
    | _ => if l.c then s.homeOf l pa else n / 8

end Sys2Proof.Machine
end

