-- ==== Sys2Proof/Machine/BaseDie.lean ====
section
/-! DEFINITION. What lies below the bytes a program sees: sector checks and CRC-32C, the cells of HBM under a slot's keys, the
parity banks, and the codes that a change of strength leaves (R211, R212, R228 to R230, R329). -/

namespace Sys2Proof.Machine

/-! ### CRC-32C (R230, R347) -/

/-- One bit of a CRC-32C: polynomial 0x1EDC6F41, bits taken from the least significant on. -/
def crcStep (c : Nat) (b : Bool) : Nat := if (c % 2 == 1) != b then (c / 2) ^^^ 0x82F63B78 else c / 2

/-- The bits of v at places of a list, one after another; the match makes the kernel evaluate each step before the next. -/
def crcBits (v : Nat) : List Nat → Nat → Nat
  | [], c => c
  | i :: t, c =>
    match crcStep c (v.testBit i) with
    | 0 => crcBits v t 0
    | m + 1 => crcBits v t (m + 1)

/-- CRC-32C of the low `n` bits of a number. PRESUMED (log entry 73): bits from the least significant on, all ones at the start,
inverted at the end. -/
def crc32c (n v : Nat) : BitVec 32 := ~~~(BitVec.ofNat 32 (crcBits v (List.range n) 0xFFFFFFFF))

/-- The check of a sector in flight, over data, tag and physical address bits 51:4 (R230). -/
def sectorCheck (data : BitVec 128) (t : Tag) (pa : Nat) : BitVec 32 :=
  crc32c 198 (data.toNat + 2 ^ 128 * (t.slot.toNat + 2 ^ 6 * t.gen.toNat) + 2 ^ 150 * (pa / 16 % 2 ^ 48))

/-- A sector on a link or bus, with the check its sender formed (R230). -/
structure SectorInFlight where
  data : BitVec 128
  tag : Tag
  pa : Nat
  check : BitVec 32
deriving DecidableEq, Repr

/-- A sender forms the check. -/
def SectorInFlight.send (data : BitVec 128) (t : Tag) (pa : Nat) : SectorInFlight := ⟨data, t, pa, sectorCheck data t pa⟩

/-- A receiver forms its own check of what it received, and keeps it where the sender's check holds; else it discards it: a
link asks for the sector again, and any other receiver marks the sector poisoned (R230). -/
def SectorInFlight.receive (x : SectorInFlight) : SectorVal × Option (BitVec 32) :=
  let own := sectorCheck x.data x.tag x.pa
  if x.check = own then (⟨x.data.toNat, some x.tag, false⟩, some own) else (⟨x.data.toNat, some x.tag, true⟩, none)

/-! ### HBM (R228, R229) -/

/-- The cells of HBM at sector k: in clear under slot 0, else encrypted under the slot's key pair, with the sector number as
tweak. `State.mem` holds the sector as the base die decrypts it. -/
def State.hbmCells (s : State) (k : Nat) : BitVec 128 :=
  let d := BitVec.ofNat 128 (readBytes s.mem (16 * k) 16)
  match Tab.find s.otag k with
  | none => d
  | some t => if t.slot = 0 then d
    else Config.aesXts (Config.keyPair t.slot (Tab.getD s.slots t.slot.toNat KeySlot.clear).key) (BitVec.ofNat 128 k) d

/-! ### Parity (R211, R212) -/

/-- Byte o of bank b of chiplet c: of its window in SCRATCH and FIFO mode, in CACHE mode of the line at its place. -/
def State.bankByte (s : State) (c b o : Nat) : Byte :=
  if ((s.chip c).bank b).mode != .cache then readByte s.mem (basinPa c b o)
  else
    let place := bankLines * b + o / 64
    match s.l2.find? (fun e => e.2.home == c && e.2.place == place && e.1 % 4 == o % 64 / 16) with
    | some e => (e.2.data.toNat / 256 ^ (o % 16) % 256 : Nat)
    | none =>
      match s.ub.find? (fun e => e.2.st == .resident && e.2.home == c && e.2.place == place) with
      | some e => readByte s.mem (64 * e.1 + o % 64)
      | none => 0

/-- The exclusive or of bytes. -/
def xorAll : List Byte → Byte
  | [] => 0
  | x :: t => x ^^^ xorAll t

/-- Byte o of parity bank g, 0 or 1, of chiplet c (R211). -/
def State.parityByte (s : State) (c g o : Nat) : Byte := xorAll ((List.range 16).map (fun i => s.bankByte c (16 * g + i) o))

/-- Byte o of bank b, rebuilt from the other fifteen banks of its group and the parity bank (R211). -/
def State.rebuiltByte (s : State) (c b o : Nat) : Byte :=
  s.parityByte c (b / 16) o ^^^ xorAll (((List.range 16).filter (fun i => i != b % 16)).map (fun i => s.bankByte c (b / 16 * 16 + i) o))

/-! ### Codes (R329) -/

/-- Whether a bank, 0 to 31, or a parity bank, 32 or 33, has a sector of another code than its strength. -/
def State.oldCode (s : State) (c b : Nat) : Bool :=
  let k := if b < 32 then sectorOf (basinPa c b 0) else parityKey c (b - 32) 0
  let n := (s.code.filter (fun e => decide (k ≤ e.1) && decide (e.1 < k + 32768) && e.2)).length
  let strong := if b < 32 then ((s.chip c).bank b).strength else Tab.getD s.parity (2 * c + (b - 32)) false
  if strong then n != 32768 else n != 0

/-- REENC of a chiplet's basin: a line with the old code remains (R329). -/
def State.reenc (s : State) (c : Nat) : Bool := (List.range 34).any (s.oldCode c)

/-- Writes the four sectors of a line of a bank, or of a parity bank, with its present strength. -/
def State.encodeLine (s : State) (c b line : Nat) : State :=
  let k := (if b < 32 then sectorOf (basinPa c b 0) else parityKey c (b - 32) 0) + 4 * line
  let strong := if b < 32 then ((s.chip c).bank b).strength else Tab.getD s.parity (2 * c + (b - 32)) false
  { s with code := [0, 1, 2, 3].foldl (fun t j => Tab.put t (k + j) strong false) s.code }

end Sys2Proof.Machine
end

