-- ==== Sys2Proof/Machine/Forms.lean ====
section
/-! DEFINITION. The codes of types, masks and selectors in instruction words, and which of them an instruction
allows (R69, R75, R128, R132 to R138, R145, R281). -/

namespace Sys2Proof

/-- Lane width in bits (R128). -/
def ElemType.width : ElemType → Nat
  | .fp64 | .i64 => 64
  | .fp32 | .i32 => 32
  | .fp16 | .bf16 | .i16 => 16

/-- T of 100 to 110 (R132). -/
def ElemType.isInt : ElemType → Bool
  | .i64 | .i32 | .i16 => true
  | _ => false

/-- Lanes of a vector register (R128). -/
def ElemType.lanes (t : ElemType) : Nat := 512 / t.width

/-- The T field (R69); 111 is reserved. -/
def ElemType.ofCode (c : BitVec 3) : Option ElemType :=
  match c.toNat with
  | 0 => some .fp64
  | 1 => some .fp32
  | 2 => some .fp16
  | 3 => some .bf16
  | 4 => some .i64
  | 5 => some .i32
  | 6 => some .i16
  | _ => none

def ElemType.code : ElemType → BitVec 3
  | .fp64 => 0
  | .fp32 => 1
  | .fp16 => 2
  | .bf16 => 3
  | .i64 => 4
  | .i32 => 5
  | .i16 => 6

/-- The M field (R69). -/
def MaskSel.ofCode (c : BitVec 2) : MaskSel :=
  match c.toNat with
  | 0 => .all
  | 1 => .m0
  | 2 => .m1
  | _ => .notM0

def MaskSel.code : MaskSel → BitVec 2
  | .all => 0
  | .m0 => 1
  | .m1 => 2
  | .notM0 => 3

/-- A mask selector (R133, R145). -/
def MaskReg.ofCode (c : BitVec 4) : Option MaskReg :=
  match c.toNat with
  | 0 => some .m0
  | 1 => some .m1
  | _ => none

def MaskReg.code : MaskReg → BitVec 4
  | .m0 => 0
  | .m1 => 1

/-- FENCE kind (R75). -/
def FenceKind.ofCode (c : BitVec 3) : Option FenceKind :=
  match c.toNat with
  | 0 => some .acq
  | 1 => some .rel
  | 2 => some .ar
  | 3 => some .sc
  | _ => none

def FenceKind.code : FenceKind → BitVec 3
  | .acq => 0
  | .rel => 1
  | .ar => 2
  | .sc => 3

/-- The type codes of VCVT and MREAD (R136). -/
def CvtType.ofCode (c : BitVec 4) : Option CvtType :=
  match c.toNat with
  | 0 => some .f64
  | 1 => some .f32
  | 2 => some .f16
  | 3 => some .bf16
  | 4 => some .i64
  | 5 => some .i32
  | 6 => some .i16
  | 7 => some .i8
  | 8 => some .i4
  | 9 => some .e4m3
  | 10 => some .e5m2
  | _ => none

def CvtType.code : CvtType → BitVec 4
  | .f64 => 0
  | .f32 => 1
  | .f16 => 2
  | .bf16 => 3
  | .i64 => 4
  | .i32 => 5
  | .i16 => 6
  | .i8 => 7
  | .i4 => 8
  | .e4m3 => 9
  | .e5m2 => 10

/-- Element width in bits (R136). -/
def CvtType.width : CvtType → Nat
  | .f64 | .i64 => 64
  | .f32 | .i32 => 32
  | .f16 | .bf16 | .i16 => 16
  | .i8 | .e4m3 | .e5m2 => 8
  | .i4 => 4

/-- Matrix types (R281). -/
def MatType.ofCode (c : BitVec 4) : Option MatType :=
  match c.toNat with
  | 0 => some .fp64
  | 1 => some .fp32
  | 2 => some .fp16
  | 3 => some .bf16
  | 4 => some .e4m3
  | 5 => some .e5m2
  | 6 => some .i8
  | 7 => some .i4
  | 8 => some .sb8
  | 9 => some .sb4
  | _ => none

def MatType.code : MatType → BitVec 4
  | .fp64 => 0
  | .fp32 => 1
  | .fp16 => 2
  | .bf16 => 3
  | .e4m3 => 4
  | .e5m2 => 5
  | .i8 => 6
  | .i4 => 7
  | .sb8 => 8
  | .sb4 => 9

/-- The VV instructions whose F the table of R132, R133 and R138 defines. -/
inductive VvOp where
  | addSub | mul | fma | minMax | logic | shift | cmp | unary | redScan
deriving DecidableEq, Repr

/-- Whether R132, R133 or R138 defines F for the type (R75). -/
def VvOp.ok (o : VvOp) (f : BitVec 3) (t : ElemType) : Bool :=
  let int := t.isInt
  match o with
  | .addSub | .mul => f == 0 || (f.toNat ≤ 2 && int)
  | .fma => f.toNat ≤ 3
  | .minMax => f == 0 || (f == 1 && int)
  | .logic => f.toNat ≤ 4
  | .shift => f.toNat ≤ 2 && int
  | .cmp => f.toNat ≤ 3 || (f.toNat ≤ 5 && int)
  | .unary => f.toNat ≤ 1 || (f == 2 && !int) || ((f == 3 || f == 4) && int)
  | .redScan => f.toNat ≤ 2 || ((f == 3 || f == 4) && int)

/-- The cases VCVT allows (R137). -/
def cvtOk (src dst : CvtType) (p : BitVec 3) : Bool :=
  let ww := max src.width dst.width
  let wn := min src.width dst.width
  decide (src ≠ dst) && decide (16 ≤ ww) && decide (ww / wn ≤ 8) && decide (p.toNat < ww / wn)

/-- The DT codes MREAD allows (R293): not INT4. -/
def mreadOk : CvtType → Bool
  | .i4 => false
  | _ => true

end Sys2Proof
end

