-- ==== Sys2Proof/Machine/Flags.lean ====
section
/-! DEFINITION. Number formats, rounding and the five floating-point flags (R47 to R64). A number is taken apart into
an exact value, computed exactly on integers, and rounded once. -/

namespace Sys2Proof.Machine

/-- The flag set, placed as in `fpflags` 4:0 (R35). -/
abbrev Flags := BitVec 5

def flagNV : Flags := 16
def flagDZ : Flags := 8
def flagOF : Flags := 4
def flagUF : Flags := 2
def flagNX : Flags := 1
def flagIf (b : Bool) (f : Flags) : Flags := if b then f else 0

/-- A floating-point format (R47): exponent bits, fraction bits, and whether it has no infinity (R49). -/
structure Fmt where
  eb : Nat
  fb : Nat
  noInf : Bool
deriving DecidableEq, Repr

def fmt64 : Fmt := ⟨11, 52, false⟩
def fmt32 : Fmt := ⟨8, 23, false⟩
def fmt16 : Fmt := ⟨5, 10, false⟩
def fmtBf16 : Fmt := ⟨8, 7, false⟩
def fmtE5m2 : Fmt := ⟨5, 2, false⟩
def fmtE4m3 : Fmt := ⟨4, 3, true⟩

def Fmt.bias (f : Fmt) : Nat := 2 ^ (f.eb - 1) - 1
def Fmt.width (f : Fmt) : Nat := f.eb + f.fb + 1
/-- The all-ones exponent. -/
def Fmt.top (f : Fmt) : Nat := 2 ^ f.eb - 1
/-- Exponent of the smallest normal value (R54). -/
def Fmt.emin (f : Fmt) : Int := 1 - (f.bias : Int)

/-- Sign, biased exponent and fraction as a pattern. -/
def Fmt.pack (f : Fmt) (s : Bool) (e m : Nat) : Nat := (if s then 2 ^ (f.eb + f.fb) else 0) + e * 2 ^ f.fb + m

/-- The canonical NaN (R50). -/
def Fmt.nan (f : Fmt) : Nat :=
  if f.noInf then f.pack false f.top (2 ^ f.fb - 1) else f.pack false f.top (2 ^ (f.fb - 1))

/-- The value of a pattern (R48, R49): a finite nonzero value is m · 2^e. -/
inductive FVal where
  | nan (signalling : Bool)
  | inf (s : Bool)
  | zero (s : Bool)
  | fin (s : Bool) (m : Nat) (e : Int)
deriving DecidableEq, Repr

/-- R48, R49. -/
def Fmt.unpack (f : Fmt) (p : Nat) : FVal :=
  let s := p.testBit (f.eb + f.fb)
  let e := (p / 2 ^ f.fb) % 2 ^ f.eb
  let m := p % 2 ^ f.fb
  if e = f.top ∧ ¬ f.noInf then
    if m = 0 then .inf s else .nan (!(m.testBit (f.fb - 1)))
  else if e = f.top ∧ m = 2 ^ f.fb - 1 then .nan false
  else if e = 0 then
    if m = 0 then .zero s else .fin s m (1 - (f.bias : Int) - f.fb)
  else .fin s (2 ^ f.fb + m) ((e : Int) - f.bias - f.fb)

def FVal.isNan : FVal → Bool
  | .nan _ => true
  | _ => false

def FVal.isSnan : FVal → Bool
  | .nan s => s
  | _ => false

def FVal.neg : FVal → FVal
  | .nan b => .nan b
  | .inf s => .inf (!s)
  | .zero s => .zero (!s)
  | .fin s m e => .fin (!s) m e

/-- Rounding modes (R35): 0 RNE, 1 RTZ, 2 RUP, 3 RDN. -/
def roundsUp (rm : BitVec 2) (s odd above tie inexact : Bool) : Bool :=
  match rm.toNat with
  | 0 => above || (tie && odd)
  | 1 => false
  | 2 => inexact && !s
  | _ => inexact && s

/-- m · 2^e, plus something below 2^e when `sticky`, rounded to a multiple of 2^q: the multiple and whether it is
inexact (R52). -/
def roundAt (rm : BitVec 2) (s : Bool) (m : Nat) (e : Int) (sticky : Bool) (q : Int) : Nat × Bool :=
  if q ≤ e then
    let n := m * 2 ^ (e - q).toNat
    (if roundsUp rm s (n % 2 == 1) false false sticky then n + 1 else n, sticky)
  else
    let d := (q - e).toNat
    let n := m / 2 ^ d
    let r := m % 2 ^ d
    let half := 2 ^ (d - 1)
    let above := decide (half < r) || (r == half && sticky)
    let tie := r == half && !sticky
    let inexact := r != 0 || sticky
    (if roundsUp rm s (n % 2 == 1) above tie inexact then n + 1 else n, inexact)

/-- The result of an overflow (R49, R53). -/
def Fmt.overflowed (f : Fmt) (rm : BitVec 2) (s : Bool) : Nat :=
  if f.noInf then f.pack s f.top (2 ^ f.fb - 2)
  else if rm == 0 || (rm == 2 && !s) || (rm == 3 && s) then f.pack s f.top 0
  else f.pack s (f.top - 1) (2 ^ f.fb - 1)

/-- Rounds the finite nonzero value m · 2^e (with `sticky` as above) once (R52 to R54). -/
def Fmt.roundFin (f : Fmt) (rm : BitVec 2) (s : Bool) (m : Nat) (e : Int) (sticky : Bool) : Nat × Flags :=
  let ex : Int := e + (Nat.log2 m : Int)
  let q0 : Int := ex - f.fb
  let qmin : Int := f.emin - f.fb
  let q := max q0 qmin
  let (n, inexact) := roundAt rm s m e sticky q
  let carried := n == 2 ^ (f.fb + 1)
  let n' := if carried then 2 ^ f.fb else n
  let q' := if carried then q + 1 else q
  let be : Nat := if n' < 2 ^ f.fb then 0 else (q' + f.fb + f.bias).toNat
  let frac := n' % 2 ^ f.fb
  let big := if f.noInf then decide (f.top < be) || (be == f.top && frac == 2 ^ f.fb - 1) else decide (f.top ≤ be)
  if big then (f.overflowed rm s, flagOF ||| flagNX)
  else
    let tiny := decide (ex < f.emin) && !(decide (ex = f.emin - 1) && (roundAt rm s m e sticky q0).1 == 2 ^ (f.fb + 1))
    (f.pack s be frac, flagIf (tiny && inexact) flagUF ||| flagIf inexact flagNX)

/-- An exact value rounded to a format (R50 to R54). -/
def Fmt.roundVal (f : Fmt) (rm : BitVec 2) : FVal → Nat × Flags
  | .nan _ => (f.nan, 0)
  | .inf s => if f.noInf then (f.overflowed rm s, flagOF ||| flagNX) else (f.pack s f.top 0, 0)
  | .zero s => (f.pack s 0 0, 0)
  | .fin s m e => f.roundFin rm s m e false

/-- Whether an operand is a signalling NaN raises NV (R55). -/
def snanFlag (x y : FVal) : Flags := flagIf (x.isSnan || y.isSnan) flagNV

/-- The signed multiple of 2^e that a finite value is, for e at most its exponent. -/
def scaled (s : Bool) (m : Nat) (e q : Int) : Int :=
  let n : Int := (m * 2 ^ (e - q).toNat : Nat)
  if s then -n else n

/-- The value of an integer multiple of 2^q, with the sign of an exact zero by R56. -/
def ofScaled (rm : BitVec 2) (z : Int) (q : Int) : FVal :=
  if z = 0 then .zero (rm == 3) else .fin (decide (z < 0)) z.natAbs q

/-- The exact sum (R55, R56). -/
def FVal.add (rm : BitVec 2) (x y : FVal) : FVal × Flags :=
  match x, y with
  | .nan _, _ | _, .nan _ => (.nan false, snanFlag x y)
  | .inf s, .inf t => if s = t then (.inf s, 0) else (.nan false, flagNV)
  | .inf s, _ => (.inf s, 0)
  | _, .inf t => (.inf t, 0)
  | .zero s, .zero t => (if s = t then .zero s else .zero (rm == 3), 0)
  | .zero _, y => (y, 0)
  | x, .zero _ => (x, 0)
  | .fin s m e, .fin t n d =>
    let q := min e d
    (ofScaled rm (scaled s m e q + scaled t n d q) q, 0)

/-- The exact product (R55, R56). -/
def FVal.mul (x y : FVal) : FVal × Flags :=
  match x, y with
  | .nan _, _ | _, .nan _ => (.nan false, snanFlag x y)
  | .inf _, .zero _ | .zero _, .inf _ => (.nan false, flagNV)
  | .inf s, .inf t | .inf s, .fin t _ _ | .fin s _ _, .inf t => (.inf (s ^^ t), 0)
  | .zero s, .zero t | .zero s, .fin t _ _ | .fin s _ _, .zero t => (.zero (s ^^ t), 0)
  | .fin s m e, .fin t n d => (.fin (s ^^ t) (m * n) (e + d), 0)

def fpAdd (f : Fmt) (rm : BitVec 2) (a b : Nat) : Nat × Flags :=
  let (v, fl) := FVal.add rm (f.unpack a) (f.unpack b)
  let (r, fr) := f.roundVal rm v
  (r, fl ||| fr)

/-- A difference is the sum with the subtrahend's sign inverted (R56). -/
def fpSub (f : Fmt) (rm : BitVec 2) (a b : Nat) : Nat × Flags :=
  let (v, fl) := FVal.add rm (f.unpack a) (f.unpack b).neg
  let (r, fr) := f.roundVal rm v
  (r, fl ||| fr)

def fpMul (f : Fmt) (rm : BitVec 2) (a b : Nat) : Nat × Flags :=
  let (v, fl) := FVal.mul (f.unpack a) (f.unpack b)
  let (r, fr) := f.roundVal rm v
  (r, fl ||| fr)

/-- ±(a · b) ± c computed exactly and rounded once (R57). -/
def fpFma (f : Fmt) (rm : BitVec 2) (negP negC : Bool) (a b c : Nat) : Nat × Flags :=
  let x := f.unpack a
  let y := f.unpack b
  let z := if negC then (f.unpack c).neg else f.unpack c
  let (p, fp) := FVal.mul x y
  let (v, fs) := FVal.add rm (if negP then p.neg else p) z
  let (r, fr) := f.roundVal rm v
  (r, fp ||| fs ||| fr)

/-- The quotient (R55): the integer quotient carries enough bits below the rounding place, with a sticky rest. -/
def fpDiv (f : Fmt) (rm : BitVec 2) (a b : Nat) : Nat × Flags :=
  let x := f.unpack a
  let y := f.unpack b
  match x, y with
  | .nan _, _ | _, .nan _ => (f.nan, snanFlag x y)
  | .inf _, .inf _ | .zero _, .zero _ => (f.nan, flagNV)
  | .inf s, .zero t | .inf s, .fin t _ _ => (f.pack (s ^^ t) f.top 0, 0)
  | .zero s, .inf t | .zero s, .fin t _ _ | .fin s _ _, .inf t => (f.pack (s ^^ t) 0 0, 0)
  | .fin s _ _, .zero t => (f.pack (s ^^ t) f.top 0, flagDZ)
  | .fin s m e, .fin t n d =>
    let k := f.fb + 4 + Nat.log2 n
    let w := m * 2 ^ k
    f.roundFin rm (s ^^ t) (w / n) (e - d - k) (w % n != 0)

/-- The integer square root of `n`, by its bits from 2^i down. -/
def isqrtFrom (n : Nat) : Nat → Nat → Nat
  | 0, r => r
  | i + 1, r =>
    let c := r + 2 ^ i
    isqrtFrom n i (if c * c ≤ n then c else r)

def isqrt (n : Nat) : Nat := isqrtFrom n (Nat.log2 n / 2 + 1) 0

/-- The square root (R107). -/
def fpSqrt (f : Fmt) (rm : BitVec 2) (a : Nat) : Nat × Flags :=
  match f.unpack a with
  | .nan sg => (f.nan, flagIf sg flagNV)
  | .zero s => (f.pack s 0 0, 0)
  | .inf false => (f.pack false f.top 0, 0)
  | .inf true => (f.nan, flagNV)
  | .fin true _ _ => (f.nan, flagNV)
  | .fin false m e =>
    let k : Nat := 2 * (f.fb + 4) + (if e % 2 = 0 then 0 else 1)
    let w := m * 2 ^ k
    let r := isqrt w
    f.roundFin rm false r ((e - k) / 2) (r * r != w)

/-- Order of two values that are not NaN, −0 and +0 equal. -/
def FVal.lt (x y : FVal) : Bool :=
  match x, y with
  | .inf true, .inf true => false
  | .inf true, _ => true
  | _, .inf true => false
  | .inf false, _ => false
  | _, .inf false => true
  | .zero _, .zero _ => false
  | .zero _, .fin t _ _ => !t
  | .fin s _ _, .zero _ => s
  | .fin s m e, .fin t n d =>
    let q := min e d
    decide (scaled s m e q < scaled t n d q)
  | _, _ => false

/-- Equality of two values that are not NaN. -/
def FVal.eq (x y : FVal) : Bool := !x.isNan && !y.isNan && !FVal.lt x y && !FVal.lt y x

/-- An equality compare (R58). -/
def fpEq (f : Fmt) (a b : Nat) : Bool × Flags :=
  let x := f.unpack a
  let y := f.unpack b
  (FVal.eq x y, snanFlag x y)

/-- A less-than compare (R58): NV for any NaN. -/
def fpLt (f : Fmt) (a b : Nat) : Bool × Flags :=
  let x := f.unpack a
  let y := f.unpack b
  if x.isNan || y.isNan then (false, flagNV) else (FVal.lt x y, 0)

/-- A less-or-equal compare (R133). -/
def fpLe (f : Fmt) (a b : Nat) : Bool × Flags :=
  let x := f.unpack a
  let y := f.unpack b
  if x.isNan || y.isNan then (false, flagNV) else (!FVal.lt y x, 0)

def FVal.sign : FVal → Bool
  | .nan _ => false
  | .inf s | .zero s | .fin s _ _ => s

/-- MIN and MAX (R58): −0 is less than +0. -/
def fpMinMax (f : Fmt) (wantMax : Bool) (a b : Nat) : Nat × Flags :=
  let x := f.unpack a
  let y := f.unpack b
  let fl := snanFlag x y
  if x.isNan && y.isNan then (f.nan, fl)
  else if x.isNan then (b, fl)
  else if y.isNan then (a, fl)
  else
    let less := FVal.lt x y || (FVal.eq x y && x.sign && !y.sign)
    (if less = wantMax then b else a, fl)

/-- Float to float (R59). -/
def fpConvert (src dst : Fmt) (rm : BitVec 2) (a : Nat) : Nat × Flags :=
  let x := src.unpack a
  let (r, fl) := dst.roundVal rm x
  (r, fl ||| flagIf x.isSnan flagNV)

/-- Integer to float (R59). -/
def intToFp (f : Fmt) (rm : BitVec 2) (z : Int) : Nat × Flags :=
  f.roundVal rm (if z = 0 then .zero false else .fin (decide (z < 0)) z.natAbs 0)

/-- The range of a two's complement integer of `w` bits. -/
def intMin (w : Nat) : Int := -(2 ^ (w - 1) : Nat)
def intMax (w : Nat) : Int := (2 ^ (w - 1) : Nat) - 1

/-- Float to an integer of `w` bits: rounded to an integer, then saturated (R59). -/
def fpToInt (f : Fmt) (rm : BitVec 2) (w : Nat) (a : Nat) : Int × Flags :=
  match f.unpack a with
  | .nan _ => (0, flagNV)
  | .inf s => (if s then intMin w else intMax w, flagNV)
  | .zero _ => (0, 0)
  | .fin s m e =>
    let (n, inexact) := roundAt rm s m e false 0
    let z : Int := if s then -(n : Int) else n
    if z < intMin w then (intMin w, flagNV)
    else if intMax w < z then (intMax w, flagNV)
    else (z, flagIf inexact flagNX)

/-- Saturation of an integer to `w` bits (R59). -/
def saturate (w : Nat) (z : Int) : Int := if z < intMin w then intMin w else if intMax w < z then intMax w else z

/-- A pattern of `w` bits as a signed integer. -/
def toSigned (w n : Nat) : Int := if n % 2 ^ w < 2 ^ (w - 1) then (n % 2 ^ w : Nat) else ((n % 2 ^ w : Nat) : Int) - (2 ^ w : Nat)

/-- The pattern of `w` bits of an integer. -/
def toPattern (w : Nat) (z : Int) : Nat := (z % (2 ^ w : Nat)).toNat

/-- The class mask of FCLASS.D (R108). -/
def fpClass (f : Fmt) (a : Nat) : Nat :=
  match f.unpack a with
  | .nan true => 2 ^ 8
  | .nan false => 2 ^ 9
  | .inf s => if s then 2 ^ 0 else 2 ^ 7
  | .zero s => if s then 2 ^ 3 else 2 ^ 4
  | .fin s m _ =>
    if m < 2 ^ f.fb then (if s then 2 ^ 2 else 2 ^ 5) else (if s then 2 ^ 1 else 2 ^ 6)

/-- The format of a floating-point element type. -/
def elemFmt : ElemType → Fmt
  | .fp64 => fmt64
  | .fp32 => fmt32
  | .fp16 => fmt16
  | .bf16 => fmtBf16
  | .i64 | .i32 | .i16 => fmt64

/-- Format of a conversion type, none for an integer (R136). -/
def cvtFmt : CvtType → Option Fmt
  | .f64 => some fmt64
  | .f32 => some fmt32
  | .f16 => some fmt16
  | .bf16 => some fmtBf16
  | .e4m3 => some fmtE4m3
  | .e5m2 => some fmtE5m2
  | .i64 | .i32 | .i16 | .i8 | .i4 => none

/-- Conversion between two types of R136 (R59, R137). -/
def convert (src dst : CvtType) (rm : BitVec 2) (a : Nat) : Nat × Flags :=
  match cvtFmt src, cvtFmt dst with
  | some f, some g => fpConvert f g rm a
  | some f, none =>
    let (z, fl) := fpToInt f rm dst.width a
    (toPattern dst.width z, fl)
  | none, some g => intToFp g rm (toSigned src.width a)
  | none, none => (toPattern dst.width (saturate dst.width (toSigned src.width a)), 0)

/-! ### The window sum of the matrix unit (R63) -/

/-- floor(log2 |v|) of a finite nonzero value. -/
def FVal.exponent : FVal → Option Int
  | .fin _ m e => some (e + (Nat.log2 m : Int))
  | _ => none

/-- The largest exponent of a list of values. -/
def maxExponent : List FVal → Option Int
  | [] => none
  | v :: t =>
    match v.exponent, maxExponent t with
    | some a, some b => some (max a b)
    | some a, none => some a
    | none, r => r

/-- v truncated toward zero to a multiple of 2^q, in units of 2^q, and whether that differs from v. -/
def truncTo (q : Int) : FVal → Int × Bool
  | .fin s m e =>
    let (n, x) := roundAt 1 s m e false q
    (if s then -(n : Int) else n, x)
  | _ => (0, false)

/-- One window step (R63): the products with the flags of forming them, the accumulator value, W and its format. -/
def windowSum (f : Fmt) (w : Nat) (products : List (FVal × Flags)) (c : FVal) : Nat × Flags :=
  let vs := products.map Prod.fst ++ [c]
  let pinf := vs.any (fun v => v == FVal.inf false)
  let ninf := vs.any (fun v => v == FVal.inf true)
  let invalid := products.any (fun p => p.2 != 0) || c.isSnan || (pinf && ninf)
  if vs.any FVal.isNan || (pinf && ninf) then (f.nan, flagIf invalid flagNV)
  else if pinf then (f.pack false f.top 0, 0)
  else if ninf then (f.pack true f.top 0, 0)
  else
    match maxExponent vs with
    | none => (f.pack (vs.all (fun v => v == FVal.zero true)) 0 0, 0)
    | some em =>
      let q := em - w + 1
      let ts := vs.map (truncTo q)
      let sum := (ts.map Prod.fst).sum
      let nx := flagIf (ts.any Prod.snd) flagNX
      if sum = 0 then (0, nx)
      else
        let (r, fl) := f.roundFin 0 (decide (sum < 0)) sum.natAbs q false
        (r, fl ||| nx)

end Sys2Proof.Machine
end

