-- ==== Sys2Proof/Machine/Ops.lean ====
section
/-! DEFINITION. The named operations every meaning is built from: access to cores and threads, halting a thread with a
fault and its return (R86, R118, R300 to R307), containment (R313, R314), completing an instruction (R31, R83, R109),
outstanding results (R20 to R25), releases (R242, R243) and requests. -/

namespace Sys2Proof.Machine

/-- The outcome of a step. -/
abbrev Out := Host.Outcome State Fault Refusal

/-- An event that cannot happen in the state. -/
def notNow : Out := .refused .notEnabled

/-- An event row: its effect when it can happen. -/
def whenEnabled (b : Bool) (s : State) : Out := if b then .next s else notNow

/-! ### Cores, threads and partitions -/

def State.core (s : State) (n : Nat) : Core := Tab.getD s.cores n Core.clear
def State.setCore (s : State) (n : Nat) (c : Core) : State := { s with cores := Tab.set s.cores n c }
def State.modCore (s : State) (n : Nat) (f : Core → Core) : State := s.setCore n (f (s.core n))

def Core.ctx (c : Core) (x : Nat) : Ctx := Tab.getD c.ctxs x Ctx.free
def Core.setCtx (c : Core) (x : Nat) (t : Ctx) : Core := { c with ctxs := Tab.set c.ctxs x t }
def Core.modCtx (c : Core) (x : Nat) (f : Ctx → Ctx) : Core := c.setCtx x (f (c.ctx x))

def State.thread (s : State) (n x : Nat) : Ctx := (s.core n).ctx x
def State.modThread (s : State) (n x : Nat) (f : Ctx → Ctx) : State := s.modCore n (fun c => c.modCtx x f)

/-- The thread that holds the issue slot. -/
def State.thr (s : State) : Ctx := s.thread s.cur s.ctx
def State.modThr (s : State) (f : Ctx → Ctx) : State := s.modThread s.cur s.ctx f

def State.setChip (s : State) (c : Nat) (v : Chiplet) : State := { s with chips := Tab.set s.chips c v }
def State.modChip (s : State) (c : Nat) (f : Chiplet → Chiplet) : State := s.setChip c (f (s.chip c))
def Chiplet.setBank (c : Chiplet) (b : Nat) (v : Bank) : Chiplet := { c with banks := Tab.set c.banks b v }

def State.part (s : State) (p : Nat) : Part := Tab.getD s.parts p Part.clear
def State.setPart (s : State) (p : Nat) (v : Part) : State := { s with parts := Tab.set s.parts p v }
def State.modPart (s : State) (p : Nat) (f : Part → Part) : State := s.setPart p (f (s.part p))
/-- Partition of a core. -/
def State.partOfCore (s : State) (n : Nat) : Option Nat := partOfChiplet (n / 8) s.parts

def State.func (s : State) (f : Nat) : Func := Tab.getD s.funcs f Func.clear
def State.setFunc (s : State) (f : Nat) (v : Func) : State := { s with funcs := Tab.set s.funcs f v }
def State.modFunc (s : State) (f : Nat) (g : Func → Func) : State := s.setFunc f (g (s.func f))

def State.slot (s : State) (k : BitVec 6) : KeySlot := Tab.getD s.slots k.toNat KeySlot.clear
def State.modSlot (s : State) (k : BitVec 6) (f : KeySlot → KeySlot) : State :=
  { s with slots := Tab.set s.slots k.toNat (f (s.slot k)) }

def State.modRegion (s : State) (g : Nat) (f : Region → Region) : State :=
  match Tab.find s.regions g with
  | some r => { s with regions := Tab.set s.regions g (f r) }
  | none => s

/-- The job tag of a core's threads (R228). -/
def State.jobTag (s : State) (n : Nat) : Tag := s.slotTag (s.core n).root.slot

def Core.reg (c : Core) (i : Nat) : RegEntry := Tab.getD c.rf i RegEntry.clear
def Core.setReg (c : Core) (i : Nat) (r : RegEntry) : Core := { c with rf := Tab.set c.rf i r }

/-- A counter saturates at 2^64 − 1 (R328). -/
def satInc (n : Nat) : Nat := min (n + 1) (2 ^ 64 - 1)

/-- Counts an error for the function of a partition and for the physical function (R328). -/
def State.count (s : State) (p : Option Nat) (f : Counters → Counters) : State :=
  let s := s.modFunc 0 (fun u => { u with counters := f u.counters })
  match p with
  | none => { s with unattributed := f s.unattributed }
  | some p =>
    let v := (s.part p).func
    if v = 0 then s else s.modFunc v (fun u => { u with counters := f u.counters })

/-! ### Why an instruction does not complete -/

/-- A fault of a thread, with what its record carries (R301). -/
structure FaultInfo where
  code : BitVec 8
  oprs : List Word := []
  arg : Word := 0
  va : Word := 0
  vahi : BitVec 8 := 0
  acc : BitVec 8 := 0
  elem : Nat := 0
  level : Nat := 0
  /-- The port that was read, of an UPSTREAM_ERROR; no part of the record (R315). -/
  port : Option InPort := none
deriving DecidableEq, Repr

/-- Why the instruction at hand does not complete. It then has no effect of its own (R86, R96, R150, R313). -/
inductive Stop where
  /-- The thread parks before it (R148). -/
  | park (p : Park)
  /-- The thread halts (R86). -/
  | fault (f : FaultInfo)
  /-- The slot is forfeited (R150). -/
  | forfeit
  /-- It consumes a poisoned value (R313). -/
  | contain
  | refuse (r : Refusal)
deriving DecidableEq, Repr

/-- A computation on the state that may stop. -/
abbrev Act := StateT State (Except Stop)

def stop {α : Type} (e : Stop) : Act α := throw e
def faultAct {α : Type} (f : FaultInfo) : Act α := throw (.fault f)
def parkAct {α : Type} (p : Park) : Act α := throw (.park p)
def need (b : Bool) (e : Stop) : Act Unit := if b then pure () else throw e
def onState (f : State → State) : Act Unit := modify f

/-! Fault codes (R305). -/
def cILLEGAL_INSTRUCTION : BitVec 8 := 0x01
def cILLEGAL_OPERAND : BitVec 8 := 0x02
def cPRIVILEGE : BitVec 8 := 0x03
def cCONTEXT : BitVec 8 := 0x04
def cFRAME : BitVec 8 := 0x05
def cALIGNMENT : BitVec 8 := 0x06
def cRETURN_STORE : BitVec 8 := 0x07
def cLOOP_DEPTH : BitVec 8 := 0x08
def cBREAKPOINT : BitVec 8 := 0x09
def cTRAP : BitVec 8 := 0x0A
def cCONTEXT_STATE : BitVec 8 := 0x0B
def cMIGRATE_STATE : BitVec 8 := 0x0C
def cBARGE_NO_CONTEXT : BitVec 8 := 0x0D
def cUNLINKED_PORT : BitVec 8 := 0x0E
def cUPSTREAM_ERROR : BitVec 8 := 0x0F
def cLAUNCH_STATE : BitVec 8 := 0x10
def cBARRIER_STATE : BitVec 8 := 0x11
def cSTALE_SCOPE : BitVec 8 := 0x12
def cSCOPE_STATE : BitVec 8 := 0x13
def cATOMIC_TARGET : BitVec 8 := 0x14
def cREDUCTION_STATE : BitVec 8 := 0x15
def cBANK_MODE : BitVec 8 := 0x19
def cBANK_STATE : BitVec 8 := 0x1A
def cUNBACKED_OVERFLOW : BitVec 8 := 0x1B
def cCOPY_STATE : BitVec 8 := 0x1C
def cSTREAM_STATE : BitVec 8 := 0x1D
def cBUF_STATE : BitVec 8 := 0x1E
def cQUEUE_STATE : BitVec 8 := 0x1F
def cPOISONED_INDEX : BitVec 8 := 0x20
def cMATRIX_STATE : BitVec 8 := 0x21
def cPOISON_CONSUMED : BitVec 8 := 0x22
def cPAIR_MISMATCH : BitVec 8 := 0x23
def cCHECKPOINT_INVALID : BitVec 8 := 0x24
def cSAVE_FAILED : BitVec 8 := 0x25
def cPARTITION_RESET : BitVec 8 := 0x26
def cJOB_KILLED : BitVec 8 := 0x27
def cENGINE_LOST : BitVec 8 := 0x28

/-- The grade a record of a code carries (R305). -/
def gradeOf (c : BitVec 8) : BitVec 2 :=
  if c = cUPSTREAM_ERROR || c = cPOISONED_INDEX || c = cPOISON_CONSUMED || c = cCHECKPOINT_INVALID || c = cENGINE_LOST
  then 2 else if c = cPARTITION_RESET then 1 else 0

def illegalInstr : Stop := .fault { code := cILLEGAL_INSTRUCTION }
def illegalOperand : Stop := .fault { code := cILLEGAL_OPERAND }

/-! ### Records and halting -/

/-- The address of the image slot of context x of core n (R300). -/
def State.imageSlot (s : State) (p n x : Nat) : Word := BitVec.ofNat 64 (s.svc.images + p * 2 ^ 31 + (n * 64 + x) * 2048)

/-- A record with every field zero but the named ones (R301). -/
def FaultRec.blank : FaultRec where
  src := 0
  router := 0
  grade := 0
  code := 0
  eng := 0
  ctx := 0
  core := 0
  seq := 0
  opseq := 0
  cpc := 0
  ipc := 0
  va := 0
  elem := 0
  sect := 0
  level := 0
  acc := 0
  vahi := 0
  arg := 0
  image := 0
  oprs := []

/-- Hands a record to the ring of a core's partition (R300). -/
def State.addRec (s : State) (p : Option Nat) (r : FaultRec) : State :=
  match p with
  | some p => s.modPart p (fun v => { v with recs := v.recs ++ [r] })
  | none => s

/-- A record of a core's region that nothing will repair: its thread or operation has ended (R303). -/
def State.addLasting (s : State) (n : Nat) (code : BitVec 8) : State :=
  match (s.core n).region with
  | 0 => s
  | g + 1 => s.modRegion g (fun r => { r with lasting := r.lasting ++ [code] })

/-- The record of a thread fault (R301). -/
def State.threadRec (s : State) (n x : Nat) (f : FaultInfo) (ipc : Word) : FaultRec :=
  { FaultRec.blank with
    src := 0
    grade := gradeOf f.code
    code := f.code
    ctx := x
    core := n
    seq := (s.thread n x).recNo
    cpc := (s.thread n x).pc
    ipc := ipc
    va := f.va
    elem := f.elem
    level := f.level
    acc := f.acc
    vahi := f.vahi
    arg := f.arg
    image := match s.partOfCore n with
      | some p => s.imageSlot p n x
      | none => 0
    oprs := f.oprs }

/-- TAKING A FAULT (R86, R118, R148, R302). The thread alone halts, with PC where it stands; its image is due and the
record waits for the ring. `ipc` is the faulting instruction, `late` whether it had issued. What it was parked for
stays, so that a resume parks it again (R25). -/
def State.haltThread (s : State) (n x : Nat) (f : FaultInfo) (ipc : Word) (late : Bool) : State :=
  (s.addRec (s.partOfCore n) (s.threadRec n x f ipc)).modThread n x (fun t =>
    { t with st := .halted, pre := [], ipc := ipc, late := late, hcode := f.code, hport := f.port, imageDue := true, recNo := t.recNo + 1,
             sampled := none })

/-! ### Completing an instruction -/

/-- Address of the opcode word of the instruction at hand (R79, R95). -/
def Ctx.opw (t : Ctx) : Word := t.pc + BitVec.ofNat 64 (4 * t.pre.length)

/-- The loop-end test of level 0 (R31) for an instruction at `a`. -/
def Ctx.loopTest0 (t : Ctx) (a : Word) : Ctx :=
  if t.le0 = a then
    (if t.lc0.toNat ≤ 1 then { t with lc0 := 0, lpD := 0 } else { t with lc0 := t.lc0 - 1, pc := t.ls0 })
  else t

/-- The loop-end test (R31) for an instruction at `a` that did not transfer control. -/
def Ctx.loopTest (t : Ctx) (a : Word) : Ctx :=
  match t.lpD with
  | 0 => t
  | 1 => t.loopTest0 a
  | _ =>
    if t.le1 = a then
      (if t.lc1.toNat ≤ 1 then ({ t with lc1 := 0, lpD := 1 }).loopTest0 a else { t with lc1 := t.lc1 - 1, pc := t.ls1 })
    else t

/-- len − 1 and times − 1 of the active frame (R36, R69). -/
def Ctx.frameLen (t : Ctx) : BitVec 4 := t.repFrm.extractLsb' 20 4
def Ctx.frameTimes (t : Ctx) : BitVec 6 := t.repFrm.extractLsb' 14 6

/-- Moves past the instruction at hand: the frame's loop (R83), else the next word and the loop-end test (R31, R33). DEDUCED
(log entry 82): an I or J that WRCTL put beyond the frame counts on to the end of its field and wraps. -/
def Ctx.advance (t : Ctx) : Ctx :=
  if t.repA then
    if t.repI = t.frameLen then
      if t.repJ = t.frameTimes then
        ({ t with repA := false, repFrm := 0, repJ := 0, repI := 0, pc := t.pc + 4, tries := 0 }).loopTest t.pc
      else { t with repI := 0, repJ := t.repJ + 1, pc := t.pc - BitVec.ofNat 64 (4 * t.frameLen.toNat) }
    else { t with repI := t.repI + 1, pc := t.pc + 4 }
  else ({ t with pc := t.opw + 4, pre := [], tries := 0 }).loopTest t.opw

/-- A taken transfer (R109): no loop-end test; fetch observes the thread's stores if it is synchronised (R43). -/
def Ctx.goto (t : Ctx) (target : Word) : Ctx :=
  { t with pc := target, pre := [], shadow := if t.synced then [] else t.shadow, synced := false }

/-- The switch marker (R23): the thread parks while a result of it is outstanding. -/
def Ctx.settle (t : Ctx) (sw : Bool) : Ctx :=
  if sw && t.st == .runnable && !t.outst.isEmpty then { t with st := .parked, park := some .outstanding } else t

/-- Parks a RUNNABLE thread after an instruction that makes the next one wait. -/
def Ctx.waitFor (t : Ctx) (p : Park) : Ctx := if t.st == .runnable then { t with st := .parked, park := some p } else t

def retire (sw : Bool) : Act Unit := onState (fun s => s.modThr (fun t => t.advance.settle sw))
def transfer (sw : Bool) (target : Word) : Act Unit := onState (fun s => s.modThr (fun t => (t.goto target).settle sw))

/-! ### Outstanding results (R20 to R22) -/

/-- Adds an outstanding result of thread x of core n; its number is `s.fresh`. -/
def State.addOutst (s : State) (n x : Nat) (k : OutKind) (ps : List Piece) (f : Flags) (ready : Bool) : State :=
  { (s.modThread n x (fun t => { t with outst := t.outst ++ [⟨s.fresh, k, ps, f, ready⟩] })) with fresh := s.fresh + 1 }

/-- Makes an outstanding result ready to be written, with its pieces and flags. -/
def Ctx.readyOutst (t : Ctx) (id : Nat) (ps : List Piece) (f : Flags) : Ctx :=
  { t with outst := t.outst.map (fun o => if o.id = id then { o with pieces := ps, flags := f, ready := true } else o) }

/-- The pieces of an answer: the registers that wait for it take the value. -/
def answered (v : Word) (p : Bool) : List Piece → List Piece
  | [] => []
  | .reg n _ _ :: t => .reg n v p :: answered v p t
  | .mask b w q :: t => .mask b w q :: answered v p t

/-- An answer makes an outstanding result ready with a value. -/
def Ctx.answerOutst (t : Ctx) (id : Nat) (v : Word) (p : Bool) : Ctx :=
  { t with outst := t.outst.map (fun o => if o.id = id then { o with pieces := answered v p o.pieces, ready := true } else o) }

/-- Answers an outstanding result of a core that the save engine keeps: the answer enters with the resume (R322). -/
def State.answerSaved (s : State) (x id : Nat) (f : Ctx → Nat → Ctx) : State :=
  { s with regions := s.regions.map (fun e => (e.1, { e.2 with saved := e.2.saved.map (fun k =>
      (k.1, if (k.2.ctx x).outst.any (fun o => o.id == id) then k.2.modCtx x (fun t => f t id) else k.2)) })) }

/-- Answers an outstanding result, and its twin's (R319). -/
def State.answerTo (s : State) (n x id : Nat) (f : Ctx → Nat → Ctx) : State :=
  let s := (s.modThread n x (fun t => f t id)).answerSaved x id f
  match Tab.find s.mirrors id with
  | some (m, y, id2) => { (s.modThread m y (fun t => f t id2)) with mirrors := Tab.erase s.mirrors id }
  | none => s

/-- Answers one value. -/
def State.answer (s : State) (n x id : Nat) (v : Word) : State := s.answerTo n x id (fun t i => t.answerOutst i v false)

/-- Ends an outstanding result that writes nothing. -/
def Ctx.dropOutst (t : Ctx) (id : Nat) : Ctx := { t with outst := t.outst.filter (fun o => o.id != id) }

/-! ### Scopes and releases -/

/-- A thread's scope number sampled from its core's scope cache (R239, R240); none when the entry is invalid. -/
def State.sample (s : State) (n : Nat) (sc : BitVec 4) : Option Scope :=
  match sc.toNat with
  | 0 => some .thread
  | 1 => some .core
  | 2 => some (.chiplet (n / 8))
  | 3 => some .job
  | i =>
    match Tab.find (s.core n).scopes i with
    | some e => if e.valid then some (.entry i e) else none
    | none => none

/-- Whether a destination chiplet belongs to a scope (R239). -/
def Scope.holds (sc : Scope) (chip : Nat) : Bool :=
  match sc with
  | .thread | .core | .job => true
  | .chiplet c => c == chip
  | .entry _ e => e.chiplets.testBit chip

/-- Whether the scope names the cache level HBM (R239). -/
def Scope.hbmLevel : Scope → Bool
  | .entry _ e => e.hbm
  | _ => false

/-- Whether the scope names the level L2 (R226, R239). -/
def Scope.l2Level : Scope → Bool
  | .thread | .core => false
  | .chiplet _ | .job => true
  | .entry _ e => e.l2

/-- Whether core m is the lock-keeper of core n's partition (R239). -/
def State.keeps (s : State) (n m : Nat) : Bool :=
  match s.partOfCore n with
  | some p => (s.part p).lk == m
  | none => false

/-- Whether core m runs the job of core n (R239): its threads translate from the same root. -/
def State.sameJob (s : State) (n m : Nat) : Bool :=
  (s.core m).root == (s.core n).root && (s.core m).region != 0 || m == n

/-- Whether an entry names a core by CHIPLETS and CORES (R238). -/
def ScopeEntry.names (e : ScopeEntry) (m : Nat) : Bool := e.chiplets.testBit (m / 8) && e.cores.getLsbD (m % 8)

/-- Whether core m has a member thread of the scope of an operation of core n; the lock-keeper is a member of the job and of
every entry (R239). -/
def State.member (s : State) (sc : Scope) (n m : Nat) : Bool :=
  match sc with
  | .thread | .core => m == n
  | .chiplet c => m / 8 == c
  | .job => s.sameJob n m || s.keeps n m
  | .entry _ e => e.names m && s.sameJob n m || s.keeps n m

def ReqKind.isWrite : ReqKind → Bool
  | .store | .amo _ _ _ | .cas _ _ _ | .red _ _ _ _ | .lineop _ => true
  | _ => false

def ReqKind.isLoad : ReqKind → Bool
  | .load _ _ | .vload _ _ | .mload _ | .scopew _ | .amo _ _ _ | .cas _ _ _ => true
  | _ => false

/-- The access kind translation checks for a request (R217). -/
def ReqKind.acc : ReqKind → AccKind
  | .load _ _ | .vload _ _ | .mload _ | .scopew _ => .load
  | .store => .store
  | .amo _ _ _ | .cas _ _ _ | .red _ _ _ _ => .atomic
  | .lineop f => if f.toNat ≤ 1 then .lineRead else .lineWrite
  | .qpush _ _ _ | .qpop _ | .qsteal _ _ => .atomic
  | .bufinit _ | .bufacq _ _ | .bufrel _ _ | .bar _ _ => .store

/-- Destination chiplet of a lane of a request; none when its translation fails (R232). -/
def State.laneChip (s : State) (r : Req) (l : Lane) : Option Nat :=
  if inLocalWindow l.va then some (r.core / 8)
  else
    match s.translate r.core r.root r.vahi l.va r.kind.acc r.priv with
    | .ok (leaf, pa) => some (s.destChiplet r.core leaf pa)
    | .error _ => none

/-- Whether a request still has a write to perform whose destination lies in the scope. -/
def State.reqWritesIn (s : State) (r : Req) (sc : Scope) : Bool :=
  r.kind.isWrite && r.lanes.any (fun l => !l.done &&
    match s.laneChip r l with
    | some c => sc.holds c
    | none => true)

/-- Whether a release of thread x of core n is complete (R242, R243): its earlier writes in the scope are
acknowledged and its earlier loads performed. -/
def State.releaseDone (s : State) (n x : Nat) (r : Release) : Bool :=
  s.reqs.all (fun q => !(q.core == n && q.ctx == x && decide (q.id < r.before))
    || (!s.reqWritesIn q r.scope && !(q.kind.isLoad && q.lanes.any (fun l => !l.done))))
  && (s.thread n x).unacked.all (fun u => !(decide (u.id < r.before) && r.scope.holds u.chip))

/-- Whether the earlier writes of thread x of core n in the scope are acknowledged (R190). -/
def State.writesDone (s : State) (n x : Nat) (r : Release) : Bool :=
  s.reqs.all (fun q => !(q.core == n && q.ctx == x && decide (q.id < r.before)) || !s.reqWritesIn q r.scope)
  && (s.thread n x).unacked.all (fun u => !(decide (u.id < r.before) && r.scope.holds u.chip))

def flushKeys (s : State) : List Nat → State
  | [] => s
  | k :: t => flushKeys (s.flushHome k) t

def recallKeys (s : State) : List Nat → State
  | [] => s
  | k :: t => recallKeys (s.recall k) t

/-- The coherent sectors that are dirty in some core's L1. -/
def dirtySectors (cs : Tab Core) : List Nat :=
  cs.flatMap (fun e => (e.2.l1.filter (fun x => x.2.dirty && x.2.coh)).map Prod.fst)

/-- Writes every dirty coherent sector whose home lies in the scope to HBM: what a release at a scope with the HBM level
waits for. The writes it covers may stand in any core's L1 (R239, R243). -/
def State.flushScope (s : State) (sc : Scope) : State :=
  if sc.hbmLevel then
    let s := recallKeys s (dirtySectors s.cores)
    flushKeys s ((s.l2.filter (fun e => e.2.dirty && sc.holds e.2.home)).map Prod.fst)
  else s

/-- A held instruction (R242) parks until every pending release of the thread is complete. -/
def heldGate : Act Unit := do
  let s ← get
  let t := s.thr
  if t.releases.all (fun r => s.releaseDone s.cur s.ctx r) then
    set ((t.releases.foldl (fun s r => s.flushScope r.scope) s).modThr (fun t => { t with releases := [] }))
  else parkAct .held

/-- The sample that an instruction took when its wait at a scope index began (R240). -/
def Ctx.waitedAt (t : Ctx) (sc : BitVec 4) : Option Release :=
  match t.sampled with
  | some (i, r) => if i = sc then some r else none
  | none => none

/-- Samples a scope at issue; an instruction that has waited under its sample completes under it (R240). -/
def sampleAct (sc : BitVec 4) (oprs : List Word) : Act Scope := do
  let s ← get
  match s.thr.waitedAt sc, s.sample s.cur sc with
  | some r, _ => pure r.scope
  | none, some x => pure x
  | none, none => faultAct { code := cSTALE_SCOPE, oprs := oprs }

/-- What an instruction waits for at a scope: the release it began to wait under, or one over every earlier access. -/
def State.waitRelease (s : State) (i : BitVec 4) (sc : Scope) : Release := (s.thr.waitedAt i).getD ⟨s.fresh, sc⟩

/-- A wait at a scope is over: its sample goes, and a scope with the HBM level has its writes in HBM (R239, R240). -/
def State.passGate (s : State) (sc : Scope) : State := (s.flushScope sc).modThr (fun t => { t with sampled := none })

/-- Parks until the release conditions of a scope, sampled under index `i`, hold for every earlier access (R246, R248). -/
def releaseGate (i : BitVec 4) (sc : Scope) : Act Unit := do
  let s ← get
  let r := s.waitRelease i sc
  if s.releaseDone s.cur s.ctx r then set (s.passGate sc) else parkAct (.acked i r)

/-- Parks until every earlier write in a scope, sampled under index `i`, is acknowledged (R190, R194). -/
def writesGate (i : BitVec 4) (sc : Scope) : Act Unit := do
  let s ← get
  let r := s.waitRelease i sc
  if s.writesDone s.cur s.ctx r then set (s.passGate sc) else parkAct (.written i r)

/-! ### Requests -/

/-- A region that runs in two copies counts its compared messages (R318). -/
def State.regionOf (s : State) (n : Nat) : Option Region :=
  match (s.core n).region with
  | 0 => none
  | g + 1 => Tab.find s.regions g

/-- Number of the next compared message of core n, when its region is PAIRED. -/
def State.nextPair (s : State) (n : Nat) : Option Nat :=
  match s.regionOf n with
  | some r => if r.f.paired then some (s.core n).pairNo else none
  | none => none

def State.bumpPair (s : State) (n : Nat) : State :=
  match s.nextPair n with
  | some _ => s.modCore n (fun c => { c with pairNo := c.pairNo + 1 })
  | none => s

def State.addPair (s : State) (m : PairMsg) : State := { s with pairs := s.pairs ++ [m] }

/-- Whether a chiplet-local place (core-local range or basin window) belongs to a copy of the region (R318). -/
def ownCopy (tasks : List Nat) (pa : Nat) : Bool :=
  match paKind pa with
  | .coreLocal => tasks.contains ((pa - localBase) / 0x10000)
  | .basin => tasks.any (fun n => n / 8 == (pa - basinBase) / 0x1000000)
  | _ => false

/-- Whether an address lies outside the copy of its region that core n runs in (R318). -/
def State.leavesCopy (s : State) (n : Nat) (r : Region) (k : AccKind) (va : Word) (vahi : BitVec 8) (priv : Bool) : Bool :=
  if inLocalWindow va then false
  else
    match s.translate n (s.core n).root vahi va k priv with
    | .ok (_, pa) => !ownCopy (if (s.core n).twin then r.copy else r.tasks) pa
    | .error _ => true

/-- Whether a request at some addresses is a compared message: one of them lies outside the copy (R318). -/
def State.compared (s : State) (n : Nat) (k : ReqKind) (vas : List Word) (vahi : BitVec 8) (priv : Bool) : Bool :=
  match s.regionOf n with
  | none => false
  | some r =>
    r.f.paired && !(match k with
      | .load _ _ | .vload _ _ | .mload _ | .scopew _ | .bar _ _ => true
      | _ => false)
    && vas.any (fun va => s.leavesCopy n r k.acc va vahi priv)

/-- The home that an access at an address is sent to: that of a coherent line (R232, R341). -/
def State.requestHome (s : State) (n : Nat) (vahi : BitVec 8) (priv : Bool) (k : ReqKind) (va : Word) : Option Nat :=
  if inLocalWindow va then none
  else
    match s.translate n (s.core n).root vahi va k.acc priv with
    | .ok (l, pa) => if l.c && !s.isFabric l then some (s.homeOf l pa) else none
    | .error _ => none

/-- A number for the kind of a compared request, and the data it carries (R319). -/
def ReqKind.hashData : ReqKind → Nat × Nat
  | .store => (2, 0)
  | .amo fn _ v => (16 + fn.toNat, v.toNat)
  | .cas _ e n => (24, e.toNat + 2 ^ 64 * n.toNat)
  | .red fn v _ _ => (32 + fn.toNat, v.toNat)
  | .lineop fn => (40 + fn.toNat, 0)
  | .qpush _ p r => (48, p.toNat + 2 ^ 64 * r.toNat)
  | .qpop _ => (49, 0)
  | .qsteal _ b => (50, b.toNat)
  | .bufinit b => (51, b.toNat)
  | .bufacq _ p => (52, p.toNat)
  | .bufrel p b => (53, p.toNat + 2 * b.toNat)
  | .load _ _ | .vload _ _ | .mload _ | .scopew _ | .bar _ _ => (0, 0)

/-- The physical target of an access of core n, where it translates (R319). -/
def State.physTarget (s : State) (n : Nat) (root : Root) (vahi : BitVec 8) (va : Word) (k : AccKind) (priv : Bool) : Nat :=
  match s.translate n root vahi va k priv with
  | .ok (_, pa) => pa
  | .error _ => va.toNat

/-- The hash of a compared request over kind, and physical target, size, mask and data of every lane (R319); what the kind
itself carries comes first. -/
def State.requestHash (s : State) (r : Req) : Word :=
  let (k, d) := r.kind.hashData
  Config.pairHash k ((0, 0, 0, d) :: r.lanes.map (fun l =>
    (s.physTarget r.core r.root r.vahi l.va r.kind.acc r.priv, l.size, 2 ^ l.size - 1, l.data.toNat)))

/-- Enters a request or an engine operation of core n among the compared messages of its task. -/
def State.pairUp (s : State) (n : Nat) (hash : Word) (req op : Option Nat) : State :=
  let c := s.core n
  let m : PairMsg :=
    { region := c.region - 1, task := c.task, count := c.pairNo, twin := c.twin, hash := hash, body := none, req := req,
      op := op }
  (s.bumpPair n).addPair m

/-- Sends a request of the thread at hand; its number is `s.fresh`. -/
def State.addReq (s : State) (k : ReqKind) (lanes : List Lane) (vector : Bool) (sc : Scope) (scIdx : BitVec 4)
    (out : Option Nat) (oprs : List Word) : State :=
  let t := s.thr
  let pair := s.compared s.cur k (lanes.map Lane.va) t.vahi t.priv
  let r : Req :=
    { id := s.fresh, core := s.cur, ctx := s.ctx, kind := k, lanes := lanes, vahi := t.vahi, root := (s.core s.cur).root,
      priv := t.priv, ipc := t.pc, scope := sc, scopeIdx := scIdx, out := out, held := false, vector := vector,
      oprs := oprs, homes := lanes.map (fun l => s.requestHome s.cur t.vahi t.priv k l.va),
      pairNo := if pair then s.nextPair s.cur else none, twin := none }
  let s := { s with reqs := s.reqs ++ [r], fresh := s.fresh + 1 }
  if pair then s.pairUp s.cur (s.requestHash r) (some r.id) none else s

/-- A lane of a request not yet performed. -/
def Lane.start (i : Nat) (va : Word) (size : Nat) (data : Word) : Lane := ⟨i, va, size, data, false, 0, false⟩

/-! ### Containment of a core (R313, R314) -/

/-- Gives the CIM slots of core n the null tag (R314). -/
def nullStrips (cim : Tab Strip) (lc : Nat) : Tab Strip :=
  cim.map (fun e => (e.1, if e.1 / 512 = lc then { e.2 with tag := none } else e.2))

/-- The matrix unit's grant to core lc of a chiplet ends, and the pointer moves past that core (R283). -/
def Chiplet.endGrant (h : Chiplet) (lc : Nat) : Chiplet :=
  match h.mxGrant with
  | some (l, _) => if l = lc then { h with mxPtr := (lc + 1) % 8, mxGrant := none } else h
  | none => h

/-- What a thread of a stopped core keeps: nothing it waited for (R314). -/
def Ctx.abandoned (t : Ctx) : Ctx := 
  { t with outst := [], reissue := [], releases := [], pre := [], unacked := [], sampled := none }

/-- The context number under which writes of the ended thread x go on: a number no context has, which still tells x. -/
def orphanCtx (x : Nat) : Nat := 64 + x % 64

/-- A request of the ended threads `p` of core n: a write on its way goes on without its thread, every other ends. -/
def orphan (n : Nat) (p : Nat → Bool) (r : Req) : Option Req :=
  if r.core == n && p r.ctx then
    if r.kind.isWrite && !r.held then some { r with ctx := orphanCtx r.ctx, out := none } else none
  else some r

/-- Steps 1 to 4 of R314: the core stops and is sealed; what it queued, received and forked is discarded. Its stores in
flight stay requests that may be performed or not. -/
def State.sealCore (s : State) (n : Nat) : State :=
  let s := s.modCore n (fun c =>
    { c with
      sealed := true
      ctxs := c.ctxs.map (fun e => (e.1, e.2.abandoned))
      mail := []
      reserved := 0
      waitSend := []
      waitRefuse := []
      waitNotice := []
      sendq := []
      bargeq := []
      fifos := []
      flying := []
      strm := []
      vq := []
      mxq := []
      rowbuf := []
      btab := [] })
  let s := { s with
    ops := s.ops.filter (fun o => o.core != n)
    reqs := s.reqs.filterMap (orphan n (fun _ => true)) }
  s.modChip (n / 8) (fun c => { c.endGrant (n % 8) with cim := nullStrips c.cim (n % 8) })

/-- Containment of core n for a consumption by thread x (R313): the core stops, and a POISON_CONSUMED record of its error
logic is written. -/
def State.containCore (s : State) (n x : Nat) : State :=
  let p := s.partOfCore n
  let r : FaultRec :=
    { FaultRec.blank with
      src := 2
      grade := gradeOf cPOISON_CONSUMED
      code := cPOISON_CONSUMED
      ctx := x
      core := n
      seq := (s.core n).recNo
      cpc := (s.thread n x).pc
      ipc := (s.thread n x).pc }
  let s := s.sealCore n
  let s := s.addRec p r
  let s := s.count p (fun c => { c with ueConsumed := satInc c.ueConsumed })
  s.modCore n (fun c => { c with recNo := c.recNo + 1 })

/-! ### The end of an instruction -/

/-- Turns a computation into a step. A stop leaves the instruction without effect: the thread parks, halts, forfeits its
slot, or its core is contained. -/
def finish (a : Act Unit) (s : State) : Out :=
  match a s with
  | .ok ((), s') => .next s'
  | .error (.park p) => .next (s.modThr (fun t => { t with st := .parked, park := some p, pre := [] }))
  | .error (.fault f) => .next (s.haltThread s.cur s.ctx f s.thr.pc false)
  | .error .forfeit => .next (s.modThr (fun t => { t with pre := [] }))
  | .error .contain => .next (s.containCore s.cur s.ctx)
  | .error (.refuse r) => .refused r

/-- What an instruction needs before its own operation (R86 orders 4 to 7). -/
structure Form where
  /-- Accepts EXT prefixes (R73). -/
  ext : Bool := false
  /-- May be captured by a frame (R81). -/
  arith : Bool := false
  /-- REPART (R76). -/
  priv : Bool := false
  /-- Context required (R76). -/
  ctx : Option Nat := none
deriving DecidableEq, Repr

/-- The checks of R86 before the register fields. Inside a frame a prefixed instruction is the EXT word met there (R81). -/
def formGate (f : Form) : Act Unit := do
  let s ← get
  let t := s.thr
  need (f.ext || t.pre.isEmpty) illegalInstr
  need (f.arith && t.pre.isEmpty || !t.repA) (.fault { code := cFRAME })
  need (!f.priv || t.priv) (.fault { code := cPRIVILEGE })
  need (match f.ctx with | some x => s.ctx == x | none => true) (.fault { code := cCONTEXT })

/-- An encoded instruction: the checks of R86, then its operation. -/
def instr (f : Form) (a : Act Unit) (s : State) : Out := finish (do formGate f; a) s

end Sys2Proof.Machine
end

