-- ==== Sys2Proof/Machine/Operands.lean ====
section
/-! DEFINITION. The operand register space, ports, streams, masks, vector registers, immediates and the local window
(R14 to R19, R29, R32, R40, R77 to R79, R96 to R98, R128, R131, R157, R167, R168, R266, R311, R312). -/

namespace Sys2Proof.Machine

/-- A value with its poison mark (R311). -/
structure PVal where
  v : Word
  p : Bool
deriving DecidableEq, Repr

/-! ### Names of the operand register space (R15) -/

/-- A field that can be read, for a window of `size` registers. -/
def readable (size : Nat) (r : Reg) : Bool :=
  let n := r.toNat
  if n < 0x80 then decide (n < size)
  else decide (n ≤ 0xB7) && n != 0xA1 && n != 0xA6 && n != 0xA7

/-- A field that can be written. -/
def writable (size : Nat) (r : Reg) : Bool :=
  let n := r.toNat
  if n < 0x80 then decide (n < size)
  else decide (n ≤ 0xB7) && n != 0xA0 && n != 0xA6 && n != 0xA7

/-- A destination of an outstanding result: a window or core-shared register (R97). -/
def outWritable (size : Nat) (r : Reg) : Bool := decide (r.toNat < 0xA0) && writable size r

/-- A window register below the window size. -/
def inWindow (size : Nat) (r : Reg) : Bool := decide (r.toNat < size) && decide (r.toNat < 0x80)

/-- `k` consecutive window registers from `r`. -/
def groupInWindow (size k : Nat) (r : Reg) : Bool := decide (r.toNat + k ≤ size) && decide (r.toNat + k ≤ 0x80)

/-- The FIFO a port register reads: nup, pn, pe, ps, pw (R167). -/
def inFifo (r : Nat) : Option InPort :=
  match r with
  | 0xA0 => some .nup
  | 0xA2 => some .pn
  | 0xA3 => some .pe
  | 0xA4 => some .ps
  | 0xA5 => some .pw
  | _ => none

/-- Key of an inbound FIFO. -/
def portKey : InPort → Nat
  | .nup => 0
  | .pn => 1
  | .pe => 2
  | .ps => 3
  | .pw => 4

/-- The partner's FIFO that a port register writes (R167). -/
def outFifo (r : Nat) : Option InPort :=
  match r with
  | 0xA1 => some .nup
  | 0xA2 => some .ps
  | 0xA3 => some .pw
  | 0xA4 => some .pn
  | 0xA5 => some .pe
  | _ => none

/-- The number of the stream register a field names. -/
def streamOf (r : Nat) : Option Nat := if 0xA8 ≤ r ∧ r ≤ 0xAF then some (r - 0xA8) else none

/-! ### Ports (R167, R168) -/

/-- Whether the inbound port has a partner (R167). -/
def State.inLinked (s : State) (n : Nat) (p : InPort) : Bool :=
  match p with
  | .nup => s.cores.any (fun e => Tab.find e.2.links 0xA1 == some n)
  | .pn => (Tab.find (s.core n).links 0xA2).isSome
  | .pe => (Tab.find (s.core n).links 0xA3).isSome
  | .ps => (Tab.find (s.core n).links 0xA4).isSome
  | .pw => (Tab.find (s.core n).links 0xA5).isSome

def Core.fifo (c : Core) (p : InPort) : List PortWord := Tab.getD c.fifos (portKey p) []
def Core.inFlight (c : Core) (p : InPort) : List PortWord := Tab.getD c.flying (portKey p) []

/-- Words a FIFO can still take, counting those in flight; none at a sealed core (R168, R314). -/
def Core.room (c : Core) (p : InPort) : Nat :=
  if c.sealed then 0 else Config.portWords - ((c.fifo p).length + (c.inFlight p).length)

/-- Room behind outbound port `r` of core n. -/
def State.outRoom (s : State) (n r : Nat) : Nat :=
  match Tab.find (s.core n).links r, outFifo r with
  | some m, some p => (s.core m).room p
  | _, _ => 0

/-! ### Streams (R263 to R267) -/

/-- Element size in bytes of an ES code (R264). -/
def esBytes (es : Nat) : Nat := if es = 4 then 64 else 2 ^ es

def Core.binding (c : Core) (n : Nat) : Binding := Tab.getD c.strm n .unbound

/-- Elements an input binding can supply now (R266, R267). -/
def InBind.supply (b : InBind) : Nat := if b.ended then b.total - b.popped else b.buf.length

def State.op (s : State) (id : Nat) : Option EngineOp := s.ops.find? (fun o => o.id == id)
def State.modOp (s : State) (id : Nat) (f : EngineOp → EngineOp) : State :=
  { s with ops := s.ops.map (fun o => if o.id = id then f o else o) }

/-- Element size of an output binding. -/
def EngineOp.es (o : EngineOp) : Nat :=
  match o.kind with
  | .outStream _ _ es => es
  | .copy _ _ _ _ _ _ => 0

/-- Elements an output binding can accept now (R263, R266, R267). -/
def EngineOp.accept (o : EngineOp) : Nat :=
  if o.ended.isSome then o.total - o.pushed else min (256 / esBytes o.es - o.buf.length) (o.total - o.pushed)

/-! ### Checks before issue (R16, R96) -/

/-- A fault of `k` reads of a port or stream at issue (R167, R266, R315). -/
def State.srcFault (s : State) (n : Nat) (r k : Nat) : Option (BitVec 8) :=
  match inFifo r, streamOf r with
  | some p, _ =>
    if !s.inLinked n p then some cUNLINKED_PORT
    else if (((s.core n).fifo p).take k).any PortWord.token then some cUPSTREAM_ERROR
    else none
  | none, some sn =>
    match (s.core n).binding sn with
    | .input b => if b.es < 4 ∧ k ≤ b.total - b.popped then none else some cSTREAM_STATE
    | _ => some cSTREAM_STATE
  | none, none => none

/-- That fault, with the port whose error token it met (R315). -/
def State.srcStop (s : State) (n : Nat) (r k : Nat) : Option FaultInfo :=
  (s.srcFault n r k).map (fun c => { code := c, port := if c = cUPSTREAM_ERROR then inFifo r else none })

/-- What `k` reads of a register wait for (R96, R157). -/
def State.srcPark (s : State) (n : Nat) (t : Ctx) (r k : Nat) : Option Park :=
  if r < 0x80 then
    let e := (s.core n).reg (t.base + r)
    if e.armed && !e.full then some (.armed r) else none
  else
    match inFifo r, streamOf r with
    | some p, _ => if ((s.core n).fifo p).length < k then some (.portIn p k) else none
    | none, some sn =>
      match (s.core n).binding sn with
      | .input b => if b.supply < k then some (.streamIn sn k) else none
      | _ => none
    | none, none => none

/-- A fault of `k` writes of a port or stream at issue. -/
def State.dstFault (s : State) (n : Nat) (r k : Nat) : Option (BitVec 8) :=
  match outFifo r, streamOf r with
  | some _, _ => if (Tab.find (s.core n).links r).isSome then none else some cUNLINKED_PORT
  | none, some sn =>
    match (s.core n).binding sn with
    | .output id =>
      match s.op id with
      | some o => if k ≤ o.total - o.pushed then none else some cSTREAM_STATE
      | none => some cSTREAM_STATE
    | _ => some cSTREAM_STATE
  | none, none => none

/-- What `k` writes of a register wait for (R96). -/
def State.dstPark (s : State) (n : Nat) (r k : Nat) : Option Park :=
  match outFifo r, streamOf r with
  | some _, _ => if s.outRoom n r < k then some (.portOut r k) else none
  | none, some sn =>
    match (s.core n).binding sn with
    | .output id =>
      match s.op id with
      | some o => if o.accept < k then some (.streamOut sn k) else none
      | none => none
    | _ => none
  | none, none => none

/-- The first answer along a list. -/
def firstSome {α β : Type} (f : α → Option β) : List α → Option β
  | [] => none
  | a :: t =>
    match f a with
    | some b => some b
    | none => firstSome f t

def countOf (r : Reg) (l : List Reg) : Nat := (l.filter (fun x => x == r)).length

/-- The checks of every register field before the instruction has any effect: the names (R15, R16), then faults of ports
and streams, then what the instruction waits for (R96). -/
def operands (srcs dsts : List Reg) : Act Unit := do
  let s ← get
  let t := s.thr
  need (srcs.all (readable t.size) && dsts.all (writable t.size)) illegalOperand
  match firstSome (fun r => s.srcStop s.cur r.toNat (countOf r srcs)) srcs with
  | some f => faultAct f
  | none => pure ()
  match firstSome (fun r => s.dstFault s.cur r.toNat (countOf r dsts)) dsts with
  | some c => faultAct { code := c }
  | none => pure ()
  match firstSome (fun r => s.srcPark s.cur t r.toNat (countOf r srcs)) srcs with
  | some p => parkAct p
  | none => pure ()
  match firstSome (fun r => s.dstPark s.cur r.toNat (countOf r dsts)) dsts with
  | some p => parkAct p
  | none => pure ()

/-- The names of window registers from `r` on. -/
def regsFrom (r : Reg) (k : Nat) : List Reg := (List.range k).map (fun i => r + BitVec.ofNat 8 i)

/-! ### Reading (R15, R266, R311) -/

/-- Pops the oldest element of an input stream (R266, R267). -/
def popStream (b : InBind) : InBind × Nat × Bool :=
  match b.buf with
  | (v, p) :: t => ({ b with buf := t, popped := b.popped + 1 }, v, p)
  | [] => ({ b with popped := b.popped + 1 }, 0, true)

/-- The 64-bit value of a popped element (R264 SX). -/
def extendElem (b : InBind) (v : Nat) : Word :=
  let w := 8 * esBytes b.es
  if b.sx then BitVec.ofInt 64 (toSigned w v) else BitVec.ofNat 64 (v % 2 ^ w)

/-- Reads a register field; a port or stream gives up its next word. -/
def readReg (r : Reg) : Act PVal := do
  let s ← get
  let t := s.thr
  let c := s.core s.cur
  let n := r.toNat
  if n < 0x80 then
    let e := c.reg (t.base + n)
    pure ⟨e.val, e.poison⟩
  else if n < 0xA0 then
    let e := Tab.getD c.cregs (n - 0x80) ⟨0, false⟩
    pure ⟨e.val, e.poison⟩
  else
    match inFifo n, streamOf n with
    | some p, _ =>
      match c.fifo p with
      | w :: rest =>
        set (s.setCore s.cur { c with fifos := Tab.set c.fifos (portKey p) rest })
        pure ⟨w.val, false⟩
      | [] => parkAct (.portIn p 1)
    | none, some sn =>
      match c.binding sn with
      | .input b =>
        let (b', v, p) := popStream b
        let nb := if b'.total ≤ b'.popped then Binding.unbound else Binding.input b'
        set (s.setCore s.cur { c with strm := Tab.set c.strm sn nb })
        pure ⟨extendElem b v, p⟩
      | _ => faultAct { code := cSTREAM_STATE }
    | none, none =>
      match n with
      | 0xB0 => pure ⟨t.lc0, false⟩
      | 0xB1 => pure ⟨t.ls0, false⟩
      | 0xB2 => pure ⟨t.le0, false⟩
      | 0xB3 => pure ⟨t.lc1, false⟩
      | 0xB4 => pure ⟨t.ls1, false⟩
      | 0xB5 => pure ⟨t.le1, false⟩
      | 0xB6 => pure ⟨t.rasp, false⟩
      | 0xB7 => pure ⟨BitVec.ofNat 64 t.rasd, false⟩
      | _ => stop illegalOperand

/-- Reads a register whose value is consumed if poisoned (R312). -/
def readUse (r : Reg) : Act Word := do
  let x ← readReg r
  need (!x.p) .contain
  pure x.v

/-- Reads `k` consecutive window registers as operands that name something (R312). -/
def readGroup (r : Reg) (k : Nat) : Act (List Word) := (regsFrom r k).mapM readUse

/-! ### Writing (R15, R19, R29, R32, R157) -/

/-- A local write of a register-file entry (R157). -/
def Core.localWrite (c : Core) (i : Nat) (v : Word) (p : Bool) : Core := c.setReg i ⟨v, true, false, p⟩

/-- Enters a write among the pending ones: before those of its slot that were issued later (R19). -/
def enterWrite (w : CWrite) : List CWrite → List CWrite
  | [] => [w]
  | h :: t => if h.due = w.due ∧ w.seq < h.seq then w :: h :: t else h :: enterWrite w t

/-- A write of a core-shared register, visible in the fourth slot after this one (R19). -/
def Core.writeShared (c : Core) (n : Nat) (v : Word) (p : Bool) (seq : Nat) : Core :=
  { c with cpend := enterWrite ⟨c.cycle + 4, n, v, p, seq⟩ c.cpend }

/-- Pushes a word towards the partner of outbound port `r` (R167, R168). -/
def State.pushPort (s : State) (n r : Nat) (v : Word) : State :=
  match Tab.find (s.core n).links r, outFifo r with
  | some m, some p =>
    s.modCore m (fun c => { c with flying := Tab.set c.flying (portKey p) (c.inFlight p ++ [⟨v, false⟩]) })
  | _, _ => s

/-- Pushes a value to an output stream (R266, R267). -/
def State.pushStream (s : State) (n sn id : Nat) (v : Word) : State :=
  match s.op id with
  | none => s
  | some o =>
    let keep := o.ended.isNone
    let last := decide (o.total ≤ o.pushed + 1)
    let s := s.modOp id (fun o =>
      { o with
        pushed := o.pushed + 1
        closed := o.closed || last
        buf := if keep then o.buf ++ [(BitVec.ofNat 64 (v.toNat % 2 ^ (8 * esBytes o.es)), false)] else o.buf })
    if last then s.modCore n (fun c => { c with strm := Tab.set c.strm sn .unbound }) else s

/-- Bits 15:3 of a value written to `rasp` (R29). -/
def raspValue (v : Word) : Word := v &&& 0xFFF8

/-- The value `rasd` stores (R29). -/
def rasdValue (v : Word) : Nat := if v.toNat ≤ 16 then v.toNat else 16

/-- Bits 1:0 of `ls` and `le` read as zero (R32). -/
def wordAligned (v : Word) : Word := v &&& ~~~(3 : Word)

/-- Writes a register field. A poisoned word for a port, a stream or a register that carries no mark is consumed
(R312). -/
def setReg (r : Reg) (v : Word) (p : Bool) : Act Unit := do
  let s ← get
  let n := r.toNat
  if n < 0x80 then set (s.modCore s.cur (fun c => c.localWrite (s.thr.base + n) v p))
  else if n < 0xA0 then set (s.modCore s.cur (fun c => c.writeShared (n - 0x80) v p (2 * s.fresh)))
  else do
    need (!p) .contain
    match outFifo n, streamOf n with
    | some _, _ => set (s.pushPort s.cur n v)
    | none, some sn =>
      match (s.core s.cur).binding sn with
      | .output id => set (s.pushStream s.cur sn id v)
      | _ => faultAct { code := cSTREAM_STATE }
    | none, none =>
      set (s.modThr (fun t =>
        match n with
        | 0xB0 => { t with lc0 := v }
        | 0xB1 => { t with ls0 := wordAligned v }
        | 0xB2 => { t with le0 := wordAligned v }
        | 0xB3 => { t with lc1 := v }
        | 0xB4 => { t with ls1 := wordAligned v }
        | 0xB5 => { t with le1 := wordAligned v }
        | 0xB6 => { t with rasp := raspValue v }
        | 0xB7 => { t with rasd := rasdValue v }
        | _ => t))

/-- Writes one destination of the outstanding result `id` (R19, R22, R157). -/
def State.writeOut (s : State) (n x id : Nat) (r : Reg) (v : Word) (p : Bool) : State :=
  if r.toNat < 0x80 then s.modCore n (fun c => c.localWrite ((c.ctx x).base + r.toNat) v p)
  else s.modCore n (fun c => c.writeShared (r.toNat - 0x80) v p (2 * id + 1))

/-! ### Immediates (R78, R95) -/

/-- The value of a field of `w` bits after the EXT prefixes `pre`, first at the head (R78). -/
def extended (w fld : Nat) (pre : List (BitVec 24)) : Word :=
  let v := pre.foldl (fun acc e => acc * 2 ^ 24 + e.toNat) 0 * 2 ^ w + fld
  let ww := w + 24 * pre.length
  if ww ≤ 64 then BitVec.ofInt 64 (toSigned ww v) else BitVec.ofNat 64 v

/-- I of the instruction at hand (R95). -/
def Ctx.imm (t : Ctx) {w : Nat} (fld : BitVec w) : Word := extended w fld.toNat t.pre

/-- wrap64(OPW + 4 · I) (R109). -/
def Ctx.target (t : Ctx) (i : Word) : Word := t.opw + 4 * i

/-! ### Predicate word (R18, R129) -/

def Ctx.mask (t : Ctx) (m : MaskReg) : BitVec 32 :=
  match m with
  | .m0 => t.pred.extractLsb' 0 32
  | .m1 => t.pred.extractLsb' 32 32

def Ctx.maskPoison (t : Ctx) (m : MaskReg) : Bool :=
  match m with
  | .m0 => t.poison0
  | .m1 => t.poison1

/-- A single-cycle-class write of a mask; the other is unchanged (R145). -/
def Ctx.setMask (t : Ctx) (m : MaskReg) (v : BitVec 32) (p : Bool) : Ctx :=
  match m with
  | .m0 => { t with pred := t.pred.extractLsb' 32 32 ++ v, poison0 := p }
  | .m1 => { t with pred := v ++ t.pred.extractLsb' 0 32, poison1 := p }

/-- Whether lane i is active under the M field (R129). -/
def Ctx.active (t : Ctx) (m : MaskSel) (i : Nat) : Bool :=
  match m with
  | .all => true
  | .m0 => (t.mask .m0).getLsbD i
  | .m1 => (t.mask .m1).getLsbD i
  | .notM0 => !(t.mask .m0).getLsbD i

/-- Whether the governing mask is poisoned (R311). -/
def Ctx.govPoison (t : Ctx) (m : MaskSel) : Bool :=
  match m with
  | .all => false
  | .m0 | .notM0 => t.poison0
  | .m1 => t.poison1

/-! ### Vector registers (R17, R128) -/

/-- A vector register: its 512 bits as a number and the marks of its eight registers. -/
structure VVal where
  data : Nat
  poison : List Bool
deriving DecidableEq, Repr

/-- A vector register exists when its eighth register is below the window size (R17). -/
def vecExists (size : Nat) (v : VReg) : Bool := decide (8 * v.toNat + 7 < size)

def vecRegs (v : VReg) : List Nat := (List.range 8).map (fun j => 8 * v.toNat + j)

/-- Whether one of its registers is armed and empty (R157). -/
def State.vecArmed (s : State) (n : Nat) (t : Ctx) (v : VReg) : Option Park :=
  firstSome (fun r => s.srcPark n t r 1) (vecRegs v)

/-- The value of a vector register. -/
def State.readVec (s : State) (n : Nat) (t : Ctx) (v : VReg) : VVal :=
  let es := (vecRegs v).map (fun r => (s.core n).reg (t.base + r))
  ⟨es.foldr (fun e acc => e.val.toNat + 2 ^ 64 * acc) 0, es.map RegEntry.poison⟩

/-- Lane i of width w (R128). -/
def laneOf (d w i : Nat) : Nat := d / 2 ^ (w * i) % 2 ^ w

/-- A vector with lane i of width w replaced. -/
def setLane (d w i v : Nat) : Nat := d % 2 ^ (w * i) + (v % 2 ^ w) * 2 ^ (w * i) + d / 2 ^ (w * i + w) * 2 ^ (w * i + w)

/-- Mark of the 64-bit register that holds lane i. -/
def VVal.lanePoison (x : VVal) (w i : Nat) : Bool := x.poison.getD (i * w / 64) false

/-- Checks vector source and destination fields, the x operands, and what the instruction waits for (R17, R131, R157). -/
def vecOperands (vsrcs vdsts : List VReg) (srcs dsts : List Reg) : Act Unit := do
  let s ← get
  need (vsrcs.all (vecExists s.thr.size) && vdsts.all (vecExists s.thr.size)) illegalOperand
  operands srcs dsts
  match firstSome (fun v => s.vecArmed s.cur s.thr v) vsrcs with
  | some p => parkAct p
  | none => pure ()

/-- The pieces of an outstanding vector result: the eight registers of v. -/
def vecPieces (v : VReg) (d : Nat) (ps : List Bool) : List Piece :=
  (List.range 8).map (fun j =>
    .reg (BitVec.ofNat 8 (8 * v.toNat + j)) (BitVec.ofNat 64 (laneOf d 64 j)) (ps.getD j false))

/-! ### The local window (R40, R202) -/

/-- A read of core-local memory under the job tag: value and mark. -/
def State.localRead (s : State) (n : Nat) (ea : Word) (size : Nat) : Nat × Bool :=
  let pa := localPa n ea.toNat
  (s.physRead (s.jobTag n) pa size, s.physPoison (s.jobTag n) pa size)

/-- A write of core-local memory under the job tag. -/
def State.localWrite (s : State) (n : Nat) (ea : Word) (size v : Nat) : State :=
  s.physWrite (s.jobTag n) (localPa n ea.toNat) size v

/-! ### Instruction fetch (R39, R41, R43) -/

/-- A byte at a physical place, as core n finds it through a leaf, or without one through the local window: value and mark. -/
def State.placeByte (s : State) (n : Nat) (lf : Option Leaf) (pa : Nat) : Byte × Bool :=
  match lf with
  | none => (s.physByte (s.jobTag n) pa, s.physPoison (s.jobTag n) pa 1)
  | some l =>
    let tag := s.slotTag l.key
    match paKind pa with
    | .basin | .coreLocal => (s.physByte tag pa, s.physPoison tag pa 1)
    | _ =>
      let x := if l.c then s.cohSector (sectorOf pa) else s.ownSector n (sectorOf pa)
      let (v, p) := x.read tag (pa % 16) 1
      (BitVec.ofNat 8 v, p)

/-- The place of the byte that a fetch reads: none for the leaf in the local window. -/
def State.fetchPlace (s : State) (n : Nat) (t : Ctx) (ea : Word) : Except WalkFault (Option Leaf × Nat) :=
  if inLocalWindow ea then .ok (none, localPa n ea.toNat)
  else
    match s.translate n (s.core n).root t.vahi ea .fetch t.priv with
    | .error e => .error e
    | .ok (l, pa) => .ok (some l, pa)

/-- The byte an address holds, for fetch: value and mark, or the fault. Where the thread has not synchronised its fetch since
it stored to the byte, the value from before that store; a byte of another panel is what that panel answers (R43, R343). -/
def State.fetchByte (s : State) (n : Nat) (t : Ctx) (ea : Word) : Except WalkFault (Byte × Bool) :=
  match s.fetchPlace n t ea with
  | .error e => .error e
  | .ok (lf, pa) =>
    if (lf.map s.isFabric).getD false then
      match Config.fabricFetch s.fresh pa with
      | some b => .ok (b, false)
      | none => .error ⟨cPERMISSION, 0⟩
    else
      match Tab.find t.shadow pa with
      | some b => .ok (b, false)
      | none => .ok (s.placeByte n lf pa)

/-- The instruction word at an address: bytes in little-endian order (R7, R68). -/
def State.fetchWord (s : State) (n : Nat) (t : Ctx) (ea : Word) : Except WalkFault (IWord × Bool) := do
  let (b0, p0) ← s.fetchByte n t ea
  let (b1, p1) ← s.fetchByte n t (ea + 1)
  let (b2, p2) ← s.fetchByte n t (ea + 2)
  let (b3, p3) ← s.fetchByte n t (ea + 3)
  pure (b3 ++ b2 ++ b1 ++ b0, p0 || p1 || p2 || p3)

/-- Keeps, for fetch, the bytes from a place on that a store of the thread is about to replace (R43). -/
def shadowBytes (s : State) (n : Nat) (lf : Option Leaf) (pa : Nat) : Nat → Tab Byte → Tab Byte
  | 0, sh => sh
  | k + 1, sh =>
    let sh' := match Tab.find sh (pa + k) with
      | none => Tab.set sh (pa + k) (s.placeByte n lf (pa + k)).1
      | some _ => sh
    shadowBytes s n lf pa k sh'

/-- Notes a store of thread x of core n in the local window (R43). -/
def State.noteStore (s : State) (n x : Nat) (ea : Word) (size : Nat) : State :=
  s.modThread n x (fun t => { t with shadow := shadowBytes s n none (localPa n ea.toNat) size t.shadow })

end Sys2Proof.Machine
end

