-- ==== Sys2Proof/Machine/Integer.lean ====
section
/-! DEFINITION. Integer instructions: register operations, immediates and the unary group (R44, R100 to R104). Every
result is single-cycle-class. -/

namespace Sys2Proof.Machine

/-! ### The functions of R100 -/

def shiftAmount (b : Word) : Nat := b.toNat % 64
def mulHigh (a b : Word) : Word := BitVec.ofInt 64 (a.toInt * b.toInt / (2 ^ 64 : Nat))
def mulHighU (a b : Word) : Word := BitVec.ofNat 64 (a.toNat * b.toNat / 2 ^ 64)
def minWord : Word := 0x8000000000000000
def allOnes : Word := 0xFFFFFFFFFFFFFFFF
def divS (a b : Word) : Word :=
  if b = 0 then allOnes else if a = minWord && b == allOnes then a else BitVec.ofInt 64 (a.toInt.tdiv b.toInt)
def divU (a b : Word) : Word := if b = 0 then allOnes else BitVec.ofNat 64 (a.toNat / b.toNat)
def remS (a b : Word) : Word :=
  if b = 0 then a else if a = minWord && b == allOnes then 0
  else BitVec.ofInt 64 (a.toInt - b.toInt * a.toInt.tdiv b.toInt)
def remU (a b : Word) : Word := if b = 0 then a else BitVec.ofNat 64 (a.toNat % b.toNat)
def shiftL (a b : Word) : Word := a <<< shiftAmount b
def shiftR (a b : Word) : Word := a >>> shiftAmount b
def shiftRA (a b : Word) : Word := a.sshiftRight (shiftAmount b)
def minS (a b : Word) : Word := if a.toInt ≤ b.toInt then a else b
def maxS (a b : Word) : Word := if b.toInt ≤ a.toInt then a else b
def minU (a b : Word) : Word := if a.toNat ≤ b.toNat then a else b
def maxU (a b : Word) : Word := if b.toNat ≤ a.toNat then a else b
def ofBit (b : Bool) : Word := if b then 1 else 0
def setEq (a b : Word) : Word := ofBit (a == b)
def setLt (a b : Word) : Word := ofBit (decide (a.toInt < b.toInt))
def setLtU (a b : Word) : Word := ofBit (decide (a.toNat < b.toNat))

/-! ### The functions of R104 -/

/-- Number of 1 bits among the low `n`. -/
def popCount (x : Nat) : Nat → Nat
  | 0 => 0
  | n + 1 => popCount x n + (if x.testBit n then 1 else 0)

/-- Number of zero bits above the highest 1 bit of a `w`-bit pattern. -/
def leadingZeros (w x : Nat) : Nat := if x = 0 then w else w - (Nat.log2 x + 1)

/-- Number of zero bits below the lowest 1 bit, `w` for zero. -/
def trailingZeros (w x : Nat) : Nat := ((List.range w).find? (fun i => x.testBit i)).getD w

def clzF (a : Word) : Word := BitVec.ofNat 64 (leadingZeros 64 a.toNat)
def ctzF (a : Word) : Word := BitVec.ofNat 64 (trailingZeros 64 a.toNat)
def popcF (a : Word) : Word := BitVec.ofNat 64 (popCount a.toNat 64)
def sextF (w : Nat) (a : Word) : Word := (a.setWidth w).signExtend 64
def zextF (w : Nat) (a : Word) : Word := (a.setWidth w).setWidth 64
def bswapF (a : Word) : Word :=
  a.extractLsb' 0 8 ++ a.extractLsb' 8 8 ++ a.extractLsb' 16 8 ++ a.extractLsb' 24 8 ++ a.extractLsb' 32 8
    ++ a.extractLsb' 40 8 ++ a.extractLsb' 48 8 ++ a.extractLsb' 56 8

/-! ### Shapes -/

/-- Reads a and b, writes f(A, B) to d (R100). -/
def regOp (f : Word → Word → Word) (sw : Bool) (d a b : Reg) : Act Unit := do
  operands [a, b] [d]
  let x ← readReg a
  let y ← readReg b
  setReg d (f x.v y.v) (x.p || y.p)
  retire sw

/-- Reads a, writes f(A, I) to d (R102). -/
def immOp (f : Word → Word → Word) (sw : Bool) (d a imm : BitVec 8) : Act Unit := do
  operands [a] [d]
  let i := (← get).thr.imm imm
  let x ← readReg a
  setReg d (f x.v i) x.p
  retire sw

/-- Reads a, writes f(A) to d (R104). -/
def unaryOp (f : Word → Word) (sw : Bool) (d a : Reg) : Act Unit := do
  operands [a] [d]
  let x ← readReg a
  setReg d (f x.v) x.p
  retire sw

/-! ### Meanings -/

/-- ADD (R100). -/
def execAdd (sw : Bool) (d a b : Reg) (s : State) : Out := instr { arith := true } (regOp (fun a b => a + b) sw d a b) s

/-- SUB (R100). -/
def execSub (sw : Bool) (d a b : Reg) (s : State) : Out := instr { arith := true } (regOp (fun a b => a - b) sw d a b) s

/-- MUL (R100). -/
def execMul (sw : Bool) (d a b : Reg) (s : State) : Out := instr { arith := true } (regOp (fun a b => a * b) sw d a b) s

/-- MULH (R100). -/
def execMulh (sw : Bool) (d a b : Reg) (s : State) : Out := instr { arith := true } (regOp mulHigh sw d a b) s

/-- MULHU (R100). -/
def execMulhu (sw : Bool) (d a b : Reg) (s : State) : Out := instr { arith := true } (regOp mulHighU sw d a b) s

/-- DIV (R100). -/
def execDiv (sw : Bool) (d a b : Reg) (s : State) : Out := instr { arith := true } (regOp divS sw d a b) s

/-- DIVU (R100). -/
def execDivu (sw : Bool) (d a b : Reg) (s : State) : Out := instr { arith := true } (regOp divU sw d a b) s

/-- REM (R100). -/
def execRem (sw : Bool) (d a b : Reg) (s : State) : Out := instr { arith := true } (regOp remS sw d a b) s

/-- REMU (R100). -/
def execRemu (sw : Bool) (d a b : Reg) (s : State) : Out := instr { arith := true } (regOp remU sw d a b) s

/-- AND (R100). -/
def execAnd (sw : Bool) (d a b : Reg) (s : State) : Out := instr { arith := true } (regOp (fun a b => a &&& b) sw d a b) s

/-- OR (R100). -/
def execOr (sw : Bool) (d a b : Reg) (s : State) : Out := instr { arith := true } (regOp (fun a b => a ||| b) sw d a b) s

/-- XOR (R100). -/
def execXor (sw : Bool) (d a b : Reg) (s : State) : Out := instr { arith := true } (regOp (fun a b => a ^^^ b) sw d a b) s

/-- ANDN (R100). -/
def execAndn (sw : Bool) (d a b : Reg) (s : State) : Out := instr { arith := true } (regOp (fun a b => a &&& ~~~b) sw d a b) s

/-- SHL (R100). -/
def execShl (sw : Bool) (d a b : Reg) (s : State) : Out := instr { arith := true } (regOp shiftL sw d a b) s

/-- SHR (R100). -/
def execShr (sw : Bool) (d a b : Reg) (s : State) : Out := instr { arith := true } (regOp shiftR sw d a b) s

/-- SHRA (R100). -/
def execShra (sw : Bool) (d a b : Reg) (s : State) : Out := instr { arith := true } (regOp shiftRA sw d a b) s

/-- MIN (R100). -/
def execMin (sw : Bool) (d a b : Reg) (s : State) : Out := instr { arith := true } (regOp minS sw d a b) s

/-- MAX (R100). -/
def execMax (sw : Bool) (d a b : Reg) (s : State) : Out := instr { arith := true } (regOp maxS sw d a b) s

/-- MINU (R100). -/
def execMinu (sw : Bool) (d a b : Reg) (s : State) : Out := instr { arith := true } (regOp minU sw d a b) s

/-- MAXU (R100). -/
def execMaxu (sw : Bool) (d a b : Reg) (s : State) : Out := instr { arith := true } (regOp maxU sw d a b) s

/-- SETEQ (R100). -/
def execSeteq (sw : Bool) (d a b : Reg) (s : State) : Out := instr { arith := true } (regOp setEq sw d a b) s

/-- SETLT (R100). -/
def execSetlt (sw : Bool) (d a b : Reg) (s : State) : Out := instr { arith := true } (regOp setLt sw d a b) s

/-- SETLTU (R100). -/
def execSetltu (sw : Bool) (d a b : Reg) (s : State) : Out := instr { arith := true } (regOp setLtU sw d a b) s

/-- SEL (R101): d is the condition and the destination; 0xA0 to 0xAF are illegal. -/
def execSel (sw : Bool) (d a b : Reg) (s : State) : Out :=
  instr { arith := true } (do
    need (!(decide (0xA0 ≤ d.toNat) && decide (d.toNat ≤ 0xAF))) illegalOperand
    operands [a, b, d] [d]
    let x ← readReg a
    let y ← readReg b
    let c ← readReg d
    setReg d (if c.v = 0 then y.v else x.v) (x.p || y.p || c.p)
    retire sw) s

/-- ADDI (R102). -/
def execAddi (sw : Bool) (d a imm : BitVec 8) (s : State) : Out :=
  instr { ext := true, arith := true } (immOp (fun a b => a + b) sw d a imm) s

/-- ANDI (R102). -/
def execAndi (sw : Bool) (d a imm : BitVec 8) (s : State) : Out :=
  instr { ext := true, arith := true } (immOp (fun a b => a &&& b) sw d a imm) s

/-- ORI (R102). -/
def execOri (sw : Bool) (d a imm : BitVec 8) (s : State) : Out :=
  instr { ext := true, arith := true } (immOp (fun a b => a ||| b) sw d a imm) s

/-- XORI (R102). -/
def execXori (sw : Bool) (d a imm : BitVec 8) (s : State) : Out :=
  instr { ext := true, arith := true } (immOp (fun a b => a ^^^ b) sw d a imm) s

/-- SHLI (R102). -/
def execShli (sw : Bool) (d a imm : BitVec 8) (s : State) : Out :=
  instr { ext := true, arith := true } (immOp shiftL sw d a imm) s

/-- SHRI (R102). -/
def execShri (sw : Bool) (d a imm : BitVec 8) (s : State) : Out :=
  instr { ext := true, arith := true } (immOp shiftR sw d a imm) s

/-- SHRAI (R102). -/
def execShrai (sw : Bool) (d a imm : BitVec 8) (s : State) : Out :=
  instr { ext := true, arith := true } (immOp shiftRA sw d a imm) s

/-- MOVI (R103). -/
def execMovi (sw : Bool) (d : Reg) (imm : BitVec 16) (s : State) : Out :=
  instr { ext := true, arith := true } (do
    operands [] [d]
    let i := (← get).thr.imm imm
    setReg d i false
    retire sw) s

/-- CLZ (R104). -/
def execClz (sw : Bool) (d a : Reg) (s : State) : Out := instr { arith := true } (unaryOp clzF sw d a) s

/-- CTZ (R104). -/
def execCtz (sw : Bool) (d a : Reg) (s : State) : Out := instr { arith := true } (unaryOp ctzF sw d a) s

/-- POPC (R104). -/
def execPopc (sw : Bool) (d a : Reg) (s : State) : Out := instr { arith := true } (unaryOp popcF sw d a) s

/-- SEXT.B (R104). -/
def execSextB (sw : Bool) (d a : Reg) (s : State) : Out := instr { arith := true } (unaryOp (sextF 8) sw d a) s

/-- SEXT.H (R104). -/
def execSextH (sw : Bool) (d a : Reg) (s : State) : Out := instr { arith := true } (unaryOp (sextF 16) sw d a) s

/-- SEXT.W (R104). -/
def execSextW (sw : Bool) (d a : Reg) (s : State) : Out := instr { arith := true } (unaryOp (sextF 32) sw d a) s

/-- ZEXT.B (R104). -/
def execZextB (sw : Bool) (d a : Reg) (s : State) : Out := instr { arith := true } (unaryOp (zextF 8) sw d a) s

/-- ZEXT.H (R104). -/
def execZextH (sw : Bool) (d a : Reg) (s : State) : Out := instr { arith := true } (unaryOp (zextF 16) sw d a) s

/-- ZEXT.W (R104). -/
def execZextW (sw : Bool) (d a : Reg) (s : State) : Out := instr { arith := true } (unaryOp (zextF 32) sw d a) s

/-- BSWAP (R104). -/
def execBswap (sw : Bool) (d a : Reg) (s : State) : Out := instr { arith := true } (unaryOp bswapF sw d a) s

/-- MOV (R104). -/
def execMov (sw : Bool) (d a : Reg) (s : State) : Out := instr { arith := true } (unaryOp id sw d a) s

end Sys2Proof.Machine
end

