-- ==== Sys2Proof/Machine/Control.lean ====
section
/-! DEFINITION. Control transfers, the return-address store, hardware loops and condition registers (R26 to R33, R109 to
R115, R169). -/

namespace Sys2Proof.Machine

/-! ### Branches -/

/-- A conditional branch (R110). -/
def branchOp (cond : Word → Word → Bool) (sw : Bool) (a b : Reg) (off : BitVec 8) : Act Unit := do
  operands [a, b] []
  let t := (← get).thr
  let x ← readUse a
  let y ← readUse b
  if cond x y then transfer sw (t.target (t.imm off)) else retire sw

def brForm : Form := { ext := true }

/-- BEQ (R110). -/
def execBeq (sw : Bool) (a b : Reg) (off : BitVec 8) (s : State) : Out :=
  instr brForm (branchOp (fun x y => x == y) sw a b off) s

/-- BNE (R110). -/
def execBne (sw : Bool) (a b : Reg) (off : BitVec 8) (s : State) : Out :=
  instr brForm (branchOp (fun x y => x != y) sw a b off) s

/-- BLT (R110). -/
def execBlt (sw : Bool) (a b : Reg) (off : BitVec 8) (s : State) : Out :=
  instr brForm (branchOp (fun x y => decide (x.toInt < y.toInt)) sw a b off) s

/-- BGE (R110). -/
def execBge (sw : Bool) (a b : Reg) (off : BitVec 8) (s : State) : Out :=
  instr brForm (branchOp (fun x y => decide (y.toInt ≤ x.toInt)) sw a b off) s

/-- BLTU (R110). -/
def execBltu (sw : Bool) (a b : Reg) (off : BitVec 8) (s : State) : Out :=
  instr brForm (branchOp (fun x y => decide (x.toNat < y.toNat)) sw a b off) s

/-- BGEU (R110). -/
def execBgeu (sw : Bool) (a b : Reg) (off : BitVec 8) (s : State) : Out :=
  instr brForm (branchOp (fun x y => decide (y.toNat ≤ x.toNat)) sw a b off) s

/-- BMB (R111): a poisoned mask is consumed (R312). -/
def execBmb (sw : Bool) (p : Bool) (i : BitVec 6) (off : BitVec 16) (s : State) : Out :=
  instr brForm (do
    let t := (← get).thr
    need (!(if i.toNat < 32 then t.poison0 else t.poison1)) .contain
    if t.pred.getLsbD i.toNat == p then transfer sw (t.target (t.imm off)) else retire sw) s

/-! ### Condition registers (R169) -/

/-- Rows of an input binding that no queued matrix instruction claims (R288). -/
def InBind.unclaimed (b : InBind) : Nat := b.total - b.popped - b.claimed

/-- Whether a stream can supply or accept an element (R169, R266, R288). -/
def State.streamReady (s : State) (n sn : Nat) : Bool :=
  match (s.core n).binding sn with
  | .unbound => false
  | .input b => if b.es = 4 then decide (0 < b.unclaimed) else decide (0 < b.supply)
  | .output id =>
    match s.op id with
    | some o => decide (0 < o.accept)
    | none => false

/-- Mailbox entries addressed to a context (R163). -/
def Core.mailFor (c : Core) (x : Nat) : Bool := c.mail.any (fun m => m.ctx.toNat == x)

/-- Whether an entry is neither occupied nor reserved (R164). -/
def Core.mailRoom (c : Core) : Bool := decide (c.mail.length + c.reserved < Config.mailboxEntries)

/-- Condition register k of thread x of core n; none when undefined (R169). -/
def State.condition (s : State) (n x k : Nat) : Option Bool :=
  let c := s.core n
  let t := c.ctx x
  let holds := fun (p : InPort) => s.inLinked n p && !(c.fifo p).isEmpty
  if k < 0x40 then (if k < t.size then some (c.reg (t.base + k)).full else none)
  else
    match k with
    | 0x40 => some (c.mailFor x)
    | 0x41 => some c.mailRoom
    | 0x42 => some (holds .nup)
    | 0x43 => some (decide (0 < s.outRoom n 0xA1))
    | 0x44 => some (holds .pn)
    | 0x45 => some (holds .pe)
    | 0x46 => some (holds .ps)
    | 0x47 => some (holds .pw)
    | 0x48 => some (decide (0 < s.outRoom n 0xA2))
    | 0x49 => some (decide (0 < s.outRoom n 0xA3))
    | 0x4A => some (decide (0 < s.outRoom n 0xA4))
    | 0x4B => some (decide (0 < s.outRoom n 0xA5))
    | 0x54 => some t.wake
    | _ => if 0x4C ≤ k ∧ k ≤ 0x53 then some (s.streamReady n (k - 0x4C)) else none

/-- BCR (R112): tests without consuming. -/
def execBcr (sw : Bool) (p : Bool) (n : BitVec 7) (off : BitVec 16) (s : State) : Out :=
  instr brForm (do
    let s ← get
    let t := s.thr
    match s.condition s.cur s.ctx n.toNat with
    | none => stop illegalOperand
    | some b => if b == p then transfer sw (t.target (t.imm off)) else retire sw) s

/-! ### The return-address store (R26 to R29) -/

/-- The effective address of byte `o` of core-local memory (R40). -/
def localEa (o : Word) : Word := 0xFFFFFFFFFFFF0000 + (o &&& 0xFFFF)

/-- Drops the oldest entry: every other moves down one position. -/
def dropOldest (r : Tab Word) : Tab Word :=
  (List.range 15).map (fun i => (i, Tab.getD r (i + 1) 0))

/-- Pushes a return address, spilling the oldest entry when the store is full (R27). -/
def pushReturn (ret : Word) (oprs : List Word) : Act Unit := do
  let s ← get
  let t := s.thr
  if t.rasd < 16 then
    set (s.modThr (fun t => { t with ras := Tab.set t.ras t.rasd ret, rasd := t.rasd + 1 }))
  else do
    need (!(decide (t.rlim * 8 < t.rasp.toNat + 8) || decide (t.rasp.toNat < t.rbase * 8)))
      (.fault { code := cRETURN_STORE, oprs := oprs })
    let s := s.noteStore s.cur s.ctx (localEa t.rasp) 8
    let s := s.localWrite s.cur (localEa t.rasp) 8 (Tab.getD t.ras 0 0).toNat
    set (s.modThr (fun t => { t with ras := Tab.set (dropOldest t.ras) 15 ret, rasp := t.rasp + 8 }))

/-- The target a RET takes, with its mark, and the state it leaves; no state is changed when the refill is out of bounds
(R28). -/
def popReturn (s : State) : Option (Word × Bool × State) :=
  let t := s.thr
  if 0 < t.rasd then
    some (Tab.getD t.ras (t.rasd - 1) 0, false, s.modThr (fun t => { t with rasd := t.rasd - 1 }))
  else if t.rasp.toNat ≤ t.rbase * 8 ∨ t.rlim * 8 < t.rasp.toNat then none
  else
    let (v, p) := s.localRead s.cur (localEa (t.rasp - 8)) 8
    some (BitVec.ofNat 64 v, p, s.modThr (fun t => { t with rasp := t.rasp - 8 }))

def misaligned4 (v : Word) : Bool := v.toNat % 4 != 0

/-- JMP (R113). -/
def execJmp (sw : Bool) (off : BitVec 24) (s : State) : Out :=
  instr brForm (do
    let t := (← get).thr
    transfer sw (t.target (t.imm off))) s

/-- CALL (R113). -/
def execCall (sw : Bool) (off : BitVec 24) (s : State) : Out :=
  instr brForm (do
    let t := (← get).thr
    pushReturn (t.opw + 4) []
    transfer sw (t.target (t.imm off))) s

/-- JR (R114). -/
def execJr (sw : Bool) (a : Reg) (s : State) : Out :=
  instr {} (do
    operands [a] []
    let x ← readUse a
    need (!misaligned4 x) (.fault { code := cALIGNMENT, oprs := [x], va := x })
    transfer sw x) s

/-- CALLR (R114). -/
def execCallr (sw : Bool) (a : Reg) (s : State) : Out :=
  instr {} (do
    operands [a] []
    let t := (← get).thr
    let x ← readUse a
    need (!misaligned4 x) (.fault { code := cALIGNMENT, oprs := [x], va := x })
    pushReturn (t.opw + 4) [x]
    transfer sw x) s

/-- RET (R28, R114). -/
def execRet (sw : Bool) (s : State) : Out :=
  instr {} (do
    match popReturn (← get) with
    | none => faultAct { code := cRETURN_STORE }
    | some (target, p, s') =>
      need (!p) .contain
      need (!misaligned4 target) (.fault { code := cALIGNMENT, va := target })
      set s'
      transfer sw target) s

/-- Pushes a loop level (R30). -/
def Ctx.pushLoop (t : Ctx) (count ls le : Word) : Ctx :=
  if t.lpD = 0 then { t with lc0 := count, ls0 := ls, le0 := le, lpD := 1 }
  else { t with lc1 := count, ls1 := ls, le1 := le, lpD := 2 }

/-- LOOP (R30, R115): an offset below 1 is order 2 of R86, before the checks of the form. -/
def execLoop (sw : Bool) (c : Reg) (off : BitVec 16) (s : State) : Out :=
  finish (do
    let t := (← get).thr
    let i := t.imm off
    need (decide (0 < i.toInt)) illegalInstr
    formGate brForm
    operands [c] []
    let n ← readUse c
    if n = 0 then transfer sw (t.target i + 4)
    else do
      need (decide (t.lpD < 2)) (.fault { code := cLOOP_DEPTH, oprs := [n] })
      onState (fun s => s.modThr (fun u => u.pushLoop n (t.opw + 4) (t.target i)))
      retire sw) s

end Sys2Proof.Machine
end

