-- ==== Sys2Proof/Machine/System.lean ====
section
/-! DEFINITION. NOP, BRK, TRAP, IDLE and the control registers (R34 to R37, R120 to R126), REP and EXT (R77 to R85). -/

namespace Sys2Proof.Machine

/-- NOP (R121). -/
def execNop (sw : Bool) (s : State) : Out := instr {} (retire sw) s

/-- BRK (R122): takes the breakpoint fault. -/
def execBrk (_sw : Bool) (s : State) : Out := instr {} (faultAct { code := cBREAKPOINT }) s

/-- TRAP (R123): takes the trap fault with A in the record. DEDUCED (log entry 81): a poisoned A contains the core. -/
def execTrap (_sw : Bool) (a : Reg) (s : State) : Out :=
  instr {} (do
    operands [a] []
    let x ← readUse a
    faultAct { code := cTRAP, oprs := [x], arg := x }) s

/-- Engine operations a context has not joined (R253): in flight, or with a completion not yet received. -/
def State.unjoined (s : State) (n x : Nat) : Bool :=
  s.ops.any (fun o => o.core == n && o.target == x)
    || (s.core n).mail.any (fun m => m.kind == 2 && m.ctx.toNat == x)

/-- Clears `k` register-file entries from `b`. -/
def clearRegs (rf : Tab RegEntry) (b : Nat) : Nat → Tab RegEntry
  | 0 => rf
  | k + 1 => clearRegs (Tab.set rf b RegEntry.clear) (b + 1) k

/-- A barge ends: its context becomes EMPTY with every register zero (R148, R174). -/
def State.endBarge (s : State) (n x : Nat) : State :=
  s.modCore n (fun c =>
    let t := c.ctx x
    let c := { c with rf := clearRegs c.rf t.base t.size }
    c.setCtx x { Ctx.free with
      st := .empty, base := t.base, size := t.size, bargeCtx := true, rbase := t.rbase, rlim := t.rlim,
      recNo := t.recNo, tag := t.tag })

/-- IDLE (R124, R174). -/
def execIdle (sw : Bool) (s : State) : Out :=
  instr {} (do
    let s ← get
    let t := s.thr
    need (!sw || t.outst.isEmpty) (.park .outstanding)
    if t.wake then do
      onState (fun s => s.modThr (fun t => { t with wake := false }))
      retire sw
    else if t.barge && t.outst.isEmpty && !s.unjoined s.cur s.ctx then set (s.endBarge s.cur s.ctx)
    else set (s.modThr (fun t => { t with st := .idling, pre := [] }))) s

/-! ### Control registers -/

/-- The core number `tid` reports: a thread of a second copy reads its twin's (R318). -/
def State.shownCore (s : State) (n : Nat) : Nat :=
  if (s.core n).twin then
    match s.regionOf n with
    | some r => r.tasks.getD (s.core n).task n
    | none => n
  else n

/-- `repst` (R36). -/
def Ctx.repst (t : Ctx) : Word :=
  BitVec.ofBool t.repA ++ (0 : BitVec 7) ++ t.repFrm ++ (0 : BitVec 2) ++ t.repJ ++ (0 : BitVec 4) ++ t.repI
    ++ (0 : BitVec 16)

/-- `rasb` (R37). -/
def Ctx.rasb (t : Ctx) : Word := BitVec.ofNat 64 (t.rlim * 2 ^ 16 + t.rbase)

/-- `tid` (R35). -/
def State.tid (s : State) (n x : Nat) : Word :=
  let t := s.thread n x
  BitVec.ofNat 64 ((if t.priv then 2 ^ 20 else 0) + (if t.barge then 2 ^ 19 else 0) + x * 2 ^ 13 + s.shownCore n)

/-- `win` (R36). -/
def Ctx.win (t : Ctx) : Word := BitVec.ofNat 64 (t.base * 2 ^ 16 + t.size)

/-- The value of a control register; none for a reserved number (R34 to R37). -/
def State.control (s : State) (n x : Nat) (k : Nat) : Option Word :=
  let t := s.thread n x
  match k with
  | 0 => some (t.rm.setWidth 64)
  | 1 => some (t.flags.setWidth 64)
  | 2 => some (s.tid n x)
  | 3 => some t.win
  | 4 => some (BitVec.ofNat 64 (s.core n).cycle)
  | 5 => some t.repst
  | 6 => some (BitVec.ofNat 64 t.lpD)
  | 7 => some t.rasb
  | 8 => some ((s.core n).mxwt.setWidth 64)
  | 9 => some (t.vahi.setWidth 64)
  | _ => none

/-- Whether a control register holds a -P field (R36, R37). -/
def privControl (k : Nat) : Bool := k == 5 || k == 6 || k == 7 || k == 9

/-- RDCTL (R125). -/
def execRdctl (sw : Bool) (d : Reg) (ctl : BitVec 8) (s : State) : Out :=
  instr {} (do
    need (writable (← get).thr.size d) illegalOperand
    let s ← get
    match s.control s.cur s.ctx ctl.toNat with
    | none => stop illegalOperand
    | some v =>
      need (s.thr.priv || !privControl ctl.toNat) (.fault { code := cPRIVILEGE })
      operands [] [d]
      setReg d v false
      retire sw) s

/-- LIM above 8,192 is stored as 8,192 (R37). -/
def storedLim (v : Nat) : Nat := min v 8192

/-- The fields of `repst` written (R36). -/
def Ctx.setRepst (t : Ctx) (v : Word) : Ctx :=
  { t with repA := v.getLsbD 63, repFrm := v.extractLsb' 32 24, repJ := v.extractLsb' 24 6, repI := v.extractLsb' 16 4 }

/-- D of `lpst`: a written 3 is stored as 2 (R36). -/
def storedD (v : Word) : Nat := min (v.toNat % 4) 2

/-- `rasb` written (R37). -/
def Ctx.setRasb (t : Ctx) (v : Word) : Ctx :=
  { t with rlim := storedLim (v.toNat / 2 ^ 16 % 2 ^ 14), rbase := v.toNat % 2 ^ 13 }

/-- WT: a written 0 is stored as 1 (R37). -/
def storedWt (v : Word) : BitVec 4 := if v.extractLsb' 0 4 = 0 then 1 else v.extractLsb' 0 4

/-- The thread after WRCTL wrote a thread register and moved on: an active frame, and levels that a write of `lpst` has
just raised, are tested from the next instruction (R126). -/
def Ctx.writeControl (t : Ctx) (k : Nat) (v : Word) : Ctx :=
  let moved : Ctx := { t with pc := t.opw + 4, pre := [] }
  match k with
  | 0 => ({ moved with rm := v.extractLsb' 0 2 }).loopTest t.opw
  | 1 => ({ moved with flags := v.extractLsb' 0 5 }).loopTest t.opw
  | 5 =>
    let u := moved.setRepst v
    if u.repA then u else u.loopTest t.opw
  | 6 =>
    let u := { moved with lpD := storedD v }
    if t.lpD < u.lpD then u else u.loopTest t.opw
  | 7 => (moved.setRasb v).loopTest t.opw
  | 9 => ({ moved with vahi := v.extractLsb' 0 8 }).loopTest t.opw
  | _ => moved.loopTest t.opw

/-- WRCTL (R126). -/
def execWrctl (sw : Bool) (ctl : BitVec 8) (a : Reg) (s : State) : Out :=
  instr {} (do
    need (readable (← get).thr.size a) illegalOperand
    need (decide (ctl.toNat ≤ 9)) illegalOperand
    let s ← get
    need (s.thr.priv || !privControl ctl.toNat) (.fault { code := cPRIVILEGE })
    need (ctl != 8 || s.ctx == 0) (.fault { code := cCONTEXT })
    operands [a] []
    let v ← readUse a
    if ctl = 8 then onState (fun s => s.modCore s.cur (fun c => { c with mxwt := storedWt v }))
    onState (fun s => s.modThr (fun t => (t.writeControl ctl.toNat v).settle sw))) s

/-! ### Frames and prefixes -/

/-- REP (R80, R83): opens a frame. REP is not arithmetic, so no frame is active, and the loop-end test waits for the
frame's end (R33). -/
def execRep (sw : Bool) (len : BitVec 4) (times : BitVec 6) (sd sa sb : BitVec 4) (s : State) : Out :=
  instr {} (onState (fun s => s.modThr (fun t =>
    ({ t with repA := true, repFrm := len ++ times ++ sd ++ sa ++ sb ++ (0 : BitVec 2), repJ := 0, repI := 0,
              pc := t.opw + 4, pre := [] }).settle sw))) s

/-- EXT (R77 to R79): its payload joins the prefixes of the instruction at PC; a third is illegal. The thread keeps the
slot, and PC stays at the first EXT word. Inside a frame the prefixed instruction is judged whole: misuse of EXT comes before
the frame fault (R86). -/
def execExt (payload : BitVec 24) (s : State) : Out :=
  finish (do
    need (decide ((← get).thr.pre.length < 2)) illegalInstr
    onState (fun s => s.modThr (fun t => { t with pre := t.pre ++ [payload] }))) s

end Sys2Proof.Machine
end

