-- ==== Sys2Proof/Machine/LoadStore.lean ====
section
/-! DEFINITION. Scalar loads, stores and PREF (R41, R97, R116 to R119). -/

namespace Sys2Proof.Machine

/-- wrap64(A + size · I) (R116). -/
def effective (a : Word) (size : Nat) (i : Word) : Word := a + BitVec.ofNat 64 size * i

/-- The register value of `size` bytes read (R116). -/
def loaded (size : Nat) (signed : Bool) (v : Nat) : Word :=
  if signed then BitVec.ofInt 64 (toSigned (8 * size) v) else BitVec.ofNat 64 v

def alignedTo (ea : Word) (size : Nat) : Bool := ea.toNat % size == 0

def alignFault (t : Ctx) (ea : Word) (k : AccKind) (oprs : List Word) : Stop :=
  .fault { code := cALIGNMENT, oprs := oprs, va := ea, vahi := t.vahi, acc := k.code }

/-- A load (R117): single-cycle-class in the local window, else a request with an outstanding result. -/
def loadOp (size : Nat) (signed sw : Bool) (d a imm : BitVec 8) : Act Unit := do
  need (outWritable (← get).thr.size d) illegalOperand
  operands [a] []
  let t := (← get).thr
  let x ← readUse a
  let ea := effective x size (t.imm imm)
  need (alignedTo ea size) (alignFault t ea .load [x])
  if inLocalWindow ea then do
    let s ← get
    let (v, p) := s.localRead s.cur ea size
    setReg d (loaded size signed v) p
    retire sw
  else do
    onState (fun s =>
      (s.addOutst s.cur s.ctx .load [.reg d 0 false] 0 false).addReq (.load d signed) [Lane.start 0 ea size 0] false .thread 0
        (some s.fresh) [x])
    retire sw

/-- A store (R117); it is held by pending releases (R242). -/
def storeOp (size : Nat) (sw : Bool) (d a imm : BitVec 8) : Act Unit := do
  operands [a, d] []
  heldGate
  let t := (← get).thr
  let x ← readUse a
  let v ← readUse d
  let ea := effective x size (t.imm imm)
  need (alignedTo ea size) (alignFault t ea .store [x, v])
  if inLocalWindow ea then do
    onState (fun s => (s.noteStore s.cur s.ctx ea size).localWrite s.cur ea size (v.toNat % 2 ^ (8 * size)))
    retire sw
  else do
    onState (fun s => s.addReq .store [Lane.start 0 ea size v] false .thread 0 none [x, v])
    retire sw

/-- LD.B (R116, R117). -/
def execLdB (sw : Bool) (d a imm : BitVec 8) (s : State) : Out := instr { ext := true } (loadOp 1 true sw d a imm) s

/-- LD.H (R116, R117). -/
def execLdH (sw : Bool) (d a imm : BitVec 8) (s : State) : Out := instr { ext := true } (loadOp 2 true sw d a imm) s

/-- LD.W (R116, R117). -/
def execLdW (sw : Bool) (d a imm : BitVec 8) (s : State) : Out := instr { ext := true } (loadOp 4 true sw d a imm) s

/-- LD.D (R116, R117). -/
def execLdD (sw : Bool) (d a imm : BitVec 8) (s : State) : Out := instr { ext := true } (loadOp 8 true sw d a imm) s

/-- LDU.B (R116, R117). -/
def execLduB (sw : Bool) (d a imm : BitVec 8) (s : State) : Out := instr { ext := true } (loadOp 1 false sw d a imm) s

/-- LDU.H (R116, R117). -/
def execLduH (sw : Bool) (d a imm : BitVec 8) (s : State) : Out := instr { ext := true } (loadOp 2 false sw d a imm) s

/-- LDU.W (R116, R117). -/
def execLduW (sw : Bool) (d a imm : BitVec 8) (s : State) : Out := instr { ext := true } (loadOp 4 false sw d a imm) s

/-- ST.B (R116, R117). -/
def execStB (sw : Bool) (d a imm : BitVec 8) (s : State) : Out := instr { ext := true } (storeOp 1 sw d a imm) s

/-- ST.H (R116, R117). -/
def execStH (sw : Bool) (d a imm : BitVec 8) (s : State) : Out := instr { ext := true } (storeOp 2 sw d a imm) s

/-- ST.W (R116, R117). -/
def execStW (sw : Bool) (d a imm : BitVec 8) (s : State) : Out := instr { ext := true } (storeOp 4 sw d a imm) s

/-- ST.D (R116, R117). -/
def execStD (sw : Bool) (d a imm : BitVec 8) (s : State) : Out := instr { ext := true } (storeOp 8 sw d a imm) s

/-- PREF (R119): no architectural effect; the operand is read. -/
def execPref (sw : Bool) (a imm : BitVec 8) (s : State) : Out :=
  instr { ext := true } (do
    operands [a] []
    let x ← readUse a
    let _ea := effective x 64 ((← get).thr.imm imm)
    retire sw) s

end Sys2Proof.Machine
end

