-- ==== Sys2Proof/Machine/ScalarFp.lean ====
section
/-! DEFINITION. Scalar floating point (R98, R99, R105 to R108). -/

namespace Sys2Proof.Machine

/-- The low bits of a register that hold a narrower value (R98). -/
def narrow (w : Nat) (a : Word) : Nat := a.toNat % 2 ^ w

/-- Flags of a single-cycle-class instruction enter `fpflags` at issue (R99). -/
def orFlags (f : Flags) : Act Unit := onState (fun s => s.modThr (fun t => { t with flags := t.flags ||| f }))

/-- A single-cycle-class operation on two values of `w` bits (R105). -/
def fpOp2 (w : Nat) (f : BitVec 2 → Nat → Nat → Nat × Flags) (sw : Bool) (d a b : Reg) : Act Unit := do
  operands [a, b] [d]
  let rm := (← get).thr.rm
  let x ← readReg a
  let y ← readReg b
  let r := f rm (narrow w x.v) (narrow w y.v)
  orFlags r.2
  setReg d (BitVec.ofNat 64 r.1) (x.p || y.p)
  retire sw

/-- FFMA (R106): reads a, b, then d. -/
def fpFmaOp (w : Nat) (fm : Fmt) (sw : Bool) (d a b : Reg) : Act Unit := do
  operands [a, b, d] [d]
  let rm := (← get).thr.rm
  let x ← readReg a
  let y ← readReg b
  let z ← readReg d
  let r := fpFma fm rm false false (narrow w x.v) (narrow w y.v) (narrow w z.v)
  orFlags r.2
  setReg d (BitVec.ofNat 64 r.1) (x.p || y.p || z.p)
  retire sw

/-- A single-cycle-class unary operation (R107). -/
def fpOp1 (f : BitVec 2 → Word → Nat × Flags) (sw : Bool) (d a : Reg) : Act Unit := do
  operands [a] [d]
  let rm := (← get).thr.rm
  let x ← readReg a
  let r := f rm x.v
  orFlags r.2
  setReg d (BitVec.ofNat 64 r.1) x.p
  retire sw

/-- Makes a value an outstanding result of the thread at hand; its flags enter with it (R20, R99). -/
def later (d : Reg) (v : Word) (p : Bool) (f : Flags) : Act Unit :=
  onState (fun s => s.addOutst s.cur s.ctx .other [.reg d v p] f true)

/-- An outstanding unary operation; d is restricted (R97, R107). -/
def fpOut1 (f : BitVec 2 → Word → Nat × Flags) (sw : Bool) (d a : Reg) : Act Unit := do
  need (outWritable (← get).thr.size d) illegalOperand
  operands [a] [d]
  let rm := (← get).thr.rm
  let x ← readReg a
  let r := f rm x.v
  later d (BitVec.ofNat 64 r.1) x.p r.2
  retire sw

/-- The answer of a compare as an integer. -/
def compareResult (r : Bool × Flags) : Nat × Flags := (if r.1 then 1 else 0, r.2)

/-- FCVT.L.D as a pattern (R59). -/
def fpToLong (rm : BitVec 2) (a : Word) : Nat × Flags :=
  let r := fpToInt fmt64 rm 64 a.toNat
  (toPattern 64 r.1, r.2)

/-- FADD.D (R105). -/
def execFaddD (sw : Bool) (d a b : Reg) (s : State) : Out :=
  instr { arith := true } (fpOp2 64 (fpAdd fmt64) sw d a b) s

/-- FADD.S (R105). -/
def execFaddS (sw : Bool) (d a b : Reg) (s : State) : Out :=
  instr { arith := true } (fpOp2 32 (fpAdd fmt32) sw d a b) s

/-- FSUB.D (R105). -/
def execFsubD (sw : Bool) (d a b : Reg) (s : State) : Out :=
  instr { arith := true } (fpOp2 64 (fpSub fmt64) sw d a b) s

/-- FMUL.D (R105). -/
def execFmulD (sw : Bool) (d a b : Reg) (s : State) : Out :=
  instr { arith := true } (fpOp2 64 (fpMul fmt64) sw d a b) s

/-- FMUL.S (R105). -/
def execFmulS (sw : Bool) (d a b : Reg) (s : State) : Out :=
  instr { arith := true } (fpOp2 32 (fpMul fmt32) sw d a b) s

/-- FCMPEQ.D (R105). -/
def execFcmpeqD (sw : Bool) (d a b : Reg) (s : State) : Out :=
  instr { arith := true } (fpOp2 64 (fun _ x y => compareResult (fpEq fmt64 x y)) sw d a b) s

/-- FCMPLT.D (R105). -/
def execFcmpltD (sw : Bool) (d a b : Reg) (s : State) : Out :=
  instr { arith := true } (fpOp2 64 (fun _ x y => compareResult (fpLt fmt64 x y)) sw d a b) s

/-- FDIV.D (R105): outstanding, d restricted by R97. -/
def execFdivD (sw : Bool) (d a b : Reg) (s : State) : Out :=
  instr { arith := true } (do
    need (outWritable (← get).thr.size d) illegalOperand
    operands [a, b] [d]
    let rm := (← get).thr.rm
    let x ← readReg a
    let y ← readReg b
    let r := fpDiv fmt64 rm x.v.toNat y.v.toNat
    later d (BitVec.ofNat 64 r.1) (x.p || y.p) r.2
    retire sw) s

/-- FFMA.D (R106). -/
def execFfmaD (sw : Bool) (d a b : Reg) (s : State) : Out := instr { arith := true } (fpFmaOp 64 fmt64 sw d a b) s

/-- FFMA.S (R106). -/
def execFfmaS (sw : Bool) (d a b : Reg) (s : State) : Out := instr { arith := true } (fpFmaOp 32 fmt32 sw d a b) s

/-- FSQRT.D (R107). -/
def execFsqrtD (sw : Bool) (d a : Reg) (s : State) : Out :=
  instr { arith := true } (fpOut1 (fun rm x => fpSqrt fmt64 rm x.toNat) sw d a) s

/-- FSQRT.S (R107). -/
def execFsqrtS (sw : Bool) (d a : Reg) (s : State) : Out :=
  instr { arith := true } (fpOut1 (fun rm x => fpSqrt fmt32 rm (narrow 32 x)) sw d a) s

/-- FABS.D (R107). -/
def execFabsD (sw : Bool) (d a : Reg) (s : State) : Out :=
  instr { arith := true } (fpOp1 (fun _ x => ((x &&& 0x7FFFFFFFFFFFFFFF).toNat, 0)) sw d a) s

/-- FNEG.D (R107). -/
def execFnegD (sw : Bool) (d a : Reg) (s : State) : Out :=
  instr { arith := true } (fpOp1 (fun _ x => ((x ^^^ 0x8000000000000000).toNat, 0)) sw d a) s

/-- FCLASS.D (R108). -/
def execFclassD (sw : Bool) (d a : Reg) (s : State) : Out :=
  instr { arith := true } (fpOp1 (fun _ x => (fpClass fmt64 x.toNat, 0)) sw d a) s

/-- FCVT.D.S (R107). -/
def execFcvtDS (sw : Bool) (d a : Reg) (s : State) : Out :=
  instr { arith := true } (fpOp1 (fun rm x => fpConvert fmt32 fmt64 rm (narrow 32 x)) sw d a) s

/-- FCVT.S.D (R107). -/
def execFcvtSD (sw : Bool) (d a : Reg) (s : State) : Out :=
  instr { arith := true } (fpOp1 (fun rm x => fpConvert fmt64 fmt32 rm x.toNat) sw d a) s

/-- FCVT.D.L (R107). -/
def execFcvtDL (sw : Bool) (d a : Reg) (s : State) : Out :=
  instr { arith := true } (fpOp1 (fun rm x => intToFp fmt64 rm x.toInt) sw d a) s

/-- FCVT.L.D (R107). -/
def execFcvtLD (sw : Bool) (d a : Reg) (s : State) : Out :=
  instr { arith := true } (fpOp1 fpToLong sw d a) s

/-- FCVT.S.H (R107). -/
def execFcvtSH (sw : Bool) (d a : Reg) (s : State) : Out :=
  instr { arith := true } (fpOp1 (fun rm x => fpConvert fmt16 fmt32 rm (narrow 16 x)) sw d a) s

/-- FCVT.H.S (R107). -/
def execFcvtHS (sw : Bool) (d a : Reg) (s : State) : Out :=
  instr { arith := true } (fpOp1 (fun rm x => fpConvert fmt32 fmt16 rm (narrow 32 x)) sw d a) s

/-- FCVT.S.BF (R107). -/
def execFcvtSBf (sw : Bool) (d a : Reg) (s : State) : Out :=
  instr { arith := true } (fpOp1 (fun rm x => fpConvert fmtBf16 fmt32 rm (narrow 16 x)) sw d a) s

/-- FCVT.BF.S (R107). -/
def execFcvtBfS (sw : Bool) (d a : Reg) (s : State) : Out :=
  instr { arith := true } (fpOp1 (fun rm x => fpConvert fmt32 fmtBf16 rm (narrow 32 x)) sw d a) s

end Sys2Proof.Machine
end

