-- ==== Sys2Proof/Machine/Network.lean ====
section
/-! DEFINITION. Stations, sites, streams and the delivery of messages (R330 to R337), and the twins of compared
messages (R318, R319). -/

namespace Sys2Proof.Machine

/-! ### Sites and the remap table (R330, R331) -/

/-- Key of a site: 24 · px + py. -/
def siteKey (px py : Nat) : Nat := 24 * px + py

/-- A remap entry (R331). -/
def remapEntry (px py pc : Nat) : BitVec 32 := BitVec.ofNat 32 (2 ^ 31 + px * 2 ^ 14 + py * 2 ^ 9 + pc * 2 ^ 5)

def entryPx (e : BitVec 32) : Nat := e.toNat / 2 ^ 14 % 32
def entryPy (e : BitVec 32) : Nat := e.toNat / 2 ^ 9 % 32
def entryPc (e : BitVec 32) : Nat := e.toNat / 2 ^ 5 % 16

/-- Boot mapping of logical chiplet c: site (lx, ly). -/
def bootPx (c : Nat) : Nat := c % 24
def bootPy (c : Nat) : Nat := c / 24

/-- A table's entry for core n and for chiplet c. -/
def Remap.coreEntry (r : Remap) (n : Nat) : BitVec 32 :=
  Tab.getD r.core n (if r.set then remapEntry (bootPx (n / 8)) (bootPy (n / 8)) (n % 8) else 0)
def Remap.chipEntry (r : Remap) (c : Nat) : BitVec 32 := Tab.getD r.chip c (if r.set then remapEntry (bootPx c) (bootPy c) 0 else 0)

/-- The table at its reset value: no entry names silicon (R331). -/
def Remap.unset : Remap := ⟨false, [], []⟩

/-- A site as boot leaves it: eight live cores and a spare one; the two last columns are spare sites (R330, R361). -/
def bootSite (px : Nat) : Site := ⟨true, 0x1FF, false, if px < 24 then 0 else 1⟩

def State.site (s : State) (px py : Nat) : Site := Tab.getD s.sites (siteKey px py) (bootSite px)
def State.setSite (s : State) (px py : Nat) (v : Site) : State := { s with sites := Tab.set s.sites (siteKey px py) v }

/-- Whether messages pass through a site (R334). -/
def State.siteOpen (s : State) (px py : Nat) : Bool :=
  let v := s.site px py
  v.powered && !v.fenced && v.state != 3

/-- The active table of the router at a site: during a flip some have switched already (R332). -/
def State.tableAt (s : State) (site : Nat) : Remap := if s.flipped.getLsbD site then s.pending.getD s.remap else s.remap

/-- Where a table places a station. -/
inductive Spot where
  | site (px py : Nat)
  /-- The entry names no silicon (R331). -/
  | nowhere
  /-- A base die or a wharf, whose places the spec does not give. -/
  | unplaced
deriving DecidableEq, Repr

/-- What an entry names. -/
def entrySpot (e : BitVec 32) : Spot := if e.getLsbD 31 then .site (entryPx e) (entryPy e) else .nowhere

def Remap.spot (r : Remap) : Station → Spot
  | .core n => entrySpot (r.coreEntry n)
  | .chiplet c => entrySpot (r.chipEntry c)
  | .base _ | .wharf _ => .unplaced

/-- Whether the silicon that the active table names for a station is there. -/
def State.stationUp (s : State) (t : Station) : Bool :=
  match s.remap.spot t with
  | .site px py => s.siteOpen px py
  | .nowhere => false
  | .unplaced => true

/-! ### Streams (R335 to R337) -/

/-- A stream no message has used. -/
def Stream.fresh (src dst : Station) (ordered : Bool) : Stream where
  src := src
  dst := dst
  ordered := ordered
  nextSeq := 0
  unacked := []
  expected := 0
  map := 0
  answers := []
  resync := false

def Stream.is (t : Stream) (src dst : Station) (ordered : Bool) : Bool :=
  t.src == src && t.dst == dst && t.ordered == ordered

def State.stream (s : State) (src dst : Station) (ordered : Bool) : Stream :=
  (s.streams.find? (fun t => t.is src dst ordered)).getD (Stream.fresh src dst ordered)

def State.setStream (s : State) (t : Stream) : State :=
  if s.streams.any (fun u => u.is t.src t.dst t.ordered) then
    { s with streams := s.streams.map (fun u => if u.is t.src t.dst t.ordered then t else u) }
  else { s with streams := s.streams ++ [t] }

/-- Whether a stream can take a further message now (R335). -/
def Stream.room (t : Stream) : Bool := decide (t.unacked.length < Config.streamWindow)

/-- Puts freight of a stream into the network at a station. -/
def State.launch (s : State) (t : Stream) (f : Freight) (from_ : Station) : State :=
  let (x, y) := match s.remap.spot from_ with
    | .site x y => (x, y)
    | _ => (0, 0)
  { s with flights := s.flights ++ [⟨t.src, t.dst, t.ordered, f, x, y, 0⟩] }

/-- Sends a message on its stream of a class: it gets the next number and stays in the retransmit buffer until it is
acknowledged; beyond 64 it waits at the source (R335). -/
def State.postOn (s : State) (ordered : Bool) (src dst : Station) (b : Body) : State :=
  let t := s.stream src dst ordered
  let t' := { t with nextSeq := t.nextSeq + 1, unacked := t.unacked ++ [(t.nextSeq, b)] }
  let s := s.setStream t'
  if t.room then s.launch t' (.message t.nextSeq b) src else s

/-- Sends a message on the ordered class. -/
def State.post (s : State) (src dst : Station) (b : Body) : State := s.postOn true src dst b

/-- Sends again every unacknowledged message of a stream, in sequence order (R337). -/
def resendAll (t : Stream) : List (BitVec 16 × Body) → State → State
  | [], s => s
  | (q, b) :: l, s => resendAll t l (s.launch t (.message q b) t.src)

def State.resend (s : State) (t : Stream) : State := resendAll t (t.unacked.take Config.streamWindow) s

/-- The lowest live wharf of a mask (R346). -/
def State.lowestWharf (s : State) (mask : BitVec 16) : Option Nat :=
  (List.range 16).find? (fun w => mask.getLsbD w && (Tab.getD s.wharves w Wharf.clear).live)

/-- The station a SEND goes to: its core, or the wharf towards another panel (R159, R345, R346); none while no wharf of
the route is live. -/
def State.sendStation (s : State) (desc : Word) : Option Station :=
  let panel := desc.extractLsb' 48 12
  if desc.getLsbD 47 && panel != s.panel then
    (s.lowestWharf (Tab.getD s.routes panel.toNat 0)).map Station.wharf
  else some (.core (desc.toNat % 2 ^ 13))

/-- Moves SENDs from the send queue to their streams while there is room, oldest first (R161, R335). -/
def drainSends (n : Nat) : List SendMsg → State → State
  | [], s => s.modCore n (fun c => { c with sendq := [] })
  | m :: l, s =>
    match s.sendStation m.desc with
    | some dst =>
      if (s.stream (.core n) dst true).room then drainSends n l (s.post (.core n) dst (.send m))
      else s.modCore n (fun c => { c with sendq := m :: l })
    | none => s.modCore n (fun c => { c with sendq := m :: l })

/-- Sends the refusals for other panels that have a live wharf now; the others wait at their core (R346). -/
def drainRefusals (n : Nat) : List (BitVec 12 × Nat × Mail) → State → State
  | [], s => s
  | (p, core, m) :: l, s =>
    drainRefusals n l (match s.lowestWharf (Tab.getD s.routes p.toNat 0) with
      | some w => s.post (.core n) (.wharf w) (.refused p core m)
      | none => s.modCore n (fun c => { c with outRefuse := c.outRefuse ++ [(p, core, m)] }))

/-- The wharf that a message on the adaptive class takes: any live one of the mask (R346). FREE VALUE: which one. -/
def State.anyWharf (s : State) (mask : BitVec 16) : Option Nat :=
  let ws := (List.range 16).filter (fun w => mask.getLsbD w && (Tab.getD s.wharves w Wharf.clear).live)
  ws[(Config.freeWord s.fresh).toNat % ws.length]?

/-- The wharf towards a panel on a route class. -/
def State.wharfTo (s : State) (ordered : Bool) (panel : BitVec 12) : Option Nat :=
  let mask := Tab.getD s.routes panel.toNat 0
  if ordered then s.lowestWharf mask else s.anyWharf mask

/-- An acknowledgement reaches the source: the message leaves the retransmit buffer, and a waiting one takes its
place. -/
def State.acknowledge (s : State) (t : Stream) (q : BitVec 16) : State :=
  let t' := { t with unacked := t.unacked.filter (fun u => u.1 != q) }
  let s := s.setStream t'
  let s := match decide (t'.unacked.length < t.unacked.length), t'.unacked[Config.streamWindow - 1]? with
    | true, some (p, b) => s.launch t' (.message p b) t.src
    | _, _ => s
  match t.src with
  | .core n => drainSends n (s.core n).sendq s
  | _ => s

/-- Discards the streams and messages of the stations that satisfy `p` (R337). -/
def State.dropStreams (s : State) (p : Station → Bool) : State :=
  { s with
    streams := s.streams.filter (fun t => !(p t.src || p t.dst))
    flights := s.flights.filter (fun f => !(p f.src || p f.dst)) }

/-! ### Barges as flits (R171) -/

/-- The header doubleword of a barge's flits: flit number 0 or 1 (R171). -/
def Barge.flitHeader (g : Barge) (flit : Nat) : Word :=
  BitVec.ofNat 64 (g.srcCore + g.srcCtx * 2 ^ 13 + g.dst * 2 ^ 19 + flit * 2 ^ 32)

/-- x0 to x23 of a barge, from register i on. -/
def Barge.regWords (g : Barge) (i k : Nat) : List Word := (List.range k).map (fun j => g.regs.getD (i + j) 0)

/-- The two 128-byte flits of a barge, as doublewords (R171). -/
def Barge.flits (g : Barge) : List Word × List Word :=
  ([g.flitHeader 0, g.pc, g.pred, BitVec.ofNat 64 (g.rm.toNat + 4 * g.flags.toNat + 2 ^ 8 * g.vahi.toNat)] ++ g.regWords 0 12,
   [g.flitHeader 1] ++ g.regWords 12 12 ++ [0, 0, 0])

/-- The barge that two flits carry, of a thread of a region. -/
def Barge.ofFlits (region : Nat) (f : List Word × List Word) : Barge :=
  let w := fun i => f.1.getD i 0
  { srcCore := ((w 0).extractLsb' 0 13).toNat, srcCtx := ((w 0).extractLsb' 13 6).toNat,
    dst := ((w 0).extractLsb' 19 13).toNat, region := region, pc := w 1, pred := w 2, rm := (w 3).extractLsb' 0 2,
    flags := (w 3).extractLsb' 2 5, vahi := (w 3).extractLsb' 8 8, regs := (f.1.drop 4).take 12 ++ (f.2.drop 1).take 12 }

/-! ### Delivery at a station -/

/-- The header of an entry (R163). -/
def Mail.header (m : Mail) : Word := m.kind ++ m.ctx ++ m.srcCore ++ m.srcCtx ++ (0 : BitVec 15) ++ m.tag

/-- The entry that a header and a payload give. -/
def Mail.ofHeader (h v : Word) : Mail where
  kind := h.extractLsb' 56 8
  ctx := h.extractLsb' 50 6
  srcCore := h.extractLsb' 37 13
  srcCtx := h.extractLsb' 31 6
  tag := h.extractLsb' 0 16
  payload := v

/-- The payload of a message that leaves the panel; nothing else does. -/
def Body.payload (panel : BitVec 12) : Body → Option Nat
  | .send m => some (Config.sendPayload panel m.core m.ctx m.desc m.val)
  | .refused p c m => some (Config.refusalPayload p c m.header m.payload)
  | .access p x => some (Config.accessPayload p x)
  | .reply p num v => some (Config.answerPayload p num v)
  | _ => none

/-! ### Flits (R347, R348) -/

/-- Bytes 0 to 123 of a flit as a number: header and payload. -/
def flitBody (f : Flit) : Nat :=
  f.lseq.toNat * 2 ^ 48 + f.lack.toNat * 2 ^ 32 + f.nak.toNat * 2 ^ 31 + f.kind.toNat * 2 ^ 28 + 2 ^ 64 * (f.payload % 2 ^ 928)

/-- A flit with its CRC. -/
def sealFlit (f : Flit) : Flit := { f with crc := crc32c 992 (flitBody f) }

/-- Whether a flit's CRC agrees with its bytes. -/
def flitOk (f : Flit) : Bool := f.crc == crc32c 992 (flitBody f)

/-- The flits of a message that a sender gives at most (log entry 74). -/
def messageFlits : Nat := 16

/-- The 116-byte parts of a message's payload, in order. -/
def payloadParts (p : Nat) : List Nat :=
  let p := p % 2 ^ (928 * messageFlits)
  (List.range (p.log2 / 928 + 1)).map (fun i => p / 2 ^ (928 * i) % 2 ^ 928)

/-- Whether a sender may hold further flits (R348). -/
def Wharf.roomFor (v : Wharf) (k : Nat) : Bool := v.live && decide (v.sent.length + k ≤ Config.wharfSlots)

/-- Sends a flit with the link's present LACK and NAK. -/
def Wharf.sendFlit (v : Wharf) (kind : BitVec 3) (payload : Nat) : Wharf :=
  let f : Flit := sealFlit ⟨v.nextSeq, v.got, v.nak, kind, payload, 0⟩
  { v with nextSeq := v.nextSeq + 1, nak := false, sent := v.sent ++ [f], out := v.out ++ [f] }

/-- Sends the continuation flits of a message. -/
def Wharf.sendRest : List Nat → Wharf → Wharf
  | [], v => v
  | p :: t, v => Wharf.sendRest t (v.sendFlit 2 p)

/-- Sends a message: its first flit, then the continuations. -/
def Wharf.sendMessage (v : Wharf) (src : Station) (b : Body) : List Nat → Wharf
  | [] => v
  | p :: t =>
    let v := Wharf.sendRest t (v.sendFlit 1 p)
    { v with taken := v.taken ++ [(v.nextSeq - 1, src, b)] }

/-- Sends the messages that wait, oldest first, while there is room for all the flits of one. -/
def Wharf.pump (panel : BitVec 12) : List (Station × Body) → Wharf → Wharf
  | [], v => { v with queue := [] }
  | (src, b) :: t, v =>
    match b.payload panel with
    | none => Wharf.pump panel t v
    | some p =>
      let ps := payloadParts p
      if v.roomFor ps.length then Wharf.pump panel t (v.sendMessage src b ps) else { v with queue := (src, b) :: t }

/-- Whether the wharf's station takes a message now. -/
def Wharf.room (v : Wharf) : Bool := v.roomFor 1 && v.queue.isEmpty

def State.wharf (s : State) (w : Nat) : Wharf := Tab.getD s.wharves w Wharf.clear
def State.setWharf (s : State) (w : Nat) (v : Wharf) : State := { s with wharves := Tab.set s.wharves w v }

/-- Hands a message to a wharf. -/
def State.sendWharf (s : State) (w : Nat) (src : Station) (b : Body) : State :=
  let v := s.wharf w
  s.setWharf w (v.pump s.panel (v.queue ++ [(src, b)]))

/-- The lock-keeper's partition of a core station. -/
def State.keeperOf (s : State) (n : Nat) : Option Nat := s.partOfCore n

/-- Hands a message to its station (R336). -/
def State.deliver (s : State) (src dst : Station) (b : Body) : State :=
  match dst with
  | .core n =>
    match b with
    | .barge f g => s.modCore n (fun c => { c with bargeWait := c.bargeWait ++ [Barge.ofFlits g f] })
    | .bar m => s.modCore n (fun c => { c with barq := c.barq ++ [m] })
    | .trigger _ _ _ _ _ _ _ =>
      match s.keeperOf n with
      | some p => s.modPart p (fun v => { v with trigq := v.trigq ++ [b] })
      | none => s
    | .scopew _ _ _ _ _ _ _ _ _ _ =>
      match s.keeperOf n with
      | some p => s.modPart p (fun v => { v with scopeq := v.scopeq ++ [b] })
      | none => s
    | .reserve _ _ _ _ =>
      match s.keeperOf n with
      | some p => s.modPart p (fun v => { v with resq := v.resq ++ [b] })
      | none => s
    | .send _ => s.modCore n (fun c => { c with inbox := c.inbox ++ [b] })
    | .refused _ _ _ | .access _ _ | .reply _ _ _ => s
  | .wharf w => s.sendWharf w src b
  | .chiplet _ | .base _ => s

/-- Whether a station performs arrivals now (R339): a core stopped for retirement does not. -/
def State.performs (s : State) : Station → Bool
  | .core n => !(s.core n).retiring
  | .wharf w => (s.wharf w).room
  | _ => true

/-- The adaptive expected number moves past the performed map (R336). -/
def skipPerformed (e : BitVec 16) (m : BitVec 64) : Nat → BitVec 16 × BitVec 64
  | 0 => (e, m)
  | k + 1 => if m.getLsbD 0 then skipPerformed (e + 1) (m >>> 1) k else (e, m)

/-- The answers a destination keeps: those to the last 64 numbers (R336). -/
def keepAnswers (l : List (BitVec 16)) : List (BitVec 16) := l.drop (l.length - 128)

/-- An arriving message at its destination (R336): performed, dropped, or answered from the cache. -/
def State.arrive (s : State) (t : Stream) (q : BitVec 16) (b : Body) : State :=
  let ahead := (q - t.expected).toNat
  let behind := (t.expected - q).toNat
  let answer := fun (s : State) (t : Stream) => s.launch t (.answer q) t.dst
  if t.resync then s.launch t .resync t.dst
  else if ahead = 0 then
    let (e, m) := if t.ordered then (t.expected + 1, t.map) else skipPerformed (t.expected + 1) (t.map >>> 1) 64
    let t' := { t with expected := e, map := m, answers := keepAnswers (t.answers ++ [q]) }
    answer ((s.setStream t').deliver t.src t.dst b) t'
  else if ahead < 64 then
    if t.ordered then s
    else if t.map.getLsbD ahead then answer s t
    else
      let t' := { t with map := t.map ||| (1 <<< ahead), answers := keepAnswers (t.answers ++ [q]) }
      answer ((s.setStream t').deliver t.src t.dst b) t'
  else if behind ≤ 64 then answer s t
  else s

/-! ### Twins (R318, R319) -/

/-- The logical core a compared copy of a region addresses for a number of the first placement (R318). -/
def State.twinTarget (s : State) (n m : Nat) : Nat :=
  match s.regionOf n with
  | some r =>
    if r.f.paired && (s.core n).twin then
      match r.tasks.findIdx? (fun x => x == m) with
      | some i => r.copy.getD i m
      | none => m
    else m
  | none => m

/-- Whether core m belongs to the copy of core n's region that core n runs in. -/
def State.sameCopy (s : State) (n m : Nat) : Bool :=
  match s.regionOf n with
  | some r => (if (s.core n).twin then r.copy else r.tasks).contains m
  | none => false

/-- Sends a message of core n: in a PAIRED region, one that leaves its own copy waits for its twin (R319). -/
def State.postFrom (s : State) (n : Nat) (dst : Station) (b : Body) (outside : Bool) (hash : Word) : State :=
  match s.nextPair n, outside with
  | some k, true =>
    let c := s.core n
    let m : PairMsg :=
      { region := c.region - 1, task := c.task, count := k, twin := c.twin, hash := hash,
        body := some (.core n, dst, b), req := none, op := none }
    { (s.bumpPair n) with pairs := s.pairs ++ [m] }
  | _, _ => s.post (.core n) dst b

end Sys2Proof.Machine
end

