-- ==== Sys2Proof/Machine/Threads.lean ====
section
/-! DEFINITION. Contexts, full/empty bits, SEND, the mailbox and barges, as instructions (R146 to R174). -/

namespace Sys2Proof.Machine

/-! ### Contexts (R147) -/

/-- Whether a context holds a window (R147). -/
def CtxState.hasWindow : CtxState → Bool
  | .empty | .runnable | .parked | .idling | .halted => true
  | .free | .departed | .killed => false

/-- What a context without a thread keeps: the number of its next record (R300). -/
def Ctx.released (t : Ctx) (st : CtxState) : Ctx := { Ctx.free with st := st, recNo := t.recNo }

/-- Whether the entries from `b`, `k` of them, meet the window of a context of the core. -/
def Core.windowMeets (c : Core) (b k : Nat) : Bool :=
  c.ctxs.any (fun e => e.2.st.hasWindow && decide (b < e.2.base + e.2.size) && decide (e.2.base < b + k))

/-! ### SPAWN (R154) -/

/-- The spawn descriptor. -/
structure SpawnDesc where
  rlim : Nat
  rbase : Nat
  barge : Bool
  args : Nat
  size : Nat
  base : Nat
  ctx : Nat
  zeros : Bool

def spawnDesc (a : Word) : SpawnDesc where
  rlim := storedLim (a.extractLsb' 44 14).toNat
  rbase := (a.extractLsb' 31 13).toNat
  barge := a.getLsbD 24
  args := (a.extractLsb' 20 4).toNat
  size := 8 * ((a.extractLsb' 16 4).toNat + 1)
  base := 8 * (a.extractLsb' 8 8).toNat
  ctx := (a.extractLsb' 0 6).toNat
  zeros := a.extractLsb' 58 6 == 0 && a.extractLsb' 25 6 == 0 && a.extractLsb' 6 2 == 0

/-- Whether SPAWN may use the descriptor: the CONTEXT_STATE conditions. -/
def Core.spawnOk (c : Core) (p : SpawnDesc) : Bool :=
  p.zeros && p.ctx != 0 && decide (p.ctx < c.n) && (c.ctx p.ctx).st == .free && decide (p.args ≤ 8)
    && decide (p.base + p.size ≤ Config.fileEntries) && !c.windowMeets p.base p.size
    && !(p.barge && (p.size != 24 || p.ctx == 1))

/-- Writes values into consecutive register-file entries. -/
def Core.fillRegs (c : Core) (i : Nat) : List Word → Core
  | [] => c
  | v :: t => (c.localWrite i v false).fillRegs (i + 1) t

/-- The child's context (R38, R154). -/
def spawned (p : SpawnDesc) (old parent : Ctx) (pc : Word) (cycle : Nat) : Ctx :=
  { Ctx.free with
    st := if p.barge then .empty else .runnable
    bargeCtx := p.barge
    pc := if p.barge then 0 else pc
    base := p.base
    size := p.size
    rbase := p.rbase
    rlim := p.rlim
    rasp := BitVec.ofNat 64 (p.rbase * 8)
    vahi := if p.barge then 0 else parent.vahi
    notBefore := cycle + 4
    recNo := old.recNo
    tag := parent.tag }

/-- SPAWN (R38, R153, R154). -/
def execSpawn (sw : Bool) (d a b : Reg) (s : State) : Out :=
  instr { ctx := some 0 } (do
    operands [a, b] []
    let x ← readUse a
    let y ← readUse b
    let p := spawnDesc x
    let s ← get
    need (p.args == 0 || groupInWindow s.thr.size p.args d) (.fault { code := cILLEGAL_OPERAND, oprs := [x, y] })
    need ((s.core s.cur).spawnOk p) (.fault { code := cCONTEXT_STATE, oprs := [x, y] })
    need (p.barge || !misaligned4 y) (.fault { code := cALIGNMENT, oprs := [x, y], va := y })
    let names := if p.barge then [] else regsFrom d p.args
    operands names []
    let vs ← names.mapM readUse
    onState (fun s => s.modCore s.cur (fun c =>
      let c := { c with rf := clearRegs c.rf p.base p.size }
      let c := c.setCtx p.ctx (spawned p (c.ctx p.ctx) s.thr y c.cycle)
      c.fillRegs p.base vs))
    retire sw) s

/-! ### REAP (R155) -/

/-- What REAP of a context answers: its x0, or a number that names how the thread left; none while it must wait. -/
def State.reapResult (s : State) (n x : Nat) : Option PVal :=
  let t := s.thread n x
  match t.st with
  | .empty => some ⟨0, false⟩
  | .departed => some ⟨0xFFFFFFFFFFFFFFFF, false⟩
  | .killed => some ⟨0xFFFFFFFFFFFFFFFE, false⟩
  | .idling =>
    if !t.bargeCtx && t.outst.isEmpty && !s.unjoined n x then
      let e := (s.core n).reg t.base
      some ⟨e.val, e.poison⟩
    else none
  | _ => none

/-- REAP (R155). -/
def execReap (sw : Bool) (d a : Reg) (s : State) : Out :=
  instr { ctx := some 0 } (do
    operands [a] [d]
    let x ← readUse a
    let s ← get
    need (x != 0 && decide (x.toNat < (s.core s.cur).n) && (s.thread s.cur x.toNat).st != .free)
      (.fault { code := cCONTEXT_STATE, oprs := [x] })
    match s.reapResult s.cur x.toNat with
    | none => parkAct (.reap x.toNat)
    | some r =>
      onState (fun s => s.modThread s.cur x.toNat (fun t => t.released .free))
      setReg d r.v r.p
      retire sw) s

/-! ### REPART (R156) -/

/-- W(N). -/
def windowOf (n : Nat) : Nat := if n ≤ 16 then 128 else if n = 32 then 64 else 32

/-- N after the change that A selects. -/
def repartN (a : Word) (n : Nat) : Nat := if a = 1 then n / 2 else if a = 2 then n * 2 else n

/-- Whether every context other than 0 is FREE and context 0 has nothing outstanding. -/
def Core.quiescent (c : Core) : Bool := c.ctxs.all (fun e => e.1 == 0 || e.2.st == .free) && (c.ctx 0).outst.isEmpty

/-- Whether REPART waits at a core (R156, R160, R173). -/
def Core.inRepart (c : Core) : Bool := (c.ctx 0).st == .parked && (c.ctx 0).park == some .repart

/-- The window of context 0 after REPART: base 0, size W(N); what lies beyond the old or the new size is cleared. -/
def Core.repartTo (c : Core) (n : Nat) : Core :=
  let t := c.ctx 0
  let w := windowOf n
  let keep := min t.size w
  let c := { c with n := n, rf := clearRegs c.rf keep (128 - keep) }
  c.setCtx 0 { t with base := 0, size := w }

/-- REPART (R156). -/
def execRepart (sw : Bool) (d a : Reg) (s : State) : Out :=
  instr { priv := true, ctx := some 0 } (do
    operands [a] []
    let x ← readUse a
    let s ← get
    let c := s.core s.cur
    need (!(decide (2 < x.toNat) || (x == 1 && c.n == 8) || (x == 2 && c.n == 64)))
      (.fault { code := cCONTEXT_STATE, oprs := [x] })
    let n := repartN x c.n
    need (decide (d.toNat < 0x80) && decide (d.toNat < min s.thr.size (windowOf n)))
      (.fault { code := cILLEGAL_OPERAND, oprs := [x] })
    if x = 0 then pure ()
    else do
      need c.quiescent (.park .repart)
      onState (fun s => s.modCore s.cur (fun c => c.repartTo n))
    setReg d (BitVec.ofNat 64 n) false
    retire sw) s

/-! ### Full/empty bits (R157, R158) -/

/-- CLRF (R158). -/
def execClrf (sw : Bool) (d : Reg) (s : State) : Out :=
  instr {} (do
    need (inWindow (← get).thr.size d) illegalOperand
    onState (fun s => s.modCore s.cur (fun c =>
      let i := s.thr.base + d.toNat
      c.setReg i { c.reg i with armed := true, full := false }))
    retire sw) s

/-! ### SEND (R159 to R161) -/

/-- Fields of the send descriptor (R159). -/
def sendCore (a : Word) : Nat := (a.extractLsb' 0 13).toNat
def sendCtx (a : Word) : Nat := (a.extractLsb' 13 6).toNat
def sendReg (a : Word) : Nat := (a.extractLsb' 19 7).toNat
def sendMb (a : Word) : Bool := a.getLsbD 26
def sendTag (a : Word) : BitVec 16 := a.extractLsb' 31 16
def sendFab (a : Word) : Bool := a.getLsbD 47
def sendPanel (a : Word) : BitVec 12 := a.extractLsb' 48 12
def sendCmd (a : Word) : BitVec 4 := a.extractLsb' 60 4

/-- The entry that refuses a SEND (R160). -/
def refusal (desc : Word) (ctx : Nat) (sealed : Bool) : Mail where
  kind := 3
  ctx := BitVec.ofNat 6 ctx
  srcCore := BitVec.ofNat 13 (sendCore desc)
  srcCtx := BitVec.ofNat 6 (sendCtx desc)
  tag := sendTag desc
  payload := if sealed then desc ||| 0x40000000 else desc

/-- Queues a SEND of the thread at hand (R161): in a PAIRED region it waits for its twin where it leaves the copy (R318);
a core number that names no core is refused (R160). -/
def State.queueSend (s : State) (a b : Word) : State :=
  let n := s.cur
  let c := s.core n
  let away := sendFab a && sendPanel a != s.panel
  if !away && decide (Config.cores ≤ sendCore a) then
    s.modCore n (fun c => { c with waitRefuse := c.waitRefuse ++ [refusal a s.ctx false] })
  else
    let m := if away then sendCore a else s.twinTarget n (sendCore a)
    let msg : SendMsg :=
      { desc := (a &&& ~~~0x1FFF) ||| BitVec.ofNat 64 m, val := b, core := n, ctx := s.ctx, priv := s.thr.priv,
        root := c.root, vahi := s.thr.vahi, notBefore := c.cycle + 4, panel := none, twin := none }
    if (s.nextPair n).isSome && (away || !s.sameCopy n m) then
      s.postFrom n (if away then .wharf 0 else .core m) (.send msg) true (Config.pairHash 1 [(m, 8, 0xFF, a.toNat + 2 ^ 64 * b.toNat)])
    else drainSends n (c.sendq ++ [msg]) s

/-- SEND (R159, R161): held by pending releases (R242); a full send queue forfeits the slot. -/
def execSend (sw : Bool) (a b : Reg) (s : State) : Out :=
  instr {} (do
    operands [a, b] []
    heldGate
    let x ← readUse a
    let y ← readUse b
    let s ← get
    need (decide ((s.core s.cur).sendq.length < Config.sendQueueEntries)) .forfeit
    onState (fun s => s.queueSend x y)
    retire sw) s

/-! ### The mailbox (R163 to R166) -/

/-- WAITM (R165). -/
def execWaitm (sw : Bool) (s : State) : Out :=
  instr {} (do
    let s ← get
    need ((s.core s.cur).mailFor s.ctx) (.park .mail)
    retire sw) s

/-- RECVM (R166): the entry leaves the mailbox at issue; its two words are outstanding. -/
def execRecvm (sw : Bool) (d : Reg) (s : State) : Out :=
  instr {} (do
    let s ← get
    need (groupInWindow s.thr.size 2 d) illegalOperand
    let c := s.core s.cur
    let mine := fun (m : Mail) => m.ctx.toNat == s.ctx
    let (h, p) := match c.mail.find? mine with
      | some m => (m.header, m.payload)
      | none => ((0 : Word), (0 : Word))
    onState (fun s =>
      (s.modCore s.cur (fun c => { c with mail := removeFirst mine c.mail })).addOutst s.cur s.ctx .recvm
        [.reg d h false, .reg (d + 1) p false] 0 true)
    retire sw) s

/-! ### MIGRATE (R171, R172, R205) -/

/-- Home chiplet of an address for MIGRATE: translated without a permission check. -/
def State.migrateHome (s : State) (n : Nat) (t : Ctx) (a : Word) : Except WalkFault Nat :=
  if inLocalWindow a then .ok (n / 8)
  else
    let va := virtual t.vahi a
    let open_ := fun (l : Leaf) => ({ l with us := true, rd := true } : Leaf).check va .load true
    match s.leafFor n (s.core n).root va (fun l => (open_ l).isNone) with
    | .error e => .error e
    | .ok (l, _) =>
      match open_ l with
      | some code => .error ⟨code, l.level⟩
      | none =>
        let pa := l.pa va
        match paKind pa with
        | .basin => .ok ((pa - basinBase) / 0x1000000)
        | .coreLocal => .ok ((pa - localBase) / 0x10000 / 8)
        | _ => .ok (s.homeOf l pa)

/-- Whether every earlier store of a thread is acknowledged. -/
def State.storesAcked (s : State) (n x : Nat) : Bool :=
  (s.thread n x).unacked.isEmpty && s.reqs.all (fun r => !(r.core == n && r.ctx == x && r.kind.isWrite))

/-- Packs the thread at hand. -/
def State.packBarge (s : State) (dst : Nat) (pc : Word) (regs : List Word) : Barge :=
  let t := s.thr
  { srcCore := s.cur, srcCtx := s.ctx, dst := dst, region := (s.core s.cur).region, pc := pc, pred := t.pred, rm := t.rm, flags := t.flags,
    vahi := t.vahi, regs := regs }

/-- MIGRATE (R172): held by pending releases (R242). DEDUCED (log entry 81): a poisoned mask contains the core. -/
def execMigrate (_sw : Bool) (a : Reg) (s : State) : Out :=
  instr {} (do
    operands [a] []
    let x ← readUse a
    let s ← get
    let t := s.thr
    need (!(decide (s.ctx < 2) || decide (t.size < 24) || decide (0 < t.lpD) || decide (0 < t.rasd)
        || decide (t.rasp.toNat ≠ t.rbase * 8) || s.unjoined s.cur s.ctx))
      (.fault { code := cMIGRATE_STATE, oprs := [x] })
    need (t.outst.isEmpty && s.storesAcked s.cur s.ctx) (.park .migrate)
    heldGate
    match s.migrateHome s.cur t x with
    | .error e => faultAct { code := e.code, oprs := [x], va := x, vahi := t.vahi, level := e.level }
    | .ok home =>
      operands (regsFrom 0 24) []
      need (!(t.poison0 || t.poison1)) .contain
      let rs ← readGroup 0 24
      let dst := home * 8 + (x.extractLsb' 6 3).toNat
      let g := s.packBarge dst (t.opw + 4) rs
      onState (fun s =>
        let s := s.post (.core s.cur) (.core dst) (.barge g.flits g.region)
        if t.bargeCtx then s.endBarge s.cur s.ctx
        else s.modThr (fun u => u.released .departed))) s

end Sys2Proof.Machine
end

