-- ==== Sys2Proof/Machine/Sync.lean ====
section
/-! DEFINITION. Fences, atomics, reductions, SCOPEW, line operations, TRIGGER and BAR as instructions (R190, R194, R225,
R240 to R248). -/

namespace Sys2Proof.Machine

/-! ### FENCE (R242) -/

/-- The outstanding results an acquire waits for: loads, AMO and CAS, RECVM and BAR (R242). -/
def Ctx.acquireIds (t : Ctx) : List Nat :=
  (t.outst.filter (fun o => o.kind == .load || o.kind == .atomic || o.kind == .recvm || o.kind == .bar)).map Outst.id

/-- Parks the next instruction until the results are written (R242, R246, R271). -/
def Ctx.awaitResults (t : Ctx) (ids : List Nat) : Ctx := if ids.isEmpty then t else t.waitFor (.results ids)

/-- The thread waits for a sequentially consistent fence; with `sw` it waits for every outstanding result as well (R23). -/
def Ctx.awaitSeqCst (t : Ctx) (sw : Bool) (r : Release) : Ctx :=
  { t with st := .parked, park := some (.seqCst (if sw then t.outst.map Outst.id else t.acquireIds) r) }

/-- The effect of a fence on the thread, which has moved past it (R43, R242). -/
def Ctx.fenced (t : Ctx) (k : FenceKind) (sw : Bool) (r : Release) : Ctx :=
  match k with
  | .acq => t.awaitResults t.acquireIds
  | .rel => { t with releases := t.releases ++ [r] }
  | .ar => ({ t with releases := t.releases ++ [r] }).awaitResults t.acquireIds
  | .sc => ({ t with synced := t.synced || r.scope == Scope.thread }).awaitSeqCst sw r

/-- FENCE (R242). -/
def execFence (sw : Bool) (kind : FenceKind) (scope : BitVec 4) (s : State) : Out :=
  instr {} (do
    let sc ← sampleAct scope []
    retire sw
    onState (fun s => s.modThr (fun t => t.fenced kind sw ⟨s.fresh, sc⟩))) s

/-! ### Atomics (R245 to R248) -/

/-- f of R246. -/
def amoValue (fn : BitVec 3) (old v : Word) : Word :=
  match fn.toNat with
  | 0 => old + v
  | 1 => minS old v
  | 2 => maxS old v
  | 3 => minU old v
  | 4 => maxU old v
  | 5 => old &&& v
  | 6 => old ||| v
  | _ => v

/-- g of R248: FADD rounds to nearest even and gives canonical NaNs. -/
def redValue (fn : BitVec 3) (old v : Word) : Word :=
  match fn.toNat with
  | 0 | 1 => BitVec.ofNat 64 (fpAdd fmt64 0 old.toNat v.toNat).1
  | 2 => old + v
  | 3 => minS old v
  | _ => maxS old v

/-- What an atomic writes for the old value, if anything (R245). -/
def ReqKind.update (k : ReqKind) (old : Word) : Option Word :=
  match k with
  | .amo fn _ v => some (amoValue fn old v)
  | .cas _ e n => if old = e then some n else none
  | .red fn v _ _ => some (redValue fn old v)
  | _ => none

/-- An atomic in the local window: performed within the slot; answers the old value and its mark (R245). -/
def localAtomic (ea : Word) (k : ReqKind) : Act PVal := do
  let s ← get
  let (v, p) := s.localRead s.cur ea 8
  let old := BitVec.ofNat 64 v
  match k.update old with
  | some w => set ((s.noteStore s.cur s.ctx ea 8).localWrite s.cur ea 8 w.toNat)
  | none => pure ()
  pure ⟨old, p⟩

/-- The part AMO and CAS share from the sampled scope on. -/
def atomicOp (sw : Bool) (d : Reg) (ea : Word) (k : ReqKind) (sc : Scope) (scIdx : BitVec 4) (ord : Bool)
    (oprs : List Word) : Act Unit := do
  if ord then releaseGate scIdx sc
  if inLocalWindow ea then do
    let old ← localAtomic ea k
    setReg d old.v old.p
    retire sw
  else do
    let id := (← get).fresh
    onState (fun s =>
      (s.addOutst s.cur s.ctx .atomic [.reg d 0 false] 0 false).addReq k [Lane.start 0 ea 8 0] false sc scIdx
        (some id) oprs)
    retire sw
    if ord then onState (fun s => s.modThr (fun t => t.awaitResults [id]))

/-- AMO (R246): held by pending releases. -/
def amoOp (fn : BitVec 3) (sw : Bool) (d a : Reg) (scope : BitVec 4) (ord : Bool) : Act Unit := do
  need (outWritable (← get).thr.size d) illegalOperand
  operands [a, d] [d]
  heldGate
  let t := (← get).thr
  let x ← readUse a
  let v ← readUse d
  need (alignedTo x 8) (alignFault t x .atomic [x, v])
  let sc ← sampleAct scope [x, v]
  atomicOp sw d x (.amo fn d v) sc scope ord [x, v]

/-- AMO.ADD (R246). -/
def execAmoAdd (sw : Bool) (d a : Reg) (scope : BitVec 4) (ord : Bool) (s : State) : Out :=
  instr {} (amoOp 0 sw d a scope ord) s

/-- AMO.MIN (R246). -/
def execAmoMin (sw : Bool) (d a : Reg) (scope : BitVec 4) (ord : Bool) (s : State) : Out :=
  instr {} (amoOp 1 sw d a scope ord) s

/-- AMO.MAX (R246). -/
def execAmoMax (sw : Bool) (d a : Reg) (scope : BitVec 4) (ord : Bool) (s : State) : Out :=
  instr {} (amoOp 2 sw d a scope ord) s

/-- AMO.MINU (R246). -/
def execAmoMinu (sw : Bool) (d a : Reg) (scope : BitVec 4) (ord : Bool) (s : State) : Out :=
  instr {} (amoOp 3 sw d a scope ord) s

/-- AMO.MAXU (R246). -/
def execAmoMaxu (sw : Bool) (d a : Reg) (scope : BitVec 4) (ord : Bool) (s : State) : Out :=
  instr {} (amoOp 4 sw d a scope ord) s

/-- AMO.AND (R246). -/
def execAmoAnd (sw : Bool) (d a : Reg) (scope : BitVec 4) (ord : Bool) (s : State) : Out :=
  instr {} (amoOp 5 sw d a scope ord) s

/-- AMO.OR (R246). -/
def execAmoOr (sw : Bool) (d a : Reg) (scope : BitVec 4) (ord : Bool) (s : State) : Out :=
  instr {} (amoOp 6 sw d a scope ord) s

/-- AMO.XCHG (R246). -/
def execAmoXchg (sw : Bool) (d a : Reg) (scope : BitVec 4) (ord : Bool) (s : State) : Out :=
  instr {} (amoOp 7 sw d a scope ord) s

/-- CAS (R247): held by pending releases. -/
def execCas (sw : Bool) (d a : Reg) (b scope : BitVec 4) (s : State) : Out :=
  instr {} (do
    let br : Reg := b.setWidth 8
    need (outWritable (← get).thr.size d) illegalOperand
    operands [a, br, d] [d]
    heldGate
    let t := (← get).thr
    let x ← readUse a
    let e ← readUse br
    let n ← readUse d
    need (alignedTo x 8) (alignFault t x .atomic [x, e, n])
    let sc ← sampleAct scope [x, e, n]
    atomicOp sw d x (.cas d e n) sc scope false [x, e, n]) s

/-- Whether core n is its partition's lock-keeper (R239). -/
def State.isKeeper (s : State) (n : Nat) : Bool := s.keeps n n

/-- The window entry that a RED at `ea` contributes to, if any (R249). -/
def State.redWindow (s : State) (n : Nat) (sc : Scope) (ea : Word) : Option (Nat × ScopeEntry) :=
  match sc with
  | .entry i e =>
    if e.rwbase.toNat ≤ ea.toNat ∧ ea.toNat < e.rwbase.toNat + 64 * e.rwlines ∧ !s.isKeeper n then some (i, e) else none
  | _ => none

/-- Key of the set number of an entry and generation. -/
def setKey (i : Nat) (gen : BitVec 16) : Nat := 2 ^ 16 * i + gen.toNat

/-- The region's SCOPETAB with bits 71:64 of its address; 0 without a region. -/
def State.scopeTable (s : State) (n : Nat) : Word :=
  match s.regionOf n with
  | some r => r.f.scopetab
  | none => 0

/-- The VAHI of core n's scope table: bits 71:64 of its address (R175, R237). -/
def State.tableVahi (s : State) (n : Nat) : BitVec 8 :=
  match s.regionOf n with
  | some r => r.f.vahi
  | none => 0

/-- Whether an address lies on another panel as far as its translation says now: a RED there is a set of one (R344). -/
def State.remoteRed (s : State) (n : Nat) (ea : Word) : Bool :=
  match s.translate n (s.core n).root s.thr.vahi ea .atomic s.thr.priv with
  | .ok (l, _) => s.isFabric l
  | .error _ => false

/-- The set a contribution of a member core joins; a closing one raises the core's number (R249). -/
def State.joinSet (s : State) (n : Nat) (sc : Scope) (ea : Word) (close : Bool) : State × Option SetKey :=
  match s.redWindow n sc ea with
  | some (i, e) =>
    if e.names n && !s.remoteRed n ea then
      let k := setKey i e.gen
      let j := Tab.getD (s.core n).setNo k 0
      (if close then s.modCore n (fun c => { c with setNo := Tab.set c.setNo k (j + 1) }) else s,
       some ⟨(s.core n).root, s.tableVahi n, s.scopeTable n, i, e.gen, j⟩)
    else (s, none)
  | none => (s, none)

/-- RED (R248): held by pending releases; with ord = 1 first held as a release at its scope. It completes at issue. -/
def redOp (fn : BitVec 3) (sw : Bool) (a b : Reg) (scope : BitVec 4) (ord : Bool) : Act Unit := do
  operands [a, b] []
  heldGate
  let t := (← get).thr
  let x ← readUse a
  let v ← readUse b
  need (alignedTo x 8) (alignFault t x .atomic [x, v])
  let sc ← sampleAct scope [x, v]
  if ord then releaseGate scope sc
  if inLocalWindow x then do
    let _ ← localAtomic x (.red fn v ord none)
    retire sw
  else do
    onState (fun s =>
      let (s, j) := s.joinSet s.cur sc x ord
      s.addReq (.red fn v ord j) [Lane.start 0 x 8 v] false sc scope none [x, v])
    retire sw

/-- RED.FADD.ORD (R248). -/
def execRedFaddOrd (sw : Bool) (a b : Reg) (scope : BitVec 4) (ord : Bool) (s : State) : Out :=
  instr {} (redOp 0 sw a b scope ord) s

/-- RED.FADD.FAST (R248). -/
def execRedFaddFast (sw : Bool) (a b : Reg) (scope : BitVec 4) (ord : Bool) (s : State) : Out :=
  instr {} (redOp 1 sw a b scope ord) s

/-- RED.IADD (R248). -/
def execRedIadd (sw : Bool) (a b : Reg) (scope : BitVec 4) (ord : Bool) (s : State) : Out :=
  instr {} (redOp 2 sw a b scope ord) s

/-- RED.MIN (R248). -/
def execRedMin (sw : Bool) (a b : Reg) (scope : BitVec 4) (ord : Bool) (s : State) : Out :=
  instr {} (redOp 3 sw a b scope ord) s

/-- RED.MAX (R248). -/
def execRedMax (sw : Bool) (a b : Reg) (scope : BitVec 4) (ord : Bool) (s : State) : Out :=
  instr {} (redOp 4 sw a b scope ord) s

/-! ### SCOPEW (R241) -/

/-- Whether the thread at hand may write its region's scope table. -/
def State.mayScope (s : State) : Bool :=
  s.thr.priv || (s.ctx == 0 &&
    match s.regionOf s.cur with
    | some r => (if (s.core s.cur).twin then r.copy else r.tasks).head? == some s.cur
    | none => false)

/-- Sends a SCOPEW with its image to the lock-keeper. -/
def State.sendScopew (s : State) (n x : Nat) (sc : BitVec 4) (image : List Word) (out : Nat) (ipc a : Word) :
    State :=
  let lk := match s.partOfCore n with
    | some p => (s.part p).lk
    | none => 0
  let b : Body := .scopew (s.scopeTable n) (s.tableVahi n) (s.core n).root sc image n x out ipc a
  s.postFrom n (.core lk) b true 
    (Config.pairHash 8 [(sc.toNat, 128, 2 ^ 128 - 1, image.foldr (fun w a => w.toNat + 2 ^ 64 * a) 0)])

/-- SCOPEW (R241): held by pending releases. -/
def execScopew (sw : Bool) (a : Reg) (scope : BitVec 4) (s : State) : Out :=
  instr {} (do
    operands [a] []
    heldGate
    let t := (← get).thr
    let x ← readUse a
    need (alignedTo x 128) (alignFault t x .load [x])
    need (← get).mayScope (.fault { code := cSCOPE_STATE, oprs := [x] })
    let id := (← get).fresh
    let addr := fun (i : Nat) => x + BitVec.ofNat 64 (8 * i)
    onState (fun s => s.addOutst s.cur s.ctx .scopew [] 0 false)
    if inLocalWindow x then do
      let s ← get
      let ws := (List.range 16).map (fun i => s.localRead s.cur (addr i) 8)
      need (!(ws.any (fun w => w.2))) .contain
      set (s.sendScopew s.cur s.ctx scope (ws.map (fun w => BitVec.ofNat 64 w.1)) id t.pc x)
    else
      onState (fun s => s.addReq (.scopew scope) ((List.range 16).map (fun i => Lane.start i (addr i) 8 0)) false
        .thread scope (some id) [x])
    retire sw
    onState (fun s => s.modThr (fun t => t.awaitResults [id]))) s

/-! ### Line operations (R225, R226) -/

/-- LINEOP: d gets the next line at issue; the effect follows as an access. In the local window DISCARD and ZERO clear
the 64 bytes at once. Held by pending releases. -/
def lineOp (fn : BitVec 2) (sw : Bool) (d a : Reg) (scope : BitVec 4) : Act Unit := do
  operands [a] [d]
  heldGate
  let x ← readUse a
  let base := x - BitVec.ofNat 64 (x.toNat % 64)
  let sc ← sampleAct scope [x]
  setReg d (base + 64) false
  if inLocalWindow base then
    (if fn.toNat < 2 then pure ()
     else onState (fun s => (s.noteStore s.cur s.ctx base 64).localWrite s.cur base 64 0))
  else onState (fun s => s.addReq (.lineop fn) [Lane.start 0 base 64 0] false sc scope none [x])
  retire sw

/-- CLEAN (R225). -/
def execClean (sw : Bool) (d a : Reg) (scope : BitVec 4) (s : State) : Out := instr {} (lineOp 0 sw d a scope) s

/-- INVAL (R225). -/
def execInval (sw : Bool) (d a : Reg) (scope : BitVec 4) (s : State) : Out := instr {} (lineOp 1 sw d a scope) s

/-- DISCARD (R225). -/
def execDiscard (sw : Bool) (d a : Reg) (scope : BitVec 4) (s : State) : Out := instr {} (lineOp 2 sw d a scope) s

/-- ZERO (R225). -/
def execZero (sw : Bool) (d a : Reg) (scope : BitVec 4) (s : State) : Out := instr {} (lineOp 3 sw d a scope) s

/-! ### TRIGGER (R190) -/

/-- Core of the lock-keeper of core n's partition. -/
def State.keeperCore (s : State) (n : Nat) : Nat :=
  match s.partOfCore n with
  | some p => (s.part p).lk
  | none => 0

/-- TRIGGER (R190): held by pending releases. -/
def execTrigger (sw : Bool) (a b : Reg) (s : State) : Out :=
  instr {} (do
    operands [a, b] []
    heldGate
    let t := (← get).thr
    let x ← readUse a
    let y ← readUse b
    let kind := (y.extractLsb' 4 2).toNat
    need (decide (y.toNat < 64) && decide (kind < 3)) (.fault { code := cLAUNCH_STATE, oprs := [x, y] })
    need (alignedTo x (if kind = 2 then 64 else 128)) (alignFault t x .load [x, y])
    let sc ← sampleAct (y.extractLsb' 0 4) [x, y]
    writesGate (y.extractLsb' 0 4) sc
    onState (fun s => s.postFrom s.cur (.core (s.keeperCore s.cur))
      (.trigger kind x t.vahi s.cur s.ctx (s.core s.cur).root t.priv) true
      (Config.pairHash 5 [(s.physTarget s.cur (s.core s.cur).root t.vahi x .load t.priv, 8, 0xFF, y.toNat)]))
    retire sw) s

/-! ### BAR (R194) -/

/-- The barrier descriptor. -/
def barScope (a1 : Word) : BitVec 4 := a1.extractLsb' 28 4
def barMembers (a1 : Word) : Nat := (a1.extractLsb' 22 6).toNat + 1
def barMember (a1 : Word) : Nat := (a1.extractLsb' 16 6).toNat
def barUnit (a1 : Word) : Nat := (a1.extractLsb' 14 2).toNat
def barHome (a1 : Word) : Nat := (a1.extractLsb' 0 13).toNat

/-- The BARRIER_STATE conditions, for a thread of core n. -/
def State.barOk (s : State) (n : Nat) (a1 : Word) : Bool :=
  a1.extractLsb' 32 32 == 0 && !a1.getLsbD 13 && decide (barMember a1 < barMembers a1)
    && decide (barHome a1 < Config.cores) && s.partOfCore (barHome a1) == s.partOfCore n

/-- BAR (R194): held by pending releases; its result is outstanding. -/
def execBar (sw : Bool) (d a : Reg) (s : State) : Out :=
  instr {} (do
    let t := (← get).thr
    need (groupInWindow t.size 2 a) illegalOperand
    need (outWritable t.size d) illegalOperand
    operands [a, a + 1] []
    heldGate
    let x ← readUse a
    let y ← readUse (a + 1)
    need ((← get).barOk s.cur y) (.fault { code := cBARRIER_STATE, oprs := [x, y] })
    need (alignedTo x 64) (alignFault t x .load [x, y])
    let sc ← sampleAct (barScope y) [x, y]
    writesGate (barScope y) sc
    onState (fun s =>
      let home := s.twinTarget s.cur (barHome y)
      let m : BarMsg :=
        { core := s.cur, ctx := s.ctx, a0 := x, a1 := y, vahi := t.vahi, root := (s.core s.cur).root, priv := t.priv,
          out := s.fresh, ipc := t.pc }
      (s.addOutst s.cur s.ctx .bar [.reg d 0 false] 0 false).postFrom s.cur (.core home) (.bar m)
        (!s.sameCopy s.cur home) (Config.pairHash 6 [(home, 16, 2 ^ 16 - 1,
          s.physTarget s.cur (s.core s.cur).root t.vahi x .load t.priv + 2 ^ 64 * y.toNat)]))
    retire sw) s

end Sys2Proof.Machine
end

