-- ==== Sys2Proof/Machine/Engines.lean ====
section
/-! DEFINITION. The instructions that start engine operations, bank switches, circular-buffer and queue commands
(R208, R221, R253, R256 to R258, R264, R265, R269, R271, R272, R277). -/

namespace Sys2Proof.Machine

/-! ### RESERVE and BANKMODE -/

/-- RESERVE (R221): a request to the lock-keeper; the result is outstanding. -/
def execReserve (sw : Bool) (d a : Reg) (s : State) : Out :=
  instr {} (do
    need (outWritable (← get).thr.size d) illegalOperand
    operands [a] []
    let x ← readUse a
    onState (fun s =>
      (s.addOutst s.cur s.ctx .other [.reg d 0 false] 0 false).postFrom s.cur (.core (s.keeperCore s.cur))
        (.reserve s.cur s.ctx s.fresh x) true (Config.pairHash 9 [(0, 8, 0xFF, x.toNat)]))
    retire sw) s

/-- Whether BANKMODE's operands are well formed (R208). -/
def bankOk (x y : Word) : Bool := decide (x.toNat < 2 ^ 32) && decide (y.toNat < 3)

def bankModeOf (y : Word) : BankMode := if y = 0 then .cache else if y = 1 then .scratch else .fifo

/-- BANKMODE (R208): a request to the chiplet's bank controller; the result is outstanding. -/
def execBankmode (sw : Bool) (d a b : Reg) (s : State) : Out :=
  instr {} (do
    need (outWritable (← get).thr.size d) illegalOperand
    operands [a, b] []
    let x ← readUse a
    let y ← readUse b
    need (bankOk x y) (.fault { code := cBANK_STATE, oprs := [x, y] })
    onState (fun s =>
      let q : BankReq :=
        { core := s.cur, ctx := s.ctx, out := s.fresh, mask := x.setWidth 32, mode := bankModeOf y,
          region := (s.core s.cur).region, moving := none }
      (s.addOutst s.cur s.ctx .other [.reg d 0 false] 0 false).modChip (s.cur / 8)
        (fun c => { c with breqs := c.breqs ++ [q] }))
    retire sw) s

/-! ### Patterns (R256, R258, R264) -/

/-- Extents as D2 lays them out. -/
def extentE0 (w : Word) : Nat := (w.extractLsb' 0 24).toNat
def extentE1 (w : Word) : Nat := (w.extractLsb' 24 20).toNat
def extentE2 (w : Word) : Nat := (w.extractLsb' 44 20).toNat

/-- A pattern from its base, extents and strides (D3's layout). -/
def patternOf (base ext str : Word) : Pattern where
  base := base
  e0 := extentE0 ext
  e1 := extentE1 ext
  e2 := extentE2 ext
  s0 := (str.extractLsb' 0 16).toInt
  s1 := (str.extractLsb' 16 24).toInt
  s2 := (str.extractLsb' 40 24).toInt

def Pattern.total (p : Pattern) : Nat := p.e0 * p.e1 * p.e2

/-- Address of element l = i0 + E0 · (i1 + E1 · i2). -/
def Pattern.elem (p : Pattern) (l : Nat) : Word :=
  let i0 := l % p.e0
  let i1 := l / p.e0 % p.e1
  let i2 := l / p.e0 / p.e1
  p.base + BitVec.ofInt 64 (i0 * p.s0 + i1 * p.s1 + i2 * p.s2)

/-! ### COPY (R256 to R259) -/

/-- Fields of the control word (R257). -/
def ctlNctx (b : Word) : Nat := (b.extractLsb' 28 6).toNat
def ctlNote (b : Word) : Bool := b.getLsbD 27
def ctlClose (b : Word) : Bool := b.getLsbD 26
def ctlBuf (b : Word) : Bool := b.getLsbD 25
def ctlGath (b : Word) : Bool := b.getLsbD 24
def ctlOrd (b : Word) : Bool := b.getLsbD 23
def ctlEs (b : Word) : Nat := (b.extractLsb' 20 3).toNat
def ctlScope (b : Word) : BitVec 4 := b.extractLsb' 16 4
def ctlTag (b : Word) : BitVec 16 := b.extractLsb' 0 16

/-- Element size in bytes of COPY's ES. -/
def copyBytes (es : Nat) : Nat := if es = 5 then 64 else 2 ^ es

/-- Whether a context can be the target of an operation (R258). -/
def CtxState.holdsThread : CtxState → Bool
  | .runnable | .parked | .idling | .halted => true
  | .free | .empty | .departed | .killed => false

/-- The COPY_STATE conditions. -/
def Core.copyOk (c : Core) (b : Word) : Bool :=
  b.extractLsb' 34 30 == 0 && decide (ctlEs b ≤ 5) && (!ctlClose b || ctlBuf b)
    && (!ctlNote b || (decide (ctlNctx b < c.n) && (c.ctx (ctlNctx b)).st.holdsThread))

/-- COPYs of a core in flight. -/
def State.copiesOf (s : State) (n : Nat) : Nat :=
  (s.ops.filter (fun o => o.core == n && (match o.kind with | .copy _ _ _ _ _ _ => true | .outStream _ _ _ => false))).length

/-- Whether an element that an operation of the thread at hand reads or writes lies in this panel's HBM (R259, R344). -/
def State.inHbm (s : State) (k : AccKind) (a : Word) : Bool :=
  !inLocalWindow a &&
    match s.translate s.cur (s.core s.cur).root s.thr.vahi a k s.thr.priv with
    | .ok (l, pa) => paKind pa == .hbm && !s.isFabric l
    | .error _ => false

/-- The first index of a gather's list, where it can be read (R260). -/
def State.firstIndex (s : State) (index : Word) : Option (Nat × Bool) :=
  if inLocalWindow index then
    let pa := localPa s.cur index.toNat
    some (s.physRead (s.jobTag s.cur) pa 8, s.physPoison (s.jobTag s.cur) pa 8)
  else
    match s.translate s.cur (s.core s.cur).root s.thr.vahi index .idxRead s.thr.priv with
    | .error _ => none
    | .ok (l, pa) =>
      let t := s.slotTag l.key
      if s.isFabric l then none
      else if lineTagged pa then some (s.physRead t pa 8, s.physPoison t pa 8)
      else some ((if l.c then s.cohSector (sectorOf pa) else s.storedSector (sectorOf pa)).read t (pa % 16) 8)

/-- The first source element of a gather: the one that its first index names, where it names one (R259, R260). -/
def State.firstGathered (s : State) (src index : Word) (extent size : Nat) : Option Word :=
  (s.firstIndex index).bind (fun (v, p) =>
    let k := toSigned 64 v
    if p ∨ k < 0 ∨ (extent : Int) ≤ k then none else some (src + BitVec.ofInt 64 (k * (size : Nat))))

/-- The engine that performs a copy (R259), as ENG of R301 codes it: a base-die engine where the first source element, or the first
destination element, is in HBM; else the basin DMA. -/
def State.copyEngine (s : State) (y : Word) (d : Nat → Word) : BitVec 3 :=
  let first := if ctlGath y then s.firstGathered (d 0) (d 5) ((d 3).toNat % 2 ^ 48) (copyBytes (ctlEs y)) else some (d 0)
  if (first.map (s.inHbm .engRead)).getD false || (!ctlBuf y && s.inHbm .engWrite (d 1)) then 1 else 2

/-- Forks an operation of the thread at hand (R253): it takes the next sequence number and reserves a mailbox entry. -/
def State.fork (s : State) (target : Nat) (k : OpKind) (tag : BitVec 16) (sc : Scope) (ord : Bool) (oprs : List Word)
    (total : Nat) (eng : BitVec 3) : State :=
  let c := s.core s.cur
  let o : EngineOp :=
    { id := s.fresh, seq := c.opSeq, core := s.cur, ctx := s.ctx, target := target, kind := k, tag := tag, scope := sc,
      ord := ord, oprs := oprs, ipc := s.thr.pc, root := c.root, vahi := s.thr.vahi, priv := s.thr.priv, total := total,
      next := 0, extra := [], oor := 0, buf := [], pushed := 0, closed := false, refused := false, ended := none,
      written := 0, fault := none, sect := 0, recs := 0, mute := false, eng := eng, region := c.region, pairNo := none, twin := none }
  let s := { s with ops := s.ops ++ [o], fresh := s.fresh + 1 }
  s.modCore s.cur (fun c => { c with opSeq := c.opSeq + 1, reserved := c.reserved + 1 })

/-- The physical place that an operation of the thread at hand writes to first. -/
def State.opTarget (s : State) (dst : Word) : Nat :=
  s.physTarget s.cur (s.core s.cur).root s.thr.vahi dst .engWrite s.thr.priv

/-- In a PAIRED region, an operation that writes outside its own copy waits for its twin (R318). -/
def State.pairOp (s : State) (id : Nat) (dst : Word) (hash : Word) : State :=
  match s.nextPair s.cur with
  | none => s
  | some k =>
    if s.compared s.cur .store [dst] s.thr.vahi s.thr.priv then
      (s.modOp id (fun o => { o with pairNo := some k })).pairUp s.cur hash none (some id)
    else s

/-- COPY (R256 to R258): issued by the lighter; held by pending releases. -/
def execCopy (sw : Bool) (a b : Reg) (s : State) : Out :=
  instr { ctx := some 1 } (do
    need (groupInWindow (← get).thr.size 6 a) illegalOperand
    operands (regsFrom a 6 ++ [b]) []
    heldGate
    let ds ← readGroup a 6
    let y ← readUse b
    let d := fun (i : Nat) => ds.getD i 0
    let oprs := ds
    need ((← get).core s.cur |>.copyOk y) (.fault { code := cCOPY_STATE, oprs := oprs })
    let sc ← sampleAct (ctlScope y) oprs
    need (((← get).core s.cur).mailRoom && decide ((← get).copiesOf s.cur < 32)) (.park .copySlot)
    onState (fun s =>
      let src := patternOf (d 0) (d 2) (if ctlGath y then 0 else d 3)
      let dst := patternOf (d 1) (d 2) (d 4)
      let k : OpKind := .copy src dst (d 5) y ((d 3).getLsbD 63) ((d 3).toNat % 2 ^ 48)
      let id := s.fresh
      (s.fork (if ctlNote y then ctlNctx y else s.ctx) k (ctlTag y) sc (ctlOrd y) oprs src.total (s.copyEngine y d)).pairOp id (d 1)
        (Config.pairHash 7 [(s.opTarget (d 1), src.total, 0, (ds.eraseIdx 1).foldr (fun w a => w.toNat + 2 ^ 64 * a) y.toNat)]))
    retire sw) s

/-! ### SBIND (R264, R265) -/

/-- Fields of the stream control word. -/
def sbTag (c : Word) : BitVec 16 := c.extractLsb' 16 16
def sbScope (c : Word) : BitVec 4 := c.extractLsb' 10 4
def sbOrd (c : Word) : Bool := c.getLsbD 8
def sbSx (c : Word) : Bool := c.getLsbD 7
def sbEs (c : Word) : Nat := (c.extractLsb' 4 3).toNat
def sbOut (c : Word) : Bool := c.getLsbD 3
def sbSn (c : Word) : Nat := (c.extractLsb' 0 3).toNat

/-- The STREAM_STATE conditions of SBIND. -/
def sbOk (c : Word) : Bool :=
  c.extractLsb' 32 32 == 0 && c.extractLsb' 14 2 == 0 && !c.getLsbD 9 && decide (sbEs c ≤ 4)
    && !(sbEs c == 4 && (sbSx c || sbOut c))

/-- Elements of a binding not yet popped or pushed (R265). -/
def State.bindingLeft (s : State) (n sn : Nat) : Nat :=
  match (s.core n).binding sn with
  | .unbound => 0
  | .input b => b.total - b.popped
  | .output id =>
    match s.op id with
    | some o => o.total - o.pushed
    | none => 0

/-- Ends a binding: an input's elements are discarded, an output drains what was pushed (R265, R267). -/
def State.endBinding (s : State) (n sn : Nat) : State :=
  let s := match (s.core n).binding sn with
    | .output id => s.modOp id (fun o => { o with closed := true, total := o.pushed })
    | _ => s
  s.modCore n (fun c => { c with strm := Tab.erase c.strm sn })

/-- Claimed rows of a binding not yet popped (R288). -/
def Core.claimedRows (c : Core) (sn : Nat) : Nat :=
  match c.binding sn with
  | .input b => b.claimed
  | _ => 0

/-- An input binding of the thread at hand. -/
def State.inputBinding (s : State) (p : Pattern) (c : Word) (oprs : List Word) : InBind :=
  let k := s.core s.cur
  { pat := p, es := sbEs c, sx := sbSx c, ord := sbOrd c, vahi := s.thr.vahi, root := k.root, priv := s.thr.priv,
    total := p.total, next := 0, popped := 0, buf := [], sect := 0, part := (0, false), claimed := 0, fault := none, recs := 0, ended := false, ctx := s.ctx,
    seq := k.opSeq, ipc := s.thr.pc, oprs := oprs, region := k.region }

/-- Binds stream sn: an input starts to read, an output forks an operation (R253, R265). -/
def State.bindStream (s : State) (p : Pattern) (c : Word) (sc : Scope) (oprs : List Word) : State :=
  let sn := sbSn c
  if p.total = 0 then s
  else if sbOut c then
    let id := s.fresh
    let s := s.fork s.ctx (.outStream sn p (sbEs c)) (sbTag c) sc (sbOrd c) oprs p.total 3
    let s := s.modCore s.cur (fun k => { k with strm := Tab.set k.strm sn (.output id) })
    s.pairOp id p.base (Config.pairHash 10 [(s.opTarget p.base, p.total, 0, c.toNat)])
  else
    let b := s.inputBinding p c oprs
    s.modCore s.cur (fun k => { k with strm := Tab.set k.strm sn (.input b), opSeq := k.opSeq + 1 })

/-- SBIND (R264, R265): held by pending releases; its result is single-cycle-class. -/
def execSbind (sw : Bool) (d a : Reg) (s : State) : Out :=
  instr {} (do
    let t := (← get).thr
    need (groupInWindow t.size 4 a) illegalOperand
    need (outWritable t.size d) illegalOperand
    operands (regsFrom a 4) []
    heldGate
    let xs ← readGroup a 4
    let c := xs.getD 3 0
    need (sbOk c) (.fault { code := cSTREAM_STATE, oprs := xs })
    let p := patternOf (xs.getD 0 0) (xs.getD 1 0) (xs.getD 2 0)
    let fork := sbOut c && decide (0 < p.total)
    let sc ← if fork then sampleAct (sbScope c) xs else pure Scope.thread
    need (!fork || ((← get).core s.cur).mailRoom) (.park .reserve)
    need (((← get).core s.cur).claimedRows (sbSn c) == 0) (.park (.streamRows (sbSn c)))
    let left := (← get).bindingLeft s.cur (sbSn c)
    onState (fun s => (s.endBinding s.cur (sbSn c)).bindStream p c sc xs)
    setReg d (BitVec.ofNat 64 left) false
    retire sw) s

/-! ### Circular buffers (R269, R271, R272) -/

/-- Fields of BUFINIT's B. -/
def bufPk (b : Word) : Bool := b.getLsbD 33
def bufCount (b : Word) : Nat := (b.extractLsb' 16 9).toNat
def bufSize (b : Word) : Nat := (b.extractLsb' 0 12).toNat

/-- The BUF_STATE conditions of BUFINIT at issue. -/
def bufOk (b : Word) : Bool :=
  b.extractLsb' 34 30 == 0 && b.extractLsb' 25 8 == 0 && b.extractLsb' 12 4 == 0 && bufCount b != 1
    && decide (bufCount b ≤ 256) && (bufCount b == 0 || bufSize b != 0)

/-- BUFINIT (R269): held by pending releases; the controller acts after issue. -/
def execBufinit (sw : Bool) (a b : Reg) (s : State) : Out :=
  instr {} (do
    operands [a, b] []
    heldGate
    let t := (← get).thr
    let x ← readUse a
    let y ← readUse b
    need (alignedTo x 64) (alignFault t x .store [x, y])
    need (bufOk y) (.fault { code := cBUF_STATE, oprs := [x, y] })
    onState (fun s => s.addReq (.bufinit y) [Lane.start 0 x 1 0] false .thread 0 none [x, y])
    retire sw) s

/-- Base and role of BUFACQ's and BUFREL's A; bits 5:1 are zero. -/
def bufRole (a : Word) : Bool := a.getLsbD 0
def bufBase (a : Word) : Word := a &&& ~~~(1 : Word)
def bufAddrOk (a : Word) : Bool := a.extractLsb' 1 5 == 0

/-- BUFACQ (R271): held by pending releases; the next instruction parks until both results are written. -/
def execBufacq (sw : Bool) (d a : Reg) (s : State) : Out :=
  instr {} (do
    operands [a] []
    heldGate
    let x ← readUse a
    need (groupInWindow (← get).thr.size 2 d) (.fault { code := cILLEGAL_OPERAND, oprs := [x] })
    need (bufAddrOk x) (.fault { code := cBUF_STATE, oprs := [x] })
    let id := (← get).fresh
    onState (fun s =>
      (s.addOutst s.cur s.ctx .bufacq [.reg d 0 false, .reg (d + 1) 0 false] 0 false).addReq
        (.bufacq d (bufRole x)) [Lane.start 0 (bufBase x) 1 0] false .thread 0 (some id) [x])
    retire sw
    onState (fun s => s.modThr (fun t => t.awaitResults [id]))) s

/-- Whether every load of a thread numbered below `before` is performed (R272). -/
def State.loadsDone (s : State) (n x before : Nat) : Bool :=
  s.reqs.all (fun r => !(r.core == n && r.ctx == x && decide (r.id < before) && r.kind.isLoad
    && r.lanes.any (fun l => !l.done)))

/-- Whether every write of a thread numbered below `before` to a chiplet is acknowledged (R272); where the chiplet is not known,
every write. -/
def State.chipDone (s : State) (n x : Nat) (chip : Option Nat) (before : Nat) : Bool :=
  s.writesDone n x ⟨before, match chip with
    | some c => .chiplet c
    | none => .job⟩

/-- The chiplet of a buffer's base, if the address maps to a bank; one that does not translate may do so at a reissue. -/
def State.bufChip (s : State) (n : Nat) (t : Ctx) (base : Word) : Option Nat :=
  if inLocalWindow base then none
  else
    match s.translate n (s.core n).root t.vahi base .store t.priv with
    | .ok (l, pa) => if paKind pa = .basin then some (s.destChiplet n l pa) else none
    | .error _ => none

/-- BUFREL (R272): held by pending releases. -/
def execBufrel (sw : Bool) (a b : Reg) (s : State) : Out :=
  instr {} (do
    operands [a, b] []
    heldGate
    let x ← readUse a
    let y ← readUse b
    need (bufAddrOk x) (.fault { code := cBUF_STATE, oprs := [x, y] })
    let s ← get
    let before := s.fresh
    if bufRole x then
      let chip := s.bufChip s.cur s.thr (bufBase x)
      need (s.chipDone s.cur s.ctx chip before) (.park (.chipAcked chip before))
    else need (s.loadsDone s.cur s.ctx before) (.park (.loadsDone before))
    onState (fun s =>
      s.addReq (.bufrel (bufRole x) y) [Lane.start 0 (bufBase x) 1 0] false .thread 0 none [x, y])
    retire sw) s

/-! ### Task queues (R277) -/

/-- QPUSH (R277): held by pending releases; d holds the result address and receives the answer. -/
def execQpush (sw : Bool) (d a b : Reg) (s : State) : Out :=
  instr {} (do
    need (outWritable (← get).thr.size d) illegalOperand
    operands [a, b, d] []
    heldGate
    let t := (← get).thr
    let x ← readUse a
    let y ← readUse b
    let r ← readUse d
    need (alignedTo x 64) (alignFault t x .atomic [x, y, r])
    onState (fun s =>
      (s.addOutst s.cur s.ctx .atomic [.reg d 0 false] 0 false).addReq (.qpush d y r) [Lane.start 0 x 8 0] false .thread 0
        (some s.fresh) [x, y, r])
    retire sw) s

/-- What QPOP and QSTEAL share. -/
def takeOp (sw : Bool) (d : Reg) (x : Word) (k : ReqKind) (oprs : List Word) : Act Unit := do
  let t := (← get).thr
  need (alignedTo x 64) (alignFault t x .atomic oprs)
  onState (fun s =>
    (s.addOutst s.cur s.ctx .atomic [.reg d 0 false, .reg (d + 1) 0 false, .reg (d + 2) 0 false] 0 false).addReq k
      [Lane.start 0 x 8 0] false .thread 0 (some s.fresh) oprs)
  retire sw

/-- QPOP (R277): held by pending releases. -/
def execQpop (sw : Bool) (d a : Reg) (s : State) : Out :=
  instr {} (do
    need (groupInWindow (← get).thr.size 3 d) illegalOperand
    operands [a] []
    heldGate
    let x ← readUse a
    takeOp sw d x (.qpop d) [x]) s

/-- QSTEAL (R277): held by pending releases. -/
def execQsteal (sw : Bool) (d a b : Reg) (s : State) : Out :=
  instr {} (do
    need (groupInWindow (← get).thr.size 3 d) illegalOperand
    operands [a, b] []
    heldGate
    let x ← readUse a
    let y ← readUse b
    takeOp sw d x (.qsteal d y) [x, y]) s

end Sys2Proof.Machine
end

