-- ==== Sys2Proof/Machine/Matrix.lean ====
section
/-! DEFINITION. The matrix unit: shapes, the four instructions at issue, and the arithmetic of a step (R51, R62 to R64,
R280 to R293). -/

namespace Sys2Proof.Machine

/-! ### Shapes (R281) -/

/-- Element width in bits. -/
def matBits : MatType → Nat
  | .fp64 => 64
  | .fp32 => 32
  | .fp16 | .bf16 => 16
  | .e4m3 | .e5m2 | .i8 | .sb8 => 8
  | .i4 | .sb4 => 4

/-- Rows M of the A block. -/
def matM : MatType → Nat
  | .fp64 => 8
  | _ => 16

/-- Strip rows K. -/
def matK (t : MatType) : Nat := 1024 / matBits t

/-- Bytes of a strip row. -/
def stripRow (t : MatType) : Nat := 8 * matBits t

def isSb : MatType → Bool
  | .sb8 | .sb4 => true
  | _ => false

/-- Stream rows that hold the row scales of an A block (R288). -/
def scaleRows : MatType → Nat
  | .sb8 => 1
  | .sb4 => 2
  | _ => 0

/-- A block stream rows for `run` segments present (R281, R292): 8 for a dense block. -/
def blockRows (t : MatType) (run : Nat) : Nat := matM t / 4 * run + scaleRows t

def matClass : MatType → AccClass
  | .fp64 => .fp64
  | .i8 | .i4 => .int32
  | _ => .fp32

/-- The row of R281's table a type stands in. -/
def matRow : MatType → Nat
  | .fp64 => 0
  | .fp32 => 1
  | .fp16 | .bf16 => 2
  | .e4m3 | .e5m2 => 3
  | .i8 => 4
  | .i4 => 5
  | .sb8 => 6
  | .sb4 => 7

def compatible (a b : MatType) : Bool := matRow a == matRow b

/-- Window W (R62). -/
def windowBits : MatType → Nat
  | .fp64 => 160
  | _ => 64

/-- Format of a floating-point matrix type. -/
def matFmt : MatType → Fmt
  | .fp64 => fmt64
  | .fp32 => fmt32
  | .fp16 => fmt16
  | .bf16 => fmtBf16
  | .e4m3 => fmtE4m3
  | .e5m2 => fmtE5m2
  | _ => fmt32

/-- Format of an accumulator class. -/
def classFmt : AccClass → Fmt
  | .fp64 => fmt64
  | .fp32 | .int32 => fmt32

/-! ### The state that queued instructions will leave (R282) -/

def Core.acc (c : Core) (a : BitVec 2) : Acc := Tab.getD c.accs a.toNat Acc.clear

/-- The binding of a B-table entry after the queued instructions. -/
def bindAfter (e : Nat) : List MxEntry → Option (Nat × MatType) → Option (Nat × MatType)
  | [], b => b
  | q :: t, b =>
    bindAfter e t (match q.kind with
      | .mloadb _ _ a1 _ _ =>
        if (a1.extractLsb' 0 8).toNat = e then
          match MatType.ofCode (a1.extractLsb' 20 4) with
          | some ty => some ((a1.extractLsb' 8 12).toNat, ty)
          | none => b
        else b
      | _ => b)

def Core.futureBind (c : Core) (e : Nat) : Option (Nat × MatType) := bindAfter e c.mxq (Tab.find c.btab e)

/-- The class of an accumulator after the queued instructions. -/
def classAfter (a : BitVec 2) : List MxEntry → AccClass → AccClass
  | [], k => k
  | q :: t, k =>
    classAfter a t (match q.kind with
      | .mma acc z _ ty _ _ => if acc = a && z then matClass ty else k
      | .mmas acc z _ ty _ _ _ _ _ => if acc = a && z then matClass ty else k
      | _ => k)

def Core.futureClass (c : Core) (a : BitVec 2) : AccClass := classAfter a c.mxq (c.acc a).cls

/-- A queued matrix instruction of the thread at hand; a full queue forfeits the slot (R282). -/
def enqueueMx (k : MxKind) (out : Option Nat) : Act Unit := do
  let s ← get
  need (decide ((s.core s.cur).mxq.length < Config.matrixQueueEntries)) .forfeit
  set { (s.modCore s.cur (fun c => { c with mxq := c.mxq ++ [⟨s.fresh, s.ctx, k, out, [], false⟩] })) with
        fresh := s.fresh + 1 }

/-! ### MLOADB (R286) -/

/-- The MATRIX_STATE conditions of a descriptor. -/
def mloadOk (n : Nat) (a1 : Word) : Bool :=
  a1.extractLsb' 26 6 == 0 && !a1.getLsbD 24 && decide ((a1.extractLsb' 20 4).toNat ≤ 9)
    && (a1.getLsbD 25 || (a1.extractLsb' 8 12).toNat / 512 == n % 8)

/-- The type of a descriptor. -/
def mloadType (a1 : Word) : MatType := (MatType.ofCode (a1.extractLsb' 20 4)).getD .fp64

/-- The signed distance between strip rows. -/
def mloadStride (a1 : Word) : Word := (a1.extractLsb' 32 32).signExtend 64

def mloadAligned (a0 a1 a2 : Word) : Bool :=
  a1.getLsbD 25 || (alignedTo a0 32 && alignedTo (mloadStride a1) 32 && (!isSb (mloadType a1) || alignedTo a2 64))

/-- Addresses of the doublewords read: the strip rows, then the 512 scale bytes of an SB type. -/
def mloadAddrs (a0 a1 a2 : Word) : List Word :=
  let ty := mloadType a1
  let perRow := stripRow ty / 8
  (List.range 1024).map (fun i =>
    a0 + BitVec.ofNat 64 (i / perRow) * mloadStride a1 + BitVec.ofNat 64 (8 * (i % perRow)))
  ++ (if isSb ty then (List.range 64).map (fun i => a2 + BitVec.ofNat 64 (8 * i)) else [])

/-- The lanes of MLOADB's reads: those of the local window are read at issue (R236). -/
def State.mloadLanes (s : State) : Nat → List Word → List Lane
  | _, [] => []
  | i, ea :: t =>
    (if inLocalWindow ea then
      let r := s.localRead s.cur ea 8
      { Lane.start i ea 8 0 with done := true, got := BitVec.ofNat 64 r.1, gotPoison := r.2 }
    else Lane.start i ea 8 0) :: s.mloadLanes (i + 1) t

/-- What an MLOADB entry holds once every byte is read. -/
def MxEntry.fill (q : MxEntry) (ls : List Lane) : MxEntry :=
  { q with
    loaded := ls.map Lane.got
    poison := ls.any Lane.gotPoison
    kind := match q.kind with
      | .mloadb d a0 a1 a2 _ => .mloadb d a0 a1 a2 none
      | k => k }

/-- Replaces the queue entry with a number. -/
def Core.modMx (c : Core) (id : Nat) (f : MxEntry → MxEntry) : Core :=
  { c with mxq := c.mxq.map (fun q => if q.id = id then f q else q) }

/-- MLOADB (R286): held by pending releases. -/
def execMloadb (sw : Bool) (d a : Reg) (s : State) : Out :=
  instr {} (do
    let t := (← get).thr
    need (groupInWindow t.size 3 a) illegalOperand
    need (outWritable t.size d) illegalOperand
    operands (regsFrom a 3) []
    heldGate
    let xs ← readGroup a 3
    let a0 := xs.getD 0 0
    let a1 := xs.getD 1 0
    let a2 := xs.getD 2 0
    let n := (← get).cur
    need (mloadOk n a1) (.fault { code := cMATRIX_STATE, oprs := xs })
    need (mloadAligned a0 a1 a2) (alignFault t a0 .load xs)
    let out := (← get).fresh
    onState (fun s => s.addOutst s.cur s.ctx .load [.reg d 0 false] 0 false)
    let entry := (← get).fresh
    let bind := a1.getLsbD 25
    let s1 ← get
    let lanes := if bind then [] else s1.mloadLanes 0 (mloadAddrs a0 a1 a2)
    let remote := lanes.any (fun l => !l.done)
    enqueueMx (.mloadb d a0 a1 a2 (if remote then some (entry + 1) else none)) (some out)
    if remote then onState (fun s => s.addReq (.mload entry) lanes false .thread 0 (some out) xs)
    else onState (fun s => s.modCore s.cur (fun c => c.modMx entry (fun q => q.fill lanes)))
    retire sw) s

/-! ### MMA and MMAS (R290 to R292) -/

/-- Rows of a row binding not yet claimed; none for anything else. -/
def Core.freeRows (c : Core) (sn : Nat) : Nat :=
  match c.binding sn with
  | .input b => if b.es = 4 then b.unclaimed else 0
  | _ => 0

def Core.isRowBinding (c : Core) (sn : Nat) : Bool :=
  match c.binding sn with
  | .input b => b.es == 4
  | _ => false

/-- Claims rows of a binding (R288). -/
def Core.claim (c : Core) (sn need : Nat) : Core :=
  match c.binding sn with
  | .input b => { c with strm := Tab.set c.strm sn (.input { b with claimed := b.claimed + need }) }
  | _ => c

/-- The checks of the entry and the accumulator (R291). -/
def mxChecks (acc : BitVec 2) (z : Bool) (t : MatType) (e : Nat) (oprs : List Word) : Act Unit := do
  let s ← get
  let c := s.core s.cur
  need (match c.futureBind e with
        | some (_, ty) => compatible t ty
        | none => false) (.fault { code := cMATRIX_STATE, oprs := oprs })
  need (z || c.futureClass acc == matClass t) (.fault { code := cMATRIX_STATE, oprs := oprs })

/-- The claim of the A block (R291). -/
def claimRows (sn need_ : Nat) (oprs : List Word) : Act Unit := do
  let s ← get
  let c := s.core s.cur
  need (c.isRowBinding sn && decide (need_ ≤ c.freeRows sn)) (.fault { code := cSTREAM_STATE, oprs := oprs })
  set (s.modCore s.cur (fun c => c.claim sn need_))

/-- MMA (R291). -/
def execMma (sw : Bool) (acc : BitVec 2) (z : Bool) (sn : BitVec 3) (t : MatType) (b : Reg) (s : State) : Out :=
  instr {} (do
    operands [b] []
    let x ← readUse b
    let e := (x.extractLsb' 0 8).toNat
    mxChecks acc z t e [x]
    claimRows sn.toNat (blockRows t 8) [x]
    enqueueMx (.mma acc z sn t e (blockRows t 8)) none
    retire sw) s

/-- Fields of a skip entry (R292). -/
def skipEmp (e : Word) : Bool := e.getLsbD 7
def skipRun (e : Word) : Nat := (e.extractLsb' 3 3).toNat + 1
def skipFirst (e : Word) : Nat := (e.extractLsb' 0 3).toNat
def skipOk (e : Word) : Bool :=
  !e.getLsbD 6 && (if skipEmp e then e.extractLsb' 0 6 == 0 else decide (skipFirst e + skipRun e ≤ 8))

/-- Whether a stream is an input binding of bytes. -/
def Core.isByteBinding (c : Core) (sn : Nat) : Bool :=
  match c.binding sn with
  | .input b => b.es == 0
  | _ => false

/-- MMAS (R292): pops a skip entry from sk at issue. -/
def execMmas (sw : Bool) (acc : BitVec 2) (z : Bool) (sn sk : BitVec 3) (t : MatType) (b : Reg) (s : State) : Out :=
  instr {} (do
    operands [b] []
    let x ← readUse b
    let e := (x.extractLsb' 0 8).toNat
    mxChecks acc z t e [x]
    need (sk != sn && ((← get).core s.cur).isByteBinding sk.toNat) (.fault { code := cSTREAM_STATE, oprs := [x] })
    let skReg : Reg := 0xA8 + sk.setWidth 8
    operands [skReg] []
    let v ← readUse skReg
    need (skipOk v) (.fault { code := cMATRIX_STATE, oprs := [x] })
    let need_ := if skipEmp v then 0 else blockRows t (skipRun v)
    claimRows sn.toNat need_ [x]
    enqueueMx (.mmas acc z sn t e need_ (skipFirst v) (skipRun v) (skipEmp v)) none
    retire sw) s

/-! ### MREAD (R293) -/

/-- MREAD: its vector result is outstanding; a poisoned operand poisons the result (R312). -/
def execMread (sw : Bool) (vd : VReg) (acc : BitVec 2) (t : CvtType) (b : Reg) (s : State) : Out :=
  instr {} (do
    vecOperands [] [vd] [b] []
    let x ← readReg b
    let row := (x.v.extractLsb' 0 4).toNat
    let col := (x.v.extractLsb' 8 6).toNat
    let n := 512 / t.width
    let s ← get
    need (!((s.core s.cur).futureClass acc == .fp64 && decide (7 < row)) && decide (col % n = 0) && decide (col + n ≤ 64))
      (.fault { code := cMATRIX_STATE, oprs := [x.v] })
    onState (fun s => s.addOutst s.cur s.ctx .other (vecPieces vd 0 []) 0 false)
    enqueueMx (.mread vd acc t row col x.p) (some s.fresh)
    retire sw) s

/-! ### The arithmetic of a step -/

/-- Bits of an element at bit offset `o` of a block held as a number. -/
def bitsAt (d o w : Nat) : Nat := d / 2 ^ o % 2 ^ w

/-- The A block of a step: its bytes as a number, first segment, segments present. -/
structure ABlock where
  data : Nat
  skip : Nat
  run : Nat
deriving DecidableEq, Repr

/-- Element (i, k) of an A block (R288, R292). -/
def ABlock.elem (a : ABlock) (t : MatType) (i k : Nat) : Nat :=
  let seg := matK t / 8
  bitsAt a.data (8 * (16 * a.run * i + 16 * (k / seg - a.skip)) + k % seg * matBits t) (matBits t)

/-- Scale of row i and block b. -/
def ABlock.scale (a : ABlock) (t : MatType) (i b : Nat) : Nat :=
  bitsAt a.data (8 * (16 * a.run * matM t + i * (matK t / 32) + b)) 8

/-- The values of k for which products are formed. -/
def ABlock.ks (a : ABlock) (t : MatType) : List Nat :=
  (List.range (matK t)).filter (fun k =>
    decide (a.skip ≤ k / (matK t / 8)) && decide (k / (matK t / 8) < a.skip + a.run))

/-- Element (k, j) of a strip (R285). -/
def stripElem (d : Nat) (t : MatType) (k j : Nat) : Nat := bitsAt d (8 * stripRow t * k + j * matBits t) (matBits t)

/-- An SB product: the integers and the scales (R51, R63). -/
def sbProduct (w qa xa qb xb : Nat) : FVal × Flags :=
  if xa = 255 ∨ xb = 255 then (.nan false, 0)
  else
    let z := toSigned w qa * toSigned w qb
    (if z = 0 then .zero false else .fin (decide (z < 0)) z.natAbs ((xa : Int) + xb - 254), 0)

/-- One product of a floating-point step. -/
def fpProduct (ta tb : MatType) (a : ABlock) (strip scale i j k : Nat) : FVal × Flags :=
  let x := a.elem ta i k
  let y := stripElem strip tb k j
  if isSb ta then sbProduct (matBits ta) x (a.scale ta i (k / 32)) y (bitsAt scale (8 * (8 * j + k / 32)) 8)
  else FVal.mul ((matFmt ta).unpack x) ((matFmt tb).unpack y)

/-- The group sum of element (i, j) with accumulator value c (R63, R64). -/
def groupSum (ta tb : MatType) (a : ABlock) (strip scale i j : Nat) (c : Nat) : Nat × Flags :=
  match matClass ta with
  | .int32 =>
    let s := ((a.ks ta).map (fun k =>
      toSigned (matBits ta) (a.elem ta i k) * toSigned (matBits tb) (stripElem strip tb k j))).sum
    (toPattern 32 (toSigned 32 c + s), 0)
  | cls =>
    let f := classFmt cls
    windowSum f (windowBits ta) ((a.ks ta).map (fpProduct ta tb a strip scale i j)) (f.unpack c)

/-- A tile step (R291, R292): each element, and the flags of every group sum. -/
def tileStep (ta tb : MatType) (a : ABlock) (strip scale : Nat) (acc : Acc) : Acc :=
  let rs := (List.range (matM ta * 64)).map (fun e =>
    (e, groupSum ta tb a strip scale (e / 64) (e % 64) (Tab.getD acc.elems e 0).toNat))
  { acc with
    elems := (rs.map (fun r => (r.1, BitVec.ofNat 64 r.2.1))).filter (fun r => r.2 != 0)
    flags := rs.foldl (fun f r => f ||| r.2.2) acc.flags }

/-- Z = 1: class, zeros, no flag, no mark (R289). -/
def Acc.zeroed (t : MatType) : Acc := ⟨matClass t, 0, [], []⟩

/-- Marks every element of a tile (R288). -/
def Acc.poisonAll (a : Acc) (t : MatType) : Acc := { a with poison := (List.range (matM t * 64)).map (fun e => (e, true)) }

/-- Source type of an MREAD conversion. -/
def classType : AccClass → CvtType
  | .fp64 => .f64
  | .fp32 => .f32
  | .int32 => .i32

/-- The elements an MREAD gives (R293): values with flags. -/
def mreadLanes (a : Acc) (t : CvtType) (row col : Nat) : List (Nat × Nat × Flags) :=
  (List.range (512 / t.width)).map (fun q =>
    let v := (Tab.getD a.elems (64 * row + col + q) 0).toNat
    if classType a.cls = t then (q, v, 0)
    else
      let r := convert (classType a.cls) t 0 v
      (q, r.1, r.2))

end Sys2Proof.Machine
end

