-- ==== Sys2Proof/Machine/Vector.lean ====
section
/-! DEFINITION. Vector arithmetic, conversion, reductions and moves (R128 to R139), and the vector queue (R170). Every
result is computed from the values at issue and is outstanding (R130). -/

namespace Sys2Proof.Machine

/-! ### Lanes -/

/-- A lane written: element index, value, flags. -/
abbrev LaneWrite := Nat × Nat × Flags

/-- Applies lane writes of width `w` to a vector: its new bits and the union of the flags (R99, R130). -/
def applyLanes (w old : Nat) (ws : List LaneWrite) : Nat × Flags :=
  ws.foldl (fun r x => (setLane r.1 w x.1 x.2.1, r.2 ||| x.2.2)) (old, 0)

/-- Whether register j of a group holds one of the lanes written. -/
def touches (w : Nat) (ws : List LaneWrite) (j : Nat) : Bool := ws.any (fun x => x.1 * w / 64 == j)

/-- The pieces of a vector result: the registers that a lane of it lies in (R22, R129). -/
def lanePieces (v : VReg) (w d : Nat) (ws : List LaneWrite) (poison : Nat → Bool) : List Piece :=
  ((List.range 8).filter (touches w ws)).map (fun j =>
    .reg (BitVec.ofNat 8 (8 * v.toNat + j)) (BitVec.ofNat 64 (laneOf d 64 j)) (poison j))

/-- The active lanes of n under the M field (R129). -/
def Ctx.activeLanes (t : Ctx) (m : MaskSel) (n : Nat) : List Nat := (List.range n).filter (t.active m)

/-- Whether every lane of n is active: the destination is then not merged into. -/
def Ctx.allActive (t : Ctx) (m : MaskSel) (n : Nat) : Bool := (List.range n).all (t.active m)

/-- K of format VX as a mask selection (R129). -/
def selK (k : Bool) : MaskSel := if k then .m0 else .all

def VVal.anyPoison (v : VVal) : Bool := v.poison.any id

/-! ### The vector queue (R170) -/

/-- Issues into the vector queue; a full queue forfeits the slot. The outstanding result waits for the unit's grant. -/
def enqueueVec (k : OutKind) (ps : List Piece) (f : Flags) : Act Unit := do
  let s ← get
  need (decide ((s.core s.cur).vq.length < Config.vectorQueueEntries)) .forfeit
  set ((s.addOutst s.cur s.ctx k ps f false).modCore s.cur (fun c => { c with vq := c.vq ++ [⟨s.ctx, s.fresh⟩] }))

/-- What a lane function reads: rounding mode and sources, as numbers. -/
structure VIn where
  rm : BitVec 2
  a : Nat
  b : Nat
  c : Nat

/-- A lane-wise instruction of format VV: sources, destination, and the writes it makes from the active lanes.
`merge` says that lanes of the destination keep their values. -/
def vvOp (sw : Bool) (w : Nat) (vd : VReg) (srcs : List VReg) (m : MaskSel) (merge : Ctx → Bool)
    (f : Ctx → VIn → List LaneWrite) : Act Unit := do
  let t := (← get).thr
  let reads := if merge t then srcs ++ [vd] else srcs
  vecOperands reads [vd] [] []
  let s ← get
  let rd := fun (v : VReg) => s.readVec s.cur t v
  let src := fun (i : Nat) => (srcs[i]?.map (fun v => (rd v).data)).getD 0
  let ws := f t ⟨t.rm, src 0, src 1, src 2⟩
  let (d, fl) := applyLanes w (rd vd).data ws
  let poison := reads.any (fun v => (rd v).anyPoison) || t.govPoison m
  enqueueVec .other (lanePieces vd w d ws (fun _ => poison)) fl
  retire sw

/-- A lane-wise instruction whose lane i depends on lane i of its sources alone (R129, R132). -/
def lanewise (sw : Bool) (ty : ElemType) (vd : VReg) (srcs : List VReg) (m : MaskSel)
    (f : BitVec 2 → Nat → Nat → Nat → Nat × Flags) : Act Unit :=
  vvOp sw ty.width vd srcs m (fun t => !t.allActive m ty.lanes) (fun t v =>
    (t.activeLanes m ty.lanes).map (fun i =>
      (i, f v.rm (laneOf v.a ty.width i) (laneOf v.b ty.width i) (laneOf v.c ty.width i))))

/-! ### Lane functions of R132 -/

/-- Wraps an exact integer to the lane (R45). -/
def wrapLane (t : ElemType) (z : Int) : Nat × Flags := (toPattern t.width z, 0)

/-- Clamps to the unsigned range of the lane. -/
def clampU (w : Nat) (z : Int) : Nat := if z < 0 then 0 else min z.toNat (2 ^ w - 1)

/-- Signed value of a lane. -/
def sLane (t : ElemType) (a : Nat) : Int := toSigned t.width a

/-- The forms of VADD and VSUB from the exact signed and unsigned results: wrapped, `.ss`, `.us`. -/
def addForms (t : ElemType) (f : BitVec 3) (z u : Int) : Nat × Flags :=
  if f = 0 then wrapLane t z
  else if f = 1 then (toPattern t.width (saturate t.width z), 0)
  else (clampU t.width u, 0)

def laneAdd (t : ElemType) (f : BitVec 3) (rm : BitVec 2) (a b : Nat) : Nat × Flags :=
  if t.isInt then addForms t f (sLane t a + sLane t b) ((a : Int) + b) else fpAdd (elemFmt t) rm a b

def laneSub (t : ElemType) (f : BitVec 3) (rm : BitVec 2) (a b : Nat) : Nat × Flags :=
  if t.isInt then addForms t f (sLane t a - sLane t b) ((a : Int) - b) else fpSub (elemFmt t) rm a b

def laneMul (t : ElemType) (f : BitVec 3) (rm : BitVec 2) (a b : Nat) : Nat × Flags :=
  if t.isInt then
    (if f = 0 then wrapLane t (sLane t a * sLane t b)
     else if f = 1 then wrapLane t (sLane t a * sLane t b / (2 ^ t.width : Nat))
     else (a * b / 2 ^ t.width, 0))
  else fpMul (elemFmt t) rm a b

/-- The product is negated for F = 001 and 011, the addend for F = 010 and 011. -/
def laneFma (t : ElemType) (f : BitVec 3) (rm : BitVec 2) (a b c : Nat) : Nat × Flags :=
  let negP := f.getLsbD 0
  let negC := f.getLsbD 1
  if t.isInt then
    let p := sLane t a * sLane t b
    wrapLane t ((if negP then -p else p) + (if negC then -sLane t c else sLane t c))
  else fpFma (elemFmt t) rm negP negC a b c

def laneMinMax (max : Bool) (t : ElemType) (f : BitVec 3) (a b : Nat) : Nat × Flags :=
  if t.isInt then
    let less := if f = 0 then decide (sLane t a ≤ sLane t b) else decide (a ≤ b)
    (if less == max then b else a, 0)
  else fpMinMax (elemFmt t) max a b

def laneLogic (t : ElemType) (f : BitVec 3) (a b : Nat) : Nat × Flags :=
  let x := BitVec.ofNat t.width a
  let y := BitVec.ofNat t.width b
  (match f.toNat with
   | 0 => (x &&& y).toNat
   | 1 => (x ||| y).toNat
   | 2 => (x ^^^ y).toNat
   | 3 => (x &&& ~~~y).toNat
   | _ => (~~~x).toNat, 0)

def laneShift (t : ElemType) (f : BitVec 3) (a b : Nat) : Nat × Flags :=
  let x := BitVec.ofNat t.width a
  let k := b % t.width
  (match f.toNat with
   | 0 => (x <<< k).toNat
   | 1 => (x >>> k).toNat
   | _ => (x.sshiftRight k).toNat, 0)

/-- Bits of a pattern with the sign bit cleared or inverted. -/
def signCleared (t : ElemType) (a : Nat) : Nat := a % 2 ^ (t.width - 1)
def signInverted (t : ElemType) (a : Nat) : Nat :=
  if a < 2 ^ (t.width - 1) then a + 2 ^ (t.width - 1) else a - 2 ^ (t.width - 1)

def laneUnary (t : ElemType) (f : BitVec 3) (rm : BitVec 2) (a : Nat) : Nat × Flags :=
  match f.toNat with
  | 0 => if t.isInt then wrapLane t ((sLane t a).natAbs : Int) else (signCleared t a, 0)
  | 1 => if t.isInt then wrapLane t (-sLane t a) else (signInverted t a, 0)
  | 2 => fpSqrt (elemFmt t) rm a
  | 3 => (leadingZeros t.width a, 0)
  | _ => (popCount a t.width, 0)

/-! ### Compares (R133) -/

def laneCmp (t : ElemType) (f : BitVec 3) (a b : Nat) : Bool × Flags :=
  if t.isInt then
    (match f.toNat with
     | 0 => a == b
     | 1 => a != b
     | 2 => decide (sLane t a < sLane t b)
     | 3 => decide (sLane t a ≤ sLane t b)
     | 4 => decide (a < b)
     | _ => decide (a ≤ b), 0)
  else
    match f.toNat with
    | 0 => fpEq (elemFmt t) a b
    | 1 => let r := fpEq (elemFmt t) a b; (!r.1, r.2)
    | 2 => fpLt (elemFmt t) a b
    | _ => fpLe (elemFmt t) a b

/-- First bit of a mask in the predicate word (R18). -/
def maskShift : MaskReg → Nat
  | .m0 => 0
  | .m1 => 32

/-- Bits of a mask, placed in the predicate word. -/
def maskBits (md : MaskReg) (is : List Nat) : Word :=
  is.foldl (fun r i => r ||| (1 <<< (maskShift md + i) : Word)) 0

/-! ### Reductions and scans (R60, R61, R138) -/

/-- op of VRED and VSCAN. -/
def laneRed (t : ElemType) (f : BitVec 3) (rm : BitVec 2) (a b : Nat) : Nat × Flags :=
  match f.toNat with
  | 0 => laneAdd t 0 rm a b
  | 1 => laneMinMax false t 0 a b
  | 2 => laneMinMax true t 0 a b
  | 3 => laneMinMax false t 1 a b
  | _ => laneMinMax true t 1 a b

/-- Identity for an empty result. -/
def redIdentity (t : ElemType) (f : BitVec 3) : Nat :=
  match f.toNat with
  | 0 => 0
  | 1 => if t.isInt then 2 ^ (t.width - 1) - 1 else (elemFmt t).pack false (elemFmt t).top 0
  | 2 => if t.isInt then 2 ^ (t.width - 1) else (elemFmt t).pack true (elemFmt t).top 0
  | 3 => 2 ^ t.width - 1
  | _ => 0

/-- combine of R60. -/
def combineNode (op : Nat → Nat → Nat × Flags) (p q : Option Nat × Flags) : Option Nat × Flags :=
  match p.1, q.1 with
  | none, _ => (q.1, p.2 ||| q.2)
  | _, none => (p.1, p.2 ||| q.2)
  | some a, some b =>
    let r := op a b
    (some r.1, p.2 ||| q.2 ||| r.2)

/-- One level of the tree. -/
def combineLevel (op : Nat → Nat → Nat × Flags) : List (Option Nat × Flags) → List (Option Nat × Flags)
  | p :: q :: t => combineNode op p q :: combineLevel op t
  | l => l

/-- The tree over 2^k lanes. -/
def redTree (op : Nat → Nat → Nat × Flags) : Nat → List (Option Nat × Flags) → Option Nat × Flags
  | 0, l => l.headD (none, 0)
  | k + 1, l => redTree op k (combineLevel op l)

/-- The running values of R61. -/
def scanLanes (op : Nat → Nat → Nat × Flags) (ident : Nat) : Option Nat → Nat → List (Option Nat) → List LaneWrite
  | _, _, [] => []
  | acc, i, x :: t =>
    let r : Option Nat × Flags :=
      match acc, x with
      | none, _ => (x, 0)
      | some a, none => (some a, 0)
      | some a, some b => ((some (op a b).1), (op a b).2)
    (i, r.1.getD ident, r.2) :: scanLanes op ident r.1 (i + 1) t

/-- The lanes of a source, EMPTY where inactive. -/
def Ctx.lanesOrEmpty (t : Ctx) (m : MaskSel) (ty : ElemType) (a : Nat) : List (Option Nat) :=
  (List.range ty.lanes).map (fun i => if t.active m i then some (laneOf a ty.width i) else none)

/-! ### Meanings -/

def vvForm : Form := { arith := true }

/-- VADD (R132). -/
def execVadd (sw : Bool) (vd va vb : VReg) (t : ElemType) (m : MaskSel) (f : BitVec 3) (s : State) : Out :=
  instr vvForm (lanewise sw t vd [va, vb] m (fun rm a b _ => laneAdd t f rm a b)) s

/-- VSUB (R132). -/
def execVsub (sw : Bool) (vd va vb : VReg) (t : ElemType) (m : MaskSel) (f : BitVec 3) (s : State) : Out :=
  instr vvForm (lanewise sw t vd [va, vb] m (fun rm a b _ => laneSub t f rm a b)) s

/-- VMUL (R132). -/
def execVmul (sw : Bool) (vd va vb : VReg) (t : ElemType) (m : MaskSel) (f : BitVec 3) (s : State) : Out :=
  instr vvForm (lanewise sw t vd [va, vb] m (fun rm a b _ => laneMul t f rm a b)) s

/-- VFMA (R57, R132). -/
def execVfma (sw : Bool) (vd va vb vc : VReg) (t : ElemType) (m : MaskSel) (f : BitVec 3) (s : State) : Out :=
  instr vvForm (lanewise sw t vd [va, vb, vc] m (fun rm a b c => laneFma t f rm a b c)) s

/-- VMIN (R132). -/
def execVmin (sw : Bool) (vd va vb : VReg) (t : ElemType) (m : MaskSel) (f : BitVec 3) (s : State) : Out :=
  instr vvForm (lanewise sw t vd [va, vb] m (fun _ a b _ => laneMinMax false t f a b)) s

/-- VMAX (R132). -/
def execVmax (sw : Bool) (vd va vb : VReg) (t : ElemType) (m : MaskSel) (f : BitVec 3) (s : State) : Out :=
  instr vvForm (lanewise sw t vd [va, vb] m (fun _ a b _ => laneMinMax true t f a b)) s

/-- VLOGIC (R132); vb is not read by NOT. -/
def execVlogic (sw : Bool) (vd va vb : VReg) (t : ElemType) (m : MaskSel) (f : BitVec 3) (s : State) : Out :=
  instr vvForm (lanewise sw t vd (if f = 4 then [va] else [va, vb]) m (fun _ a b _ => laneLogic t f a b)) s

/-- VSHIFT (R45, R132). -/
def execVshift (sw : Bool) (vd va vb : VReg) (t : ElemType) (m : MaskSel) (f : BitVec 3) (s : State) : Out :=
  instr vvForm (lanewise sw t vd [va, vb] m (fun _ a b _ => laneShift t f a b)) s

/-- VUNARY (R132); vb is not read. -/
def execVunary (sw : Bool) (vd va _vb : VReg) (t : ElemType) (m : MaskSel) (f : BitVec 3) (s : State) : Out :=
  instr vvForm (lanewise sw t vd [va] m (fun rm a _ _ => laneUnary t f rm a)) s

/-- VCMP (R133): writes bits of a mask. -/
def execVcmp (sw : Bool) (md : MaskReg) (va vb : VReg) (t : ElemType) (m : MaskSel) (f : BitVec 3) (s : State) : Out :=
  instr vvForm (do
    vecOperands [va, vb] [] [] []
    let s ← get
    let c := s.thr
    let a := s.readVec s.cur c va
    let b := s.readVec s.cur c vb
    let is := c.activeLanes m t.lanes
    let rs := is.map (fun i => (i, laneCmp t f (laneOf a.data t.width i) (laneOf b.data t.width i)))
    let v := maskBits md ((rs.filter (fun r => r.2.1)).map Prod.fst)
    let fl := rs.foldl (fun x r => x ||| r.2.2) (0 : Flags)
    let p := a.anyPoison || b.anyPoison || c.govPoison m || (decide (is.length < 32) && c.maskPoison md)
    enqueueVec .other (if is.isEmpty then [] else [.mask (maskBits md is) v p]) fl
    retire sw) s

/-- VSEL (R134): writes every lane. -/
def execVsel (sw : Bool) (vd va vb : VReg) (t : ElemType) (m : MaskSel) (s : State) : Out :=
  instr vvForm (vvOp sw t.width vd [va, vb] m (fun _ => false) (fun c v =>
    (List.range t.lanes).map (fun i =>
      (i, if c.active m i then laneOf v.a t.width i else laneOf v.b t.width i, 0)))) s

/-- VPERM (R135). -/
def execVperm (sw : Bool) (vd va vb vc : VReg) (t : ElemType) (m : MaskSel) (s : State) : Out :=
  instr vvForm (vvOp sw t.width vd [va, vb, vc] m (fun c => !c.allActive m t.lanes) (fun c v =>
    (c.activeLanes m t.lanes).map (fun i =>
      let k := laneOf v.c t.width i
      (i, if k < t.lanes then laneOf v.a t.width k
          else if k < 2 * t.lanes then laneOf v.b t.width (k - t.lanes) else 0, 0)))) s

/-- VCVT (R136, R137): n = 512 / ww lanes; the narrow side is part p. -/
def execVcvt (sw : Bool) (vd va : VReg) (src dst : CvtType) (m : MaskSel) (p : BitVec 3) (s : State) : Out :=
  let n := 512 / max src.width dst.width
  let off := fun (x : CvtType) => if x.width * n < 512 then p.toNat * n else 0
  instr vvForm (vvOp sw dst.width vd [va] m (fun c => decide (dst.width * n < 512) || !c.allActive m n) (fun c v =>
    (c.activeLanes m n).map (fun i =>
      (off dst + i, convert src dst v.rm (laneOf v.a src.width (off src + i)))))) s

/-- VRED (R60, R138): lane 0 alone; vb is not read. -/
def execVred (sw : Bool) (vd va _vb : VReg) (t : ElemType) (m : MaskSel) (f : BitVec 3) (s : State) : Out :=
  instr vvForm (vvOp sw t.width vd [va] m (fun _ => true) (fun c v =>
    let r := redTree (laneRed t f v.rm) (Nat.log2 t.lanes) ((c.lanesOrEmpty m t v.a).map (fun x => (x, 0)))
    [(0, r.1.getD (redIdentity t f), r.2)])) s

/-- VSCAN (R61, R138): every lane; vb is not read. -/
def execVscan (sw : Bool) (vd va _vb : VReg) (t : ElemType) (m : MaskSel) (f : BitVec 3) (s : State) : Out :=
  instr vvForm (vvOp sw t.width vd [va] m (fun _ => false) (fun c v =>
    scanLanes (laneRed t f v.rm) (redIdentity t f) none 0 (c.lanesOrEmpty m t v.a))) s

/-- A scalar written to lanes of v (R139): VBCAST and VINS. -/
def insertOp (sw : Bool) (v : VReg) (xa : Reg) (t : ElemType) (k : Bool) (lanes : List Nat) : Act Unit := do
  let c := (← get).thr
  let is := lanes.filter (c.active (selK k))
  let merge := decide (is.length < t.lanes)
  vecOperands (if merge then [v] else []) [v] [xa] []
  let x ← readReg xa
  let s ← get
  let old := s.readVec s.cur c v
  let ws : List LaneWrite := is.map (fun i => (i, narrow t.width x.v, 0))
  let (d, _) := applyLanes t.width old.data ws
  let p := x.p || c.govPoison (selK k) || (merge && old.anyPoison)
  enqueueVec .other (lanePieces v t.width d ws (fun _ => p)) 0
  retire sw

/-- VBCAST (R139). -/
def execVbcast (sw : Bool) (v : VReg) (xa : Reg) (t : ElemType) (k : Bool) (s : State) : Out :=
  instr vvForm (insertOp sw v xa t k (List.range t.lanes)) s

/-- VINS (R71, R139). -/
def execVins (sw : Bool) (v : VReg) (xa : Reg) (lane : BitVec 8) (t : ElemType) (k : Bool) (s : State) : Out :=
  instr vvForm (do
    need (decide (lane.toNat < t.lanes)) illegalOperand
    insertOp sw v xa t k [lane.toNat]) s

/-- VEXT (R131, R139): its scalar result is outstanding. -/
def execVext (sw : Bool) (v : VReg) (xa : Reg) (lane : BitVec 8) (t : ElemType) (s : State) : Out :=
  instr vvForm (do
    need (decide (lane.toNat < t.lanes)) illegalOperand
    need (outWritable (← get).thr.size xa) illegalOperand
    vecOperands [v] [] [] [xa]
    let s ← get
    let x := s.readVec s.cur s.thr v
    let e := laneOf x.data t.width lane.toNat
    let r : Word := if t.isInt then BitVec.ofInt 64 (toSigned t.width e) else BitVec.ofNat 64 e
    enqueueVec .other [.reg xa r x.anyPoison] 0
    retire sw) s

end Sys2Proof.Machine
end

