-- ==== Sys2Proof/Machine/VectorMem.lean ====
section
/-! DEFINITION. Vector loads and stores, gathers, scatters and the mask group (R140 to R145). -/

namespace Sys2Proof.Machine

/-! ### Shared parts -/

/-- The scalar operands of a vector access: base, and stride or descriptor. -/
structure VAddr where
  a0 : Word
  a1 : Word

/-- What one active lane does: its access, or nothing with a zero result (R143). -/
inductive LaneTarget where
  | access (ea : Word)
  /-- Out of range. -/
  | out
  /-- Poisoned index. -/
  | poisoned
deriving DecidableEq, Repr

/-- The lanes whose address lies outside the local window, as lanes of a request. -/
def remoteLanes (size : Nat) (data : Nat → Nat) (ts : List (Nat × LaneTarget)) : List Lane :=
  ts.filterMap (fun x =>
    match x.2 with
    | .access ea => if inLocalWindow ea then none else some (Lane.start x.1 ea size (BitVec.ofNat 64 (data x.1)))
    | _ => none)

/-- The lowest active lane whose address is not a multiple of s (R140). -/
def misalignedLane (size : Nat) (ts : List (Nat × LaneTarget)) : Option (Nat × Word) :=
  firstSome (fun x =>
    match x.2 with
    | .access ea => if alignedTo ea size then none else some (x.1, ea)
    | _ => none) ts

/-- The alignment fault of a lane. -/
def laneAlignFault (t : Ctx) (k : AccKind) (oprs : List Word) (x : Nat × Word) : Stop :=
  .fault { code := cALIGNMENT, oprs := oprs, va := x.2, vahi := t.vahi, acc := k.code, elem := x.1 }

/-- What a load lane finds at issue: its value in the local window, zero for a lane without access; a remote lane keeps
the old value until its request is performed. -/
def State.lanesAtIssue (s : State) (n w : Nat) (ts : List (Nat × LaneTarget)) : List (Nat × Nat × Bool) :=
  ts.filterMap (fun x =>
    match x.2 with
    | .access ea =>
      if inLocalWindow ea then
        let r := s.localRead n ea (w / 8)
        some (x.1, r.1, r.2)
      else none
    | .out => some (x.1, 0, false)
    | .poisoned => some (x.1, 0, true))

/-- Issues a vector load: the pieces stand with what is known at issue, and a request fetches the remote lanes (R141). -/
def issueVecLoad (sw : Bool) (v : VReg) (w : Nat) (ts : List (Nat × LaneTarget)) (extra : List Piece) (poison : Bool)
    (oprs : List Word) : Act Unit := do
  let s ← get
  let old := s.readVec s.cur s.thr v
  let now := s.lanesAtIssue s.cur w ts
  let (d, _) := applyLanes w old.data (now.map (fun x => (x.1, x.2.1, 0)))
  let bad := fun (j : Nat) => poison || now.any (fun x => x.2.2 && x.1 * w / 64 == j)
  let all : List LaneWrite := ts.map (fun x => (x.1, 0, 0))
  enqueueVec .load (lanePieces v w d all bad ++ extra) 0
  match remoteLanes (w / 8) (fun _ => 0) ts with
  | [] => pure ()
  | ls => onState (fun u => u.addReq (.vload v w) ls true .thread 0 (some s.fresh) oprs)
  retire sw

/-- Writes the lanes of a vector store that lie in the local window, the highest index last (R141). -/
def State.storeLanes (s : State) (size : Nat) (data : Nat → Nat) : List (Nat × LaneTarget) → State
  | [] => s
  | (i, .access ea) :: t =>
    (if inLocalWindow ea then (s.noteStore s.cur s.ctx ea size).localWrite s.cur ea size (data i) else s).storeLanes
      size data t
  | _ :: t => s.storeLanes size data t

/-- A store's place in the vector queue; a full queue forfeits the slot (R170). -/
def queueStore : Act Unit := do
  let s ← get
  need (decide ((s.core s.cur).vq.length < Config.vectorQueueEntries)) .forfeit
  set (s.modCore s.cur (fun c => { c with vq := c.vq ++ [⟨s.ctx, s.fresh⟩] }))

/-- Issues a vector store: local lanes now, the others as one request (R141), with which the returned mask of a scatter, if it
has one, is written (R25, R118). Its data lanes must be clean (R312). -/
def issueVecStore (sw : Bool) (v : VReg) (w : Nat) (ts : List (Nat × LaneTarget)) (extra : List Piece)
    (oprs : List Word) : Act Unit := do
  let s ← get
  let x := s.readVec s.cur s.thr v
  need (ts.all (fun l => l.2 == .out || l.2 == .poisoned || !x.lanePoison w l.1)) .contain
  let data := fun i => laneOf x.data w i
  if extra.isEmpty then queueStore else enqueueVec .other extra 0
  onState (fun u => u.storeLanes (w / 8) data ts)
  match remoteLanes (w / 8) data ts with
  | [] => onState (fun u => { u with fresh := u.fresh + 1 })
  | ls => onState (fun u => u.addReq .store ls true .thread 0 (if extra.isEmpty then none else some s.fresh) oprs)
  retire sw

/-! ### Unit-stride and strided forms (R140) -/

/-- Lanes at consecutive elements from ea. -/
def unitLanes (c : Ctx) (t : ElemType) (k : Bool) (ea : Word) : List (Nat × LaneTarget) :=
  (c.activeLanes (selK k) t.lanes).map (fun i => (i, .access (ea + BitVec.ofNat 64 (i * (t.width / 8)))))

/-- Lanes at wrap64(A + i · B). -/
def strideLanes (c : Ctx) (t : ElemType) (k : Bool) (a b : Word) : List (Nat × LaneTarget) :=
  (c.activeLanes (selK k) t.lanes).map (fun i => (i, .access (a + BitVec.ofNat 64 i * b)))

/-- Registers a load merges into: those of v when a lane is inactive (R130). -/
def mergeReads (c : Ctx) (t : ElemType) (k : Bool) (v : VReg) : List VReg :=
  if c.allActive (selK k) t.lanes then [] else [v]

/-- Whether the result of a load is poisoned by its mask or by a register it merges into (R311). -/
def State.mergePoison (s : State) (c : Ctx) (t : ElemType) (k : Bool) (v : VReg) : Bool :=
  c.govPoison (selK k) || (!c.allActive (selK k) t.lanes && (s.readVec s.cur c v).anyPoison)

/-- VLD (R140, R141). -/
def execVld (sw : Bool) (v : VReg) (xa : Reg) (imm : BitVec 8) (t : ElemType) (k : Bool) (s : State) : Out :=
  instr { ext := true } (do
    let c := (← get).thr
    vecOperands (mergeReads c t k v) [v] [xa] []
    let a ← readUse xa
    let ea := effective a 64 (c.imm imm)
    need (alignedTo ea 64) (alignFault c ea .load [a])
    let p := (← get).mergePoison c t k v
    issueVecLoad sw v t.width (unitLanes c t k ea) [] p [a]) s

/-- VST (R140, R141); held by pending releases (R242). -/
def execVst (sw : Bool) (v : VReg) (xa : Reg) (imm : BitVec 8) (t : ElemType) (k : Bool) (s : State) : Out :=
  instr { ext := true } (do
    vecOperands [v] [] [xa] []
    heldGate
    let c := (← get).thr
    let a ← readUse xa
    let ea := effective a 64 (c.imm imm)
    need (alignedTo ea 64) (alignFault c ea .store [a])
    issueVecStore sw v t.width (unitLanes c t k ea) [] [a]) s

/-- VLDS (R140, R141). -/
def execVlds (sw : Bool) (v : VReg) (xa xb : Reg) (t : ElemType) (k : Bool) (s : State) : Out :=
  instr {} (do
    let c := (← get).thr
    vecOperands (mergeReads c t k v) [v] [xa, xb] []
    let a ← readUse xa
    let b ← readUse xb
    let ts := strideLanes c t k a b
    match misalignedLane (t.width / 8) ts with
    | some x => stop (laneAlignFault c .load [a, b] x)
    | none => pure ()
    let p := (← get).mergePoison c t k v
    issueVecLoad sw v t.width ts [] p [a, b]) s

/-- VSTS (R140, R141); held by pending releases (R242). -/
def execVsts (sw : Bool) (v : VReg) (xa xb : Reg) (t : ElemType) (k : Bool) (s : State) : Out :=
  instr {} (do
    vecOperands [v] [] [xa, xb] []
    heldGate
    let c := (← get).thr
    let a ← readUse xa
    let b ← readUse xb
    let ts := strideLanes c t k a b
    match misalignedLane (t.width / 8) ts with
    | some x => stop (laneAlignFault c .store [a, b] x)
    | none => pure ()
    issueVecStore sw v t.width ts [] [a, b]) s

/-! ### Gathers and scatters (R143, R144) -/

/-- Extent and poison-fault flag of the descriptor. -/
def gatherExtent (a1 : Word) : Nat := a1.toNat % 2 ^ 48
def gatherPf (a1 : Word) : Bool := a1.getLsbD 63

/-- What each active lane names. -/
def indexLanes (c : Ctx) (t : ElemType) (k : Bool) (a0 a1 : Word) (ix : VVal) : List (Nat × LaneTarget) :=
  (c.activeLanes (selK k) t.lanes).map (fun i =>
    let j := toSigned t.width (laneOf ix.data t.width i)
    (i, if ix.lanePoison t.width i then .poisoned
        else if j < 0 ∨ (gatherExtent a1 : Int) ≤ j then .out
        else .access (a0 + BitVec.ofInt 64 (j * (t.width / 8 : Nat)))))

/-- The returned mask: the bits of the active lanes of m1. -/
def returnedMask (ts : List (Nat × LaneTarget)) (p : Bool) : List Piece :=
  if ts.isEmpty then [] else
    [.mask (maskBits .m1 (ts.map Prod.fst))
      (maskBits .m1 ((ts.filter (fun x => x.2 == .out || x.2 == .poisoned)).map Prod.fst)) p]

/-- The checks and operands of VGATH and VSCAT: the lanes they name and the two operand values. -/
def indexOperands (reads dsts : List VReg) (xa : Reg) (vi : VReg) (t : ElemType) (k : Bool) (acc : AccKind) :
    Act (List (Nat × LaneTarget) × Word × Word) := do
  let c := (← get).thr
  need (groupInWindow c.size 2 xa) illegalOperand
  vecOperands (vi :: reads) dsts [xa, xa + 1] []
  let a0 ← readUse xa
  let a1 ← readUse (xa + 1)
  need (alignedTo a0 (t.width / 8)) (alignFault c a0 acc [a0, a1])
  let s ← get
  let ts := indexLanes c t k a0 a1 (s.readVec s.cur c vi)
  match ts.find? (fun x => x.2 == .poisoned) with
  | some x => need (!gatherPf a1) (.fault { code := cPOISONED_INDEX, oprs := [a0, a1], elem := x.1, acc := acc.code })
  | none => pure ()
  pure (ts, a0, a1)

/-- Whether the returned mask is poisoned: by the governing mask, or by the bits of m1 it keeps (R311). -/
def Ctx.returnPoison (c : Ctx) (k : Bool) (ts : List (Nat × LaneTarget)) : Bool :=
  c.govPoison (selK k) || (decide (ts.length < 32) && c.poison1)

/-- VGATH (R143, R144). -/
def execVgath (sw : Bool) (v : VReg) (xa : Reg) (vi : VReg) (t : ElemType) (k : Bool) (s : State) : Out :=
  instr {} (do
    let c := (← get).thr
    let (ts, a0, a1) ← indexOperands (mergeReads c t k v) [v] xa vi t k .load
    let p := (← get).mergePoison c t k v
    issueVecLoad sw v t.width ts (returnedMask ts (c.returnPoison k ts)) p [a0, a1]) s

/-- VSCAT (R143, R144); held by pending releases (R242). -/
def execVscat (sw : Bool) (v : VReg) (xa : Reg) (vi : VReg) (t : ElemType) (k : Bool) (s : State) : Out :=
  instr {} (do
    let (ts, a0, a1) ← indexOperands [v] [] xa vi t k .store
    heldGate
    let c := (← get).thr
    issueVecStore sw v t.width ts (returnedMask ts (c.returnPoison k ts)) [a0, a1]) s

/-! ### The mask group (R145) -/

/-- A mask function of two masks. -/
def maskOp2 (f : BitVec 32 → BitVec 32 → BitVec 32) (sw : Bool) (md ma mb : MaskReg) : Act Unit := do
  onState (fun s => s.modThr (fun t =>
    t.setMask md (f (t.mask ma) (t.mask mb)) (t.maskPoison ma || t.maskPoison mb)))
  retire sw

/-- A function of a mask written to an operand register. -/
def maskToReg (f : BitVec 32 → Word) (sw : Bool) (d : Reg) (ma : MaskReg) : Act Unit := do
  operands [] [d]
  let t := (← get).thr
  setReg d (f (t.mask ma)) (t.maskPoison ma)
  retire sw

/-- MAND (R145). -/
def execMand (sw : Bool) (md ma mb : MaskReg) (s : State) : Out :=
  instr { arith := true } (maskOp2 (fun a b => a &&& b) sw md ma mb) s

/-- MOR (R145). -/
def execMor (sw : Bool) (md ma mb : MaskReg) (s : State) : Out :=
  instr { arith := true } (maskOp2 (fun a b => a ||| b) sw md ma mb) s

/-- MXOR (R145). -/
def execMxor (sw : Bool) (md ma mb : MaskReg) (s : State) : Out :=
  instr { arith := true } (maskOp2 (fun a b => a ^^^ b) sw md ma mb) s

/-- MANDN (R145). -/
def execMandn (sw : Bool) (md ma mb : MaskReg) (s : State) : Out :=
  instr { arith := true } (maskOp2 (fun a b => a &&& ~~~b) sw md ma mb) s

/-- MNOT (R145). -/
def execMnot (sw : Bool) (md ma : MaskReg) (s : State) : Out :=
  instr { arith := true } (maskOp2 (fun a _ => ~~~a) sw md ma ma) s

/-- MPOPC (R145). -/
def execMpopc (sw : Bool) (d : Reg) (ma : MaskReg) (s : State) : Out :=
  instr { arith := true } (maskToReg (fun a => BitVec.ofNat 64 (popCount a.toNat 32)) sw d ma) s

/-- MFIRST (R145): 32 for a mask of zeros. -/
def execMfirst (sw : Bool) (d : Reg) (ma : MaskReg) (s : State) : Out :=
  instr { arith := true } (maskToReg (fun a => BitVec.ofNat 64 (trailingZeros 32 a.toNat)) sw d ma) s

/-- MSET (R145). -/
def execMset (sw : Bool) (md : MaskReg) (a : Reg) (s : State) : Out :=
  instr { arith := true } (do
    operands [a] []
    let x ← readReg a
    onState (fun s => s.modThr (fun t => t.setMask md (x.v.setWidth 32) x.p))
    retire sw) s

/-- MGET (R145). -/
def execMget (sw : Bool) (d : Reg) (ma : MaskReg) (s : State) : Out :=
  instr { arith := true } (maskToReg (fun a => a.setWidth 64) sw d ma) s

end Sys2Proof.Machine
end

