-- ==== Sys2Proof/Machine/EvThreads.lean ====
section
/-! DEFINITION. Events of threads: results that are written, conditions that come true, vector grants, arrivals at
registers, mailbox, ports and barge contexts (R22, R23, R148, R152, R157 to R174, R300, R314, R315). -/

namespace Sys2Proof.Machine

/-! ### Outstanding results (R22, R23, R99) -/

/-- Whether a piece and an earlier one name the same register, or the same bit of the predicate word. -/
def Piece.meets : Piece → Piece → Bool
  | .reg n _ _, .reg m _ _ => n == m
  | .mask b _ _, .mask c _ _ => b &&& c != 0
  | _, _ => false

/-- Whether an earlier result of the thread is still to be written to the same place. -/
def Ctx.blocked (t : Ctx) (k : Nat) (p : Piece) : Bool := (t.outst.take k).any (fun o => o.pieces.any p.meets)

/-- The bits of a mask piece that are written now: `bits` picks them, none picked stands for all. -/
def pickBits (b bits : Word) : Word := if b &&& bits = 0 then b else b &&& bits

/-- The part of a piece that stays to be written. -/
def Piece.rest (bits : Word) : Piece → Option Piece
  | .reg _ _ _ => none
  | .mask b v p => let r := b &&& ~~~(pickBits b bits); if r = 0 then none else some (.mask r v p)

/-- Writes bits of the predicate word (R18); a mask whose bits are all written takes the mark of the result. -/
def Ctx.writePred (t : Ctx) (b v : Word) (p last : Bool) : Ctx :=
  let lo := b.extractLsb' 0 32 != 0
  let hi := b.extractLsb' 32 32 != 0
  { t with
    pred := (t.pred &&& ~~~b) ||| (v &&& b)
    poison0 := if lo then p || (!last && t.poison0) else t.poison0
    poison1 := if hi then p || (!last && t.poison1) else t.poison1 }

/-- Writes a piece of result `id` of thread x of core n (R22). -/
def State.writePiece (s : State) (n x id : Nat) (bits : Word) : Piece → State
  | .reg r v p => s.writeOut n x id r v p
  | .mask b v p =>
    s.modThread n x (fun t => t.writePred (pickBits b bits) v p ((Piece.mask b v p).rest bits).isNone)

/-- The k-th result without the written part; the flags are raised with the last part (R99). -/
def Ctx.shrink (t : Ctx) (k : Nat) (o : Outst) (ps : List Piece) : Ctx :=
  if ps.isEmpty then { t with outst := removeAt t.outst k, flags := t.flags ||| o.flags }
  else { t with outst := setAt t.outst k { o with pieces := ps } }

/-- A thread parked by S goes on when no result is outstanding (R23). -/
def Ctx.endS (t : Ctx) : Ctx :=
  if t.st = .parked ∧ t.park = some .outstanding ∧ t.outst.isEmpty then { t with st := .runnable, park := none } else t

/-- Whether a result waits until its thread resumes: that of BAR or BUFACQ for a HALTED thread (R302). -/
def Ctx.keepsBack (t : Ctx) (o : Outst) : Bool := t.st == .halted && (o.kind == .bar || o.kind == .bufacq)

/-- OUTSTANDING_RESULT_WRITE (R22): piece j of the k-th outstanding result of thread x of core c. -/
def execOutstandingResultWrite (c x k j : Nat) (bits : Word) (s : State) : Out :=
  let t := s.thread c x
  match t.outst[k]? with
  | none => notNow
  | some o =>
    match o.pieces[j]? with
    | none => notNow
    | some p =>
      let ps := match p.rest bits with
        | some r => setAt o.pieces j r
        | none => removeAt o.pieces j
      whenEnabled (o.ready && !t.blocked k p && !t.keepsBack o)
        ((s.writePiece c x o.id bits p).modThread c x (fun t => (t.shrink k o ps).endS))

/-! ### Park conditions (R148, R152) -/

/-- Whether the condition of a PARKED thread holds. -/
def State.parkHolds (s : State) (n x : Nat) : Park → Bool
  | .outstanding => (s.thread n x).outst.isEmpty
  | .results ids => (s.thread n x).outst.all (fun o => !ids.contains o.id)
  | .seqCst ids r => (s.thread n x).outst.all (fun o => !ids.contains o.id) && s.releaseDone n x r
  | .held => (s.thread n x).releases.all (s.releaseDone n x)
  | .armed r =>
    let e := (s.core n).reg ((s.thread n x).base + r)
    !e.armed || e.full
  | .portIn p k => decide (k ≤ ((s.core n).fifo p).length) || ((s.core n).fifo p).any PortWord.token
  | .portOut r k => decide (k ≤ s.outRoom n r)
  | .streamIn sn k =>
    match (s.core n).binding sn with
    | .input b => decide (k ≤ b.supply)
    | _ => true
  | .streamOut sn k =>
    match (s.core n).binding sn with
    | .output id =>
      match s.op id with
      | some o => decide (k ≤ o.accept)
      | none => true
    | _ => true
  | .streamRows sn => (s.core n).claimedRows sn == 0
  | .mail => (s.core n).mailFor x
  | .reserve => (s.core n).mailRoom
  | .copySlot => (s.core n).mailRoom && decide (s.copiesOf n < 32)
  | .reap y => (s.reapResult n y).isSome || (s.thread n y).st == .free
  | .repart => (s.core n).quiescent
  | .migrate => (s.thread n x).outst.isEmpty && s.storesAcked n x
  | .acked _ r => s.releaseDone n x r
  | .written _ r => s.writesDone n x r
  | .loadsDone b => s.loadsDone n x b
  | .chipAcked c b => s.chipDone n x c b
  | .start => false

/-- What a sequentially consistent fence completes: its release (R242). -/
def State.endPark (s : State) : Park → State
  | .seqCst _ r => s.flushScope r.scope
  | _ => s

/-- The sample under which a wait at a scope goes on to its end (R240). -/
def Park.sample : Park → Option (BitVec 4 × Release)
  | .acked i r | .written i r => some (i, r)
  | _ => none

/-- PARK_CONDITION_HOLDS (R152): a PARKED thread goes on; an IDLING one with its wake bit set completes its IDLE and clears
the bit (R124). -/
def execParkConditionHolds (c x : Nat) (s : State) : Out :=
  let t := s.thread c x
  match t.st, t.park with
  | .parked, some p =>
    whenEnabled (s.parkHolds c x p)
      ((s.endPark p).modThread c x (fun t => { t with st := .runnable, park := none, sampled := p.sample }))
  | .idling, _ =>
    whenEnabled (t.wake && !(s.core c).ended) (s.modThread c x (fun t => { t.advance with st := .runnable, wake := false }))
  | _, _ => notNow

/-! ### Vector grants (R170) -/

/-- The four cores of a vector unit, in the order the unit asks them. -/
def State.vecOrder (s : State) (chip unit : Nat) : List Nat :=
  let p := Tab.getD (s.chip chip).vecPtr unit 0
  (List.range 4).map (fun i => 8 * chip + 4 * (unit % 2) + (p + i) % 4)

/-- A granted instruction leaves the queue; its result is complete unless a request of it is still to be performed. -/
def State.granted (s : State) (n : Nat) (q : VqEntry) : State :=
  if s.reqs.any (fun r => r.out == some q.out) then s
  else s.modThread n q.ctx (fun t =>
    { t with outst := (t.outst.filter (fun o => o.id != q.out || !o.pieces.isEmpty)).map (fun o =>
        if o.id = q.out then { o with ready := true } else o) })

/-- VECTOR_GRANT (R170): round robin among the four cores. -/
def execVectorGrant (chip unit : Nat) (s : State) : Out :=
  match (s.vecOrder chip unit).find? (fun n => !(s.core n).vq.isEmpty) with
  | none => notNow
  | some n =>
    match (s.core n).vq with
    | [] => notNow
    | q :: t =>
      let s := s.modCore n (fun c => { c with vq := t })
      let s := s.modChip chip (fun h => { h with vecPtr := Tab.set h.vecPtr unit ((n % 4 + 1) % 4) })
      .next (s.granted n q)

/-! ### SENDs (R157, R159 to R162, R307, R314, R345) -/

/-- An entry enters the mailbox; the addressed thread's wake bit is set (R124, R163). -/
def Core.receive (c : Core) (m : Mail) : Core :=
  { c with mail := c.mail ++ [m] }.modCtx m.ctx.toNat (fun t => { t with wake := true })

/-- A fill (R157). -/
def Core.fillReg (c : Core) (x r : Nat) (v : Word) : Core :=
  (c.setReg ((c.ctx x).base + r) ⟨v, true, false, false⟩).modCtx x (fun t => { t with wake := true })

/-- The entry that a SEND with MB = 1 becomes (R163). DEDUCED (log entry 86): SRCCORE is the sending core's own number. -/
def SendMsg.mail (m : SendMsg) : Mail where
  kind := 1
  ctx := BitVec.ofNat 6 (sendCtx m.desc)
  srcCore := BitVec.ofNat 13 m.core
  srcCtx := BitVec.ofNat 6 m.ctx
  tag := sendTag m.desc
  payload := m.val

/-- A service SEND (R307). -/
def SendMsg.service (m : SendMsg) : Bool := m.priv && sendCmd m.desc != 0

/-- Whether core c admits the sender: of its own partition, or of a panel its table names (R160, R345). -/
def State.admits (s : State) (c : Nat) (m : SendMsg) : Bool :=
  match m.panel with
  | none => s.partOfCore m.core == s.partOfCore c
  | some p =>
    match s.partOfCore c with
    | some q => (s.part q).allowed.contains p
    | none => false

/-- Whether a context may be sent to (R160). -/
def CtxState.reachable : CtxState → Bool
  | .runnable | .parked | .idling | .halted => true
  | .free | .empty | .departed | .killed => false

/-- Whether the destination refuses an ordinary SEND (R160, R314). -/
def State.refuses (s : State) (c : Nat) (m : SendMsg) : Bool :=
  let k := s.core c
  let x := sendCtx m.desc
  k.sealed || !s.admits c m || decide (k.n ≤ x) || !(k.ctx x).st.reachable || k.stopped || k.ended || (k.inRepart && x != 0)
    || (!sendMb m.desc && decide ((k.ctx x).size ≤ sendReg m.desc))

/-- A refusal waits in the network at a sender's core. -/
def State.refuseAt (s : State) (desc : Word) (core x : Nat) (sealed : Bool) : State :=
  s.modCore core (fun c => { c with waitRefuse := c.waitRefuse ++ [refusal desc x sealed] })

/-- Returns a refusal to the sender (R160), and to the one of its twin (R319); one for another panel leaves by a wharf, or waits
at its source (R346). -/
def State.refuse (s : State) (desc : Word) (core x : Nat) (twin : Option (Nat × Nat)) (panel : Option (BitVec 12)) (at_ : Nat)
    (sealed : Bool) : State :=
  match panel with
  | none =>
    let s := s.refuseAt desc core x sealed
    match twin with
    | some (m, y) => s.refuseAt desc m y sealed
    | none => s
  | some p => drainRefusals at_ [(p, core, refusal desc x sealed)] s

/-- Whether a service SEND is refused whatever the state of its target (R307). -/
def State.refusesService (s : State) (c : Nat) (m : SendMsg) : Bool :=
  m.panel.isSome || !s.admits c m || decide ((s.core c).n ≤ sendCtx m.desc) || decide (8 < (sendCmd m.desc).toNat)
    || (sendCmd m.desc == 1 && m.val.extractLsb' 0 2 == 3)

/-- What an arriving SEND does at core c. -/
def State.takeSend (s : State) (c : Nat) (m : SendMsg) : State :=
  if m.service then
    if s.refusesService c m then s.refuse m.desc m.core m.ctx m.twin m.panel c false
    else
      let q : Cmd := { desc := m.desc, core := m.core, src := m.ctx, twin := m.twin, b := m.val, root := m.root, vahi := m.vahi }
      s.modCore c (fun k => { k with cmds := k.cmds ++ [q] })
  else if s.refuses c m then s.refuse m.desc m.core m.ctx m.twin m.panel c (s.core c).sealed
  else if sendMb m.desc then s.modCore c (fun k => { k with waitSend := k.waitSend ++ [m.mail] })
  else s.modCore c (fun k => k.fillReg (sendCtx m.desc) (sendReg m.desc) m.val)

/-- SEND_ARRIVAL (R160): the oldest SEND delivered to core c; one the core sent itself waits for its slot (R161). -/
def execSendArrival (c : Nat) (s : State) : Out :=
  match (s.core c).inbox with
  | .send m :: t =>
    whenEnabled (m.core != c || m.panel.isSome || decide (m.notBefore ≤ (s.core c).cycle))
      ((s.modCore c (fun k => { k with inbox := t })).takeSend c m)
  | _ => notNow

/-- REFUSAL_DELIVERY (R160): a refusal waits in the network until an entry is free. -/
def execRefusalDelivery (c : Nat) (s : State) : Out :=
  match (s.core c).waitRefuse with
  | [] => notNow
  | m :: t =>
    whenEnabled (s.core c).mailRoom
      (s.modCore c (fun k => { k with waitRefuse := t }.receive m))

/-- MAILBOX_MESSAGE_ARRIVAL (R164): a SEND message takes an entry that is neither occupied nor reserved. -/
def execMailboxMessageArrival (c : Nat) (s : State) : Out :=
  match (s.core c).waitSend with
  | [] => notNow
  | m :: t => whenEnabled (s.core c).mailRoom (s.modCore c (fun k => { k with waitSend := t }.receive m))

/-- NOTICE_DELIVERY (R300): a message of KIND 0x04 waits for an entry as a refusal does. -/
def execNoticeDelivery (c : Nat) (s : State) : Out :=
  match (s.core c).waitNotice with
  | [] => notNow
  | m :: t =>
    whenEnabled (s.core c).mailRoom
      (s.modCore c (fun k => { k with waitNotice := t }.receive m))

/-! ### Ports (R167, R168, R314, R315) -/

/-- The core that writes to an inbound port (R167). -/
def State.inPartner (s : State) (n : Nat) (p : InPort) : Option Nat :=
  match p with
  | .nup => (s.cores.find? (fun e => Tab.find e.2.links 0xA1 == some n)).map Prod.fst
  | .pn => Tab.find (s.core n).links 0xA2
  | .pe => Tab.find (s.core n).links 0xA3
  | .ps => Tab.find (s.core n).links 0xA4
  | .pw => Tab.find (s.core n).links 0xA5

/-- PORT_WORD_ARRIVAL (R168). -/
def execPortWordArrival (c : Nat) (port : InPort) (s : State) : Out :=
  match (s.core c).inFlight port with
  | [] => notNow
  | w :: t =>
    whenEnabled (!(s.core c).sealed)
      (s.modCore c (fun k =>
        { k with
          flying := Tab.set k.flying (portKey port) t
          fifos := Tab.set k.fifos (portKey port) (k.fifo port ++ [w]) }))

/-- ERROR_TOKEN (R314): the link of a sealed core delivers a token after the last word it wrote. -/
def execErrorToken (c : Nat) (port : InPort) (s : State) : Out :=
  match s.inPartner c port with
  | none => notNow
  | some m =>
    whenEnabled ((s.core m).sealed && ((s.core c).inFlight port).isEmpty && decide (0 < (s.core c).room port))
      (s.modCore c (fun k => { k with fifos := Tab.set k.fifos (portKey port) (k.fifo port ++ [⟨0, true⟩]) }))

/-! ### Barges (R173, R174) -/

/-- Whether a core has a barge context. -/
def Core.hasBarge (c : Core) : Bool := c.ctxs.any (fun e => e.2.bargeCtx && e.2.st.hasWindow)

/-- Whether a barge enters a core's barge queue now: it has a barge context and room, is not sealed, and does not wait in
REPART (R156, R173, R314). -/
def Core.bargeRoom (c : Core) : Bool :=
  c.hasBarge && !c.sealed && !c.inRepart && decide (c.bargeq.length < Config.bargeQueueEntries)

/-- BARGE_ARRIVAL (R173). -/
def execBargeArrival (c : Nat) (s : State) : Out :=
  match (s.core c).bargeWait with
  | [] => notNow
  | g :: t => whenEnabled (s.core c).bargeRoom (s.modCore c (fun k => { k with bargeWait := t, bargeq := k.bargeq ++ [g] }))

/-- The thread that a barge becomes (R38, R174). -/
def Barge.thread (g : Barge) (t : Ctx) (cycle : Nat) : Ctx :=
  { Ctx.free with
    st := .runnable
    barge := true
    bargeCtx := true
    pc := g.pc
    pred := g.pred
    rm := g.rm
    flags := g.flags
    vahi := g.vahi
    base := t.base
    size := t.size
    rbase := t.rbase
    rlim := t.rlim
    rasp := BitVec.ofNat 64 (t.rbase * 8)
    notBefore := cycle + 4
    recNo := t.recNo
    tag := t.tag }

/-- BARGE_TAKE (R174): an EMPTY barge context takes the next barge of the queue. -/
def execBargeTake (c x : Nat) (s : State) : Out :=
  let k := s.core c
  match k.bargeq with
  | [] => notNow
  | g :: t =>
    let u := k.ctx x
    whenEnabled (u.st == .empty && u.bargeCtx && !k.sealed)
      (s.modCore c (fun k =>
        ({ k with bargeq := t, rf := clearRegs k.rf u.base u.size }.setCtx x (g.thread u k.cycle)).fillRegs u.base g.regs))

/-- BARGE_END (R174): a barge parked at IDLE ends when nothing of it is outstanding or unjoined. -/
def execBargeEnd (c x : Nat) (s : State) : Out :=
  let t := s.thread c x
  whenEnabled (t.st == .idling && t.barge && !t.wake && t.outst.isEmpty && !s.unjoined c x) (s.endBarge c x)

end Sys2Proof.Machine
end

