-- ==== Sys2Proof/Machine/EvMatrix.lean ====
section
/-! DEFINITION. Events of the matrix unit: rows popped, grants, the steps of the four instructions, and the ramp after idle
(R280 to R293). -/

namespace Sys2Proof.Machine

/-! ### Rows and readiness (R283, R288) -/

/-- The rows an instruction takes, with their stream. -/
def MxKind.rows : MxKind → Option (BitVec 3 × Nat)
  | .mma _ _ sn _ _ need => some (sn, need)
  | .mmas _ _ sn _ _ need _ _ _ => some (sn, need)
  | .mloadb _ _ _ _ _ => none
  | .mread _ _ _ _ _ _ => none

/-- Rows the row buffer still lacks for the head of the queue, with their stream. -/
def Core.rowsWanted (c : Core) : Option Nat :=
  match c.mxq with
  | [] => none
  | q :: _ =>
    match q.kind.rows with
    | some (sn, need) => if c.rowbuf.length < need then some sn.toNat else none
    | none => none

/-- ROW_POP (R288): one claimed row enters the row buffer. -/
def execRowPop (c : Nat) (s : State) : Out :=
  let k := s.core c
  match k.rowsWanted with
  | none => notNow
  | some sn =>
    match k.binding sn with
    | .input b =>
      let (b', v, p) := popStream b
      let nb := if b'.total ≤ b'.popped then Binding.unbound else Binding.input { b' with claimed := b'.claimed - 1 }
      whenEnabled (decide (0 < b.claimed) && decide (0 < b.supply) && !k.sealed)
        (s.setCore c { k with rowbuf := k.rowbuf ++ [(v, p)], strm := Tab.set k.strm sn nb })
    | _ => notNow

/-- Whether the head of a core's queue can begin its step (R283). -/
def Core.mxReady (c : Core) : Bool :=
  match c.mxq with
  | [] => false
  | q :: _ =>
    match q.kind with
    | .mloadb _ _ _ _ req => req.isNone
    | .mma _ _ _ _ _ need => decide (need ≤ c.rowbuf.length)
    | .mmas _ _ _ _ _ need _ _ _ => decide (need ≤ c.rowbuf.length)
    | .mread _ _ _ _ _ _ => true

def State.mxReadyAt (s : State) (chip lc : Nat) : Bool := (s.core (8 * chip + lc)).mxReady
def State.mxAny (s : State) (chip : Nat) : Bool := (List.range 8).any (s.mxReadyAt chip)

/-- Whether the granted core may perform a further step: it is ready and below its `mxwt`.WT, read before each step. -/
def State.grantHolds (s : State) (chip : Nat) : Bool :=
  match (s.chip chip).mxGrant with
  | none => false
  | some (lc, n) => s.mxReadyAt chip lc && decide (n < (s.core (8 * chip + lc)).mxwt.toNat)

/-- The pointer, past the core of a grant that has ended. -/
def Chiplet.pointer (h : Chiplet) : Nat :=
  match h.mxGrant with
  | none => h.mxPtr
  | some (lc, _) => (lc + 1) % 8

/-- MATRIX_GRANT (R283): the first ready core at or after the pointer. -/
def execMatrixGrant (chip : Nat) (s : State) : Out :=
  let h := s.chip chip
  if h.mxIdle || s.grantHolds chip then notNow
  else
    match ((List.range 8).map (fun i => (h.pointer + i) % 8)).find? (s.mxReadyAt chip) with
    | none => notNow
    | some lc => .next (s.setChip chip { h with mxPtr := h.pointer, mxGrant := some (lc, 0) })

/-! ### Steps -/

/-- The granted core and the head of its queue, where a step can begin. -/
def State.stepHead (s : State) (chip : Nat) : Option (Nat × MxEntry) :=
  if s.grantHolds chip then
    match (s.chip chip).mxGrant with
    | none => none
    | some (lc, _) => ((s.core (8 * chip + lc)).mxq.head?).map (fun q => (8 * chip + lc, q))
  else none

/-- The queue moves on and the grant counts a step; a grant that reaches WT ends, and so does one whose core is not ready
for its next step (R283). -/
def State.stepDone (s : State) (n : Nat) : State :=
  let s := s.modCore n (fun c => { c with mxq := c.mxq.tail })
  s.modChip (n / 8) (fun h =>
    match h.mxGrant with
    | none => h
    | some (lc, k) =>
      if (s.core n).mxwt.toNat ≤ k + 1 || !(s.core n).mxReady then h.endGrant lc else { h with mxGrant := some (lc, k + 1) })

def Strip.clear : Strip := ⟨0, 0, none, false⟩
def State.strip (s : State) (n slot : Nat) : Strip := Tab.getD (s.chip (n / 8)).cim slot Strip.clear

/-- A strip as a step of core n reads it: zeros under another tag (R285). -/
def State.stripRead (s : State) (n slot : Nat) : Strip :=
  let x := s.strip n slot
  if x.tag = some (s.jobTag n) then x else Strip.clear

/-- Doublewords as one little-endian number. -/
def joinWords (ws : List Word) : Nat := ws.foldr (fun w a => w.toNat + 2 ^ 64 * a) 0

/-- The slot an MLOADB step leaves (R286). -/
def loadedStrip (ty : MatType) (old : Strip) (ws : List Word) (tag : Tag) (p : Bool) : Strip where
  data := joinWords (ws.take 1024)
  scale := if isSb ty then joinWords (ws.drop 1024) else old.scale
  tag := some tag
  poison := p

/-- An MLOADB step: the slot, the status, and the binding (R286). -/
def State.mloadbDo (s : State) (n : Nat) (q : MxEntry) (d : Reg) (a1 : Word) : State :=
  let slot := (a1.extractLsb' 8 12).toNat
  let bind := a1.getLsbD 25
  let old := s.strip n slot
  let held := old.tag == some (s.jobTag n)
  let v := BitVec.ofNat 64 ((if bind && !held then 2 ^ 32 else 0) + slot)
  let s := if bind then s
    else s.modChip (n / 8) (fun h => { h with cim := Tab.set h.cim slot (loadedStrip (mloadType a1) old q.loaded (s.jobTag n) q.poison) })
  let s := s.modCore n (fun c => { c with btab := Tab.set c.btab (a1.extractLsb' 0 8).toNat (slot, mloadType a1) })
  match q.out with
  | some o => s.modThread n q.ctx (fun t => t.readyOutst o [.reg d v q.poison] 0)
  | none => s

/-- MLOADB_STEP (R286). -/
def execMloadbStep (chip : Nat) (s : State) : Out :=
  match s.stepHead chip with
  | none => notNow
  | some (n, q) =>
    match q.kind with
    | .mloadb d _ a1 _ _ => .next ((s.mloadbDo n q d a1).stepDone n)
    | _ => notNow

/-- The rows of a block as one little-endian number. -/
def joinRows (rs : List (Nat × Bool)) : Nat := rs.foldr (fun r a => r.1 + 2 ^ 512 * a) 0

/-- A tile the spec gives no value: its entry lost the binding that the checks saw (R287). -/
def State.freeTile (s : State) (t : MatType) (acc : Acc) : Acc :=
  let e := (List.range (matM t * 64)).map (fun i =>
    (i, BitVec.ofNat 64 ((Config.freeWord (s.fresh + i)).toNat % (if t = .fp64 then 2 ^ 64 else 2 ^ 32))))
  { acc with elems := e.filter (fun x => x.2 != 0), flags := acc.flags ||| (Config.freeWord (s.fresh + 1024)).setWidth 5 }

/-- The tile after a step over the popped rows (R288, R289, R291, R292). -/
def State.tileAfter (s : State) (n : Nat) (acc : BitVec 2) (z : Bool) (t : MatType) (e : Nat) (rows : List (Nat × Bool))
    (skip run : Nat) (emp : Bool) : Acc :=
  let c := s.core n
  let a := if z then Acc.zeroed t else c.acc acc
  if emp then a
  else
    match Tab.find c.btab e with
    | some (slot, tb) =>
      let x := s.stripRead n slot
      if compatible t tb then
        let r := tileStep t tb ⟨joinRows rows, skip, run⟩ x.data x.scale a
        if x.poison || rows.any Prod.snd then r.poisonAll t else r
      else s.freeTile t a
    | none => s.freeTile t a

/-- A step of MMA or MMAS: pops the block and writes the tile. -/
def State.mmaDo (s : State) (n : Nat) (acc : BitVec 2) (z : Bool) (t : MatType) (e need skip run : Nat) (emp : Bool) : State :=
  let a := s.tileAfter n acc z t e ((s.core n).rowbuf.take need) skip run emp
  let s := s.modCore n (fun c => { c with accs := Tab.set c.accs acc.toNat a, rowbuf := c.rowbuf.drop need })
  { s with fresh := s.fresh + 1025 }

/-- MMA_STEP (R291). -/
def execMmaStep (chip : Nat) (s : State) : Out :=
  match s.stepHead chip with
  | none => notNow
  | some (n, q) =>
    match q.kind with
    | .mma acc z _ t e need => .next ((s.mmaDo n acc z t e need 0 8 false).stepDone n)
    | _ => notNow

/-- MMAS_STEP (R292). -/
def execMmasStep (chip : Nat) (s : State) : Out :=
  match s.stepHead chip with
  | none => notNow
  | some (n, q) =>
    match q.kind with
    | .mmas acc z _ t e need skip run emp => .next ((s.mmaDo n acc z t e need skip run emp).stepDone n)
    | _ => notNow

/-- The lanes of an MREAD as one vector value. -/
def packLanes (w : Nat) (ls : List (Nat × Nat × Flags)) : Nat := ls.foldl (fun d l => setLane d w l.1 l.2.1) 0

/-- Marks of the eight registers: a register is marked when one of its elements is (R288, R311). -/
def laneMarks (a : Acc) (w row col : Nat) : List Bool :=
  (List.range 8).map (fun j => (List.range (64 / w)).any (fun i => Tab.getD a.poison (64 * row + col + 64 / w * j + i) false))

/-- An MREAD step (R293). -/
def State.mreadDo (s : State) (n : Nat) (q : MxEntry) (vd : VReg) (acc : BitVec 2) (t : CvtType) (row col : Nat)
    (p : Bool) : State :=
  let a := (s.core n).acc acc
  let ls := mreadLanes a t row col
  let ps := (laneMarks a t.width row col).map (fun b => b || p)
  match q.out with
  | some o =>
    s.modThread n q.ctx (fun c => c.readyOutst o (vecPieces vd (packLanes t.width ls) ps)
      (ls.foldl (fun f l => f ||| l.2.2) a.flags))
  | none => s

/-- MREAD_STEP (R293). -/
def execMreadStep (chip : Nat) (s : State) : Out :=
  match s.stepHead chip with
  | none => notNow
  | some (n, q) =>
    match q.kind with
    | .mread vd acc t row col p => .next ((s.mreadDo n q vd acc t row col p).stepDone n)
    | _ => notNow

/-! ### The ramp after idle (R284) -/

/-- MATRIX_IDLE (R284): 2,048 cycles have passed without a step. -/
def execMatrixIdle (chip : Nat) (s : State) : Out :=
  let h := s.chip chip
  whenEnabled (!h.mxIdle && !s.mxAny chip)
    (s.setChip chip { h with mxPtr := h.pointer, mxGrant := none, mxIdle := true, mxReleased := 0 })

/-- COLUMN_UNIT_RELEASE (R284): in the order of u; the eighth ends the ramp. -/
def execColumnUnitRelease (chip u : Nat) (s : State) : Out :=
  let h := s.chip chip
  let next := ((List.range 8).find? (fun i => !h.mxReleased.getLsbD i)).getD 8
  let r := h.mxReleased ||| (1 <<< u)
  whenEnabled (h.mxIdle && decide (u < 8) && u == next && (s.mxAny chip || h.mxReleased != 0))
    (s.setChip chip { h with mxReleased := r, mxIdle := r != 0xFF })

end Sys2Proof.Machine
end

