-- ==== Sys2Proof/Machine/Endpoints.lean ====
section
/-! DEFINITION. Unbacked lines (R220 to R224), what an access does at its endpoint (R232, R233, R343), the order in which
a thread's requests may be performed (R42, R234 to R236), and a fault after issue (R25, R118, R142). -/

namespace Sys2Proof.Machine

/-! ### Lines -/

def lineSectors (line : Nat) : List Nat := (List.range 4).map (fun i => 4 * line + i)

def dropLine (line : Nat) (cs : Tab Core) : Tab Core := (lineSectors line).foldl (fun c k => dropCopies k c) cs

def State.recallLine (s : State) (line : Nat) : State := (lineSectors line).foldl State.recall s

/-- Removes the storage of a line. -/
def State.clearLine (s : State) (line : Nat) : State :=
  { s with
    mem := zeroBytes s.mem (64 * line) 64
    otag := (lineSectors line).foldl Tab.erase s.otag
    poison := clearPoison s.poison (4 * line) 4 }

/-! ### Late-frame pools (R222) -/

/-- The late slot of an unbacked line and its bit of the spill bitmap. -/
structure LateSlot where
  va : Word
  leaf : Leaf
  pa : Nat
  bitLeaf : Leaf
  bitPa : Nat
  bit : Nat

/-- The slot a region's pool gives a line, if its range covers the line; the translations are those fixed at placement. -/
def Region.poolSlot (r : Region) (line : Nat) : Option LateSlot :=
  match r.pool with
  | none => none
  | some p =>
    match p.names.findIdx? (fun n => n == line / 1024) with
    | none => none
    | some i =>
      let off := 65536 * i + line % 1024 * 64
      let bo := p.bitmap.toNat + off / 64 / 8
      match p.backed[i]?, p.bits[bo / 65536 - p.bitmap.toNat / 65536]? with
      | some (l, pg), some (bl, bpg) =>
        some ⟨p.ubase + BitVec.ofNat 64 off, l, 65536 * pg + off % 65536, bl, 65536 * bpg + bo % 65536, off / 64 % 8⟩
      | _, _ => none

/-- The earliest launched of two candidate slots. -/
def earlier (a : Option (Nat × LateSlot)) (b : Nat × LateSlot) : Option (Nat × LateSlot) :=
  match a with
  | some x => if x.1 ≤ b.1 then some x else some b
  | none => some b

/-- The late slot of a line of a job: that of its earliest launched running region whose pool covers it. -/
def State.lateSlot (s : State) (slot : BitVec 6) (line : Nat) : Option LateSlot :=
  (s.regions.foldl (fun a e =>
    if e.2.slot = slot ∧ e.2.st = .running then
      match e.2.poolSlot line with
      | some x => earlier a (e.2.order, x)
      | none => a
    else a) none).map Prod.snd

/-! ### Quotas and residence (R220, R223) -/

/-- A job's reservation: the sum over its running and pre-empted regions. -/
def State.jobLines (s : State) (slot : BitVec 6) : Nat :=
  ((s.regions.filter (fun e => e.2.slot == slot && (e.2.st == .running || e.2.st == .preempted))).map
    (fun e => e.2.reserved)).sum

/-- Q = ceil(L / S). -/
def State.quota (s : State) (slot : BitVec 6) : Nat :=
  let n := (s.domain slot).length
  (s.jobLines slot + n - 1) / n

/-- Unbacked lines of a job that are resident at a slice. -/
def State.residents (s : State) (slot : BitVec 6) (home : Nat) : Nat :=
  (s.ub.filter (fun e => e.2.tag.slot == slot && e.2.home == home && e.2.st == .resident)).length

/-- Sets the state of an unbacked line; one that is RESIDENT stands in its place's bank. -/
def State.setUb (s : State) (line : Nat) (u : UbLine) : State :=
  { s with ub := Tab.set s.ub line u, code := if u.st = .resident then s.codeLine u.home u.place else s.code }

/-- Takes a line out of its slice's hold. -/
def State.unhold (s : State) (home line : Nat) : State :=
  s.modChip home (fun c => { c with hold := c.hold.filter (fun x => x != line) })

/-- Whether a slice's hold has room (R223). -/
def State.holdRoom (s : State) (home : Nat) : Bool := decide ((s.chip home).hold.length < Config.holdLines)

/-- Sets or clears the spill bit of a late slot by an atomic operation. -/
def State.spillBit (s : State) (x : LateSlot) (up : Bool) : State :=
  let t := s.slotTag x.bitLeaf.key
  let (s, v, _) := s.cohRead 0 t x.bitPa 1 x.bitLeaf.pinned false
  let w := if up then v ||| 2 ^ x.bit else v - (v &&& 2 ^ x.bit)
  s.cohWrite 0 t x.bitPa 1 w x.bitLeaf.pinned false

/-- Writes the four sectors of a line to its late slot. -/
def spillSectors (line : Nat) (t : Tag) (pa : Nat) (pin : Option Nat) : List Nat → State → State
  | [], s => s
  | j :: l, s =>
    let x := s.storedSector (4 * line + j)
    let k := pa / 16 + j
    let s := { s with cores := dropCopies k s.cores }
    spillSectors line t pa pin l (s.putHome k pin ⟨if x.tag.isSome then x.data else 0, some t, x.poison⟩)

/-- A line goes to its late slot: the line is written, then its bit is set, then it leaves the slice (R223). -/
def State.spill (s : State) (line : Nat) (u : UbLine) (x : LateSlot) : State :=
  let s := s.recallLine line
  let s := spillSectors line (s.slotTag x.leaf.key) x.pa x.leaf.pinned [0, 1, 2, 3] s
  let s := s.spillBit x true
  let s := ({ s with cores := dropLine line s.cores }.clearLine line).unhold u.home line
  s.setUb line { u with st := .spilled x.pa }

/-- The virtual address of a line that the range of a pool of its job covers, whether or not that pool serves now. -/
def State.coveredVa (s : State) (slot : BitVec 6) (line : Nat) : Option Word :=
  s.regions.findSome? (fun e => if e.2.slot = slot then (e.2.poolSlot line).map LateSlot.va else none)

/-- The record of an UNBACKED_OVERFLOW message: the job, the line's physical name, and its virtual address where a pool's
range covers it (R223, R305). -/
def State.overflow (s : State) (line : Nat) (u : UbLine) : State :=
  let va := s.coveredVa u.tag.slot line
  let r : FaultRec :=
    { FaultRec.blank with
      src := 3, router := u.home, code := cUNBACKED_OVERFLOW, core := 8 * u.home, seq := (s.chip u.home).recNo, va := va.getD 0,
      arg := BitVec.ofNat 64 (64 * line) }
  (s.addRec (some (s.slot u.tag.slot).part) r).modChip u.home (fun c => { c with recNo := c.recNo + 1 })

/-- A beyond-quota victim leaves its slice (R223): to its late slot, else to the hold with a message; none while the
hold is full. -/
def State.evictUb (s : State) (line : Nat) (u : UbLine) : Option State :=
  if s.holdRoom u.home then
    match s.lateSlot u.tag.slot line with
    | some x => some (s.spill line u x)
    | none =>
      let s := s.modChip u.home (fun c => { c with hold := c.hold ++ [line] })
      some ((s.setUb line { u with st := .held }).overflow line u)
  else none

/-- Whether a slice may choose an unbacked line to make room for a line of a job within its quota: no line while its hold is
full (R223). -/
def State.victimOk (s : State) (u : UbLine) (home : Nat) (slot : BitVec 6) : Bool :=
  u.st == .resident && u.home == home && decide (s.quota u.tag.slot < s.residents u.tag.slot home)
    && decide (s.residents slot home < s.quota slot) && s.holdRoom home

/-- The sectors of a line that slice `home` holds leave it: dirty ones go to HBM (R203). -/
def State.dropSlice (s : State) (home line : Nat) : State :=
  (lineSectors line).foldl (fun s k =>
    match Tab.find s.l2 k with
    | some x => if x.home = home then (s.flushHome k).dropHome k else s
    | none => s) s

/-- Makes room at a slice: the backed line of a sector is written back and dropped, or an unbacked line leaves; none where it
cannot. -/
def State.displace (s : State) (victim : Option Nat) (home : Nat) (slot : BitVec 6) : Option State :=
  match victim with
  | none => some s
  | some k =>
    match Tab.find s.l2 k, Tab.find s.ub (k / 4) with
    | some x, _ => if x.home = home then some (s.dropSlice home (k / 4)) else none
    | none, some u => if s.victimOk u home slot then s.evictUb (k / 4) u else none
    | none, none => none

/-- A SPILLED line comes back from its late slot; the spill bit stays set. -/
def refillSectors (line pa : Nat) (t : Tag) : List Nat → State → State
  | [], s => s
  | j :: l, s =>
    let x := s.cohSector (pa / 16 + j)
    refillSectors line pa t l (if x.tag.isSome then s.storeSector (4 * line + j) { x with tag := some t } else s)

/-- The sectors of a line that a slice other than `home` holds. -/
def State.strayed (s : State) (home line : Nat) : List Nat :=
  (lineSectors line).filter (fun k =>
    match Tab.find s.l2 k with
    | some x => x.home != home
    | none => false)

/-- The holder of a backed line passes it to its present home; where that has no place, its dirty sectors go to HBM (R341). -/
def State.passOn (s : State) (home line : Nat) : State :=
  let ks := s.strayed home line
  if ks.isEmpty then s
  else
    match s.linePlace home line with
    | some p =>
      let moved := ks.foldl (fun m k =>
        match Tab.find m k with
        | some x => Tab.set m k { x with home := home, place := p }
        | none => m) s.l2
      { s with l2 := moved, code := s.codeLine home p }
    | none => ks.foldl (fun s k => (s.flushHome k).dropHome k) s

/-- The holder of a line passes it to its present home, and a SPILLED line is refilled (R223, R224, R341); none while the
line is on its way to a full hold or a full slice. -/
def State.bring (s : State) (l : Leaf) (pa : Nat) : Option State :=
  let line := pa / 64
  let home := s.homeOf l pa
  match Tab.find s.ub line with
  | some u =>
    match u.st with
    | .resident =>
      if u.home = home then some s
      else (s.freePlace home).map (fun p => s.setUb line { u with home := home, place := p })
    | .held =>
      if u.home = home then some s
      else if s.holdRoom home then
        let s := (s.unhold u.home line).modChip home (fun c => { c with hold := c.hold ++ [line] })
        some (s.setUb line { u with home := home })
      else none
    | .spilled pa' =>
      (s.freePlace home).map (fun p =>
        (refillSectors line pa' u.tag [0, 1, 2, 3] s).setUb line { u with st := .resident, home := home, place := p })
  | none => some (s.passOn home line)

/-- The first write of an unbacked line makes it RESIDENT (R223). -/
def State.allocate (s : State) (t : Tag) (pin : Option Nat) (pa : Nat) : State :=
  if paKind pa = .unbacked then
    match Tab.find s.ub (pa / 64) with
    | none =>
      let home := s.homeAt pin t.slot pa
      s.setUb (pa / 64) ⟨.resident, home, t, pin, (s.freePlace home).getD 0⟩
    | some u => s.setUb (pa / 64) { u with tag := t }
  else s

/-- A line becomes ABSENT: its storage, copies and hold entry go, and a SPILLED line's bit is cleared (R223). -/
def State.makeAbsent (s : State) (line : Nat) : State :=
  match Tab.find s.ub line with
  | none => { s with cores := dropLine line s.cores }
  | some u =>
    let s := match u.st, s.lateSlot u.tag.slot line with
      | .spilled _, some x => s.spillBit x false
      | _, _ => s
    let s := (({ s with cores := dropLine line s.cores }.clearLine line).unhold u.home line)
    { s with ub := Tab.erase s.ub line }

/-! ### Endpoints (R232, R233) -/

/-- A read of at most one sector at its endpoint. -/
def State.endRead (s : State) (core : Nat) (l : Leaf) (pa size : Nat) (fill : Bool) : State × Nat × Bool :=
  let t := s.slotTag l.key
  match paKind pa with
  | .basin | .coreLocal => (s, s.physRead t pa size, s.physPoison t pa size)
  | _ => if l.c then s.cohRead core t pa size l.pinned fill else s.ncRead core t pa size fill

/-- A write of at most one sector at its endpoint. -/
def State.endWrite (s : State) (core : Nat) (l : Leaf) (pa size v : Nat) (fill : Bool) : State :=
  let t := s.slotTag l.key
  match paKind pa with
  | .basin | .coreLocal => s.physWrite t pa size v
  | _ => if l.c then (s.allocate t l.pinned pa).cohWrite core t pa size v l.pinned fill else s.ncWrite core t pa size v

/-- An indivisible update of a doubleword at its bank, its target core or its home slice, after every L1 copy of the line is
dropped (R245): the old value, its mark, and the state after. -/
def State.update (s : State) (t : Tag) (pin : Option Nat) (pa : Nat) (f : Word → Option Word) : State × Word × Bool :=
  match paKind pa with
  | .basin | .coreLocal =>
    let old := BitVec.ofNat 64 (s.physRead t pa 8)
    let p := s.physPoison t pa 8
    match f old with
    | some w => (s.physWrite t pa 8 w.toNat, old, p)
    | none => (s, old, p)
  | _ =>
    let s := s.recallLine (pa / 64)
    let s := { s with cores := dropLine (pa / 64) s.cores }
    let k := sectorOf pa
    let x := s.homeSector k
    let (v, p) := x.read t (pa % 16) 8
    let old := BitVec.ofNat 64 v
    match f old with
    | some w =>
      if s.tagCurrent t then ((s.allocate t pin pa).putHome k pin (x.write t (pa % 16) 8 w.toNat), old, p) else (s, old, p)
    | none => (s, old, p)

/-- An endpoint as a pair of numbers: another panel, a bank, a core-local memory, a home slice, an L1. -/
def State.endpoint (s : State) (core : Nat) (l : Leaf) (pa : Nat) : Nat × Nat :=
  if s.isFabric l then (4, l.key.toNat)
  else
    match paKind pa with
    | .basin => (1, (pa - basinBase) / 0x80000)
    | .coreLocal => (2, (pa - localBase) / 0x10000)
    | _ => if l.c then (0, s.homeOf l pa) else (3, core)

/-! ### Banks (R210) -/

/-- Chiplet and number of the bank of a basin address. -/
def bankChip (pa : Nat) : Nat := (pa - basinBase) / 0x1000000
def bankNo (pa : Nat) : Nat := (pa - basinBase) / 0x80000 % 32

def State.bankOf (s : State) (pa : Nat) : Bank := (s.chip (bankChip pa)).bank (bankNo pa)

/-- A bank that is in CACHE mode or switches to it: the access faults. -/
def Bank.faults (b : Bank) : Bool := b.moveTo == some .cache || (b.moveTo == none && b.mode == .cache)

/-- A bank that switches to SCRATCH or FIFO: the access waits. -/
def Bank.waits (b : Bank) : Bool := b.moveTo == some .scratch || b.moveTo == some .fifo

/-! ### Arbitration (R150, R211) -/

/-- Whether an instruction that takes `s` to `s'` sends an access to the basin window of its own chiplet. -/
def State.sendsToBasin (s s' : State) : Bool :=
  s'.reqs.any (fun r => decide (s.fresh ≤ r.id) && r.lanes.any (fun l => !l.done &&
    match s.translate r.core r.root r.vahi l.va r.kind.acc r.priv with
    | .ok (lf, pa) => paKind pa == .basin && !s.isFabric lf && bankChip pa == r.core / 8
    | .error _ => false))

/-- Attempts of which a thread's access wins one (R211). -/
def arbitrationTries : Nat := 16

/-- The thread at hand loses bank arbitration: its slot is forfeited (R150, R211). -/
def State.loseTry (s : State) : State := s.modThr (fun t => { t with pre := [], tries := t.tries + 1 })

/-! ### Requests -/

def State.findReq (s : State) (id : Nat) : Option Req := s.reqs.find? (fun r => r.id == id)
def State.modReq (s : State) (id : Nat) (f : Req → Req) : State :=
  { s with reqs := s.reqs.map (fun r => if r.id = id then f r else r) }

/-- Where a lane of a request goes. -/
def State.target (s : State) (r : Req) (l : Lane) : Except WalkFault (Leaf × Nat) :=
  s.translate r.core r.root r.vahi l.va r.kind.acc r.priv

/-- A contribution to a reduction window's set (R249). -/
def ReqKind.joins : ReqKind → Bool
  | .red _ _ _ (some _) => true
  | _ => false

def ReqKind.isAtomic : ReqKind → Bool
  | .amo _ _ _ | .cas _ _ _ | .red _ _ _ _ => true
  | _ => false

/-- Whether two lanes name a common byte. -/
def Lane.meets (a b : Lane) : Bool :=
  decide (a.va.toNat < b.va.toNat + b.size) && decide (b.va.toNat < a.va.toNat + a.size)

/-- Whether a request travels on the ordered class to a place (R235). -/
def State.isOrdered (s : State) (r : Req) (l : Leaf) (pa : Nat) : Bool :=
  !r.vector || s.destChiplet r.core l pa == r.core / 8

/-- Whether q is an earlier request of the same thread as r. -/
def Req.precedes (q r : Req) : Bool := q.core == r.core && q.ctx == r.ctx && decide (q.id < r.id)

/-- Whether two lanes reach a common byte through their translations. -/
def State.meetAt (s : State) (q : Req) (m : Lane) (r : Req) (l : Lane) : Bool :=
  match s.target q m, s.target r l with
  | .ok (f, x), .ok (g, y) =>
    s.isFabric f == s.isFabric g && (!s.isFabric f || f.key == g.key) && decide (x < y + l.size) && decide (y < x + m.size)
  | _, _ => false

/-- An earlier access of the thread to a byte of the lane is still to be performed (R42, R234); one with a lane left may be
performed again whole (R142), so it counts until its last lane is done. DEDUCED (log entry 71): a byte is one byte by its
address with `vahi`, or by the place its translation reaches. A contribution keeps no read waiting (R249). -/
def State.sameBytesBefore (s : State) (p : Req → Bool) (r : Req) (l : Lane) : Bool :=
  s.reqs.any (fun q => p q && q.precedes r && !(q.kind.joins && !r.kind.isWrite)
    && q.lanes.any (fun m => q.vahi == r.vahi && m.meets l || s.meetAt q m r l))

/-- An earlier write of the core on the ordered class to the same endpoint is still to be performed (R235, R236). Of another
thread, one that a fault holds is not on its way, and a contribution has arrived when its set waits. -/
def State.sameEndBefore (s : State) (p : Req → Bool) (r : Req) (e : Nat × Nat) : Bool :=
  s.reqs.any (fun q => p q && q.core == r.core && decide (q.id < r.id) && (q.ctx == r.ctx || !q.held && !q.kind.joins)
    && q.kind.isWrite && q.lanes.any (fun m => !m.done &&
      match s.target q m with
      | .ok (l, pa) => s.endpoint q.core l pa == e && s.isOrdered q l pa
      | .error _ => false))

/-- A lower lane of a store names a byte of the lane: the higher index prevails (R141). -/
def lowerLane (r : Req) (i : Nat) (l : Lane) : Bool :=
  r.kind.isWrite && (r.lanes.take i).any (fun m => !m.done && m.meets l)

/-- An earlier access or BANKMODE of the core to the same bank is still on its way (R210). -/
def State.bankBefore (s : State) (r : Req) (pa : Nat) : Bool :=
  s.reqs.any (fun q => q.core == r.core && decide (q.id < r.id) && !q.held && q.lanes.any (fun m => !m.done &&
    match s.target q m with
    | .ok (l, p) => paKind p == .basin && p / 0x80000 == pa / 0x80000 && s.isOrdered q l p
    | .error _ => false))
  || (bankChip pa == r.core / 8 && (s.chip (bankChip pa)).breqs.any (fun b =>
        b.core == r.core && decide (b.out < r.id) && b.mask.getLsbD (bankNo pa) && b.moving.isNone))

/-- A vector request whose instruction is still in the vector queue (R170). -/
def State.inVecQueue (s : State) (r : Req) : Bool :=
  r.vector && (s.core r.core).vq.any (fun e => e.ctx == r.ctx && (e.out == r.id || e.out + 1 == r.id))

/-- Whether a request goes out at all now: it is not held, does not wait for its twin, and has left the vector queue. -/
def State.goes (s : State) (r : Req) : Bool := !r.held && r.pairNo.isNone && !s.inVecQueue r

/-- A one-lane request that goes out now, with its lane. -/
def State.single (s : State) (id : Nat) : Option (Req × Lane) :=
  match s.findReq id with
  | some r =>
    match r.lanes with
    | [l] => if s.goes r && !l.done then some (r, l) else none
    | _ => none
  | none => none

/-- Whether the order of a core's accesses, of which `p` picks the earlier ones that count, lets lane i of a request be
performed at a place now. -/
def State.inOrder (s : State) (p : Req → Bool) (r : Req) (i : Nat) (lane : Lane) (l : Leaf) (pa : Nat) : Bool :=
  !s.sameBytesBefore p r lane && !lowerLane r i lane
    && !(r.kind.isWrite && s.isOrdered r l pa && s.sameEndBefore p r (s.endpoint r.core l pa))
    && !(paKind pa == .basin && s.isOrdered r l pa && s.bankBefore r pa)

/-- Whether an earlier request of the core to the same line is still to be sent again after REHOME (R342). -/
def State.rehomesBefore (s : State) (r : Req) (pa : Nat) : Bool :=
  s.reqs.any (fun q => q.core == r.core && decide (q.id < r.id) && !q.held && ((q.lanes.zip q.homes).any (fun e => !e.1.done &&
    match e.2, s.target q e.1 with
    | some h, .ok (l, p) => p / 64 == pa / 64 && h != s.homeOf l p
    | _, _ => false)))

/-- Whether the silicon that answers at a place is there: the site of its home, its chiplet or its core (R334, R340, R341), and
the core is not being retired, but for the core's own accesses (R339). -/
def State.answers (s : State) (n : Nat) (l : Leaf) (pa : Nat) : Bool :=
  if s.isFabric l then true
  else
    match paKind pa with
    | .basin => s.stationUp (.chiplet (bankChip pa))
    | .coreLocal =>
      let m := (pa - localBase) / 0x10000
      s.stationUp (.core m) && (m == n || !(Tab.getD s.cores m Core.clear).retiring)
    | _ => !l.c || s.stationUp (.chiplet (s.homeOf l pa))

/-- Whether lane i of a request may be performed at a place now: in order, where silicon answers, at its line's home, and a
write under a slot that is not swept (R229). -/
def State.mayPerform (s : State) (r : Req) (i : Nat) (lane : Lane) (l : Leaf) (pa : Nat) : Bool :=
  s.inOrder (fun _ => true) r i lane l pa && !(r.kind.isWrite && s.slotSweeping (s.slotTag l.key))
    && s.answers r.core l pa && !s.rehomesBefore r pa
    && (match (r.homes[i]?).join with
        | some h => paKind pa != .hbm && paKind pa != .unbacked || !l.c || h == s.homeOf l pa
        | none => true)

/-! ### A fault after issue (R25, R118, R142, R306) -/

/-- What fails for a lane now, if anything. A bank judges an access when it arrives, after the core's earlier accesses and
BANKMODEs there (R210). -/
def State.laneFault (s : State) (r : Req) (l : Lane) : Option FaultInfo :=
  let f := fun (c : BitVec 8) (lv : Nat) => some
    { code := c, oprs := r.oprs, va := l.va, vahi := r.vahi, acc := r.kind.acc.code, elem := if r.vector then l.idx else 0,
      level := lv : FaultInfo }
  if inLocalWindow l.va then none
  else
    match s.target r l with
    | .error e => f e.code e.level
    | .ok (lf, pa) =>
      if s.isFabric lf then none
      else if paKind pa == .basin && (s.bankOf pa).faults && !(s.isOrdered r lf pa && s.bankBefore r pa) then f cBANK_MODE 0
      else if r.kind.isAtomic && paKind pa == .hbm && !lf.c then f cATOMIC_TARGET 0
      else none

/-- The lowest failing lane (R142, R306). -/
def State.firstFault (s : State) (r : Req) : Option FaultInfo :=
  firstSome (fun l => if l.done then none else s.laneFault r l) r.lanes

/-- A lane that is performed again at a reissue. -/
def Lane.again (l : Lane) : Lane :=
  if inLocalWindow l.va then l else { l with done := false, got := 0, gotPoison := false }

/-- Whether a fault of r holds q back: r itself, and a later access of the thread to one of its lines (R118). -/
def Req.heldBy (q r : Req) : Bool :=
  q.id == r.id || (r.precedes q && q.vahi == r.vahi && q.lanes.any (fun m => !m.done)
    && q.lanes.any (fun m => r.lanes.any (fun l => l.va.toNat / 64 == m.va.toNat / 64)))

/-- A fault after issue: the access joins the reissue list with the later ones of its lines, but for those already sent to
another panel, and the thread halts at its boundary; one that is HALTED already raises no further fault (R306), but one that a STOP waits for does (R322). -/
def State.lateFault (s : State) (r : Req) (f : FaultInfo) : State :=
  let back := fun (q : Req) => q.heldBy r && (q.id == r.id || !s.asks.any (fun e => e.2.1 == q.id))
  let ids := (s.reqs.filter (fun q => back q && !q.held)).map Req.id
  let s := { s with reqs := s.reqs.map (fun (q : Req) =>
    if back q then { q with held := true, lanes := q.lanes.map Lane.again } else q) }
  let s := s.modThread r.core r.ctx (fun t => { t with reissue := t.reissue ++ ids })
  let t := s.thread r.core r.ctx
  if t.st = .free ∨ (t.st = .halted ∧ (t.was.isNone ∨ t.was = some .halted)) then s
  else if t.was.isSome then
    (s.haltThread r.core r.ctx f r.ipc true).modThread r.core r.ctx (fun t => { t with was := some .halted })
  else s.haltThread r.core r.ctx f r.ipc true

/-- Whether a write to an unbacked line waits for a place at its slice (R223). -/
def State.lacksPlace (s : State) (write : Bool) (l : Leaf) (pa : Nat) : Bool :=
  write && paKind pa == .unbacked && (Tab.find s.ub (pa / 64)).isNone && (s.freePlace (s.homeOf l pa)).isNone

/-! ### Completion -/

/-- Puts what a vector load read into a piece of its result (R141). -/
def spliceLanes (v : VReg) (w : Nat) (ls : List Lane) : Piece → Piece
  | .mask b x p => .mask b x p
  | .reg n x p =>
    let mine := ls.filter (fun l => 8 * v.toNat + l.idx * w / 64 == n.toNat && !inLocalWindow l.va)
    .reg n (BitVec.ofNat 64 (mine.foldl (fun d l => setLane d w (l.idx % (64 / w)) l.got.toNat) x.toNat))
      (p || mine.any (fun l => l.gotPoison))

/-- Makes an outstanding result ready with changed pieces. -/
def Ctx.changeOutst (t : Ctx) (id : Nat) (f : Piece → Piece) : Ctx :=
  { t with outst := t.outst.map (fun o => if o.id = id then { o with pieces := o.pieces.map f, ready := true } else o) }

/-- Ends a request and its twin. -/
def State.removeReq (s : State) (r : Req) : State :=
  { s with reqs := s.reqs.filter (fun q => q.id != r.id && r.twin != some q.id) }

/-- What a request gives when every lane is performed. -/
def State.completeReq (s : State) (r : Req) : State :=
  let s := s.removeReq r
  let l := r.lanes.headD (Lane.start 0 0 8 0)
  match r.kind, r.out with
  | .load _ signed, some id =>
    s.answerTo r.core r.ctx id (fun t i => t.answerOutst i (loaded l.size signed l.got.toNat) l.gotPoison)
  | .vload v w, some id => s.modThread r.core r.ctx (fun t => t.changeOutst id (spliceLanes v w r.lanes))
  | .store, some id => s.answerTo r.core r.ctx id (fun t i => t.changeOutst i (fun p => p))
  | .amo _ _ _, some id | .cas _ _ _, some id =>
    s.answerTo r.core r.ctx id (fun t i => t.answerOutst i l.got l.gotPoison)
  | .mload e, _ => s.modCore r.core (fun c => c.modMx e (fun q => q.fill r.lanes))
  | .scopew sc, some id =>
    if r.lanes.any Lane.gotPoison then s.containCore r.core r.ctx
    else s.sendScopew r.core r.ctx sc (r.lanes.map Lane.got) id r.ipc l.va
  | _, _ => s

/-- Lane i of a request is performed: its value is fixed, a write's acknowledgement sets out, and the request ends with
its last lane (R233). -/
def State.finishLane (s : State) (id i : Nat) (v : Word) (p : Bool) (chip : Nat) : State :=
  let s := s.modReq id (fun r =>
    { r with lanes := match r.lanes[i]? with
        | some l => setAt r.lanes i { l with done := true, got := v, gotPoison := p }
        | none => r.lanes })
  match s.findReq id with
  | none => s
  | some r =>
    let s := if r.kind.isWrite then
        s.modThread r.core r.ctx (fun t => { t with unacked := t.unacked ++ [⟨id, chip⟩] }) else s
    if r.lanes.all Lane.done then s.completeReq r else s

/-- Keeps, for the thread's own fetch, the bytes at a place that a performed store of `size` bytes replaces (R43). -/
def State.notePerformed (s : State) (r : Req) (size : Nat) (l : Leaf) (pa : Nat) : State :=
  s.modThread r.core r.ctx (fun t => { t with shadow := shadowBytes s r.core (some l) pa size t.shadow })

/-! ### Accesses of other panels (R343, R344, R346) -/

/-- What an access asks another panel for, as `Config.FabricAccess` codes it, with its two operands. -/
def ReqKind.fabricKind (k : ReqKind) (l : Lane) : Nat × Word × Word :=
  match k with
  | .store => (1, l.data, 0)
  | .amo fn _ v => (16 + fn.toNat, v, 0)
  | .cas _ e n => (24, e, n)
  | .red fn v _ _ => (32 + fn.toNat, v, 0)
  | .lineop fn => (40 + fn.toNat, 0, 0)
  | .load _ _ | .vload _ _ | .mload _ | .scopew _ | .qpush _ _ _ | .qpop _ | .qsteal _ _ | .bufinit _ | .bufacq _ _
  | .bufrel _ _ | .bar _ _ => (0, 0, 0)

/-- An access through a fabric slot as the other panel gets it: the remote slot, the generation it is taken to have, and the
panel it names (R343). -/
def State.fabricAccessOf (s : State) (l : Leaf) (pa size kind : Nat) (a : BitVec 128) (b : Word) :
    Option (BitVec 12 × Config.FabricAccess) :=
  (Tab.getD s.slots l.key.toNat KeySlot.clear).fabric.map (fun (panel, rslot, gen) =>
    (panel, { panel := s.panel, src := l.key, slot := rslot, gen := gen, num := s.fresh, c := l.c, pin := l.pinned, pa := pa,
              size := size, kind := kind, a := a, b := b }))

/-- Sends an access to its panel on a stream from a station, where a live wharf leads there and the stream has room; the number
of the access is `s.fresh`. -/
def State.sendAccess (s : State) (src : Station) (ordered : Bool) (x : BitVec 12 × Config.FabricAccess) : Option State :=
  match s.wharfTo ordered x.1 with
  | none => none
  | some w =>
    if (s.stream src (.wharf w) ordered).room then
      some { (s.postOn ordered src (.wharf w) (.access x.1 x.2)) with fresh := s.fresh + 1 }
    else none

/-- Whether an answer to a lane is on its way. -/
def State.asked (s : State) (id i : Nat) : Bool := s.asks.any (fun e => e.2 == (id, i))

/-- An access of another panel sets out, where it can (R343, R346). -/
def asksPanel : Option State → Out
  | some s => .next s
  | none => notNow

/-- A lane's access goes to its panel; none while it waits for the answer, for a wharf, or for room (R335, R343, R346). -/
def State.fabricLane (s : State) (r : Req) (i : Nat) (l : Lane) (lf : Leaf) (pa : Nat) : Option State :=
  if s.asked r.id i then none
  else
    let (k, a, b) := r.kind.fabricKind l
    match s.fabricAccessOf lf pa l.size k (a.setWidth 128) b with
    | none => none
    | some x => (s.sendAccess (.core r.core) (s.isOrdered r lf pa) x).map (fun u => { u with asks := Tab.set u.asks s.fresh (r.id, i) })

/-- The answer of another panel: the lane is performed there, or takes the PERMISSION fault (R118, R343). -/
def State.fabricAnswer (s : State) (num : Nat) (v : Option (BitVec 128)) : State :=
  match Tab.find s.asks num with
  | none => s
  | some (id, i) =>
    let s := { s with asks := Tab.erase s.asks num }
    match s.findReq id with
    | none => s
    | some r =>
      match r.lanes[i]? with
      | none => s
      | some l =>
        if r.held || l.done then s
        else
          match v with
          | none =>
            s.lateFault r { code := cPERMISSION, oprs := r.oprs, va := l.va, vahi := r.vahi, acc := r.kind.acc.code,
                            elem := if r.vector then l.idx else 0 }
          | some w => s.finishLane r.id i (BitVec.ofNat 64 (w.toNat % 2 ^ (8 * l.size))) false fabricChip

/-- Performs a lane of a load or store at its endpoint. -/
def State.doLane (s : State) (r : Req) (i : Nat) (l : Lane) (lf : Leaf) (pa : Nat) (fill : Bool) : State :=
  let chip := s.destChiplet r.core lf pa
  if r.kind.isWrite then
    ((s.notePerformed r l.size lf pa).endWrite r.core lf pa l.size l.data.toNat fill).finishLane r.id i 0 false chip
  else
    let (s, v, p) := s.endRead r.core lf pa l.size fill
    s.finishLane r.id i (BitVec.ofNat 64 v) p chip

end Sys2Proof.Machine
end

