-- ==== Sys2Proof/Machine/Views.lean ====
section
/-! DEFINITION. Accesses that a home, an engine or the lock-keeper makes under a thread's or a job's translation (R179, R195,
R237, R254, R277), and the budgets of regions (R177, R208, R220). -/

namespace Sys2Proof.Machine

/-! ### Views -/

/-- Whose translation an access uses. -/
structure View where
  core : Nat
  root : Root
  vahi : BitVec 8
  priv : Bool
deriving DecidableEq, Repr

/-- The place of a local-window address (R40): core-local memory under the job's slot. -/
def localLeaf (slot : BitVec 6) : Leaf := ⟨0, false, false, 0, slot, false, true, true, true, true, 3⟩

/-- Where an address of a view lies, or what fails. -/
def State.place (s : State) (v : View) (ea : Word) (k : AccKind) : Except WalkFault (Leaf × Nat) :=
  if inLocalWindow ea then .ok (localLeaf v.root.slot, localPa v.core ea.toNat)
  else
    match s.translate v.core v.root v.vahi ea k v.priv with
    | .error e => .error e
    | .ok (l, pa) => if paKind pa == .basin && !s.isFabric l && (s.bankOf pa).faults then .error ⟨cBANK_MODE, 0⟩ else .ok (l, pa)

/-- A fabric access of an agent at a station (R343): what it asks goes out where it can, and the answer is a free value (log entry
76); none where it has no way now. -/
def State.askFabric (s : State) (src : Station) (ord : Bool) (l : Leaf) (pa size kind : Nat) (a : BitVec 128) :
    Option (State × Option (BitVec 128)) :=
  (s.fabricAccessOf l pa size kind a 0).bind (fun x => (s.sendAccess src ord x).map (fun u => (u, Config.fabricAnswer s.fresh)))

/-- The same for the lock-keeper, whose work does not stop for want of a way. -/
def State.keeperAsks (s : State) (core : Nat) (l : Leaf) (pa size kind : Nat) (a : BitVec 128) : Except WalkFault (State × Nat) :=
  let (s, v) := (s.askFabric (.core core) true l pa size kind a).getD ({ s with fresh := s.fresh + 1 }, Config.fabricAnswer s.fresh)
  match v with
  | some w => .ok (s, w.toNat % 2 ^ (8 * size))
  | none => .error ⟨cPERMISSION, 0⟩

/-- A place at slice c for an unbacked line: a free one, else that of a backed line, which leaves. DESIGN CHOICE (log entry
72): the first such line. -/
def State.roomAt (s : State) (c : Nat) : Option (State × Nat) :=
  match s.freePlace c with
  | some p => some (s, p)
  | none =>
    (s.l2.find? (fun e => e.2.home == c && (s.chip c).allocates (e.2.place / bankLines))).map
      (fun e => (s.dropSlice c (e.1 / 4), e.2.place))

/-- The line of an agent's access at its home, with a place for one that is written first; none while the access waits
(R223, R224). -/
def State.makeRoom (s : State) (write : Bool) (l : Leaf) (pa : Nat) : Option State :=
  if l.c then
    (s.bring l pa).bind (fun s => if s.lacksPlace write l pa then (s.roomAt (s.homeOf l pa)).map Prod.fst else some s)
  else some s

/-- Reads `size` bytes of one sector at a place. -/
def State.readAt (s : State) (core : Nat) (l : Leaf) (pa size : Nat) : Except WalkFault (State × Nat × Bool) :=
  if s.isFabric l then (s.keeperAsks core l pa size 0 0).map (fun r => (r.1, r.2, false))
  else .ok (((s.makeRoom false l pa).getD s).endRead core l pa size false)

/-- Writes `size` bytes of one sector at a place. -/
def State.writeAt (s : State) (core : Nat) (l : Leaf) (pa size v : Nat) : Except WalkFault State :=
  if s.isFabric l then (s.keeperAsks core l pa size 1 (BitVec.ofNat 128 v)).map Prod.fst
  else .ok (((s.makeRoom true l pa).getD s).endWrite core l pa size v false)

/-- A doubleword read through a view. -/
def State.loadD (s : State) (v : View) (ea : Word) : Except WalkFault (State × Word) :=
  match s.place v ea .load with
  | .error e => .error e
  | .ok (l, pa) =>
    match s.readAt v.core l pa 8 with
    | .ok (s, w, _) => .ok (s, BitVec.ofNat 64 w)
    | .error e => .error e

/-- A doubleword stored through a view. -/
def State.storeD (s : State) (v : View) (ea w : Word) : Except WalkFault State :=
  match s.place v ea .store with
  | .error e => .error e
  | .ok (l, pa) => s.writeAt v.core l pa 8 w.toNat

/-- Consecutive doublewords. -/
def State.loadDs (v : View) : Nat → Word → State → Except WalkFault (State × List Word)
  | 0, _, s => .ok (s, [])
  | n + 1, ea, s =>
    match s.loadD v ea with
    | .error e => .error e
    | .ok (s, w) =>
      match State.loadDs v n (ea + 8) s with
      | .error e => .error e
      | .ok (s, ws) => .ok (s, w :: ws)

def State.storeDs (v : View) : List Word → Word → State → Except WalkFault State
  | [], _, s => .ok s
  | w :: ws, ea, s =>
    match s.storeD v ea w with
    | .error e => .error e
    | .ok s => State.storeDs v ws (ea + 8) s

/-- Stores that fail are not made. -/
def State.tryStores (s : State) (v : View) (ws : List Word) (ea : Word) : State :=
  match State.storeDs v ws ea s with
  | .ok s => s
  | .error _ => s

/-- An atomic update of a doubleword through a view. -/
def State.updateD (s : State) (v : View) (ea : Word) (f : Word → Word) : State :=
  match s.place v ea .atomic with
  | .error _ => s
  | .ok (l, pa) =>
    match (if l.c then s.bring l pa else some s) with
    | some s => (s.update (s.slotTag l.key) l.pinned pa (fun w => some (f w))).1
    | none => s

/-- The lock-keeper's view of a job: privileged, under the job's tables. -/
def State.jobView (s : State) (p : Nat) (root : Root) (vahi : BitVec 8) : View := ⟨(s.part p).lk, root, vahi, true⟩

/-! ### Budgets (R177) -/

/-- A region that counts: running, or pre-empted and holding. -/
def Region.holds (r : Region) : Bool := r.st == .running || r.st == .preempted

/-- Cores a region claims, from placement to completion. -/
def Region.coreClaim (r : Region) : Nat := r.f.gx * r.f.gy * (if r.f.paired then 2 else 1)

/-- Banks held by region g. -/
def heldBanks (g : Nat) (cs : Tab Chiplet) : Nat :=
  (cs.map (fun c => (c.2.banks.filter (fun b => b.2.holder == some g)).length)).sum

/-- Sum of a claim over the regions below a block, named by its 72-bit address. -/
def State.claims (s : State) (root : Root) (vahi : BitVec 8) (block : Word) (f : Nat → Region → Nat) : Nat :=
  (s.regions.map (fun e =>
    if e.2.holds && e.2.root == root && e.2.vahi == vahi && e.2.chain.contains block then f e.1 e.2 else 0)).sum

/-- The blocks whose budgets bind a region, with what each resolved to: its own, and each ancestor's that still runs or holds;
one that has completed binds no more (R177). -/
def State.ceilings (s : State) (r : Region) : List (Word × Fields) :=
  (r.block, r.f) :: r.chain.tail.filterMap (fun b =>
    (s.regions.find? (fun e => e.2.holds && e.2.root == r.root && e.2.vahi == r.vahi && e.2.block == b)).map
      (fun e => (b, e.2.f)))

def basinClaim (s : State) (g : Nat) (_r : Region) : Nat := 8 * heldBanks g s.chips
def unbkClaim (_g : Nat) (r : Region) : Nat := r.reserved
def coreClaim (_g : Nat) (r : Region) : Nat := r.coreClaim

/-- Whether `more` units fit every budget that binds a region. -/
def State.fitsBudget (s : State) (r : Region) (limit : Fields → Nat) (f : Nat → Region → Nat) (more : Nat) : Bool :=
  (s.ceilings r).all (fun b => decide (s.claims r.root r.vahi b.1 f + more ≤ limit b.2))

/-- Key slots with a running or pre-empted region. -/
def State.busySlots (s : State) : List (BitVec 6) :=
  ((s.regions.filter (fun e => e.2.holds)).map (fun e => e.2.slot)).dedup

/-- Lines reserved at a slice (R220). -/
def State.reservedLines (s : State) (chip : Nat) : Nat :=
  (s.busySlots.map (fun k => if (s.domain k).contains chip then s.quota k else 0)).sum

/-! ### Room in a slice (R209, R220, R221, R223) -/

/-- Whether a job holds more unbacked lines at slice c than its quota. -/
def State.beyondQuota (s : State) (c : Nat) (u : UbLine) : Bool := decide (s.quota u.tag.slot < s.residents u.tag.slot c)

/-- An unbacked line leaves its bank for another place of the slice; beyond its quota it leaves by R223 where there is none,
else a line beyond quota does. -/
def State.moveUb (s : State) (c line : Nat) (u : UbLine) : Option State :=
  match s.roomAt c with
  | some (s, p) => some (s.setUb line { u with place := p })
  | none =>
    if s.beyondQuota c u then s.evictUb line u
    else
      match s.ub.find? (fun e => e.2.st == .resident && e.2.home == c && (s.chip c).allocates (e.2.place / bankLines)
          && s.beyondQuota c e.2) with
      | some v => (s.evictUb v.1 v.2).map (fun s => s.setUb line { u with place := v.2.place })
      | none => none

/-- Moves unbacked lines out of their bank. -/
def moveUbs (c : Nat) : List (Nat × UbLine) → State → Option State
  | [], s => some s
  | e :: t, s => (s.moveUb c e.1 e.2).bind (moveUbs c t)

/-- Steps 2 to 4 of a bank's switch out of CACHE mode: its backed lines go to HBM and leave, its unbacked lines move (R209). -/
def State.emptyBank (s : State) (c b : Nat) : Option State :=
  let lines := ((s.l2.filter (fun e => e.2.home == c && e.2.place / bankLines == b)).map (fun e => e.1 / 4)).dedup
  let s := lines.foldl (fun s line => s.dropSlice c line) s
  moveUbs c (s.ub.filter (fun e => e.2.st == .resident && e.2.home == c && e.2.place / bankLines == b)) s

/-- Held lines of a job at slice c become RESIDENT while its quota and the slice have room (R223). -/
def unholdLines (c : Nat) : List (Nat × UbLine) → State → State
  | [], s => s
  | e :: t, s =>
    if s.residents e.2.tag.slot c < s.quota e.2.tag.slot then
      match s.roomAt c with
      | some (s, p) => unholdLines c t ((s.unhold c e.1).setUb e.1 { e.2 with st := .resident, place := p })
      | none => unholdLines c t s
    else unholdLines c t s

/-- A raised reservation of a job takes lines out of its slices' holds (R221, R223). -/
def State.raiseQuota (s : State) (slot : BitVec 6) : State :=
  (s.domain slot).foldl (fun s c =>
    unholdLines c (s.ub.filter (fun e => e.2.st == .held && e.2.home == c && e.2.tag.slot == slot)) s) s

/-- CACHE banks of a chiplet, switches under way counted as made. -/
def Chiplet.cacheBanks (c : Chiplet) : Nat :=
  ((List.range 32).filter (fun b => ((c.bank b).moveTo.getD (c.bank b).mode) == .cache)).length

/-- Whether a slice's reserved lines fit its CACHE banks (R220). -/
def State.sliceFits (s : State) (chip : Nat) : Bool :=
  decide (s.reservedLines chip ≤ 6144 * (s.chip chip).cacheBanks)

end Sys2Proof.Machine
end

