-- ==== Sys2Proof/Machine/EvEngines.lean ====
section
/-! DEFINITION. Events of engines: queue commands (R276 to R278), circular buffers (R268 to R275), copies (R254 to R261) and
streams (R263 to R267). -/

namespace Sys2Proof.Machine

/-! ### Task queues (R276, R277) -/

/-- A doubleword of HBM as the base die holds it. -/
def State.hbmRead (s : State) (t : Tag) (pa : Nat) : Word := BitVec.ofNat 64 ((s.storedSector (sectorOf pa)).read t (pa % 16) 8).1

def State.hbmWrite (s : State) (t : Tag) (pa : Nat) (v : Word) : State :=
  s.storeSector (sectorOf pa) ((s.storedSector (sectorOf pa)).write t (pa % 16) 8 v.toNat)

/-- A queue's descriptor as the logic reads it. -/
structure Queue where
  tag : Tag
  pa : Nat
  head : Nat
  tail : Nat
  barva : Word
  log2 : Nat
  owner : Nat

def State.queueAt (s : State) (t : Tag) (pa : Nat) : Queue :=
  let d0 := s.hbmRead t pa
  let d2 := s.hbmRead t (pa + 16)
  { tag := t, pa := pa, head := (d0.extractLsb' 32 32).toNat, tail := (d0.extractLsb' 0 32).toNat,
    barva := s.hbmRead t (pa + 8), log2 := (d2.extractLsb' 8 4).toNat, owner := (d2.extractLsb' 0 6).toNat }

/-- Whether descriptor and ring are valid, in a page of `page` bytes. -/
def State.queueOk (s : State) (q : Queue) (page : Nat) : Bool :=
  let d2 := s.hbmRead q.tag (q.pa + 16)
  d2.extractLsb' 12 52 == 0 && d2.extractLsb' 6 2 == 0
    && [24, 32, 40, 48, 56].all (fun o => s.hbmRead q.tag (q.pa + o) == 0)
    && decide (2 ≤ q.log2) && decide (q.log2 ≤ 10) && decide (q.pa % page + 64 + 32 * 2 ^ q.log2 ≤ page)

/-- Physical address of the record of sequence number n. -/
def Queue.record (q : Queue) (n : Nat) : Nat := q.pa + 64 + 32 * (n % 2 ^ q.log2)

/-- STATE of a record. -/
def State.recState (s : State) (q : Queue) (n : Nat) : Nat := (s.hbmRead q.tag (q.record n + 16)).toNat % 4

/-- Sequence numbers from HEAD to TAIL. -/
def Queue.live (q : Queue) : List Nat :=
  (List.range ((q.tail + 2 ^ 32 - q.head) % 2 ^ 32)).map (fun i => (q.head + i) % 2 ^ 32)

/-- Sets STATE of a record, and TAKER where given. -/
def State.setRec (s : State) (q : Queue) (n st : Nat) (taker : Option Nat) : State :=
  let a := q.record n + 16
  let w := (s.hbmRead q.tag a).toNat
  let w := w / 4 * 4 + st
  let w := match taker with
    | some c => w / 2 ^ 29 * 2 ^ 29 + c * 2 ^ 16 + w % 2 ^ 16
    | none => w
  s.hbmWrite q.tag a (BitVec.ofNat 64 w)

/-- Advances HEAD past the records that are not QUEUED. -/
def advanceHead (q : Queue) : List Nat → State → State × Nat
  | [], s => (s, q.tail)
  | n :: t, s => if s.recState q n = 1 then (s, n) else advanceHead q t (s.setRec q n 0 none)

def State.settleQueue (s : State) (q : Queue) : State :=
  let (s, h) := advanceHead q q.live s
  s.hbmWrite q.tag q.pa (BitVec.ofNat 64 (h * 2 ^ 32 + q.tail))

/-- A queue request of one lane: its place, a fault, or nothing while it may not be performed. -/
inductive QueueTry where
  | wait
  | fault (r : Req) (f : FaultInfo)
  | fabric (r : Req) (l : Lane)
  | ok (r : Req) (q : Queue)

def State.queueFault (r : Req) (c : BitVec 8) : FaultInfo :=
  { code := c, oprs := r.oprs, va := (r.lanes.headD (Lane.start 0 0 8 0)).va, vahi := r.vahi, acc := 2 }

/-- What the translation of a QSTEAL's barrier object fails with, before the queue is looked at (R277). -/
def State.stealFault (s : State) (r : Req) (q : Queue) : Option FaultInfo :=
  match r.kind with
  | .qsteal _ b =>
    if q.barva = 0 then none
    else
      match s.place ⟨r.core, r.root, r.vahi, r.priv⟩ b .load with
      | .error e => some { code := e.code, oprs := r.oprs, va := b, vahi := r.vahi, level := e.level }
      | .ok _ => none
  | _ => none

def State.tryQueue (s : State) (id : Nat) : QueueTry :=
  match s.single id with
  | none => .wait
  | some (r, l) =>
    if inLocalWindow l.va then .fault r (State.queueFault r cQUEUE_STATE)
    else
      match s.firstFault r, s.target r l with
      | some f, _ => .fault r f
      | none, .error _ => .wait
      | none, .ok (lf, pa) =>
        if lf.c || (!s.isFabric lf && paKind pa != .hbm) then .fault r (State.queueFault r cQUEUE_STATE)
        else if s.isFabric lf then .fabric r l
        else if !s.mayPerform r 0 l lf pa then .wait
        else
          let q := s.queueAt (s.slotTag lf.key) pa
          match s.stealFault r q with
          | some f => .fault r f
          | none =>
            if s.queueOk q (if lf.level = 2 then 2 ^ 30 else 65536) then .ok r q
            else .fault r (State.queueFault r cQUEUE_STATE)

/-- Ends a queue command with its results. -/
def State.answerQueue (s : State) (r : Req) (d : Reg) (ws : List Word) : State :=
  let ps := (List.range ws.length).map (fun i => Piece.reg (d + BitVec.ofNat 8 i) (ws.getD i 0) false)
  match r.out with
  | some id => (s.removeReq r).answerTo r.core r.ctx id (fun t i => t.readyOutst i ps 0)
  | none => s.removeReq r

/-- How a queue command is coded as an access of another panel: its kind, and its two words. -/
def queueKind : ReqKind → Nat × Word × Word
  | .qpush _ b res => (48, b, res)
  | .qpop _ => (49, 0, 0)
  | .qsteal _ b => (50, b, 0)
  | _ => (0, 0, 0)

/-- A command on a queue of another panel: its answer is that panel's (log entry 76); none while it has no way there. -/
def State.fabricQueue (s : State) (r : Req) (l : Lane) (d : Reg) (n : Nat) : Option State :=
  match s.target r l with
  | .error _ => none
  | .ok (lf, pa) =>
    let (k, a, b) := queueKind r.kind
    (s.askFabric (.core r.core) true lf pa 16 k (b ++ a)).map (fun (s, v) =>
      match v with
      | none => s.lateFault r (State.queueFault r cPERMISSION)
      | some _ =>
        { s with fresh := s.fresh + n }.answerQueue r d ((List.range n).map (fun i => Config.freeWord (s.fresh + i))))

/-- QPUSH_COMMAND (R277). -/
def execQpushCommand (r : Nat) (s : State) : Out :=
  match s.tryQueue r with
  | .wait => notNow
  | .fault r f => .next (s.lateFault r f)
  | .fabric r l =>
    match r.kind with
    | .qpush d _ _ => asksPanel (s.fabricQueue r l d 1)
    | _ => notNow
  | .ok r q =>
    match r.kind with
    | .qpush d b res =>
      if (q.tail + 2 ^ 32 - q.head) % 2 ^ 32 = 2 ^ q.log2 then .next ((s.settleQueue q).answerQueue r d [2])
      else
        let a := q.record q.tail
        let s := (((s.hbmWrite q.tag a b).hbmWrite q.tag (a + 8) res).hbmWrite q.tag (a + 16)
          (BitVec.ofNat 64 (q.tail * 2 ^ 32 + 1))).hbmWrite q.tag (a + 24) 0
        let s := s.settleQueue { q with tail := (q.tail + 1) % 2 ^ 32 }
        .next (s.answerQueue r d [BitVec.ofNat 64 (q.tail * 2 ^ 32)])
    | _ => notNow

/-- Takes a tile: its record moves to TAKEN or STOLEN, and the command's three results. -/
def State.takeTile (s : State) (r : Req) (q : Queue) (d : Reg) (st : Nat) (n : Option Nat) : State :=
  match n with
  | none => (s.settleQueue q).answerQueue r d [1, 0, 0]
  | some n =>
    let a := q.record n
    let ws := [BitVec.ofNat 64 (n * 2 ^ 32), s.hbmRead q.tag a, s.hbmRead q.tag (a + 8)]
    ((s.setRec q n st (some r.core)).settleQueue q).answerQueue r d ws

/-- QPOP_COMMAND (R277): the oldest QUEUED tile. -/
def execQpopCommand (r : Nat) (s : State) : Out :=
  match s.tryQueue r with
  | .wait => notNow
  | .fault r f => .next (s.lateFault r f)
  | .fabric r l =>
    match r.kind with
    | .qpop d => asksPanel (s.fabricQueue r l d 3)
    | _ => notNow
  | .ok r q =>
    match r.kind with
    | .qpop d => .next (s.takeTile r q d 2 (q.live.find? (fun n => s.recState q n == 1)))
    | _ => notNow

/-- QSTEAL_COMMAND (R277): denied unless the owner's STEAL bit is 1; the newest QUEUED tile. -/
def execQstealCommand (r : Nat) (s : State) : Out :=
  match s.tryQueue r with
  | .wait => notNow
  | .fault r f => .next (s.lateFault r f)
  | .fabric r l =>
    match r.kind with
    | .qsteal d _ => asksPanel (s.fabricQueue r l d 3)
    | _ => notNow
  | .ok r q =>
    match r.kind with
    | .qsteal d b =>
      let newest := q.live.reverse.find? (fun n => s.recState q n == 1)
      if q.barva = 0 then .next (s.takeTile r q d 3 newest)
      else if b ≠ q.barva then .next (s.lateFault r (State.queueFault r cQUEUE_STATE))
      else
        match s.loadD ⟨r.core, r.root, r.vahi, r.priv⟩ (b + 16) with
        | .error e =>
          .next (s.lateFault r { code := e.code, oprs := r.oprs, va := b, vahi := r.vahi, level := e.level })
        | .ok (s, w) =>
          if w.getLsbD q.owner then .next (s.takeTile r q d 3 newest)
          else .next ((s.settleQueue q).answerQueue r d [3, 0, 0])
    | _ => notNow

/-! ### Circular buffers (R268 to R272) -/

def CBuf.slot (b : CBuf) (i : Nat) : Slot := b.slots.getD i ⟨.free, 0, false⟩
def CBuf.setSlot (b : CBuf) (i : Nat) (x : Slot) : CBuf := { b with slots := setAt b.slots i x }
def CBuf.slotBytes (b : CBuf) : Nat := b.size * 64

/-- FILLED: consecutive FULL slots from TAKE. -/
def CBuf.filled (b : CBuf) : Nat :=
  ((List.range b.count).map (fun i => (b.slot ((b.take + i) % b.count)).st)).takeWhile (fun x => x == .full) |>.length

def Bank.buf (b : Bank) (base : Nat) : Option CBuf := b.bufs.find? (fun x => x.base == base)
def Bank.setBuf (b : Bank) (x : CBuf) : Bank :=
  { b with bufs := b.bufs.map (fun y => if y.base = x.base then x else y) }

def State.modBank (s : State) (chip bank : Nat) (f : Bank → Bank) : State :=
  s.modChip chip (fun h => h.setBank bank (f (h.bank bank)))

/-- A buffer request of one lane at its controller: chiplet, bank and byte offset of the base. -/
inductive BufTry where
  | wait
  | fault (r : Req) (f : FaultInfo)
  | ok (r : Req) (chip bank off : Nat)

def State.bufFault (r : Req) (c : BitVec 8) : FaultInfo :=
  { code := c, oprs := r.oprs, va := (r.lanes.headD (Lane.start 0 0 8 0)).va, vahi := r.vahi, acc := 1 }

def State.tryBuf (s : State) (id : Nat) : BufTry :=
  match s.single id with
  | none => .wait
  | some (r, l) =>
    if inLocalWindow l.va then .fault r (State.bufFault r cBANK_MODE)
    else
      match s.firstFault r, s.target r l with
      | some f, _ => .fault r f
      | none, .error _ => .wait
      | none, .ok (lf, pa) =>
        if paKind pa != .basin || s.isFabric lf then .fault r (State.bufFault r cBANK_MODE)
        else if !s.mayPerform r 0 l lf pa || (s.bankOf pa).waits then .wait
        else if (s.bankOf pa).mode != .fifo then .fault r (State.bufFault r cBANK_MODE)
        else .ok r (bankChip pa) (bankNo pa) ((pa - basinBase) % 0x80000)

/-- Whether a to-buffer COPY still has to write to a base. -/
def State.copyPending (s : State) (chip bank off : Nat) : Bool :=
  s.ops.any (fun o =>
    match o.kind with
    | .copy _ dst _ ctl _ _ =>
      ctlBuf ctl && o.ended.isNone && (decide (o.next < o.total) || decide (0 < o.written)) &&
        match s.place ⟨o.core, o.root, o.vahi, o.priv⟩ dst.base .engWrite with
        | .ok (_, pa) => decide (pa = basinPa chip bank off)
        | .error _ => false
    | .outStream _ _ _ => false)

/-- A buffer after BUFINIT (R269). -/
def newBuf (off : Nat) (b : Word) : CBuf where
  base := off
  size := bufSize b
  count := bufCount b
  pk := bufPk b
  fill := 0
  take := 0
  bytes := 0
  slots := List.replicate (bufCount b) ⟨.free, 0, false⟩
  waitC := []
  waitP := []

/-- Whether the controller refuses a BUFINIT (R269). -/
def State.bufinitBad (s : State) (chip bank off : Nat) (b : Word) : Bool :=
  let k := (s.chip chip).bank bank
  let n := bufCount b * bufSize b * 64
  let old := k.buf off
  decide (0x80000 < off + n)
    || k.bufs.any (fun x => x.base != off && bufCount b != 0 && decide (off < x.base + x.count * x.slotBytes) && decide (x.base < off + n))
    || (old.isNone && bufCount b != 0 && decide (8 ≤ k.bufs.length))
    || (match old with
        | some x => x.slots.any (fun y => y.st == .held || y.st == .filling) || s.copyPending chip bank off
            || !x.waitC.isEmpty || !x.waitP.isEmpty
        | none => false)

/-- BUFINIT_REQUEST (R269). -/
def execBufinitRequest (r : Nat) (s : State) : Out :=
  match s.tryBuf r with
  | .wait => notNow
  | .fault r f => .next (s.lateFault r f)
  | .ok r chip bank off =>
    match r.kind with
    | .bufinit b =>
      if s.bufinitBad chip bank off b then .next (s.lateFault r (State.bufFault r cBUF_STATE))
      else
        let s := s.removeReq r
        .next (s.modBank chip bank (fun k =>
          let rest := k.bufs.filter (fun x => x.base != off)
          { k with bufs := if bufCount b = 0 then rest else rest ++ [newBuf off b] }))
    | _ => notNow

/-- BUFACQ_REQUEST (R271): the request is queued by its role. -/
def execBufacqRequest (r : Nat) (s : State) : Out :=
  match s.tryBuf r with
  | .wait => notNow
  | .fault r f => .next (s.lateFault r f)
  | .ok r chip bank off =>
    match r.kind, ((s.chip chip).bank bank).buf off with
    | .bufacq _ produce, some x =>
      if x.waitC.contains r.id || x.waitP.contains r.id then notNow
      else if produce && !x.pk then .next (s.lateFault r (State.bufFault r cBUF_STATE))
      else
        let y := if produce then { x with waitP := x.waitP ++ [r.id] } else { x with waitC := x.waitC ++ [r.id] }
        .next (s.modBank chip bank (fun k => k.setBuf y))
    | .bufacq _ _, none => .next (s.lateFault r (State.bufFault r cBUF_STATE))
    | _, _ => notNow

/-- A granted slot: the buffer after, the slot's number, status and byte count (R270, R271). -/
def CBuf.grant (b : CBuf) (produce : Bool) : Option (CBuf × Nat × Nat × Nat) :=
  if produce then
    let x := b.slot b.fill
    if x.st == .free then
      some ({ b.setSlot b.fill { x with st := .filling } with fill := (b.fill + 1) % b.count, waitP := b.waitP.drop 1 },
            b.fill, 0, b.slotBytes)
    else none
  else
    let x := b.slot b.take
    if x.st == .full then
      some ({ b.setSlot b.take { x with st := .held } with take := (b.take + 1) % b.count, waitC := b.waitC.drop 1 },
            b.take, if x.poison then 1 else 0, x.valid)
    else none

/-- BUFACQ_GRANT (R271): the oldest request of a role. -/
def execBufacqGrant (chip bank base : Nat) (produce : Bool) (s : State) : Out :=
  match ((s.chip chip).bank bank).buf base with
  | none => notNow
  | some b =>
    match if produce then b.waitP else b.waitC with
    | [] => notNow
    | id :: _ =>
      match s.findReq id, b.grant produce with
      | some r, some (b', i, st, n) =>
        match r.kind, r.out with
        | .bufacq d _, some out =>
          let va := (r.lanes.headD (Lane.start 0 0 8 0)).va
          let ps := [Piece.reg d (va + BitVec.ofNat 64 (i * b.slotBytes + st)) false,
                     Piece.reg (d + 1) (BitVec.ofNat 64 n) false]
          let s := (s.removeReq r).modBank chip bank (fun k => k.setBuf b')
          .next (s.answerTo r.core r.ctx out (fun t o => t.readyOutst o ps 0))
        | _, _ => notNow
      | none, _ =>
        let b' := if produce then { b with waitP := b.waitP.drop 1 } else { b with waitC := b.waitC.drop 1 }
        .next (s.modBank chip bank (fun k => k.setBuf b'))
      | some _, none => notNow

/-- Slot number that a BUFREL names. -/
def slotNumber (base b : Word) (bytes : Nat) : Nat := (b - base).toNat / bytes

/-- A slot after its release (R270); none where R270 has no such event. -/
def CBuf.release (b : CBuf) (produce : Bool) (i : Nat) : Option CBuf :=
  let x := b.slot i
  if b.count ≤ i then none
  else if produce then
    if x.st == .filling then some (b.setSlot i ⟨.full, b.slotBytes, false⟩) else none
  else if x.st == .held then some (b.setSlot i ⟨.free, 0, false⟩)
  else none

/-- BUFREL_REQUEST (R272). -/
def execBufrelRequest (r : Nat) (s : State) : Out :=
  match s.tryBuf r with
  | .wait => notNow
  | .fault r f => .next (s.lateFault r f)
  | .ok r chip bank off =>
    match r.kind with
    | .bufrel produce a =>
      let va := (r.lanes.headD (Lane.start 0 0 8 0)).va
      match ((s.chip chip).bank bank).buf off with
      | none => .next (s.lateFault r (State.bufFault r cBUF_STATE))
      | some b =>
        match b.release produce (slotNumber va a b.slotBytes) with
        | none => .next (s.lateFault r (State.bufFault r cBUF_STATE))
        | some b' => .next ((s.removeReq r).modBank chip bank (fun k => k.setBuf b'))
    | _ => notNow

/-! ### Elements (R254, R255, R258, R260) -/

/-- Marks a sector poisoned where an endpoint holds it (R311). -/
def State.poisonPlace (s : State) (core : Nat) (l : Leaf) (pa : Nat) : State :=
  let k := sectorOf pa
  match paKind pa with
  | .basin | .coreLocal => s.markPoison pa 1
  | _ =>
    if l.c then
      match Tab.find s.l2 k with
      | some x => { s with l2 := Tab.set s.l2 k { x with poison := true } }
      | none => s.markPoison pa 1
    else
      match Tab.find (s.core core).l1 k with
      | some x => s.putL1 core k { x with poison := true }
      | none => s.markPoison pa 1

/-- A fault of an element: code, sector, address, access kind, level. -/
structure ElemFault where
  code : BitVec 8
  sect : Nat
  va : Word
  acc : AccKind
  level : Nat

def elemFault (c : BitVec 8) (j : Nat) (va : Word) (k : AccKind) (level : Nat) : ElemFault := ⟨c, j, va, k, level⟩

/-- MODEL: the code of an element that cannot be performed yet: no fault. -/
def cWAIT : BitVec 8 := 0

/-- Whether an element waits: its bank switches to SCRATCH or FIFO (R210), the silicon at its place is not there (R340, R341), or a
write's slot is swept (R229). -/
def State.engWaits (s : State) (core : Nat) (l : Leaf) (pa : Nat) (write : Bool) : Bool :=
  !s.isFabric l && (paKind pa == .basin && (s.bankOf pa).waits || !s.answers core l pa || write && s.slotSweeping (s.slotTag l.key))

/-- The station of the engines of a core's chiplet. -/
def engStation (core : Nat) : Station := .chiplet (core / 8)

/-- Performs an element at a fabric place: its value, PERMISSION where the other panel refuses it, or a wait. -/
def State.engFabric (s : State) (v : View) (l : Leaf) (pa n kind : Nat) (x : BitVec 128) (bad : BitVec 8 → ElemFault) :
    Except ElemFault (State × Nat) :=
  match s.askFabric (engStation v.core) false l pa n kind x with
  | none => .error (bad cWAIT)
  | some (s, some w) => .ok (s, w.toNat % 2 ^ (8 * n))
  | some (_, none) => .error (bad cPERMISSION)

/-- Reads `n` bytes of an element for an engine. -/
def State.engRead (s : State) (v : View) (ea : Word) (n j : Nat) (k : AccKind) : Except ElemFault (State × Nat × Bool) :=
  match s.place v ea k with
  | .error e => .error (elemFault e.code j ea k e.level)
  | .ok (l, pa) =>
    if s.isFabric l then
      (s.engFabric v l pa n 0 0 (fun c => elemFault c j ea k 0)).map (fun r => (r.1, r.2, false))
    else if s.engWaits v.core l pa false then .error (elemFault cWAIT j ea k 0)
    else
      match s.makeRoom false l pa with
      | some s => .ok (s.endRead v.core l pa n false)
      | none => .error (elemFault cWAIT j ea k 0)

/-- Writes `n` bytes of an element for an engine. -/
def State.engWrite (s : State) (v : View) (ea : Word) (n j x : Nat) (p : Bool) : Except ElemFault State :=
  match s.place v ea .engWrite with
  | .error e => .error (elemFault e.code j ea .engWrite e.level)
  | .ok (l, pa) =>
    if s.isFabric l then
      (s.engFabric v l pa n 1 (BitVec.ofNat 128 x) (fun c => elemFault c j ea .engWrite 0)).map Prod.fst
    else if s.engWaits v.core l pa true then .error (elemFault cWAIT j ea .engWrite 0)
    else
      match s.makeRoom true l pa with
      | some s =>
        let s := s.endWrite v.core l pa n x false
        .ok (if p then s.poisonPlace v.core l pa else s)
      | none => .error (elemFault cWAIT j ea .engWrite 0)

/-- Parts of an element: one for each 16-byte sector, from sector `j` on. -/
def elemParts (size j : Nat) : List Nat := (List.range ((size + 15) / 16)).drop j

/-- Copies the sectors of an element; what was performed before a fault stays. -/
def copySectors (v : View) (src : Option Word) (dst : Word) (size : Nat) (mark : Bool) :
    List Nat → State → State × Option ElemFault
  | [], s => (s, none)
  | j :: t, s =>
    let n := min size 16
    let off := BitVec.ofNat 64 (16 * j)
    let got : Except ElemFault (State × Nat × Bool) :=
      match src with
      | some a => s.engRead v (a + off) n j .engRead
      | none => .ok (s, 0, mark)
    match got with
    | .error e => (s, some e)
    | .ok (u, x, p) =>
      match u.engWrite v (dst + off) n j x p with
      | .error e => (s, some e)
      | .ok u => copySectors v src dst size mark t u

def EngineOp.view (o : EngineOp) : View := ⟨o.core, o.root, o.vahi, o.priv⟩

/-- The source of element l of a copy: an address, or zeros with a mark, and whether it counts in OOR (R260). -/
def State.copySource (s : State) (o : EngineOp) (src : Pattern) (index : Word) (gath pf : Bool) (extent size l : Nat) :
    Except ElemFault (State × Option Word × Bool × Bool) :=
  if gath then
    let a := index + BitVec.ofNat 64 (8 * l)
    if !alignedTo a 8 then .error (elemFault cALIGNMENT 0 a .idxRead 0)
    else
      match s.engRead o.view a 8 0 .idxRead with
      | .error e => .error e
      | .ok (s, w, p) =>
        let k := toSigned 64 w
        if p then
          (if pf then .error (elemFault cPOISONED_INDEX 0 a .idxRead 0) else .ok (s, none, true, true))
        else if k < 0 ∨ (extent : Int) ≤ k then .ok (s, none, false, true)
        else .ok (s, some (src.base + BitVec.ofInt 64 (k * (size : Nat))), false, false)
  else .ok (s, some (src.elem l), false, false)

/-- Whether element l of an operation is performed. -/
def EngineOp.isDone (o : EngineOp) (l : Nat) : Bool := decide (l < o.next) || o.extra.any (fun e => e.1 == l)

/-- Moves `next`, with the count of OOR, past the elements performed. -/
def skipDone (extra : List (Nat × Bool)) : Nat × Nat → Nat → Nat × Nat
  | n, 0 => n
  | n, k + 1 =>
    match extra.find? (fun e => e.1 == n.1) with
    | some e => skipDone extra (n.1 + 1, if e.2 then n.2 + 1 else n.2) k
    | none => n

/-- Element l is performed. -/
def EngineOp.mark (o : EngineOp) (l : Nat) (oor : Bool) : EngineOp :=
  let extra := o.extra ++ [(l, oor)]
  let n := skipDone extra (o.next, o.oor) extra.length
  { o with
    next := n.1, oor := n.2, extra := extra.filter (fun e => decide (n.1 ≤ e.1)), sect := if l = o.next then 0 else o.sect }

/-- Suspends an operation at an element and hands out its record (R255, R301); the counter of free values moves on. -/
def State.suspend (s : State) (o : EngineOp) (l : Nat) (e : ElemFault) : State :=
  let s := { s with fresh := s.fresh + 1 }
  let r : FaultRec :=
    { FaultRec.blank with
      src := 1, grade := gradeOf e.code, code := e.code, eng := o.eng, ctx := o.ctx, core := o.core, seq := o.recs,
      opseq := o.seq, cpc := (s.thread o.core o.ctx).pc, ipc := o.ipc, va := e.va, elem := l, sect := e.sect,
      level := e.level, acc := e.acc.code, vahi := o.vahi, oprs := o.oprs }
  (s.addRec (s.partOfCore o.core) r).modOp o.id (fun o =>
    { o with recs := o.recs + 1, sect := e.sect, fault := some ⟨e.code, l, e.sect, e.va, e.acc.code, e.level⟩ })

/-- Whether an operation runs: not suspended, ended, refused, or waiting for its twin. -/
def EngineOp.runs (o : EngineOp) : Bool :=
  o.fault.isNone && o.ended.isNone && !o.refused && o.pairNo.isNone

/-- Endpoint of an address of a view, if it translates. -/
def State.viewEnd (s : State) (v : View) (ea : Word) (k : AccKind) : Option (Nat × Nat) :=
  match s.place v ea k with
  | .ok (l, pa) => some (s.endpoint v.core l pa)
  | .error _ => none

/-- With ORD = 1 an element waits for the earlier ones of the same endpoints (R254). -/
def State.ordWaits (s : State) (o : EngineOp) (src dst : Pattern) (gath : Bool) (l : Nat) : Bool :=
  o.ord && ((List.range l).drop o.next).any (fun e => !o.isDone e &&
    (gath || s.viewEnd o.view (src.elem e) .engRead == s.viewEnd o.view (src.elem l) .engRead
      || s.viewEnd o.view (dst.elem e) .engWrite == s.viewEnd o.view (dst.elem l) .engWrite))

/-- Element l of a copy to memory. -/
def State.memElement (s : State) (o : EngineOp) (src dst : Pattern) (index ctl : Word) (pf : Bool) (extent l : Nat) : Out :=
  let size := copyBytes (ctlEs ctl)
  let fail := fun (u : State) (e : ElemFault) => whenEnabled (l == o.next && e.code != cWAIT) (u.suspend o l e)
  if s.ordWaits o src dst (ctlGath ctl) l then notNow
  else
    match s.copySource o src index (ctlGath ctl) pf extent size l with
    | .error e => fail s e
    | .ok (u, a, mark, oor) =>
      let d := dst.elem l
      match a with
      | some x =>
        if !alignedTo x size then fail s (elemFault cALIGNMENT 0 x .engRead 0)
        else if !alignedTo d size then fail s (elemFault cALIGNMENT 0 d .engWrite 0)
        else
          match copySectors o.view a d size mark (elemParts size (if l = o.next then o.sect else 0)) u with
          | (w, some e) => fail w e
          | (w, none) => .next (w.modOp o.id (fun o => o.mark l oor))
      | none =>
        if !alignedTo d size then fail s (elemFault cALIGNMENT 0 d .engWrite 0)
        else
          match copySectors o.view a d size mark (elemParts size (if l = o.next then o.sect else 0)) u with
          | (w, some e) => fail w e
          | (w, none) => .next (w.modOp o.id (fun o => o.mark l oor))

/-! ### Copies into a buffer (R270, R273 to R275) -/

/-- The buffer that an operation's destination names. -/
def State.destBuf (s : State) (o : EngineOp) (base : Word) : Except WalkFault (Option (Leaf × Nat × CBuf)) :=
  match s.place o.view base .engWrite with
  | .error e => if e.code = cBANK_MODE then .ok none else .error e
  | .ok (l, pa) =>
    if paKind pa = .basin ∧ ¬ s.isFabric l then
      match (s.bankOf pa).buf ((pa - basinBase) % 0x80000) with
      | some b => .ok (if b.pk then none else some (l, pa, b))
      | none => .ok none
    else .ok none

/-- An earlier to-buffer copy of the same buffer still has bytes to write or count, or its CLOSE is due (R270, R273). -/
def State.copyBefore (s : State) (o : EngineOp) (pa : Nat) : Bool :=
  s.ops.any (fun q => decide (q.id < o.id) && !q.refused && q.ended.isNone && !q.mute &&
    match q.kind with
    | .copy _ dst _ ctl _ _ => ctlBuf ctl && (decide (q.next < q.total) || decide (0 < q.written) || ctlClose ctl) &&
      (match s.place q.view dst.base .engWrite with
       | .ok (_, a) => a == pa
       | .error _ => false)
    | .outStream _ _ _ => false)

def setBufAt (s : State) (pa : Nat) (b : CBuf) : State := s.modBank (bankChip pa) (bankNo pa) (fun k => k.setBuf b)

/-- Writes sectors of an element into a slot, with their marks. -/
def writeSlot (t : Tag) (at_ n : Nat) : List (Nat × Nat × Bool) → State → State
  | [], s => s
  | (j, x, p) :: l, s =>
    let s := s.physWrite t (at_ + 16 * j) n x
    writeSlot t at_ n l (if p then s.markPoison (at_ + 16 * j) 1 else s)

/-- Reads the sectors of an element, of which `a` is the source address, or zeros with a mark; what was read before a fault. -/
def readElem (v : View) (a : Option Word) (size : Nat) (mark : Bool) :
    List Nat → State → State × List (Nat × Nat × Bool) × Option ElemFault
  | [], s => (s, [], none)
  | j :: t, s =>
    match a with
    | none =>
      let (s, l, e) := readElem v a size mark t s
      (s, (j, 0, mark) :: l, e)
    | some y =>
      match s.engRead v (y + BitVec.ofNat 64 (16 * j)) (min size 16) j .engRead with
      | .error e => (s, [], some e)
      | .ok (s, x, p) =>
        let (s, l, e) := readElem v a size mark t s
        (s, (j, x, p) :: l, e)

/-- Writes what was read of element `next` into the slot it goes to; the element is performed, or its operation suspended at the
sector that failed (R255, R275). -/
def State.fillSlot (s : State) (o : EngineOp) (l pa size : Nat) (lf : Leaf) (b : CBuf) (oor : Bool)
    (vs : List (Nat × Nat × Bool)) (e : Option ElemFault) : State :=
  let w := writeSlot (s.slotTag lf.key) (pa + b.fill * b.slotBytes + (b.bytes + o.written)) (min size 16) vs s
  let w := if vs.isEmpty then w else setBufAt w pa (b.setSlot b.fill { b.slot b.fill with st := .filling })
  match e with
  | some e => w.suspend o l e
  | none => w.modOp o.id (fun o => { o.mark l oor with written := o.written + size })

/-- Element `next` of a copy into a buffer. -/
def State.bufElement (s : State) (o : EngineOp) (src : Pattern) (base index ctl : Word) (pf : Bool) (extent l : Nat) : Out :=
  let size := copyBytes (ctlEs ctl)
  let fail := fun (u : State) (e : ElemFault) => whenEnabled (e.code != cWAIT) (u.suspend o l e)
  if l ≠ o.next then notNow
  else
    match s.destBuf o base with
    | .error e => fail s (elemFault e.code 0 base .engWrite e.level)
    | .ok none => .next (s.modOp o.id (fun o => { o with refused := true }))
    | .ok (some (lf, pa, b)) =>
      let x := b.slot b.fill
      if s.copyBefore o pa || (s.bankOf pa).waits || !(x.st == .free || x.st == .filling)
          || decide (b.slotBytes ≤ b.bytes + o.written) then notNow
      else
        match s.copySource o src index (ctlGath ctl) pf extent size l with
        | .error e => fail s e
        | .ok (u, a, mark, oor) =>
          if !(match a with | some y => alignedTo y size | none => true) then
            .next (s.suspend o l (elemFault cALIGNMENT 0 (a.getD 0) .engRead 0))
          else
            let (w, vs, e) := readElem o.view a size mark (elemParts size o.sect) u
            whenEnabled (e.all (fun e => e.code != cWAIT)) (w.fillSlot o l pa size lf b oor vs e)

/-- Whether an operation stands still: its region is pre-empted (R323). -/
def State.paused (s : State) (o : EngineOp) : Bool :=
  match o.region with
  | 0 => false
  | g + 1 =>
    match Tab.find s.regions g with
    | some r => r.st == .preempted
    | none => false

/-- Whether a copy is suspended: a stop of its core suspends it, while output streams still drain (R322, R323, R339). -/
def State.copyPaused (s : State) (o : EngineOp) : Bool := s.paused o || (s.core o.core).stopped || (s.core o.core).retiring

/-- COPY_ELEMENT (R258). -/
def execCopyElement (o l : Nat) (s : State) : Out :=
  match s.op o with
  | none => notNow
  | some q =>
    if !q.runs || q.mute || s.copyPaused q || decide (q.total ≤ l) || q.isDone l then notNow
    else
      match q.kind with
      | .copy src dst index ctl pf extent =>
        if ctlBuf ctl then s.bufElement q src dst.base index ctl pf extent l
        else s.memElement q src dst index ctl pf extent l
      | .outStream _ _ _ => notNow

/-- Counts bytes of slot FILL; a full slot becomes FULL (R274). -/
def CBuf.countBytes (b : CBuf) (n : Nat) : CBuf :=
  if b.slotBytes ≤ b.bytes + n then
    { b.setSlot b.fill ⟨.full, b.slotBytes, false⟩ with fill := (b.fill + 1) % b.count, bytes := 0 }
  else { b with bytes := b.bytes + n }

/-- BUFFER_SECTOR_COUNTED (R274): the next sector of a to-buffer copy, or the rest at its end. -/
def execBufferSectorCounted (o : Nat) (s : State) : Out :=
  match s.op o with
  | none => notNow
  | some q =>
    match q.kind with
    | .copy _ dst _ ctl _ _ =>
      match s.destBuf q dst.base with
      | .ok (some (_, pa, b)) =>
        let full := 16 - b.bytes % 16
        let n := min full q.written
        whenEnabled (ctlBuf ctl && decide (0 < n) && (n == full || q.next == q.total))
          ((setBufAt s pa (b.countBytes n)).modOp o (fun q => { q with written := q.written - n }))
      | _ => notNow
    | .outStream _ _ _ => notNow

/-- A partly filled slot that CLOSE or an unrecoverable end makes FULL (R270). -/
def CBuf.close (b : CBuf) (poison : Bool) : CBuf :=
  if (b.slot b.fill).st == .filling && (decide (0 < b.bytes) || poison) then
    { b.setSlot b.fill ⟨.full, b.bytes, poison⟩ with fill := (b.fill + 1) % b.count, bytes := 0 }
  else b

/-! ### Completions (R253, R261, R267) -/

/-- The payload of a completion. -/
def completion (status oor done : Nat) : Word :=
  BitVec.ofNat 64 (status * 2 ^ 56 + min oor (2 ^ 24 - 1) * 2 ^ 32 + min done (2 ^ 32 - 1))

/-- A to-buffer copy of no element whose DST names no buffer is refused as well (R273). -/
def State.refusedEmpty (s : State) (o : EngineOp) (base ctl : Word) : Bool :=
  ctlBuf ctl && o.total == 0 &&
    match s.destBuf o base with
    | .ok (some _) => false
    | _ => true

/-- Status and payload of a copy. -/
def EngineOp.copyPayload (o : EngineOp) : Word :=
  if o.refused then completion 2 o.oor 0
  else
    match o.ended with
    | some l => completion 1 o.oor l
    | none => completion 0 o.oor o.total

/-- Sends a completion to its reserved entry and ends the operation. DEDUCED (log entry 86): in a second copy SRCCORE is the
twin's number. -/
def State.sendCompletion (s : State) (o : EngineOp) (payload : Word) : State :=
  let m : Mail :=
    { kind := 2, ctx := BitVec.ofNat 6 o.target, srcCore := BitVec.ofNat 13 (s.shownCore o.core),
      srcCtx := BitVec.ofNat 6 o.ctx, tag := o.tag, payload := payload }
  let s := { s with ops := s.ops.filter (fun q => q.id != o.id) }
  s.modCore o.core (fun c =>
    { c with reserved := c.reserved - 1, mail := c.mail ++ [m] }.modCtx o.target (fun t => { t with wake := true }))

/-- CLOSE at the end of a to-buffer copy. -/
def State.closeBuf (s : State) (o : EngineOp) (base ctl : Word) : State :=
  if ctlClose ctl && o.ended.isNone && !o.refused then
    match s.destBuf o base with
    | .ok (some (_, pa, b)) => setBufAt s pa (b.close false)
    | _ => s
  else s

/-- COPY_COMPLETION (R261): the operation and its twin. -/
def execCopyCompletion (o : Nat) (s : State) : Out :=
  match s.op o with
  | none => notNow
  | some q =>
    match q.kind with
    | .copy _ dst _ ctl _ _ =>
      let q := { q with refused := q.refused || s.refusedEmpty q dst.base ctl }
      if q.mute || q.pairNo.isSome || q.fault.isSome || s.paused q || (s.core q.core).retiring
          || !(q.refused || q.ended.isSome || (q.next == q.total && q.written == 0)) then notNow
      else
        let s := (s.flushScope q.scope).closeBuf q dst.base ctl
        let s := s.sendCompletion q q.copyPayload
        match q.twin with
        | some t =>
          match s.op t with
          | some w => .next (s.sendCompletion w q.copyPayload)
          | none => .next s
        | none => .next s
    | .outStream _ _ _ => notNow

/-! ### Streams (R263, R266, R267) -/

def InBind.view (b : InBind) (core : Nat) : View := ⟨core, b.root, b.vahi, b.priv⟩

/-- What the sectors of an element hold together, least significant first. -/
def joinSectors (old : Nat × Bool) (l : List (Nat × Nat × Bool)) : Nat × Bool :=
  l.foldl (fun a (j, x, p) => (a.1 + x * 2 ^ (128 * j), a.2 || p)) old

def State.setBind (s : State) (c n : Nat) (b : Binding) : State := s.modCore c (fun k => { k with strm := Tab.set k.strm n b })

/-- Suspends an input binding at its next element. -/
def State.suspendIn (s : State) (c n : Nat) (b : InBind) (e : ElemFault) : State :=
  let s := { s with fresh := s.fresh + 1 }
  let r : FaultRec :=
    { FaultRec.blank with
      src := 1, grade := gradeOf e.code, code := e.code, eng := 3, ctx := b.ctx, core := c, seq := b.recs, opseq := b.seq,
      cpc := (s.thread c b.ctx).pc, ipc := b.ipc, va := e.va, elem := b.next, sect := e.sect, level := e.level,
      acc := e.acc.code, vahi := b.vahi, oprs := b.oprs }
  (s.addRec (s.partOfCore c) r).setBind c n
    (.input { b with recs := b.recs + 1, fault := some ⟨e.code, b.next, e.sect, e.va, e.acc.code, e.level⟩ })

/-- STREAM_FILL (R263): the next element of an input binding. -/
def execStreamFill (c n : Nat) (s : State) : Out :=
  match (s.core c).binding n with
  | .input b =>
    let size := esBytes b.es
    if b.fault.any (fun f => decide (f.elem ≤ b.next)) || b.ended || decide (b.total ≤ b.next) || decide (256 / size ≤ b.buf.length) then notNow
    else
      let a := b.pat.elem b.next
      if !alignedTo a size then .next (s.suspendIn c n b (elemFault cALIGNMENT 0 a .engRead 0))
      else
        let (u, vs, e) := readElem (b.view c) (some a) size false (elemParts size b.sect) s
        let x := joinSectors b.part vs
        match e with
        | some e => whenEnabled (e.code != cWAIT) (u.suspendIn c n { b with part := x, sect := e.sect } e)
        | none => .next (u.setBind c n (.input { b with next := b.next + 1, buf := b.buf ++ [x], part := (0, false), sect := 0 }))
  | _ => notNow

/-- STREAM_DRAIN (R263): the oldest pushed element of output operation n of core c. -/
def execStreamDrain (c n : Nat) (s : State) : Out :=
  match s.op n with
  | none => notNow
  | some o =>
    match o.kind, o.buf with
    | .outStream _ pat es, (x, p) :: t =>
      if o.core != c || !o.runs || s.paused o then notNow
      else
        let step := fun (s : State) => s.modOp n (fun o => { o with buf := t, next := o.next + 1, sect := 0 })
        if o.mute then .next (step s)
        else
          let a := pat.elem o.next
          let size := esBytes es
          if !alignedTo a size then .next (s.suspend o o.next (elemFault cALIGNMENT 0 a .engWrite 0))
          else
            match s.engWrite o.view a size 0 x.toNat p with
            | .error e => whenEnabled (e.code != cWAIT) (s.suspend o o.next e)
            | .ok u => .next (step u)
    | _, _ => notNow

/-- OUTPUT_BINDING_COMPLETION (R267). -/
def execOutputBindingCompletion (o : Nat) (s : State) : Out :=
  match s.op o with
  | none => notNow
  | some q =>
    match q.kind with
    | .outStream _ _ _ =>
      whenEnabled (q.closed && !s.paused q && !(s.core q.core).retiring && q.fault.isNone && q.pairNo.isNone && (q.ended.isSome || q.buf.isEmpty))
        ((s.flushScope q.scope).sendCompletion q (completion (if q.ended.isSome then 1 else 0) 0 q.next))
    | .copy _ _ _ _ _ _ => notNow

end Sys2Proof.Machine
end

