-- ==== Sys2Proof/Machine/EvMemory.lean ====
section
/-! DEFINITION. Events of memory: accesses at their endpoints, acknowledgements, atomics, line operations, reductions, walks,
evictions, unbacked lines and rehoming (R203, R210, R217, R223, R224, R226, R233, R245, R249, R341, R342). -/

namespace Sys2Proof.Machine

/-! ### Loads and stores (R210, R233) -/

/-- Loads and stores, and the reads an instruction declares to be loads. -/
def ReqKind.isAccess : ReqKind → Bool
  | .load _ _ | .vload _ _ | .store | .mload _ | .scopew _ => true
  | _ => false

/-- Room at the slice and the line at its home, for an access that goes through a home slice. -/
def State.reach (s : State) (write : Bool) (l : Leaf) (pa : Nat) (victim : Option Nat) : Option State :=
  if l.c then
    match (s.displace victim (s.homeOf l pa) l.key).bind (fun s => s.bring l pa) with
    | some s => if s.lacksPlace write l pa then none else some s
    | none => none
  else some s

/-- Whether an access leaves its sector in the core's L1, which must have room for the line (R1, R203). -/
def entersL1 (write fill : Bool) (l : Leaf) (pa : Nat) : Bool :=
  (fill || write && !l.c) && (paKind pa == .hbm || paKind pa == .unbacked)

/-- Performs a lane of a load or store that meets no fault; `bank` picks the accesses of the basin window. -/
def State.accessLane (s : State) (r : Req) (i : Nat) (l : Lane) (bank fill : Bool) (victim : Option Nat) : Out :=
  match s.target r l with
  | .error _ => notNow
  | .ok (lf, pa) =>
    if !s.mayPerform r i l lf pa then notNow
    else if s.isFabric lf then (if bank then notNow else asksPanel (s.fabricLane r i l lf pa))
    else if paKind pa == .basin then whenEnabled (bank && !(s.bankOf pa).waits) (s.doLane r i l lf pa false)
    else if bank || entersL1 r.kind.isWrite fill lf pa && !s.l1Room r.core (pa / 64) then notNow
    else
      match s.reach r.kind.isWrite lf pa victim with
      | some s => .next (s.doLane r i l lf pa fill)
      | none => notNow

/-- A load or store lane, or its fault; a bank raises its own. DESIGN CHOICE (log entry 83): no lane that is not yet done
performs while one of them faults (R142). -/
def accessEvent (id i : Nat) (bank fill : Bool) (victim : Option Nat) (s : State) : Out :=
  match s.findReq id with
  | none => notNow
  | some r =>
    match r.lanes[i]? with
    | none => notNow
    | some l =>
      if !r.kind.isAccess || l.done || !s.goes r then notNow
      else
        match s.firstFault r with
        | some f => whenEnabled ((f.code == cBANK_MODE) == bank) (s.lateFault r f)
        | none => s.accessLane r i l bank fill victim

/-- MEMORY_ACCESS (R118, R142, R233). -/
def execMemoryAccess (r lane : Nat) (fill : Bool) (victim : Option Nat) (s : State) : Out :=
  accessEvent r lane false fill victim s

/-- BANK_ACCESS (R210): performed in a SCRATCH or FIFO bank, waits while the bank switches to one of them, and faults in a
CACHE bank. -/
def execBankAccess (r lane : Nat) (s : State) : Out := accessEvent r lane true false none s

/-- ACKNOWLEDGEMENT (R233). -/
def execAcknowledgement (c x i : Nat) (s : State) : Out :=
  whenEnabled (decide (i < (s.thread c x).unacked.length))
    (s.modThread c x (fun t => { t with unacked := removeAt t.unacked i }))

/-! ### Atomics (R245) -/

/-- Whether a RED names a reduction window (R249); one that reaches another panel is a set of one (R344). -/
def State.inWindow (s : State) (r : Req) (l : Lane) : Bool :=
  match r.kind with
  | .red _ _ _ none =>
    (s.redWindow r.core r.scope l.va).isSome && (match s.target r l with
      | .ok (lf, _) => !s.isFabric lf
      | .error _ => true)
  | .red _ _ _ (some _) => true
  | _ => false

/-- ATOMIC_PERFORM (R245): AMO, CAS, and RED outside a window. -/
def execAtomicPerform (r : Nat) (s : State) : Out :=
  match s.single r with
  | none => notNow
  | some (r, l) =>
    if !r.kind.isAtomic || s.inWindow r l then notNow
    else
      match s.firstFault r, s.target r l with
      | some f, _ => .next (s.lateFault r f)
      | none, .error _ => notNow
      | none, .ok (lf, pa) =>
        if !s.mayPerform r 0 l lf pa then notNow
        else if s.isFabric lf then asksPanel (s.fabricLane r 0 l lf pa)
        else if paKind pa == .basin && (s.bankOf pa).waits then notNow
        else
          match s.reach r.kind.isWrite lf pa none with
          | none => notNow
          | some s =>
            let chip := s.destChiplet r.core lf pa
            let (u, old, p) := (s.notePerformed r 8 lf pa).update (s.slotTag lf.key) lf.pinned pa r.kind.update
            .next (u.finishLane r.id 0 old p chip)

/-! ### Line operations (R226) -/

/-- Whether a scope names the level L1. -/
def Scope.l1Level : Scope → Bool
  | .entry _ e => e.l1
  | _ => true

/-- Whether a scope of an operation of core n has a member on chiplet c. -/
def State.memberChip (s : State) (sc : Scope) (n c : Nat) : Bool := (List.range 8).any (fun i => s.member sc n (8 * c + i))

/-- Dirty sectors of the line in the L1s of members go to the home. -/
def State.cleanMembers (s : State) (n : Nat) (sc : Scope) (line : Nat) : State :=
  let dirty := fun (k : Nat) => s.cores.any (fun e => s.member sc n e.1 &&
    match Tab.find e.2.l1 k with
    | some x => x.dirty && x.coh
    | none => false)
  if sc.l1Level then ((lineSectors line).filter dirty).foldl State.recall s else s

/-- An L1 without its coherent copy of a sector. -/
def dropCoherent (l : Tab L1Sector) (k : Nat) : Tab L1Sector :=
  match Tab.find l k with
  | some x => if x.coh then Tab.erase l k else l
  | none => l

/-- The copies of the line in the L1s of members are dropped. -/
def State.dropMembers (s : State) (n : Nat) (sc : Scope) (line : Nat) : State :=
  { s with cores := s.cores.map (fun e =>
    (e.1, if s.member sc n e.1 then { e.2 with l1 := (lineSectors line).foldl dropCoherent e.2.l1 } else e.2)) }

/-- A privileged INVAL of a line of table entries removes the translations derived from them (R226). -/
def State.invalTlbs (s : State) (n : Nat) (sc : Scope) (line : Nat) : State :=
  let keep := fun (e : TlbEntry) => !e.derived.any (fun a => a / 64 == line)
  { s with
    cores := s.cores.map (fun e => (e.1, if s.member sc n e.1 then { e.2 with tlb := e.2.tlb.filter keep } else e.2))
    chips := s.chips.map (fun e => (e.1, if s.memberChip sc n e.1 then { e.2 with tlb := e.2.tlb.filter keep } else e.2)) }

/-- CLEAN and INVAL of a coherent line: L1s of members, then the home if the scope names L2; an unbacked line goes no
further than its home. -/
def State.cleanLine (s : State) (n : Nat) (sc : Scope) (line : Nat) (inval : Bool) : State :=
  let s := s.cleanMembers n sc line
  let s := if inval && sc.l1Level then s.dropMembers n sc line else s
  if sc.l2Level then
    let s := (lineSectors line).foldl State.flushHome s
    if inval then (lineSectors line).foldl State.dropHome s else s
  else s

/-- Sixteen zero bytes in each sector of a line, written by core n. -/
def State.zeroLine (s : State) (n : Nat) (l : Leaf) (line : Nat) : State :=
  (lineSectors line).foldl (fun s k => s.endWrite n l (16 * k) 16 0 false) s

/-- The effect of a line operation of core n on the line at `pa` (R226). -/
def State.lineEffect (s : State) (n : Nat) (sc : Scope) (priv : Bool) (l : Leaf) (pa : Nat) (fn : BitVec 2) : State :=
  let line := pa / 64
  let s := if fn = 1 ∧ priv then s.invalTlbs n sc line else s
  match paKind pa with
  | .basin | .coreLocal => if fn.toNat < 2 then s else s.physWrite (s.slotTag l.key) (64 * line) 64 0
  | .unbacked => if fn.toNat < 2 then s.cleanLine n sc line (fn == 1) else s.makeAbsent line
  | _ =>
    if l.c then
      match fn.toNat with
      | 0 => s.cleanLine n sc line false
      | 1 => s.cleanLine n sc line true
      | 2 => (lineSectors line).foldl State.dropHome { s with cores := dropLine line s.cores }
      | _ => s.zeroLine n l line
    else
      match fn.toNat with
      | 0 => (lineSectors line).foldl (fun s k => s.flushOwn n k) s
      | 1 => (lineSectors line).foldl (fun s k => (s.flushOwn n k).dropL1 n k) s
      | 2 => (lineSectors line).foldl (fun s k => s.dropL1 n k) s
      | _ => s.zeroLine n l line

/-- LINEOP_PERFORM (R226). -/
def execLineopPerform (r : Nat) (s : State) : Out :=
  match s.single r with
  | none => notNow
  | some (r, l) =>
    match r.kind with
    | .lineop fn =>
      match s.firstFault r, s.target r l with
      | some f, _ => .next (s.lateFault r f)
      | none, .error _ => notNow
      | none, .ok (lf, pa) =>
        if !s.mayPerform r 0 l lf pa then notNow
        else if s.isFabric lf then asksPanel (s.fabricLane r 0 l lf pa)
        else if paKind pa == .basin && (s.bankOf pa).waits then notNow
        else if fn == 3 && entersL1 true false lf pa && !s.l1Room r.core (pa / 64) then notNow
        else
          let s := if fn.toNat < 2 then s else s.notePerformed r 64 lf (pa / 64 * 64)
          .next ((s.lineEffect r.core r.scope r.priv lf pa fn).finishLane r.id 0 0 false (s.destChiplet r.core lf pa))
    | _ => notNow

/-! ### Reduction windows (R65, R66, R249) -/

/-- The member cores of an entry. -/
def ScopeEntry.coreList (e : ScopeEntry) : List Nat :=
  ((List.range Config.chiplets).filter e.chiplets.testBit).flatMap (fun c =>
    ((List.range 8).filter e.cores.getLsbD).map (fun i => 8 * c + i))

/-- Enters a contribution among those of its set, which stand in issue order. -/
def enterContribution (c : Contribution) : List Contribution → List Contribution
  | [] => [c]
  | h :: t => if c.req < h.req then c :: h :: t else h :: enterContribution c t

/-- Enters a contribution into its set. -/
def State.contribute (s : State) (r : Req) (k : SetKey) (e : ScopeEntry) (c : Contribution) (close : Bool) : State :=
  let add := fun (q : RedSet) =>
    { q with contribs := enterContribution c q.contribs, closed := if close then q.closed ++ [r.core] else q.closed }
  if s.redsets.any (fun q => q.key == k) then
    { s with redsets := s.redsets.map (fun q => if q.key == k then add q else q) }
  else
    let q : RedSet :=
      { key := k, members := e.coreList.filter (fun n => !s.isKeeper n), closed := [], contribs := [],
        region := (s.core r.core).region }
    { s with redsets := s.redsets ++ [add q] }

/-- Whether a request's contribution has joined a set. -/
def State.joined (s : State) (id : Nat) : Bool := s.redsets.any (fun q => q.contribs.any (fun c => c.req == id))

/-- RED_CONTRIBUTION (R249): a member's contribution joins its set, in the order of its core's accesses (R234, R236); another
thread's faults. -/
def execRedContribution (r : Nat) (s : State) : Out :=
  match s.single r with
  | none => notNow
  | some (r, l) =>
    match r.kind, r.scope with
    | .red fn v close set_, .entry _ e =>
      if !s.inWindow r l then notNow
      else
        match s.firstFault r, s.target r l, set_ with
        | some f, _, _ => .next (s.lateFault r f)
        | none, .error _, _ => notNow
        | none, .ok _, none =>
          .next (s.lateFault r { code := cREDUCTION_STATE, oprs := r.oprs, va := l.va, vahi := r.vahi, acc := 2 })
        | none, .ok (lf, pa), some k =>
          whenEnabled (!s.joined r.id && !(paKind pa == .basin && (s.bankOf pa).waits)
              && s.inOrder (fun q => !q.kind.joins) r 0 l lf pa)
            (s.contribute r k e ⟨r.core, r.ctx % 64, r.id, pa, lf.pinned, fn, v, s.slotTag lf.key⟩ close)
    | _, _ => notNow

/-- Leaf of a core in the reduction tree (R65). -/
def redLeaf (n : Nat) : Nat := (n / 8 / 24 * 32 + n / 8 % 24) * 8 + n % 8

def fadd (a b : Nat) : Nat × Flags := fpAdd fmt64 0 a b

/-- The contributions of one leaf, combined in context and issue order. -/
def leafValue (cs : List Contribution) (k : Nat) : Option Nat :=
  let mine := cs.filter (fun c => redLeaf c.core == k)
  let byCtx := (List.range 64).flatMap (fun x => mine.filter (fun c => c.ctx == x))
  byCtx.foldl (fun a c => match a with
    | none => some c.val.toNat
    | some v => some (fadd v c.val.toNat).1) none

/-- The merged value of a RED.FADD.ORD set (R65). -/
def orderedSum (cs : List Contribution) : Option Nat :=
  (redTree fadd 13 ((List.range 8192).map (fun k => (leafValue cs k, 0)))).1

/-- Combines elements i and j of a list: the sum takes the place of i. -/
def combineAt (l : List Nat) (p : Nat × Nat) : List Nat :=
  match l[p.1]?, l[p.2]? with
  | some a, some b => if p.1 = p.2 then l else removeAt (setAt l p.1 (fadd a b).1) p.2
  | _, _ => l

/-- The routers' choices: which two of the values that are left to combine next. -/
abbrev Picks := List (Nat × Nat)

/-- A sum in an order the routers choose; what the choice leaves is added from the left (R66). -/
def freeSum (order : Picks) (l : List Nat) : Option Nat :=
  match order.foldl combineAt l with
  | [] => none
  | a :: t => some (t.foldl (fun x y => (fadd x y).1) a)

/-- g(old, v) of a sum, or the old value where no sum was formed (R248). -/
def mergeSum (old : Word) : Option Nat → Word
  | some v => redValue 0 old (BitVec.ofNat 64 v)
  | none => old

/-- The merge of the contributions of one fn to one doubleword; a sum of n values takes the next n − 1 choices. -/
def mergeFn (order : Picks) (fn : BitVec 3) (cs : List Contribution) (old : Word) : Word × Picks :=
  let n := cs.length - 1
  match fn.toNat with
  | 0 => (mergeSum old (orderedSum cs), order)
  | 1 => (mergeSum old (freeSum (order.take n) (cs.map (fun c => c.val.toNat))), order.drop n)
  | _ => (cs.foldl (fun a c => redValue fn a c.val) old, order)

/-- The merges of one doubleword, in increasing fn order. -/
def mergeAll (order : Picks) (cs : List Contribution) (old : Word) : Word × Picks :=
  [0, 1, 2, 3, 4].foldl (fun v (fn : BitVec 3) =>
    let mine := cs.filter (fun c => c.fn == fn)
    if mine.isEmpty then v else mergeFn v.2 fn mine v.1) (old, order)

/-- The leaf of a contribution, as far as its line's home needs it. -/
def Contribution.leaf (c : Contribution) : Leaf :=
  { pin := c.pin.getD 0, hp := c.pin.isSome, c := true, frame := 0, key := c.tag.slot, ub := decide (paKind c.pa = .unbacked),
    x := false, w := true, rd := true, us := true, level := 3 }

/-- One write to each doubleword of a set, at its present home. -/
def mergeWords (cs : List Contribution) : List Nat → Picks → State → State
  | [], _, s => s
  | pa :: t, order, s =>
    let mine := cs.filter (fun c => c.pa == pa)
    match mine with
    | [] => mergeWords cs t order s
    | c :: _ =>
      let s := if paKind pa = .unbacked then (s.bring c.leaf pa).getD s else s
      let rest := (mergeAll order mine 0).2
      mergeWords cs t rest (s.update c.tag c.pin pa (fun old => some (mergeAll order mine old).1)).1

/-- The destination chiplet of a contribution's acknowledgement. -/
def State.contribChip (s : State) (c : Contribution) : Nat :=
  match paKind c.pa with
  | .basin => bankChip c.pa
  | .coreLocal => (c.pa - localBase) / 0x10000 / 8
  | _ => s.homeAt c.pin c.tag.slot c.pa

/-- A set merges and every contribution is acknowledged, those of pre-empted regions among them (R244, R249). -/
def State.mergeSet (s : State) (q : RedSet) (order : Picks) : State :=
  let s := mergeWords q.contribs (q.contribs.map Contribution.pa).dedup order s
  let ids := q.contribs.map Contribution.req
  let s := { s with regions := s.regions.map (fun e =>
    (e.1, { e.2 with savedReqs := e.2.savedReqs.filter (fun r => !ids.contains r.id) })) }
  q.contribs.foldl (fun s c => s.finishLane c.req 0 0 false (s.contribChip c)) s

/-- Whether a request has taken a set's number and has not reached it. -/
def Req.onWayTo (r : Req) (k : SetKey) : Bool :=
  match r.kind with
  | .red _ _ _ (some j) => j == k
  | _ => false

/-- Whether the set with the number before k's is still there: sets of one window complete in their order. -/
def RedSet.before (q : RedSet) (k : SetKey) : Bool := { q.key with number := k.number } == k && decide (q.key.number < k.number)

/-- Whether a contribution of a set may be performed: what its core issued before to its bytes or its endpoint is, but for
contributions of the same set (R234, R236), and its line is within reach. -/
def State.contribReady (s : State) (q : RedSet) (c : Contribution) : Bool :=
  match s.findReq c.req with
  | none => true
  | some r =>
    match r.lanes with
    | [l] => s.inOrder (fun x => !x.onWayTo q.key) r 0 l c.leaf c.pa
    | _ => true

/-- Whether the line of a contribution is at its home, or has room there (R223). -/
def State.contribRoom (s : State) (c : Contribution) : Bool :=
  paKind c.pa != .unbacked || ((s.bring c.leaf c.pa).isSome && !s.lacksPlace true c.leaf c.pa)

/-- Whether a set merges now (R249): every member core has closed it, every contribution that took its number has arrived, and
each may be performed. -/
def State.setReady (s : State) (q : RedSet) : Bool :=
  q.members.all (fun m => q.closed.contains m) && !s.redsets.any (fun x => x.before q.key)
    && s.reqs.all (fun r => !r.onWayTo q.key || q.contribs.any (fun c => c.req == r.id))
    && q.contribs.all (fun c => s.contribReady q c && s.contribRoom c)

/-- REDUCTION_SET_COMPLETE (R249). -/
def execReductionSetComplete (k : Nat) (order : List (Nat × Nat)) (s : State) : Out :=
  match s.redsets[k]? with
  | none => notNow
  | some q => whenEnabled (s.setReady q) (({ s with redsets := removeAt s.redsets k }).mergeSet q order)

/-! ### Walks and evictions (R203, R217, R218) -/

/-- Adds a TLB entry, the oldest leaving when the TLB is full. -/
def addTlb (size : Nat) (l : List TlbEntry) (e : TlbEntry) : List TlbEntry :=
  let l := l ++ [e]
  l.drop (l.length - size)

/-- Whether a leaf passes the checks of R217 for some access at an address. -/
def Leaf.serves (l : Leaf) (va : Nat) : Bool :=
  [AccKind.load, .store, .fetch].any (fun k => (l.check va k true).isNone)

/-- PAGE_WALK (R217, R218): a walk for core c fills the core's and the chiplet's TLB; a failing one leaves them. -/
def execPageWalk (c : Nat) (vahi : BitVec 8) (va : Word) (s : State) : Out :=
  let r := (s.core c).root
  let a := virtual vahi va
  match s.walk r.slot a 4 0 r.table [] with
  | .error _ => notNow
  | .ok (l, seen) =>
    let e : TlbEntry := ⟨r, if l.level = 2 then a / 2 ^ 30 else a / 2 ^ 16, l, seen⟩
    whenEnabled (l.serves a)
      ((s.modCore c (fun k => { k with tlb := addTlb Config.coreTlb k.tlb e })).modChip (c / 8) (fun h =>
        { h with tlb := addTlb Config.chipletTlb h.tlb e }))

/-- A sector leaves an L1: a dirty one goes to its home or to HBM (R203). -/
def State.evictL1 (s : State) (c k : Nat) : State :=
  match Tab.find (s.core c).l1 k with
  | none => s
  | some x => (if x.coh then (if x.dirty then s.recall k else s) else s.flushOwn c k).dropL1 c k

/-- L1_EVICTION (R203). -/
def execL1Eviction (c line : Nat) (s : State) : Out :=
  whenEnabled ((lineSectors line).any (fun k => (Tab.find (s.core c).l1 k).isSome))
    ((lineSectors line).foldl (fun s k => s.evictL1 c k) s)

/-! ### Unbacked lines (R223, R224) -/

/-- HELD_LINE_RESOLVE (R223): the lock-keeper marks the line taken, or names a late slot. -/
def execHeldLineResolve (line : Nat) (how : HeldChoice) (s : State) : Out :=
  match Tab.find s.ub line with
  | none => notNow
  | some u =>
    if u.st ≠ .held then notNow
    else
      match how with
      | .taken =>
        match s.freePlace u.home with
        | some p => .next ((s.unhold u.home line).setUb line { u with st := .resident, place := p })
        | none => notNow
      | .lateSlot pa =>
        match s.lateSlot u.tag.slot line with
        | some x => whenEnabled (decide (x.pa = pa)) (s.spill line u x)
        | none =>
          let s' := spillSectors line u.tag pa none [0, 1, 2, 3] (s.recallLine line)
          let s' := ({ s' with cores := dropLine line s'.cores }.clearLine line).unhold u.home line
          whenEnabled (decide (pa % 64 = 0) && paKind pa == .hbm) (s'.setUb line { u with st := .spilled pa })

/-- The unbacked line a slice would choose for a job: the first of a beyond-quota job. -/
def State.chooseUb (s : State) (home : Nat) (slot : BitVec 6) : Option Nat :=
  (s.ub.find? (fun e => s.victimOk e.2 home slot)).map (fun e => 4 * e.1)

/-- UNBACKED_ALLOCATION_RESUME (R223): a write that waits for room at its slice proceeds, an unbacked victim leaving. -/
def execUnbackedAllocationResume (r lane : Nat) (s : State) : Out :=
  match s.findReq r with
  | none => notNow
  | some q =>
    match q.lanes[lane]? with
    | none => notNow
    | some l =>
      match s.target q l with
      | .ok (lf, pa) =>
        match s.chooseUb (s.homeOf lf pa) lf.key with
        | some v =>
          if q.kind.isWrite && paKind pa == .unbacked && (Tab.find s.ub (pa / 64)).isNone then
            accessEvent r lane false false (some v) s
          else notNow
        | none => notNow
      | .error _ => notNow

/-- UNBACKED_LINE_MOVE (R224): a line whose home changed moves in the state it holds. -/
def execUnbackedLineMove (line : Nat) (s : State) : Out :=
  match Tab.find s.ub line with
  | none => notNow
  | some u =>
    let home := s.homeAt u.pin u.tag.slot (64 * line)
    if home = u.home then notNow
    else
      match u.st with
      | .resident =>
        match s.freePlace home with
        | some p => .next (s.setUb line { u with home := home, place := p })
        | none => notNow
      | .held =>
        whenEnabled (s.holdRoom home)
          (((s.unhold u.home line).modChip home (fun c => { c with hold := c.hold ++ [line] })).setUb line
            { u with home := home })
      | .spilled _ => notNow

/-! ### Rehoming (R341, R342) -/

/-- REHOME (R342): the source of a lane recomputes its home and sends it again, the older requests to the line first. -/
def execRehome (x : LaneRef) (s : State) : Out :=
  match s.findReq x.req with
  | none => notNow
  | some q =>
    match q.lanes[x.lane]?, (q.homes[x.lane]?).join with
    | some l, some h =>
      match s.target q l with
      | .ok (lf, pa) =>
        whenEnabled (decide (s.homeOf lf pa ≠ h) && !l.done && !s.rehomesBefore q pa)
          (s.modReq x.req (fun q => { q with homes := setAt q.homes x.lane (some (s.homeOf lf pa)) }))
      | .error _ => notNow
    | _, _ => notNow

/-- The sectors of a line that a slice holds although their home has moved. -/
def State.movedSectors (s : State) (line : Nat) : List Nat :=
  (lineSectors line).filter (fun k =>
    match Tab.find s.l2 k with
    | some x => x.home != s.homeAt x.pin x.tag.slot (64 * line)
    | none => false)

/-- LINE_RELEASE (R341): the old home recalls the L1 copies, writes dirty sectors to HBM and drops the line. -/
def execLineRelease (line : Nat) (s : State) : Out :=
  whenEnabled (!(s.movedSectors line).isEmpty)
    (let s' := s.recallLine line
     (s.movedSectors line).foldl (fun s k => (s.flushHome k).dropHome k) { s' with cores := dropLine line s'.cores })

end Sys2Proof.Machine
end

