-- ==== Sys2Proof/Machine/EvSync.lean ====
section
/-! DEFINITION. Events of scope tables, reservations, barriers and bank modes (R193 to R196, R207 to R212, R221, R241). -/

namespace Sys2Proof.Machine

/-! ### Scope tables (R237, R238, R241) -/

/-- Bits of an image that must be zero. -/
def imageReserved (ws : List Word) : Bool :=
  let m := ws.getD 9 0
  m.extractLsb' 17 31 != 0 || m.extractLsb' 11 5 != 0 || (ws.getD 11 0).extractLsb' 11 53 != 0
    || (ws.drop 12).any (fun w => w != 0)

/-- CHIPLETS of an image, as a number. -/
def imageChiplets (ws : List Word) : Nat := (ws.take 9).foldr (fun w a => w.toNat + 2 ^ 64 * a) 0

/-- The entry that an image describes. -/
def entryOf (ws : List Word) : ScopeEntry :=
  let m := ws.getD 9 0
  { chiplets := imageChiplets ws, gen := m.extractLsb' 48 16, valid := m.getLsbD 16, hbm := m.getLsbD 10,
    l2 := m.getLsbD 9, l1 := m.getLsbD 8, cores := m.extractLsb' 0 8, rwbase := ws.getD 10 0,
    rwlines := (ws.getD 11 0).toNat % 2048 }

/-- Whether every chiplet of a mask lies in a list. -/
def chipletsWithin (mask : Nat) (cs : List Nat) : Bool :=
  (List.range Config.chiplets).all (fun c => !mask.testBit c || cs.contains c)

/-- Whether a reduction window is well placed (R241). -/
def State.windowOk (s : State) (v : View) (e : ScopeEntry) : Bool :=
  decide (e.rwlines ≤ 1024) && (e.rwlines == 0 || (e.rwbase.toNat % 64 == 0
    && decide (e.rwbase.toNat % 65536 + 64 * e.rwlines ≤ 65536)
    && !inLocalWindow e.rwbase
    && match s.translate v.core v.root v.vahi e.rwbase .load true with
       | .ok (l, pa) => l.c || paKind pa == .basin
       | .error _ => false))

/-- Whether a region can use a table (R237). -/
def State.tableOk (s : State) (v : View) (table : Word) : Bool :=
  table != 0 && table.toNat % 2048 == 0 &&
    match State.loadDs { v with priv := false } 256 table s with
    | .ok _ => true
    | .error _ => false

/-- Whether the lock-keeper accepts an image. -/
def State.imageOk (s : State) (p : Nat) (v : View) (table : Word) (ws : List Word) : Bool :=
  let e := entryOf ws
  !imageReserved ws && !(e.valid && (e.chiplets == 0 || e.cores == 0))
    && chipletsWithin e.chiplets (s.part p).chiplets && s.windowOk v e && s.tableOk v table

/-- The image as the table stores it, with its new generation. -/
def storedImage (ws : List Word) (gen : BitVec 16) : List Word :=
  let g : Word := gen ++ (0 : BitVec 48)
  if (entryOf ws).valid then setAt ws 9 (g ||| (ws.getD 9 0 &&& 0xFFFFFFFFFFFF)) else setAt (List.replicate 16 0) 9 g

/-- Cores of the running regions that use the table at a 72-bit address (R237). -/
def State.tableCores (s : State) (root : Root) (vahi : BitVec 8) (table : Word) : List Nat :=
  s.regions.flatMap (fun e =>
    if e.2.st == .running && e.2.root == root && e.2.f.vahi == vahi && e.2.f.scopetab == table then e.2.tasks ++ e.2.copy
    else [])

/-- Appends an entry to what the cores still have to install. -/
def sendEntry (sc : Nat) (e : ScopeEntry) (cs : List Nat) (s : State) : State :=
  cs.foldl (fun s n => s.modCore n (fun c => { c with installs := c.installs ++ [(sc, e)] })) s

/-- A request that a unit rejected after issue joins the reissue list, and its thread halts (R25). -/
def State.reject (s : State) (core ctx : Nat) (k : ReqKind) (lanes : List Lane) (vahi : BitVec 8) (root : Root)
    (priv : Bool) (scIdx : BitVec 4) (out : Nat) (ipc : Word) (f : FaultInfo) : State :=
  if (s.thread core ctx).outst.any (fun o => o.id == out) then
    let r : Req :=
      { id := s.fresh, core := core, ctx := ctx, kind := k, lanes := lanes, vahi := vahi, root := root, priv := priv,
        ipc := ipc, scope := .thread, scopeIdx := scIdx, out := some out, held := false, vector := false, oprs := f.oprs,
        homes := [], pairNo := none, twin := none }
    ({ s with reqs := s.reqs ++ [r], fresh := s.fresh + 1 }).lateFault r f
  else s

/-- SCOPEW_HANDLE (R241): one at a time. -/
def execScopewHandle (p : Nat) (s : State) : Out :=
  let q := s.part p
  match q.scopeq, q.scopeWork with
  | .scopew table vahi root sc ws core ctx out ipc a :: t, none =>
    let s := s.modPart p (fun q => { q with scopeq := t })
    let v := s.jobView p root vahi
    if s.imageOk p v table ws then
      let at_ := table + BitVec.ofNat 64 (128 * sc.toNat)
      let old := match s.loadD v (at_ + 72) with
        | .ok (_, w) => w.extractLsb' 48 16
        | .error _ => 0
      let ws' := storedImage ws (old + 1)
      let cs := s.tableCores root vahi table
      let s := sendEntry sc.toNat (entryOf ws') cs (s.tryStores v ws' at_)
      .next (s.modPart p (fun q => { q with scopeWork := some ⟨core, ctx, out, cs⟩ }))
    else
      let lanes := (List.range 16).map (fun i => Lane.start i (a + BitVec.ofNat 64 (8 * i)) 8 0)
      .next (s.reject core ctx (.scopew sc) lanes (s.thread core ctx).vahi root (s.thread core ctx).priv sc out ipc
        { code := cSCOPE_STATE, oprs := [a] })
  | _, _ => notNow

/-- SCOPE_INSTALL (R241): between two issue slots. -/
def execScopeInstall (c : Nat) (s : State) : Out :=
  match (s.core c).installs with
  | [] => notNow
  | (i, e) :: t => .next (s.modCore c (fun k => { k with installs := t, scopes := Tab.set k.scopes i e }))

/-- SCOPEW_ANSWER (R241): every core has installed the entry. -/
def execScopewAnswer (p : Nat) (s : State) : Out :=
  match (s.part p).scopeWork with
  | none => notNow
  | some w =>
    whenEnabled (w.left.all (fun n => (s.core n).installs.isEmpty))
      ((s.modPart p (fun q => { q with scopeWork := none })).answerTo w.core w.ctx w.out (fun t i => t.dropOutst i))

/-! ### Reservations (R220, R221) -/

/-- Status of a RESERVE for region g. -/
def State.reserveStatus (s : State) (g : Nat) (r : Region) (a : Word) : Nat :=
  let s' := s.modRegion g (fun r => { r with reserved := a.toNat })
  if a.extractLsb' 32 32 != 0 then 3
  else if a.toNat ≤ r.reserved then 0
  else if !s.fitsBudget r Fields.unbk unbkClaim (a.toNat - r.reserved) then 1
  else if !(s.domain r.slot).all s'.sliceFits then 2
  else 0

/-- RESERVE_REQUEST (R221). -/
def execReserveRequest (p : Nat) (s : State) : Out :=
  match (s.part p).resq with
  | .reserve core ctx out a :: t =>
    let s := s.modPart p (fun q => { q with resq := t })
    let g := (s.core core).region - 1
    match s.regionOf core with
    | none => .next (s.answer core ctx out (BitVec.ofNat 64 (2 ^ 32)))
    | some r =>
      let st := s.reserveStatus g r a
      let n := if st = 0 then a.toNat else r.reserved
      let s := s.modRegion g (fun q => { q with reserved := n })
      let s := if r.reserved < n then s.raiseQuota r.slot else s
      .next (s.answer core ctx out (BitVec.ofNat 64 (st * 2 ^ 32 + n)))
  | _ => notNow

/-! ### Barriers (R193 to R196) -/

def BarUnit.view (u : BarUnit) (home : Nat) : View := ⟨home, u.root, u.vahi, u.priv⟩

/-- A member's record as the object holds it. -/
def memberOf (w : Word) : Member where
  core := 0
  ctx := 0
  out := 0
  ipc := 0
  lag := (w.extractLsb' 0 32).toNat
  rank := (w.extractLsb' 32 6).toNat
  arv := false
  streak := (w.extractLsb' 40 4).toNat

/-- The unit that a first arrival binds, from the object's 72 doublewords (R195). -/
def bindUnit (m : BarMsg) (ws : List Word) : BarUnit where
  obj := m.a0
  vahi := m.vahi
  root := m.root
  priv := m.priv
  members := barMembers m.a1
  scope := barScope m.a1
  episode := ((ws.getD 0 0).extractLsb' 16 32).toNat
  arrived := 0
  first := 0
  steal := ws.getD 2 0
  mem := (List.range (barMembers m.a1)).map (fun i => (i, memberOf (ws.getD (8 + i) 0)))
  lastm := 0
  maxlag := 0
  complete := false

/-- Whether an arrival matches a bound unit. -/
def BarUnit.matches_ (u : BarUnit) (m : BarMsg) : Bool :=
  u.obj == m.a0 && u.members == barMembers m.a1 && u.scope == barScope m.a1
    && !((Tab.find u.mem (barMember m.a1)).map Member.arv).getD true

/-- Accepts an arrival at home cycle `now`: LAG, RANK and ARV. -/
def BarUnit.accept (u : BarUnit) (m : BarMsg) (now : Nat) : BarUnit :=
  let first := if u.arrived = 0 then now else u.first
  let i := barMember m.a1
  let old := Tab.getD u.mem i (memberOf 0)
  { u with
    first := first
    mem := Tab.set u.mem i { old with
      core := m.core, ctx := m.ctx, out := m.out, ipc := m.ipc, lag := min (now - first) (2 ^ 32 - 1), rank := u.arrived, arv := true }
    arrived := u.arrived + 1 }

/-- Streaks, STEAL bits and the episode's record (R196). -/
def BarUnit.finishEpisode (u : BarUnit) (straglag stragn : Nat) : BarUnit :=
  let late := fun (m : Member) => if straglag < m.lag then min 15 (m.streak + 1) else 0
  let mem := u.mem.map (fun e => (e.1, { e.2 with streak := late e.2, arv := false }))
  let steal := mem.foldl (fun w e =>
    if stragn ≠ 0 ∧ stragn ≤ e.2.streak then w ||| ((1 : Word) <<< e.1) else w) (0 : Word)
  { u with
    mem := mem
    steal := steal
    maxlag := mem.foldl (fun a e => max a e.2.lag) 0
    lastm := ((mem.find? (fun e => e.2.rank == u.members - 1)).map Prod.fst).getD 0
    arrived := 0
    episode := (u.episode + 1) % 2 ^ 32
    complete := true }

/-- Doubleword m of the members' part of the object. -/
def BarUnit.record (u : BarUnit) (i : Nat) : Word :=
  match Tab.find u.mem i with
  | none => 0
  | some m =>
    BitVec.ofNat 64 (m.lag + m.rank * 2 ^ 32 + m.streak * 2 ^ 40 + (if m.arv then 2 ^ 48 else 0)
      + (if u.steal.getLsbD i then 2 ^ 49 else 0))

/-- The object as the unit writes it. -/
def BarUnit.object (u : BarUnit) : List Word :=
  [BitVec.ofNat 64 (u.members + u.arrived * 2 ^ 8 + u.episode * 2 ^ 16), BitVec.ofNat 64 u.first, u.steal,
   BitVec.ofNat 64 (u.maxlag + u.lastm * 2 ^ 32), 0, 0, 0, 0] ++ (List.range 64).map u.record

/-- The result of a member (R194). -/
def BarUnit.result (u : BarUnit) (i : Nat) (m : Member) : Word :=
  BitVec.ofNat 64 ((u.episode + 2 ^ 32 - 1) % 2 ^ 32 + m.rank * 2 ^ 32 + (if u.steal.getLsbD i then 2 ^ 40 else 0)
    + (if u.steal != 0 then 2 ^ 41 else 0))

def State.setUnit (s : State) (c i : Nat) (u : BarUnit) : State :=
  s.modCore c (fun k => { k with units := Tab.set k.units i u })

/-- An arrival that its home rejects: the fault is taken after issue at the BAR, and the arrival is not counted. -/
def State.rejectBar (s : State) (m : BarMsg) (code : BitVec 8) (level : Nat) : State :=
  s.reject m.core m.ctx (.bar m.a0 m.a1) [] m.vahi m.root m.priv 0 m.out m.ipc
    { code := code, oprs := [m.a0, m.a1], va := if code = cBARRIER_STATE then 0 else m.a0, vahi := m.vahi, level := level }

/-- An accepted arrival; the last one completes the episode and the home writes the object (R195, R196). -/
def State.acceptBar (s : State) (c : Nat) (u : BarUnit) (m : BarMsg) : State :=
  let u := u.accept m (s.core c).cycle
  if u.arrived = u.members then
    let u := u.finishEpisode (s.core c).straglag (s.core c).stragn
    (s.tryStores (u.view c) u.object u.obj).setUnit c (barUnit m.a1) u
  else s.setUnit c (barUnit m.a1) u

/-- Whether a core belongs to a region of the job that is pre-empted (R324). -/
def State.asleep (s : State) (n : Nat) (root : Root) : Bool :=
  s.regions.any (fun e => e.2.st == .preempted && e.2.root == root && (e.2.tasks ++ e.2.copy).contains n)

/-- The oldest arrival at home c whose home and member run. -/
def State.nextArrival (s : State) (c : Nat) : Option BarMsg :=
  (s.core c).barq.find? (fun m => !s.asleep c m.root && !s.asleep m.core m.root)

/-- BARRIER_ARRIVAL (R195). -/
def execBarrierArrival (c : Nat) (s : State) : Out :=
  match s.nextArrival c with
  | none => notNow
  | some m =>
    let i := barUnit m.a1
    let s' := s.modCore c (fun k => { k with barq := removeFirst (fun q => q == m) k.barq })
    if (s.core c).sealed then notNow
    else
      match Tab.find (s.core c).units i with
      | some u =>
        if u.complete then notNow
        else if u.matches_ m then .next (s'.acceptBar c u m)
        else .next (s'.rejectBar m cBARRIER_STATE 0)
      | none =>
        match State.loadDs ⟨c, m.root, m.vahi, m.priv⟩ 72 m.a0 s' with
        | .ok (s', ws) => .next (s'.acceptBar c (bindUnit m ws) m)
        | .error e => .next (s'.rejectBar m e.code e.level)

/-- Sends every member its result. -/
def sendResults (u : BarUnit) : List (Nat × Member) → State → State
  | [], s => s
  | (i, m) :: t, s => sendResults u t (s.answer m.core m.ctx m.out (u.result i m))

/-- BARRIER_RESULT (R196). -/
def execBarrierResult (c unit : Nat) (s : State) : Out :=
  match Tab.find (s.core c).units unit with
  | none => notNow
  | some u => whenEnabled u.complete ((sendResults u u.mem s).setUnit c unit { u with complete := false })

/-! ### Bank modes (R206 to R209, R212) -/

/-- The banks of a mask whose mode differs. -/
def banksToSwitch (h : Chiplet) (mask : BitVec 32) (m : BankMode) : List Nat :=
  (List.range 32).filter (fun b => mask.getLsbD b && (h.bank b).mode != m)

/-- A chiplet with banks of a list marked as switching. -/
def startSwitch (m : BankMode) : List Nat → Chiplet → Chiplet
  | [], h => h
  | b :: t, h => startSwitch m t (h.setBank b { h.bank b with moveTo := some m })

/-- Region number of a request; none where its core runs no region. -/
def BankReq.owner (q : BankReq) : Option Nat := if q.region = 0 then none else some (q.region - 1)

/-- Status of a BANKMODE request at its turn (R208). -/
def State.bankStatus (s : State) (chip : Nat) (q : BankReq) : Nat :=
  let h := s.chip chip
  let m := banksToSwitch h q.mask q.mode
  let fresh := (m.filter (fun b => (h.bank b).mode == .cache)).length
  let after := s.setChip chip (startSwitch q.mode m h)
  if m.any (fun b => (h.bank b).holder.isSome && (h.bank b).holder != q.owner) then 2
  else if q.mode != .cache && !(match s.regionOf q.core with
      | some r => s.fitsBudget r Fields.basin (basinClaim s) (8 * fresh)
      | none => true) then 1
  else if decide ((after.chip chip).cacheBanks < 4) || (q.mode != .cache && !after.sliceFits chip) then 3
  else if q.mode != .fifo && m.any (fun b => (h.bank b).mode == .fifo && !(h.bank b).bufs.isEmpty) then 4
  else 0

def bankMask (m : List Nat) : BitVec 32 := m.foldl (fun w b => w ||| (1 <<< b)) 0

/-- An access of the request's core to one of its banks is still on its way (R210). -/
def State.bankAccessBefore (s : State) (chip : Nat) (q : BankReq) : Bool :=
  s.reqs.any (fun r => r.core == q.core && decide (r.id < q.out) && !r.held && r.lanes.any (fun l => !l.done &&
    match s.target r l with
    | .ok (lf, pa) => paKind pa == .basin && bankChip pa == chip && q.mask.getLsbD (bankNo pa) && s.isOrdered r lf pa
    | .error _ => false))

/-- BANKMODE_REQUEST (R208): the controller handles one request at a time. -/
def execBankmodeRequest (chip : Nat) (s : State) : Out :=
  match (s.chip chip).breqs with
  | [] => notNow
  | q :: t =>
    if q.moving.isSome || s.bankAccessBefore chip q then notNow
    else
      let h := s.chip chip
      let st := s.bankStatus chip q
      let m := banksToSwitch h q.mask q.mode
      if st ≠ 0 ∨ m.isEmpty then
        .next ((s.setChip chip { h with breqs := t }).answer q.core q.ctx q.out (BitVec.ofNat 64 (st * 2 ^ 32)))
      else
        .next (s.setChip chip { startSwitch q.mode m h with breqs := { q with moving := some (bankMask m, m) } :: t })

/-- Gives every line of a bank the null tag (R209). -/
def State.nullBank (s : State) (chip b : Nat) : State :=
  let lo := basinPa chip b 0
  { s with
    mem := s.mem.filter (fun c => decide (c.1 < lo) || decide (lo + 0x80000 ≤ c.1))
    otag := s.otag.filter (fun c => decide (c.1 < lo / 16) || decide ((lo + 0x80000) / 16 ≤ c.1))
    poison := s.poison.filter (fun c => decide (c.1 < lo / 16) || decide ((lo + 0x80000) / 16 ≤ c.1)) }

/-- A bank after its switch (R209). -/
def Bank.switched (b : Bank) (owner : Option Nat) : Bank :=
  match b.moveTo with
  | none => b
  | some .cache => { b with mode := .cache, moveTo := none, holder := none, bufs := [] }
  | some m => { b with mode := m, moveTo := none, holder := if b.mode == .cache then owner else b.holder }

/-- The state in which a bank has nothing of its old mode left; none while an unbacked line finds no room (R209). -/
def State.vacateBank (s : State) (chip bank : Nat) : Option State :=
  if ((s.chip chip).bank bank).mode = .cache then s.emptyBank chip bank else some s

/-- A bank of request q has switched, of `left` banks; the last one ends the request and answers (R208, R209). -/
def State.switchBank (s : State) (chip bank : Nat) (q : BankReq) (t : List BankReq) (mask : BitVec 32) (left : List Nat) :
    State :=
  let s := s.nullBank chip bank
  let h := s.chip chip
  let h := h.setBank bank ((h.bank bank).switched q.owner)
  let left := left.filter (fun b => b != bank)
  if left.isEmpty then (s.setChip chip { h with breqs := t }).answer q.core q.ctx q.out (mask.setWidth 64)
  else s.setChip chip { h with breqs := { q with moving := some (mask, left) } :: t }

/-- BANK_SWITCH_COMPLETE (R209). -/
def execBankSwitchComplete (chip bank : Nat) (s : State) : Out :=
  match (s.chip chip).breqs with
  | [] => notNow
  | q :: t =>
    match q.moving with
    | none => notNow
    | some (mask, left) =>
      if !left.contains bank then notNow
      else
        match s.vacateBank chip bank with
        | some s => .next (s.switchBank chip bank q t mask left)
        | none => notNow

/-- BANK_FAILURE (R212): the bank is served by rebuilding alone; programs observe nothing else. -/
def execBankFailure (chip bank : Nat) (s : State) : Out :=
  whenEnabled (decide (bank < 32)) (s.modChip chip (fun h => h.setBank bank { h.bank bank with failed := true }))

end Sys2Proof.Machine
end

