-- ==== Sys2Proof/Machine/Regions.lean ====
section
/-! DEFINITION. Regions as shared operations: resolving a control block, selection, placement and set-up, notices and the
completion of packets (R175 to R189, R237, R353). -/

namespace Sys2Proof.Machine

/-! ### Region control blocks (R175, R176) -/

/-- Reserved bits of each doubleword of a block. -/
def blockReserved : List Word :=
  [0, 0xFFFFFFFFFFF00000, 0xFFFFF00000C000FC, 0xFFFFFFFFE0000000, 0, 0xFFFFFFFF00000000, 0, 0, 0, 0, 0, 0,
   0xFFFF00000000FFF8, 0xFFFFE000FFE000F0, 0xFFFFFFFF00000000, 0xFFFFFFFFFFFFFFFF]

def blockClean (ws : List Word) : Bool := (ws.zip blockReserved).all (fun e => e.1 &&& e.2 == 0)

/-- The blocks from `block` up to its root, with their addresses; none when the chain is longer than 16, returns to
itself, or cannot be read. DEDUCED (log entry 87): the 16 count the block itself. -/
def readChain (v : View) : Nat → Word → State → Option (State × List (Word × List Word))
  | 0, _, _ => none
  | k + 1, block, s =>
    if block.toNat % 128 ≠ 0 then none
    else
      match State.loadDs v 16 block s with
      | .error _ => none
      | .ok (s, ws) =>
        let parent := ws.getD 0 0
        if parent = 0 then some (s, [(block, ws)])
        else
          match readChain v k parent s with
          | none => none
          | some (s, t) => some (s, (block, ws) :: t)

/-- Field k of the first block of a chain that overrides it, else its default (R176). -/
def inherit {α : Type} (c : List (Word × List Word)) (k : Nat) (d : α) (g : List Word → α) : α :=
  match c.find? (fun b => (b.2.getD 1 0).getLsbD k) with
  | some b => g b.2
  | none => d

/-- Bits hi to lo of doubleword i. -/
def fieldAt (i hi lo : Nat) (ws : List Word) : Nat := fieldOf (ws.getD i 0).toNat hi lo
def wordAt (i : Nat) (ws : List Word) : Word := ws.getD i 0

/-- The resolved fields, for a partition of `chips` chiplets; ENTRY where it resolves. -/
def resolveFields (chips : Nat) (c : List (Word × List Word)) : Option Fields :=
  match inherit c 15 none (fun ws => some (wordAt 7 ws)) with
  | none => none
  | some entry =>
    let grid := inherit c 9 (1, 1) (fun ws => (fieldAt 3 7 0 ws, fieldAt 3 15 8 ws))
    let ck := inherit c 19 (0, 0, 0) (fun ws => (fieldAt 12 2 0 ws, fieldAt 12 31 16 ws, fieldAt 12 47 32 ws))
    some {
      prio := inherit c 0 0 (fieldAt 2 1 0)
      fdom := inherit c 1 0 (fieldAt 2 15 8)
      mxshare := inherit c 2 1 (fieldAt 2 19 16)
      nctx := 8 * 2 ^ inherit c 3 0 (fieldAt 2 21 20)
      link := BitVec.ofNat 6 (inherit c 4 0 (fieldAt 2 29 24))
      place := inherit c 5 false (fun ws => (wordAt 2 ws).getLsbD 30)
      paired := inherit c 6 false (fun ws => (wordAt 2 ws).getLsbD 31)
      vahi := BitVec.ofNat 8 (inherit c 7 0 (fieldAt 2 39 32))
      stragn := inherit c 8 0 (fieldAt 2 43 40)
      gx := grid.1
      gy := grid.2
      cores := inherit c 10 (8 * chips) (fieldAt 3 28 16)
      basin := inherit c 11 (256 * chips) (fieldAt 4 31 0)
      unbk := inherit c 12 0 (fieldAt 4 63 32)
      straglag := inherit c 13 0xFFFFFFFF (fieldAt 5 31 0)
      scopetab := inherit c 14 0 (wordAt 6)
      entry := entry
      arg := inherit c 16 0 (wordAt 8)
      latepool := inherit c 17 0 (wordAt 9)
      save := inherit c 18 0 (wordAt 10)
      ckdir := ck.1
      ckoff := ck.2.1
      cksize := ck.2.2 }

/-- The ranges of R175, on the resolved values. -/
def Fields.inRange (f : Fields) : Bool :=
  f.entry.toNat % 4 == 0 && f.mxshare != 0 && f.gx != 0 && f.gy != 0 && f.cores != 0 && decide (f.cores ≤ 4608)
    && decide (f.ckdir ≤ 5) && decide (f.gx * f.gy ≤ f.cores)

/-- What a block resolves to. -/
structure Resolved where
  f : Fields
  chain : List Word
  signal : Word
  deps : Nat
  state : Nat
  /-- OVR bit 0 of the block (R179). -/
  ownPrio : Bool

/-- The lock-keeper's view of a block: bits 71:64 of the block's own address (R176). -/
def State.blockView (s : State) (p : Nat) (root : Root) (vahi : BitVec 8) : View := s.jobView p root vahi

/-- Resolves a block (R176); none when it resolves to BAD. -/
def State.resolve (s : State) (p : Nat) (root : Root) (vahi : BitVec 8) (block : Word) : Option (State × Resolved) :=
  match readChain (s.blockView p root vahi) 16 block s with
  | none => none
  | some (s', c) =>
    let chips := (s.part p).chiplets.length
    match resolveFields chips c with
    | none => none
    | some f =>
      let ws := (c.headD (0, [])).2
      if c.all (fun b => blockClean b.2) && f.inRange then
        some (s', { f := f, chain := c.map Prod.fst, signal := wordAt 11 ws,
                    deps := fieldAt 14 31 0 ws, state := fieldAt 13 3 0 ws, ownPrio := (wordAt 1 ws).getLsbD 0 })
      else none

/-- Writes the word of LIVE, ORIGIN and STATE into a block; a store that fails is not made. -/
def State.setBlock (s : State) (p : Nat) (root : Root) (vahi : BitVec 8) (block : Word) (live origin st : Nat) : State :=
  s.tryStores (s.blockView p root vahi) [BitVec.ofNat 64 (live * 2 ^ 32 + origin * 2 ^ 8 + st)] (block + 0x68)

/-- The codes of STATE. -/
def RegionState.code : RegionState → Nat
  | .new => 0
  | .armed => 1
  | .waiting => 2
  | .running => 3
  | .preempted => 4
  | .complete => 5
  | .faulted => 6
  | .killed => 7
  | .bad => 8

/-- Cores of a region, the second copy's last. -/
def Region.allCores (r : Region) : List Nat := r.tasks ++ r.copy

/-- Writes a region's STATE, with LIVE and ORIGIN as they stand. -/
def State.showRegion (s : State) (r : Region) (st : RegionState) : State :=
  let live := (r.allCores.filter (fun n => !(s.core n).ended)).length
  s.setBlock r.part r.root r.vahi r.block (if st = .running ∨ st = .preempted then live else 0) (r.tasks.headD 0) st.code

/-! ### Notices (R353) -/

/-- Writes a notice into one function's ring. -/
def State.noticeTo (s : State) (f : Nat) (kind code queue part : Nat) (value : Word) : State :=
  let u := s.func f
  if u.nring = 0 then s
  else
    s.setFunc f { u with
      nseq := u.nseq + 1
      notices := { hp := u.nring + BitVec.ofNat 64 (16 * (u.nseq % 256)), nseq := BitVec.ofNat 32 u.nseq,
                   kind := BitVec.ofNat 8 kind, code := BitVec.ofNat 8 code, queue := BitVec.ofNat 8 queue,
                   part := BitVec.ofNat 8 part, value := value } :: u.notices }

/-- A notice about a partition: to its function and to the physical function. -/
def State.notice (s : State) (p kind code queue : Nat) (value : Word) : State :=
  let f := (s.part p).func
  let s := s.noticeTo f kind code queue p value
  if f = 0 then s else s.noticeTo 0 kind code queue p value

/-! ### Queues and packets (R179 to R182) -/

/-- Doublewords of a packet with bits that must be zero; VALID is 1 when it is taken. -/
def packetOk (ws : List Word) : Bool :=
  let w0 := ws.getD 0 0
  let ty := fieldAt 0 7 0 ws
  w0 &&& 0x7FFFFFFFFFFFFE00 == 0 && (ty == 1 || ty == 2) && [5, 6, 7].all (fun i => ws.getD i 0 == 0)
    && (if ty == 1 then (ws.getD 1 0).toNat % 128 == 0 else ws.getD 1 0 == 0)
    && (ws.getD 2 0).toNat % 16 == 0 && (ws.getD 3 0).toNat % 8 == 0

/-- Fields of a descriptor as it was read (R179). -/
def HostQueue.base (q : HostQueue) : Word := wordAt 0 q.seen
def HostQueue.prio (q : HostQueue) : Nat := fieldAt 1 9 8 q.seen
def HostQueue.log2 (q : HostQueue) : Nat := fieldAt 1 4 0 q.seen
def HostQueue.write (q : HostQueue) : BitVec 32 := BitVec.ofNat 32 (fieldAt 2 31 0 q.seen)
def HostQueue.read (q : HostQueue) : BitVec 32 := BitVec.ofNat 32 (fieldAt 3 31 0 q.seen)
def HostQueue.low (q : HostQueue) : BitVec 32 := BitVec.ofNat 32 (fieldAt 4 31 0 q.seen)
def HostQueue.enabled (q : HostQueue) : Bool := (wordAt 1 q.seen).getLsbD 16

/-- Whether a descriptor is not invalid: one with EN = 0 never is (R179). -/
def descOk (ws : List Word) : Bool :=
  let l := fieldAt 1 4 0 ws
  !(wordAt 1 ws).getLsbD 16 || decide (4 ≤ l) && decide (l ≤ 16) && (wordAt 0 ws).toNat % 64 == 0 && wordAt 1 ws &&& 0xFFFFFFFFFFFEFCE0 == 0
    && fieldAt 2 63 32 ws == 0 && fieldAt 3 63 32 ws == 0 && fieldAt 5 62 32 ws == 0 && wordAt 6 ws == 0 && wordAt 7 ws == 0

/-- The view of a queue's addresses: the job of its slot, with QVAHI (R356); none when the slot holds no job. -/
def State.queueView (s : State) (p : Nat) (q : HostQueue) : Option View :=
  (s.slot q.slot).root.map (fun r => s.jobView p r q.vahi)

/-- Replaces a queue of a partition. -/
def State.setQueue (s : State) (p : Nat) (q : HostQueue) : State :=
  s.modPart p (fun v => { v with queues := v.queues.map (fun r => if r.func = q.func ∧ r.num = q.num then q else r) })

/-- Reads the descriptor of a queue; `notify`: packets are taken again where it is valid and enabled. -/
def State.readDesc (s : State) (p : Nat) (q : HostQueue) (notify : Bool) : State :=
  match s.queueView p q with
  | none => s.setQueue p { q with on := false, since := none }
  | some v =>
    match State.loadDs v 8 q.desc s with
    | .error _ => s.setQueue p { q with on := false, since := none }
    | .ok (s, ws) =>
      let ok := descOk ws && (wordAt 1 ws).getLsbD 16
      s.setQueue p { q with seen := ws, on := ok && (notify || q.on) }

/-- The address of packet q. -/
def HostQueue.packetAt (q : HostQueue) (n : BitVec 32) : Word := q.base + BitVec.ofNat 64 (64 * (n.toNat % 2 ^ q.log2))

/-- The oldest packet of a queue to be run again (R199). -/
def State.replayOf (s : State) (p : Nat) (q : HostQueue) : Option Packet :=
  (s.part p).replays.find? (fun k => k.func == q.func && k.queue == q.num)

/-- Sequence number of the oldest packet of a queue not yet selected. -/
def State.headSeq (s : State) (p : Nat) (q : HostQueue) : BitVec 32 :=
  match s.replayOf p q with
  | some k => k.seq
  | none => q.read

/-- The oldest packet of a queue, where the lock-keeper may take it: one to be run again, else packet READ when its VALID
is 1 and it is within LOW + 32 (R181). -/
def State.headPacket (s : State) (p : Nat) (q : HostQueue) : Option (List Word) :=
  match s.replayOf p q with
  | some k => if q.on then some k.words else none
  | none =>
  if q.on && q.read != q.write && decide ((q.read - q.low).toNat ≤ 32) then
    match s.queueView p q with
    | none => none
    | some v =>
      match State.loadDs v 8 (q.packetAt q.read) s with
      | .ok (_, ws) => if (wordAt 0 ws).getLsbD 63 then some ws else none
      | .error _ => none
  else none

/-- Whether the dependences of a packet are met (R182). -/
def State.depsMet (s : State) (p : Nat) (q : HostQueue) (ws : List Word) : Bool :=
  (!(wordAt 0 ws).getLsbD 8 || q.low == s.headSeq p q) &&
    (wordAt 3 ws == 0 ||
      match s.queueView p q with
      | none => false
      | some v =>
        match s.loadD v (wordAt 3 ws) with
        | .ok (_, w) => decide (w.toInt ≤ 0)
        | .error _ => false)

/-- Re-examines a queue: its oldest packet becomes ready, or waits (R182). -/
def State.examineQueue (s : State) (p : Nat) (q : HostQueue) : State :=
  match s.headPacket p q with
  | some ws =>
    if s.depsMet p q ws then
      (if q.since.isSome then s else s.setQueue p { q with since := some s.fresh, waited := 0 })
    else s.setQueue p { q with since := none, waited := 0 }
  | none => s.setQueue p { q with since := none, waited := 0 }

def examineAll (p : Nat) : List HostQueue → State → State
  | [], s => s
  | q :: t, s => examineAll p t (s.examineQueue p q)

/-- Re-examines every queue of a partition (R182). -/
def State.examine (s : State) (p : Nat) : State :=
  { examineAll p (s.part p).queues s with fresh := s.fresh + 1 }

/-! ### Order (R183) -/

/-- What the lock-keeper can take next. -/
inductive Pick where
  | packet (q : HostQueue) (ws : List Word)
  | launch (l : Launch)
  | resume (g : Nat)

structure Candidate where
  eff : Nat
  since : Nat
  queue : Nat
  device : Bool
  pick : Pick

/-- Effective priority (R183). -/
def effPrio (prio waited age : Nat) : Nat := min 3 (prio + waited / age)

/-- PRIO of a block as its packet ranks, before selection resolves it for good; a BAD block ranks 0. -/
def State.packetPrio (s : State) (p : Nat) (q : HostQueue) (ws : List Word) : Nat :=
  if fieldAt 0 7 0 ws = 2 then 0
  else
    match (s.slot q.slot).root with
    | none => 0
    | some root =>
      match s.resolve p root q.vahi (wordAt 1 ws) with
      | some (_, r) => if r.f.prio = 0 ∧ r.ownPrio = false then q.prio else r.f.prio
      | none => 0

/-- Whether a partition's packets, launches and regions are taken at all. -/
def State.selects (s : State) (p : Nat) : Bool := (s.part p).st != .offline

/-- The ready packets, device launches and pre-empted regions of a partition. -/
def State.candidates (s : State) (p : Nat) : List Candidate :=
  let v := s.part p
  let packets := v.queues.filterMap (fun q =>
    match q.since, s.headPacket p q with
    | some t, some ws =>
      some ⟨effPrio (s.packetPrio p q ws) q.waited v.age, t, q.num, false, .packet q ws⟩
    | _, _ => none)
  let launches := v.launches.filterMap (fun l =>
    if l.ready then
      let prio := match s.resolve p l.root l.vahi l.block with
        | some (_, r) => r.f.prio
        | none => 0
      some ⟨effPrio prio l.waited v.age, l.since, 256, true, .launch l⟩
    else none)
  let resumes := s.regions.filterMap (fun e =>
    if e.2.part = p ∧ e.2.st = .preempted then
      some ⟨effPrio e.2.rank e.2.waited v.age, e.2.since, (e.2.packet.map (fun k => k.2.1)).getD 256,
        e.2.packet.isNone, .resume e.1⟩
    else none)
  packets ++ launches ++ resumes

/-- The order of R183. -/
def Candidate.before (a b : Candidate) : Bool :=
  if a.eff ≠ b.eff then decide (b.eff < a.eff)
  else if a.since ≠ b.since then decide (a.since < b.since)
  else if a.queue ≠ b.queue then decide (a.queue < b.queue)
  else !a.device && b.device

def bestOf : List Candidate → Option Candidate
  | [] => none
  | c :: t =>
    match bestOf t with
    | none => some c
    | some d => if d.before c then some d else some c

def Candidate.isMarker (c : Candidate) : Bool :=
  match c.pick with
  | .packet _ ws => fieldAt 0 7 0 ws == 2
  | .launch _ => false
  | .resume _ => false

/-! ### Placement (R186) -/

/-- The core of task (x, y) for an origin chiplet and core. -/
def taskCore (pack : Bool) (ox oy lc x y : Nat) : Option Nat :=
  let cx := if pack then ox + x / 4 else ox + x
  let cy := if pack then oy + y / 2 else oy + y
  if cx < 24 ∧ cy < 24 then some (8 * (cy * 24 + cx) + (if pack then 4 * (y % 2) + x % 4 else lc)) else none

/-- The tasks' cores for task 0 on core n. -/
def layout (f : Fields) (n : Nat) : Option (List Nat) :=
  (List.range (f.gx * f.gy)).mapM (fun t => taskCore f.place (n / 8 % 24) (n / 8 / 24) (n % 8) (t % f.gx) (t / f.gx))

/-- The limits of R186. -/
def Fields.sizeOk (f : Fields) : Bool :=
  if f.place then f.gx % 4 == 0 && decide (f.gx ≤ 96) && f.gy % 2 == 0 && decide (f.gy ≤ 48)
  else decide (f.gx ≤ 24) && decide (f.gy ≤ 24)

/-- The first placement, by the core of task 0, whose cores are all allowed. -/
def placeBy (f : Fields) (allowed : Nat → Bool) : Option (List Nat) :=
  if f.sizeOk then
    (List.range Config.cores).findSome? (fun n =>
      if allowed n && (!f.place || n % 8 == 0) then
        match layout f n with
        | some cs => if cs.all allowed then some cs else none
        | none => none
      else none)
  else none

/-- Whether two chiplets are the same or mesh neighbours. -/
def nearChip (a b : Nat) : Bool :=
  a == b || (a / 24 == b / 24 && (a % 24 == b % 24 + 1 || b % 24 == a % 24 + 1))
    || (a % 24 == b % 24 && (a / 24 == b / 24 + 1 || b / 24 == a / 24 + 1))

/-- The placement of a region and of its copy. -/
def placeRegion (f : Fields) (allowed : Nat → Bool) : Option (List Nat × List Nat) :=
  match placeBy f allowed with
  | none => none
  | some cs =>
    if f.paired then
      match placeBy f (fun n => allowed n && cs.all (fun m => !nearChip (n / 8) (m / 8))) with
      | some ds => some (cs, ds)
      | none => none
    else some (cs, [])

/-- Whether a core of a partition runs regions: it is not the lock-keeper's or its standby's. -/
def State.usable (s : State) (p n : Nat) : Bool :=
  let v := s.part p
  v.chiplets.contains (n / 8) && n != v.lk && n != v.standby

/-- Whether a core is free. -/
def State.coreFree (s : State) (p n : Nat) : Bool :=
  s.usable p n && (s.core n).region == 0 && !(s.core n).sealed && !(s.core n).retiring

/-- Whether a region can ever fit its partition and its budgets (R184). -/
def State.canFit (s : State) (p : Nat) (r : Region) : Bool :=
  (placeRegion r.f (s.usable p)).isSome && (s.ceilings r).all (fun b => decide (r.coreClaim ≤ b.2.cores))

/-! ### Taking (R181, R184) -/

/-- Adds a packet to those to be completed. -/
def State.addPacket (s : State) (p : Nat) (k : Packet) : State := s.modPart p (fun v => { v with packets := v.packets ++ [k] })

/-- The region that a block launches. -/
def newRegion (p : Nat) (root : Root) (vahi : BitVec 8) (block : Word) (r : Resolved)
    (packet : Option (Nat × Nat × BitVec 32)) (argovr : Word) (rank since waited : Nat) : Region where
  part := p
  slot := root.slot
  root := root
  block := block
  vahi := vahi
  chain := r.chain
  f := r.f
  signal := r.signal
  st := .waiting
  packet := packet
  argovr := argovr
  tasks := []
  copy := []
  reserved := 0
  grade := 0
  lasting := []
  forwarded := false
  mismatch := false
  pool := none
  order := 0
  rank := rank
  since := since
  waited := waited
  saved := []
  savedReqs := []

/-- A resolved region becomes the first of its partition, with STATE WAITING. -/
def State.enterRegion (s : State) (p : Nat) (r : Region) : State :=
  let g := s.fresh
  let s := { s with regions := Tab.set s.regions g r, fresh := g + 1 }
  (s.showRegion r .waiting).modPart p (fun v => { v with first := some g })

/-- Ends a packet of a queue with a code and a grade. -/
def State.codePacket (s : State) (p : Nat) (k : Nat × Nat × BitVec 32) (code grade : Nat) : State :=
  s.modPart p (fun v => { v with packets := v.packets.map (fun x =>
    if x.func = k.1 ∧ x.queue = k.2.1 ∧ x.seq = k.2.2 then
      { x with code := some (BitVec.ofNat 4 code, BitVec.ofNat 4 grade) } else x) })

/-- The status word (R180). -/
def statusWord (seq : BitVec 32) (code grade : Nat) : Word := BitVec.ofNat 64 (seq.toNat * 2 ^ 32 + grade * 16 + code)

/-- Writes a completion record: the status word, then the signal less 1 (R180, R185). -/
def State.signalRecord (s : State) (v : View) (a : Word) (status : Word) : State :=
  if a = 0 then s else (s.tryStores v [status] (a + 8)).updateD v a (fun w => w - 1)

/-- Reports the end of a region: to its packet, or at SIGNAL for a device launch (R185, R188). -/
def State.reportRegion (s : State) (r : Region) (code grade : Nat) : State :=
  match r.packet with
  | some k => s.codePacket r.part k code grade
  | none => s.signalRecord (s.jobView r.part r.root r.f.vahi) r.signal (statusWord 0 code grade)

/-- Takes a LAUNCH: resolves its block and makes it the first, or ends it as BAD or over budget (R176, R184). -/
def State.takeLaunch (s : State) (p : Nat) (root : Root) (vahi : BitVec 8) (block : Word)
    (packet : Option (Nat × Nat × BitVec 32)) (argovr : Word) (qprio since waited : Nat) : State :=
  match s.resolve p root vahi block with
  | none =>
    let s := s.setBlock p root vahi block 0 0 8
    match packet with
    | some k => s.codePacket p k 4 0
    | none => s
  | some (s, r) =>
    let rank := if r.f.prio = 0 ∧ r.ownPrio = false then qprio else r.f.prio
    let g := newRegion p root vahi block r packet argovr rank since waited
    if s.canFit p g then s.enterRegion p g else s.reportRegion g 5 0

/-- Copies packet READ, clears VALID and advances READ (R181). -/
def State.copyPacket (s : State) (p : Nat) (q : HostQueue) (ws : List Word) : State :=
  match s.queueView p q with
  | none => s
  | some v =>
    let n := q.read
    let s := s.tryStores v [wordAt 0 ws &&& 0x7FFFFFFFFFFFFFFF] (q.packetAt n)
    let s := s.tryStores v [BitVec.ofNat 64 (n + 1).toNat] (q.desc + 0x18)
    s.setQueue p { q with seen := setAt q.seen 3 (BitVec.ofNat 64 (n + 1).toNat), since := none, waited := 0 }

/-- Takes packet READ from its ring, or one to be run again from the lock-keeper's copies. -/
def State.fetchPacket (s : State) (p : Nat) (q : HostQueue) (ws : List Word) : State :=
  match s.replayOf p q with
  | some k =>
    (s.modPart p (fun v => { v with replays := v.replays.filter (fun r => r != k) })).setQueue p { q with since := none, waited := 0 }
  | none => s.copyPacket p q ws

/-- Takes a packet (R181, R184); one that is run again is launched in every state of the partition (R199). -/
def State.takePacket (s : State) (p : Nat) (q : HostQueue) (ws : List Word) : State :=
  let n := s.headSeq p q
  let again := (s.replayOf p q).isSome
  let record := wordAt 2 ws
  let key := (q.func, q.num, n)
  let s := s.fetchPacket p q ws
  let ok := packetOk ws
  let drain := !again && ((s.part p).st == .draining || (s.part p).st == .drained)
  let code : Option (BitVec 4 × BitVec 4) :=
    if !ok then some (4, 0) else if drain then some (1, 0) else if fieldAt 0 7 0 ws = 2 then some (0, 0) else none
  let s := s.addPacket p ⟨q.func, q.num, n, if record.toNat % 16 = 0 then record else 0, ws, code⟩
  match code, (s.slot q.slot).root with
  | none, some root =>
    s.takeLaunch p root q.vahi (wordAt 1 ws) (some key) (wordAt 4 ws) q.prio (q.since.getD 0) q.waited
  | _, _ => s

/-- Takes a candidate; a pre-empted region stays first until its cores are free (R184, R324). -/
def State.take (s : State) (p : Nat) (c : Candidate) : State :=
  match c.pick with
  | .packet q ws => s.takePacket p q ws
  | .launch l =>
    (s.modPart p (fun v => { v with launches := v.launches.filter (fun k => k != l) })).takeLaunch p l.root l.vahi l.block
      none 0 0 l.since l.waited
  | .resume g => s.modPart p (fun v => { v with first := some g })

/-- An invalid packet at the head of a queue: it waits for nothing (R181). -/
def State.badHead (s : State) (p : Nat) : Option (HostQueue × List Word) :=
  (s.part p).queues.findSome? (fun q =>
    match s.headPacket p q with
    | some ws => if packetOk ws then none else some (q, ws)
    | none => none)

/-- Takes packets in the order of R183 until one is to be placed; while one waits, only MARKERs are taken (R184). -/
def selectLoop (p : Nat) : Nat → State → State
  | 0, s => s
  | k + 1, s =>
    let s := s.examine p
    match s.badHead p with
    | some (q, ws) => selectLoop p k (s.takePacket p q ws)
    | none =>
      let cs := s.candidates p
      match bestOf (if (s.part p).first.isSome then cs.filter Candidate.isMarker else cs) with
      | some c => selectLoop p k (s.take p c)
      | none => s

def State.select (s : State) (p : Nat) : State := if s.selects p then selectLoop p 1024 s else s

/-! ### Set-up (R187 to R189, R222, R237) -/

/-- Partner of task t in a direction, by the tasks' cores. -/
def partner (f : Fields) (cs : List Nat) (t : Nat) (on wrap : Nat) (dx dy : Int) : Option Nat :=
  if f.link.getLsbD on then
    let x : Int := (t % f.gx : Nat) + dx
    let y : Int := (t / f.gx : Nat) + dy
    let inside := decide (0 ≤ x) && decide (x < f.gx) && decide (0 ≤ y) && decide (y < f.gy)
    if inside || f.link.getLsbD wrap then cs[(y % f.gy).toNat * f.gx + (x % f.gx).toNat]? else none
  else none

/-- The link table of task t (R187). -/
def linkTable (f : Fields) (cs : List Nat) (t : Nat) : Tab Nat :=
  let chain := if f.link.getLsbD 4 then (if t + 1 < cs.length then cs[t + 1]? else if f.link.getLsbD 5 then cs.head? else none) else none
  [(0xA1, chain), (0xA2, partner f cs t 2 3 0 (-1)), (0xA3, partner f cs t 0 1 1 0), (0xA4, partner f cs t 2 3 0 1),
   (0xA5, partner f cs t 0 1 (-1) 0)].filterMap (fun e => e.2.map (fun n => (e.1, n)))

/-- The scope cache of a region's cores: entries 4 to 15 of its table (R237). -/
def State.scopeCache (s : State) (r : Region) : Tab ScopeEntry :=
  let v := s.jobView r.part r.root r.f.vahi
  if s.tableOk v r.f.scopetab then
    match State.loadDs { v with priv := false } 192 (r.f.scopetab + 512) s with
    | .ok (_, ws) => (List.range 12).map (fun i => (i + 4, entryOf (ws.drop (16 * i))))
    | .error _ => []
  else []

/-- The translation of the 64 KiB page `i` pages after that of an address, where it may lie in such storage. -/
def State.poolPage (s : State) (v : View) (ok : PaKind → Bool) (ea : Word) (i : Nat) : Option (Leaf × Nat) :=
  match s.translate v.core v.root v.vahi (BitVec.ofNat 64 (65536 * (ea.toNat / 65536 + i))) .load true with
  | .ok (l, pa) => if ok (paKind pa) then some (l, pa / 65536) else none
  | .error _ => none

/-- The late-frame pool of a region, with the translations of its ranges, where its descriptor and its ranges allow one
(R222). -/
def State.poolOf (s : State) (r : Region) : Option Pool :=
  let v := s.jobView r.part r.root r.f.vahi
  if r.f.latepool = 0 then none
  else
    match State.loadDs v 4 r.f.latepool s with
    | .error _ => none
    | .ok (_, ws) =>
      let ub := wordAt 0 ws
      let sh := wordAt 1 ws
      let bm := wordAt 3 ws
      let pages := fieldAt 2 31 0 ws
      let last := (bm.toNat + 128 * pages - 1) / 65536
      if ub.toNat % 65536 == 0 && sh.toNat % 65536 == 0 && bm.toNat % 8 == 0 && decide (0 < pages) && fieldAt 2 63 32 ws == 0
      then
        match (List.range pages).mapM (s.poolPage v (fun k => k == .unbacked) ub),
            (List.range pages).mapM (s.poolPage v (fun k => k == .hbm) sh),
            (List.range (last + 1 - bm.toNat / 65536)).mapM (s.poolPage v (fun _ => true) bm) with
        | some us, some bs, some ms =>
          some { ubase := ub, shadow := sh, bitmap := bm, names := us.map Prod.snd, backed := bs, bits := ms }
        | _, _, _ => none
      else none

/-- Context 0 as placement leaves it (R38, R188); it stays PARKED until the region starts. -/
def startCtx (f : Fields) (tag : Tag) : Ctx :=
  { Ctx.free with
    st := .parked
    park := some .start
    pc := f.entry
    base := 0
    size := windowOf f.nctx
    rbase := 8064
    rlim := 8192
    rasp := BitVec.ofNat 64 (8064 * 8)
    vahi := f.vahi
    tag := some tag }

/-- What a core keeps from one region to the next: its caches, its cycle count, and what has reached it. -/
def Core.vacant (c : Core) : Core :=
  { Core.clear with
    n := c.n
    cycle := c.cycle
    l1 := c.l1
    tlb := c.tlb
    waitRefuse := c.waitRefuse
    waitNotice := c.waitNotice
    outRefuse := c.outRefuse
    inbox := c.inbox
    cmds := c.cmds
    bargeWait := c.bargeWait
    barq := c.barq
    sealed := c.sealed
    retiring := c.retiring
    opSeq := c.opSeq }

/-- A core that its region leaves: its registers keep their values until the next set-up (R188, R364). -/
def Core.left (c : Core) : Core := { c.vacant with rf := c.rf, cregs := c.cregs, cpend := c.cpend }

/-- Steps 1 to 4 of R188 at the core of task t, with its link table. -/
def Core.setUp (c : Core) (g : Nat) (r : Region) (cs : List Nat) (t : Nat) (twin : Bool) (tag : Tag)
    (scopes : Tab ScopeEntry) : Core :=
  let f := r.f
  let x := t % f.gx
  let y := t / f.gx
  let k : Core := { c.vacant with
    n := f.nctx
    mxwt := BitVec.ofNat 4 f.mxshare
    straglag := f.straglag
    stragn := f.stragn
    links := linkTable f cs t
    scopes := scopes
    root := r.root
    tag := some tag
    region := g + 1
    task := t
    twin := twin }
  (k.setCtx 0 (startCtx f tag)).fillRegs 0
    [BitVec.ofNat 64 t, r.block, if r.argovr = 0 then f.arg else r.argovr, BitVec.ofNat 64 (x + 2 ^ 16 * y),
     BitVec.ofNat 64 (f.gx + 2 ^ 16 * f.gy)]

/-- Sets up the cores of one copy. -/
def setUpCores (g : Nat) (r : Region) (cs : List Nat) (twin : Bool) (tag : Tag) (scopes : Tab ScopeEntry) :
    List Nat → Nat → State → State
  | [], _, s => s
  | n :: l, t, s =>
    let s := s.modCore n (fun c => c.setUp g r cs t twin tag scopes)
    setUpCores g r cs twin tag scopes l (t + 1) (s.modChip (n / 8) (fun c => { c with cim := nullStrips c.cim (n % 8) }))

/-- Starts context 0 of every core together (R189). -/
def startCores : List Nat → State → State
  | [], s => s
  | n :: l, s => startCores l (s.modThread n 0 (fun t => { t with st := .runnable, park := none }))

/-- Places region g on its cores and starts it (R186 to R189). -/
def State.placeOn (s : State) (g : Nat) (r : Region) (cs ds : List Nat) : State :=
  let tag := s.slotTag r.slot
  let r := { r with st := .running, tasks := cs, copy := ds, order := s.fresh, pool := s.poolOf r }
  let scopes := s.scopeCache r
  let s := { s with regions := Tab.set s.regions g r, fresh := s.fresh + 1 }
  let s := setUpCores g r cs false tag scopes cs 0 s
  let s := setUpCores g r ds true tag scopes ds 0 s
  let s := startCores (cs ++ ds) s
  s.showRegion r .running

/-! ### Leaving cores (R188, R213, R337) -/

/-- A region's cores return to the partition. -/
def leaveCores : List Nat → State → State
  | [], s => s
  | n :: l, s =>
    let s := s.modCore n Core.left
    leaveCores l (s.modChip (n / 8) (fun c => { c.endGrant (n % 8) with cim := nullStrips c.cim (n % 8) }))

/-- The banks of a chiplet that region g holds. -/
def ownedBanks (g : Nat) (h : Chiplet) : List Nat := (h.banks.filter (fun b => b.2.holder == some g)).map Prod.fst

/-- Returns banks of a chiplet to CACHE mode (R207, R209). -/
def freeBanks (chip : Nat) : List Nat → State → State
  | [], s => s
  | b :: t, s =>
    freeBanks chip t ((s.nullBank chip b).modChip chip (fun h =>
      h.setBank b { h.bank b with mode := .cache, moveTo := none, holder := none, bufs := [] }))

def freeAllBanks (g : Nat) : List (Nat × Chiplet) → State → State
  | [], s => s
  | (c, h) :: t, s => freeAllBanks g t (freeBanks c (ownedBanks g h) s)

/-- A chiplet without region g's BANKMODE requests: a bank that was leaving CACHE mode for one stays there (R207). -/
def Chiplet.dropBankReqs (h : Chiplet) (g : Nat) : Chiplet :=
  let mine := h.breqs.filter (fun q => q.region == g + 1)
  let moving := mine.flatMap (fun q => (q.moving.map Prod.snd).getD [])
  { h with
    breqs := h.breqs.filter (fun q => q.region != g + 1)
    banks := h.banks.map (fun e => (e.1, if moving.contains e.1 then { e.2 with moveTo := none } else e.2)) }

/-- Whether a station is one of the cores. -/
def Station.among (cs : List Nat) : Station → Bool
  | .core n => cs.contains n
  | .chiplet _ => false
  | .base _ => false
  | .wharf _ => false

/-- Frees what a region holds: its banks, and while it stands on its cores, these with their strips, tables and streams. -/
def State.releaseRegion (s : State) (g : Nat) (r : Region) : State :=
  let s := { s with chips := s.chips.map (fun e => (e.1, e.2.dropBankReqs g)) }
  let s := freeAllBanks g s.chips s
  let s := if r.st = .preempted then s
    else (leaveCores r.allCores s).dropStreams (Station.among r.allCores)
  { s with
    regions := Tab.erase s.regions g
    pairs := s.pairs.filter (fun m => m.region != g)
    redsets := s.redsets.filter (fun q => q.region != g + 1) }

/-! ### Completing packets (R185) -/

/-- LOW and DONE after packet LOW has completed: LOW moves to the lowest packet not completed. -/
def lowAfter : Nat → BitVec 32 → BitVec 32 → BitVec 32 × BitVec 32
  | 0, l, d => (l, d)
  | k + 1, l, d => if d.getLsbD 0 then lowAfter k (l + 1) (d >>> 1) else (l + 1, d >>> 1)

/-- LOW and DONE after packet q. -/
def markDone (q l d : BitVec 32) : BitVec 32 × BitVec 32 :=
  if q = l then lowAfter 33 l d else (l, d ||| (1 <<< ((q - l).toNat - 1)))

/-- R185 for one packet, and its notice (R353). -/
def State.completePacket (s : State) (p : Nat) (k : Packet) : State :=
  let (code, grade) := k.code.getD (0, 0)
  let s := s.modPart p (fun v => { v with packets := v.packets.filter (fun x => !(x.func == k.func && x.queue == k.queue && x.seq == k.seq)) })
  let s := match (s.part p).queues.find? (fun q => q.func == k.func && q.num == k.queue) with
    | none => s
    | some q =>
      match s.queueView p q with
      | none => s
      | some v =>
        let s := s.signalRecord v k.record (statusWord k.seq code.toNat grade.toNat)
        match State.loadDs v 8 q.desc s with
        | .error _ => s.setQueue p { q with on := false }
        | .ok (s, ws) =>
          if descOk ws then
            let (l, d) := markDone k.seq (BitVec.ofNat 32 (fieldAt 4 31 0 ws)) (BitVec.ofNat 32 (fieldAt 4 63 32 ws))
            let w4 : Word := d ++ l
            let s := s.tryStores v [w4, BitVec.ofNat 64 k.seq.toNat] (q.desc + 0x20)
            s.setQueue p { q with seen := setAt ws 4 w4, on := q.on && (wordAt 1 ws).getLsbD 16 }
          else s.setQueue p { q with on := false }
  s.noticeTo k.func 1 (code.toNat + 16 * grade.toNat) k.queue p (BitVec.ofNat 64 k.seq.toNat)
    |> fun s => if k.func = 0 then s else s.noticeTo 0 1 (code.toNat + 16 * grade.toNat) k.queue p (BitVec.ofNat 64 k.seq.toNat)

/-- Completes every packet of a partition that has its code. -/
def completeAll (p : Nat) : List Packet → State → State
  | [], s => s
  | k :: t, s => completeAll p t (if k.code.isSome then s.completePacket p k else s)

end Sys2Proof.Machine
end

