-- ==== Sys2Proof/Machine/EvRegions.lean ====
section
/-! DEFINITION. Events of regions: notifies, TRIGGERs, aging, placement and pre-emption, the end of parts and of regions,
and the completion of packets (R181 to R191, R321, R352). -/

namespace Sys2Proof.Machine

/-! ### Notifies (R181, R352) -/

/-- A notify of a queue: its descriptor is read, and packets are taken (R179, R181, R184). -/
def State.notifyQueue (s : State) (p : Nat) (q : HostQueue) : State := (s.readDesc p q true).select p

/-- The partition that serves queue `num` of function `f`. -/
def State.queueOf (s : State) (f num : Nat) : Option (Nat × HostQueue) :=
  s.parts.findSome? (fun e => (e.2.queues.find? (fun q => q.func == f && q.num == num)).map (fun q => (e.1, q)))

/-- NOTIFY (R352): a notify of a queue that is not registered has no effect. -/
def execNotify (f : Nat) (q : BitVec 8) (s : State) : Out :=
  match s.queueOf f q.toNat with
  | some (p, k) => .next (s.notifyQueue p k)
  | none => whenEnabled (decide (f ≤ 64)) s

/-! ### TRIGGER (R191) -/

/-- A message of KIND 0x04 from the lock-keeper of partition p (R163, R191). -/
def State.lkMessage (s : State) (p core x : Nat) (tag : BitVec 16) (a : Word) : State :=
  let m : Mail :=
    { kind := 4, ctx := BitVec.ofNat 6 x, srcCore := BitVec.ofNat 13 (s.part p).lk, srcCtx := 0, tag := tag, payload := a }
  s.modCore core (fun c => { c with waitNotice := c.waitNotice ++ [m] })

/-- Key of a held count: key slot and 72-bit block address. -/
def heldKey (slot : BitVec 6) (vahi : BitVec 8) (a : Word) : Nat := slot.toNat * 2 ^ 72 + virtual vahi a

/-- Whether a launch is of the block. -/
def Launch.is (l : Launch) (root : Root) (vahi : BitVec 8) (a : Word) : Bool := l.root == root && l.vahi == vahi && l.block == a

/-- STATE of a block, as far as the lock-keeper can read it. -/
def State.blockState (s : State) (v : View) (a : Word) : Option Nat :=
  match s.loadD v (a + 0x68) with
  | .ok (_, w) => some (w.toNat % 16)
  | .error _ => none

/-- Raises the held count of a block that is not armed; at 1,024 addresses the DEC is discarded. -/
def State.holdDec (s : State) (p core x : Nat) (key : Nat) (a : Word) : State :=
  let v := s.part p
  match Tab.find v.heldCounts key with
  | some n => s.setPart p { v with heldCounts := Tab.set v.heldCounts key (n + 1) }
  | none =>
    if v.heldCounts.length < 1024 then s.setPart p { v with heldCounts := Tab.set v.heldCounts key 1 }
    else s.lkMessage p core x 3 a

/-- An armed launch becomes ready. -/
def State.readyLaunch (s : State) (p : Nat) (root : Root) (vahi : BitVec 8) (a : Word) : State :=
  { (s.modPart p (fun v => { v with launches := v.launches.map (fun l =>
      if l.is root vahi a then { l with ready := true, since := s.fresh, waited := 0 } else l) })) with fresh := s.fresh + 1 }

/-- A DEC (R191). -/
def State.decBlock (s : State) (p : Nat) (a : Word) (vahi : BitVec 8) (core x : Nat) (root : Root) : State :=
  let v := s.blockView p root vahi
  match (s.part p).launches.find? (fun l => l.is root vahi a) with
  | some l =>
    if l.ready then s.lkMessage p core x 1 a
    else
      match s.loadD v (a + 0x70) with
      | .error _ => s.lkMessage p core x 5 a
      | .ok (s, w) =>
        let n := w.toNat % 2 ^ 32
        match s.storeD v (a + 0x70) (BitVec.ofNat 64 (n - 1)) with
        | .error _ => s.lkMessage p core x 5 a
        | .ok s => if n ≤ 1 then s.readyLaunch p root vahi a else s
  | none =>
    match s.blockState v a with
    | some n => if 2 ≤ n then s.lkMessage p core x 1 a else s.holdDec p core x (heldKey root.slot vahi a) a
    | none => s.holdDec p core x (heldKey root.slot vahi a) a

/-- Whether an address names a running region of the job: what a child's PARENT must name. -/
def State.runsBlock (s : State) (root : Root) (vahi : BitVec 8) (a : Word) : Bool :=
  s.regions.any (fun e => e.2.root == root && e.2.vahi == vahi && e.2.block == a && e.2.st == .running)

/-- An ARM of a block with STATE 0 that resolves (R191). -/
def State.armBlock (s : State) (p : Nat) (a : Word) (vahi : BitVec 8) (core x : Nat) (root : Root) (deps : Nat) : State :=
  let v := s.blockView p root vahi
  let key := heldKey root.slot vahi a
  let held := Tab.getD (s.part p).heldCounts key 0
  match State.storeDs v [1, BitVec.ofNat 64 (deps - held)] (a + 0x68) s with
  | .error _ => s.lkMessage p core x 5 a
  | .ok s =>
    let s := s.modPart p (fun q =>
      { q with
        heldCounts := Tab.erase q.heldCounts key
        launches := q.launches ++ [⟨a, vahi, root, core, x, false, 0, 0⟩] })
    if held < deps then s
    else
      let s := s.readyLaunch p root vahi a
      if deps < held then s.lkMessage p core x 1 a else s

/-- The end of an ARM of a block that is BAD: STATE 8, or nothing where that cannot be written (R191). -/
def State.armBad (s : State) (p : Nat) (a : Word) (vahi : BitVec 8) (core x : Nat) (root : Root) : State :=
  match State.storeDs (s.blockView p root vahi) [8] (a + 0x68) s with
  | .ok s => s.lkMessage p core x 4 a
  | .error _ => s.lkMessage p core x 5 a

/-- An ARM (R191). -/
def State.armTrigger (s : State) (p : Nat) (a : Word) (vahi : BitVec 8) (core x : Nat) (root : Root) : State :=
  let v := s.blockView p root vahi
  match State.loadDs v 16 a s with
  | .error _ => s.lkMessage p core x 5 a
  | .ok (s, ws) =>
    if fieldAt 13 3 0 ws ≠ 0 then s.lkMessage p core x 2 a
    else
      match s.resolve p root vahi a with
      | some (s, r) =>
        if s.runsBlock root vahi (wordAt 0 ws) then s.armBlock p a vahi core x root r.deps
        else s.armBad p a vahi core x root
      | none => s.armBad p a vahi core x root

/-- A device NOTIFY (R191). -/
def State.notifyTrigger (s : State) (p : Nat) (a : Word) (vahi : BitVec 8) (core x : Nat) (root : Root) : State :=
  match (s.part p).queues.find? (fun q => q.desc == a && q.vahi == vahi && q.slot == root.slot) with
  | some q => s.notifyQueue p q
  | none => s.lkMessage p core x 6 a

/-- Handles the oldest TRIGGER of a partition where its kind is the one named; the lock-keeper then selects. -/
def triggerEvent (p kind : Nat) (f : Word → BitVec 8 → Nat → Nat → Root → State → State) (s : State) : Out :=
  match (s.part p).trigq with
  | .trigger k a vahi core x root _ :: t =>
    if k = kind then .next ((f a vahi core x root (s.modPart p (fun v => { v with trigq := t }))).select p) else notNow
  | _ => notNow

/-- TRIGGER_DEC (R191). -/
def execTriggerDec (p : Nat) (s : State) : Out :=
  triggerEvent p 0 (fun a vahi core x root s => s.decBlock p a vahi core x root) s

/-- TRIGGER_ARM (R191). -/
def execTriggerArm (p : Nat) (s : State) : Out :=
  triggerEvent p 1 (fun a vahi core x root s => s.armTrigger p a vahi core x root) s

/-- TRIGGER_NOTIFY (R191). -/
def execTriggerNotify (p : Nat) (s : State) : Out :=
  triggerEvent p 2 (fun a vahi core x root s => s.notifyTrigger p a vahi core x root) s

/-! ### Aging (R183) -/

/-- Whether a region waits for cores. -/
def Region.waits (p : Nat) (r : Region) : Bool := r.part == p && (r.st == .waiting || r.st == .preempted)

/-- When each waiting item of a partition began to wait, and how long it has: queue heads, launches, regions. -/
def State.waitTimes (s : State) (p : Nat) : List (Nat × Nat) :=
  let v := s.part p
  v.queues.filterMap (fun q => q.since.map (fun t => (t, q.waited)))
    ++ (v.launches.filter Launch.ready).map (fun l => (l.since, l.waited))
    ++ (s.regions.filter (fun e => e.2.waits p)).map (fun e => (e.2.since, e.2.waited))

/-- Adds AGE to the items that began to wait at `t`. -/
def State.ageAt (s : State) (p t : Nat) : State :=
  let n := (s.part p).age
  let s := s.modPart p (fun v => { v with
    queues := v.queues.map (fun q => if q.since = some t then { q with waited := q.waited + n } else q)
    launches := v.launches.map (fun l => if l.ready && l.since == t then { l with waited := l.waited + n } else l) })
  { s with regions := s.regions.map (fun e =>
      (e.1, if e.2.waits p && e.2.since == t then { e.2 with waited := e.2.waited + n } else e.2)) }

/-- PRIORITY_AGING (R183): what began to wait earlier has waited at least as long. -/
def execPriorityAging (p k : Nat) (s : State) : Out :=
  let ws := s.waitTimes p
  match ws[k]? with
  | none => notNow
  | some (t, w) => whenEnabled (ws.all (fun x => !decide (x.1 < t) || decide (w + (s.part p).age ≤ x.2))) (s.ageAt p t)

/-! ### Placement and pre-emption (R184, R186, R189, R321) -/

/-- Whether a core of a region is being stopped for pre-emption. -/
def State.stopping (s : State) (r : Region) : Bool :=
  r.allCores.any (fun n => (s.core n).stopped || (s.core n).cmds.any (fun c => sendCmd c.desc == 3))

/-- The region a core runs. -/
def State.runner (s : State) (n : Nat) : Option Nat :=
  match (s.core n).region with
  | 0 => none
  | g + 1 => some g

/-- Whether a core would be free once the regions of a list have left. -/
def State.freeAfter (s : State) (p : Nat) (gs : List Nat) (n : Nat) : Bool :=
  s.usable p n && !(s.core n).sealed && !(s.core n).retiring &&
    match s.runner n with
    | some g => gs.contains g
    | none => true

/-- Whether region r can take its cores when the regions of a list have left. -/
def State.fitsAfter (s : State) (r : Region) (gs : List Nat) : Bool :=
  match r.st with
  | .preempted => r.allCores.all (s.freeAfter r.part gs)
  | _ => (placeRegion r.f (s.freeAfter r.part gs)).isSome && s.fitsBudget r Fields.cores coreClaim r.coreClaim

/-- The regions that may be pre-empted for one with effective priority e: increasing PRIO, the latest launched first. -/
def State.victims (s : State) (p e : Nat) : List Nat :=
  let vs := s.regions.filter (fun x => x.2.part == p && x.2.st == .running && decide (x.2.f.prio < e) && x.2.f.save != 0)
  let key := fun (x : Nat × Region) => (x.2.f.prio, x.2.order)
  (vs.mergeSort (fun a b => decide ((key a).1 < (key b).1) || ((key a).1 == (key b).1 && decide ((key b).2 ≤ (key a).2)))).map
    Prod.fst

/-- The shortest prefix of a list of regions whose leaving makes room, if any. -/
def State.enough (s : State) (r : Region) : List Nat → List Nat → Option (List Nat)
  | gs, [] => if s.fitsAfter r gs then some gs else none
  | gs, v :: t => if s.fitsAfter r gs then some gs else s.enough r (gs ++ [v]) t

/-- Whether a context is to receive a STOP: it has a thread that runs or waits, or is the context 0 by which a core whose
threads have all halted learns of the stop; and none is on its way (R321). -/
def Core.wantsStop (c : Core) (x : Nat) : Bool :=
  ((c.ctx x).st == .runnable || (c.ctx x).st == .parked || (c.ctx x).st == .idling || (x == 0 && !c.stopped))
    && !c.cmds.any (fun q => sendCmd q.desc == 3 && sendCtx q.desc == x)

/-- The address of the save record of task t (R325). -/
def Region.saveAt (r : Region) (t : Nat) : Word := r.f.save + BitVec.ofNat 64 (t * 2 ^ 23)

/-- The STOP of context x of core n, with its image in save record k (R307, R325). -/
def State.stopCmd (s : State) (r : Region) (k n x : Nat) : Cmd where
  desc := BitVec.ofNat 64 (3 * 2 ^ 60 + x * 2 ^ 13 + n)
  core := (s.part r.part).lk
  src := 0
  twin := none
  b := r.saveAt k + BitVec.ofNat 64 (0x2000 + 2048 * x)
  root := r.root
  vahi := r.f.vahi

/-- Sends STOP to the contexts of a region's cores that want one (R321). -/
def stopCores (r : Region) : List Nat → Nat → State → State
  | [], _, s => s
  | n :: l, k, s =>
    let xs := (List.range (s.core n).n).filter (s.core n).wantsStop
    stopCores r l (k + 1) (s.modCore n (fun c => { c with cmds := c.cmds ++ xs.map (s.stopCmd r k n) }))

/-- Whether some context of a region still wants a STOP. -/
def State.unstopped (s : State) (g : Nat) : Bool :=
  match Tab.find s.regions g with
  | some r => r.allCores.any (fun n => (List.range (s.core n).n).any (s.core n).wantsStop)
  | none => false

def stopRegions : List Nat → State → State
  | [], s => s
  | g :: t, s =>
    match Tab.find s.regions g with
    | some r => stopRegions t (stopCores r r.allCores 0 s)
    | none => stopRegions t s

/-- Pre-empts running regions for the first one (R184); none where no set of them makes room. -/
def State.preemptFor (s : State) (p : Nat) (r : Region) : Out :=
  let under := (s.regions.filter (fun x => x.2.part == p && x.2.st == .running && s.stopping x.2)).map Prod.fst
  let e := effPrio r.rank r.waited (s.part p).age
  let more := (s.victims p e).filter (fun g => !under.contains g)
  match s.enough r under more with
  | none => notNow
  | some gs => whenEnabled (gs.any s.unstopped) (stopRegions gs s)

/-- REGION_PLACE (R184, R186, R189): the first region is placed, or running regions are stopped for it. -/
def execRegionPlace (p : Nat) (s : State) : Out :=
  match (s.part p).first with
  | none => notNow
  | some g =>
    match Tab.find s.regions g with
    | none => notNow
    | some r =>
      if r.st = .waiting ∧ s.fitsBudget r Fields.cores coreClaim r.coreClaim then
        match placeRegion r.f (s.coreFree p) with
        | some (cs, ds) => .next (((s.placeOn g r cs ds).modPart p (fun v => { v with first := none })).select p)
        | none => s.preemptFor p r
      else if r.allCores.all (s.coreFree p) && r.st == .preempted then notNow
      else s.preemptFor p r

/-! ### The end of a part and of a region (R188, R249, R263) -/

/-- Drops the input bindings of a core and closes its output bindings (R263). -/
def endBindings (n : Nat) : List Nat → State → State
  | [], s => s
  | i :: t, s => endBindings n t (s.endBinding n i)

/-- A core's part of its region ends: bindings end, barrier units unbind, LIVE falls (R188, R195, R263). -/
def State.endPart (s : State) (n : Nat) : State :=
  let s := endBindings n (List.range 8) s
  let s := s.modCore n (fun c => { c with ended := true, units := [] })
  match s.regionOf n with
  | some r => s.showRegion r .running
  | none => s

/-- Whether a store of a core's threads awaits its acknowledgement; a contribution waits for its set (R249). -/
def State.storesPending (s : State) (n : Nat) : Bool :=
  s.reqs.any (fun r => r.core == n && r.kind.isWrite && !s.joined r.id) || (s.core n).ctxs.any (fun e => !e.2.unacked.isEmpty)

/-- CORE_PART_END (R188). -/
def execCorePartEnd (c : Nat) (s : State) : Out :=
  let k := s.core c
  whenEnabled (k.region != 0 && !k.ended && (k.ctx 0).st == .idling && !(k.ctx 0).wake && !k.sealed && !k.stopped
      && k.ctxs.all (fun e => e.1 == 0 || e.2.st == .free) && !s.storesPending c)
    (s.endPart c)

/-- How many of the routers' choices a set takes: one less than the values of each RED.FADD sum. -/
def RedSet.choices (q : RedSet) : Nat :=
  ((q.contribs.map Contribution.pa).dedup.map (fun pa => (q.contribs.filter (fun c => c.pa == pa && c.fn == 1)).length - 1)).sum

/-- Completes the incomplete sets of a region with what they hold (R249), in an order of the routers' choice (R66). -/
def mergeSets : List RedSet → Picks → State → State
  | [], _, s => s
  | q :: t, order, s => mergeSets t (order.drop q.choices) (s.mergeSet q order)

/-- REGION_COMPLETE (R188): with code 3 where a KILL ended the part of a core (R307). -/
def execRegionComplete (e : RegionEnd) (s : State) : Out :=
  let g := e.region
  match Tab.find s.regions g with
  | none => notNow
  | some r =>
    let done := r.allCores.all (fun n => (s.core n).ended) && s.ops.all (fun o => o.region != g + 1)
    if r.st = .running ∧ done then
      let killed := r.allCores.any (fun n => (s.thread n 0).st == .killed)
      let mine := s.redsets.filter (fun q => q.region == g + 1)
      let s := mergeSets mine e.order { s with redsets := s.redsets.filter (fun q => q.region != g + 1) }
      let s := s.showRegion r (if killed then .killed else .complete)
      let s := (s.releaseRegion g r).reportRegion r (if killed then 3 else 0) 0
      .next (s.select r.part)
    else notNow

/-- PACKET_COMPLETION (R185): the oldest packet that has its code. -/
def execPacketCompletion (p : Nat) (s : State) : Out :=
  match (s.part p).packets.find? (fun k => k.code.isSome) with
  | none => notNow
  | some k => .next ((s.completePacket p k).select p)

end Sys2Proof.Machine
end

