-- ==== Sys2Proof/WellFormed.lean ====
section
/-! DEFINITION. Which instructions of Syntax.lean have an instruction word (R74, R75, R133, R137, R241, R293). An
event row has no word and no check of its own: whether its event can happen is a matter of the state. -/

namespace Sys2Proof

/-- The checks of R86 order 2 that the syntax does not already enforce. -/
def Instr.wf : Instr → Bool
  | .vadd _ _ _ _ t _ f | .vsub _ _ _ _ t _ f => VvOp.addSub.ok f t
  | .vmul _ _ _ _ t _ f => VvOp.mul.ok f t
  | .vfma _ _ _ _ _ t _ f => VvOp.fma.ok f t
  | .vmin _ _ _ _ t _ f | .vmax _ _ _ _ t _ f => VvOp.minMax.ok f t
  | .vlogic _ _ _ _ t _ f => VvOp.logic.ok f t
  | .vshift _ _ _ _ t _ f => VvOp.shift.ok f t
  | .vcmp _ _ _ _ t _ f => VvOp.cmp.ok f t
  | .vcvt _ _ _ src dst _ p => cvtOk src dst p
  | .vunary _ _ _ _ t _ f => VvOp.unary.ok f t
  | .vred _ _ _ _ t _ f | .vscan _ _ _ _ t _ f => VvOp.redScan.ok f t
  | .scopew _ _ sc => decide (4 ≤ sc.toNat)
  | .mread _ _ _ t _ => mreadOk t
  | _ => true

end Sys2Proof
end

