-- ==== Sys2Proof/Decode.lean ====
section
/-! DEFINITION. From instruction words to instructions and back (R68 to R75, R86 orders 1 to 3). `decode` is total;
every word that holds no instruction is rejected with the reason. `encode` is written from the same tables. -/

namespace Sys2Proof

/-- Why a word holds no instruction. Each gives the illegal-instruction fault. -/
inductive Reject where
  /-- OP 0x00 or 0x7F (R86 order 1). -/
  | reservedOp
  /-- An unassigned function code (R74). -/
  | function
  /-- A T, F or field value that R75, R133, R137, R145, R290 or R293 excludes. -/
  | field
  /-- A non-zero unused field (R72). -/
  | unused
  /-- An EXT word with S set (R79). -/
  | extMarked
deriving DecidableEq, Repr

/-! ### Fields of the low 24 bits (R69) -/

/-- Bits lo+n−1 to lo of the format fields. -/
def bits (l : BitVec 24) (lo n : Nat) : BitVec n := l.extractLsb' lo n
/-- One bit. -/
def flag (l : BitVec 24) (i : Nat) : Bool := l.getLsbD i
/-- Bits 23:16. -/
def fD (l : BitVec 24) : BitVec 8 := bits l 16 8
/-- Bits 15:8. -/
def fA (l : BitVec 24) : BitVec 8 := bits l 8 8
/-- Bits 7:0. -/
def fB (l : BitVec 24) : BitVec 8 := bits l 0 8
/-- Bits 15:0. -/
def f16 (l : BitVec 24) : BitVec 16 := bits l 0 16
/-- VV and VX bits 23:20. -/
def vD (l : BitVec 24) : BitVec 4 := bits l 20 4
/-- VV bits 19:16. -/
def vA (l : BitVec 24) : BitVec 4 := bits l 16 4
/-- VV bits 15:12. -/
def vB (l : BitVec 24) : BitVec 4 := bits l 12 4
/-- VV bits 11:8. -/
def vC (l : BitVec 24) : BitVec 4 := bits l 8 4
/-- VV bits 7:5. -/
def vT (l : BitVec 24) : BitVec 3 := bits l 5 3
/-- VV bits 4:3. -/
def vM (l : BitVec 24) : MaskSel := MaskSel.ofCode (bits l 3 2)
/-- VX bits 19:12. -/
def xA (l : BitVec 24) : BitVec 8 := bits l 12 8
/-- VX bits 11:4. -/
def xM (l : BitVec 24) : BitVec 8 := bits l 4 8

/-- The instruction, when the unused bits `z` are zero (R72). -/
def whenZero {n : Nat} (z : BitVec n) (i : Instr) : Except Reject Instr :=
  if z = 0 then .ok i else .error .unused

/-- A VV word whose F and T the entry of `o` defines (R75, R132). -/
def vvForm (o : VvOp) (l : BitVec 24) (k : ElemType → MaskSel → BitVec 3 → Except Reject Instr) : Except Reject Instr :=
  match ElemType.ofCode (vT l) with
  | none => .error .field
  | some t => if o.ok (bits l 0 3) t then k t (vM l) (bits l 0 3) else .error .field

/-- A VX word; T = 111 is reserved (R75). -/
def vxForm (l : BitVec 24) (k : ElemType → Except Reject Instr) : Except Reject Instr :=
  match ElemType.ofCode (bits l 1 3) with
  | none => .error .field
  | some t => k t

/-- Mask selectors of a three-operand mask function (R145). -/
def selectors (z d a b : BitVec 4) (k : MaskReg → MaskReg → MaskReg → Instr) : Except Reject Instr :=
  match MaskReg.ofCode d, MaskReg.ofCode a, MaskReg.ofCode b with
  | some md, some ma, some mb => if z = 0 then .ok (k md ma mb) else .error .field
  | _, _, _ => .error .field

/-- Mask selectors of MNOT, with its zero bits (R145). -/
def selector2 (z d a y : BitVec 4) (k : MaskReg → MaskReg → Instr) : Except Reject Instr :=
  match MaskReg.ofCode d, MaskReg.ofCode a with
  | some md, some ma => if z = 0 ∧ y = 0 then .ok (k md ma) else .error .field
  | _, _ => .error .field

/-- One mask selector, with the zero bits beside it (R145). -/
def selector1 (m z : BitVec 4) (k : MaskReg → Instr) : Except Reject Instr :=
  match MaskReg.ofCode m with
  | some ma => if z = 0 then .ok (k ma) else .error .field
  | none => .error .field

/-! ### Packing -/

/-- An instruction word from S, OP and the low 24 bits (R68). -/
def word (sw : Bool) (op : BitVec 7) (l : BitVec 24) : IWord := BitVec.ofBool sw ++ op ++ l
/-- Formats A3, A2F, IM8 and BR (R69). -/
def a3 (d a b : BitVec 8) : BitVec 24 := d ++ a ++ b
/-- Formats IM16 and BX. -/
def im16 (d : BitVec 8) (i : BitVec 16) : BitVec 24 := d ++ i
/-- Format VV. -/
def vv (vd va vb vc : BitVec 4) (t : BitVec 3) (m : BitVec 2) (f : BitVec 3) : BitVec 24 :=
  vd ++ va ++ vb ++ vc ++ t ++ m ++ f
/-- Format VX. -/
def vx (v : BitVec 4) (xa mid : BitVec 8) (t : BitVec 3) (k : Bool) : BitVec 24 :=
  v ++ xa ++ mid ++ t ++ BitVec.ofBool k
/-- Formats AT and RD. -/
def at_ (d a : BitVec 8) (fn : BitVec 3) (sc : BitVec 4) (o : Bool) : BitVec 24 :=
  d ++ a ++ fn ++ sc ++ BitVec.ofBool o
/-- MMA and MMAS (R290). -/
def mx (acc : BitVec 2) (z : Bool) (sn : BitVec 3) (t : BitVec 4) (mid : BitVec 6) (b : BitVec 8) : BitVec 24 :=
  acc ++ BitVec.ofBool z ++ sn ++ t ++ mid ++ b

/-- Group 0x21 (R74, R104). -/
def decodeIntUnary (sw : Bool) (l : BitVec 24) : Except Reject Instr :=
  match (fB l).toNat with
  | 0 => .ok (.clz sw (fD l) (fA l))
  | 1 => .ok (.ctz sw (fD l) (fA l))
  | 2 => .ok (.popc sw (fD l) (fA l))
  | 3 => .ok (.sextB sw (fD l) (fA l))
  | 4 => .ok (.sextH sw (fD l) (fA l))
  | 5 => .ok (.sextW sw (fD l) (fA l))
  | 6 => .ok (.zextB sw (fD l) (fA l))
  | 7 => .ok (.zextH sw (fD l) (fA l))
  | 8 => .ok (.zextW sw (fD l) (fA l))
  | 9 => .ok (.bswap sw (fD l) (fA l))
  | 10 => .ok (.mov sw (fD l) (fA l))
  | _ => .error .function

/-- Group 0x2C (R74, R107). -/
def decodeFpUnary (sw : Bool) (l : BitVec 24) : Except Reject Instr :=
  match (fB l).toNat with
  | 0 => .ok (.fsqrtD sw (fD l) (fA l))
  | 1 => .ok (.fsqrtS sw (fD l) (fA l))
  | 2 => .ok (.fabsD sw (fD l) (fA l))
  | 3 => .ok (.fnegD sw (fD l) (fA l))
  | 4 => .ok (.fclassD sw (fD l) (fA l))
  | 5 => .ok (.fcvtDS sw (fD l) (fA l))
  | 6 => .ok (.fcvtSD sw (fD l) (fA l))
  | 7 => .ok (.fcvtDL sw (fD l) (fA l))
  | 8 => .ok (.fcvtLD sw (fD l) (fA l))
  | 9 => .ok (.fcvtSH sw (fD l) (fA l))
  | 10 => .ok (.fcvtHS sw (fD l) (fA l))
  | 11 => .ok (.fcvtSBf sw (fD l) (fA l))
  | 12 => .ok (.fcvtBfS sw (fD l) (fA l))
  | _ => .error .function

/-- Group 0x37 (R74, R114). -/
def decodeControl (sw : Bool) (l : BitVec 24) : Except Reject Instr :=
  match (fB l).toNat with
  | 0 => whenZero (fD l) (.jr sw (fA l))
  | 1 => whenZero (fD l) (.callr sw (fA l))
  | 2 => whenZero (fD l ||| fA l) (.ret sw)
  | _ => .error .function

/-- Group 0x5D (R74, R145). -/
def decodeMask (sw : Bool) (l : BitVec 24) : Except Reject Instr :=
  match (fB l).toNat with
  | 0 => selectors (bits l 20 4) (bits l 16 4) (bits l 12 4) (bits l 8 4) fun md ma mb => .mand sw md ma mb
  | 1 => selectors (bits l 20 4) (bits l 16 4) (bits l 12 4) (bits l 8 4) fun md ma mb => .mor sw md ma mb
  | 2 => selectors (bits l 20 4) (bits l 16 4) (bits l 12 4) (bits l 8 4) fun md ma mb => .mxor sw md ma mb
  | 3 => selectors (bits l 20 4) (bits l 16 4) (bits l 12 4) (bits l 8 4) fun md ma mb => .mandn sw md ma mb
  | 4 => selector2 (bits l 20 4) (bits l 16 4) (bits l 12 4) (bits l 8 4) fun md ma => .mnot sw md ma
  | 5 => selector1 (bits l 12 4) (bits l 8 4) fun ma => .mpopc sw (fD l) ma
  | 6 => selector1 (bits l 12 4) (bits l 8 4) fun ma => .mfirst sw (fD l) ma
  | 7 => selector1 (bits l 16 4) (bits l 20 4) fun md => .mset sw md (fA l)
  | 8 => selector1 (bits l 12 4) (bits l 8 4) fun ma => .mget sw (fD l) ma
  | _ => .error .function

/-- Group 0x69 (R74, R246). -/
def decodeAmo (sw : Bool) (l : BitVec 24) : Except Reject Instr :=
  match (bits l 5 3).toNat with
  | 0 => .ok (.amoAdd sw (fD l) (fA l) (bits l 1 4) (flag l 0))
  | 1 => .ok (.amoMin sw (fD l) (fA l) (bits l 1 4) (flag l 0))
  | 2 => .ok (.amoMax sw (fD l) (fA l) (bits l 1 4) (flag l 0))
  | 3 => .ok (.amoMinu sw (fD l) (fA l) (bits l 1 4) (flag l 0))
  | 4 => .ok (.amoMaxu sw (fD l) (fA l) (bits l 1 4) (flag l 0))
  | 5 => .ok (.amoAnd sw (fD l) (fA l) (bits l 1 4) (flag l 0))
  | 6 => .ok (.amoOr sw (fD l) (fA l) (bits l 1 4) (flag l 0))
  | 7 => .ok (.amoXchg sw (fD l) (fA l) (bits l 1 4) (flag l 0))
  | _ => .error .function

/-- Group 0x6B (R74, R248). -/
def decodeRed (sw : Bool) (l : BitVec 24) : Except Reject Instr :=
  match (bits l 5 3).toNat with
  | 0 => .ok (.redFaddOrd sw (fD l) (fA l) (bits l 1 4) (flag l 0))
  | 1 => .ok (.redFaddFast sw (fD l) (fA l) (bits l 1 4) (flag l 0))
  | 2 => .ok (.redIadd sw (fD l) (fA l) (bits l 1 4) (flag l 0))
  | 3 => .ok (.redMin sw (fD l) (fA l) (bits l 1 4) (flag l 0))
  | 4 => .ok (.redMax sw (fD l) (fA l) (bits l 1 4) (flag l 0))
  | _ => .error .function

/-- Group 0x6D (R74, R225). -/
def decodeLineOp (sw : Bool) (l : BitVec 24) : Except Reject Instr :=
  match (bits l 5 3).toNat with
  | 0 => whenZero (bits l 0 1) (.clean sw (fD l) (fA l) (bits l 1 4))
  | 1 => whenZero (bits l 0 1) (.inval sw (fD l) (fA l) (bits l 1 4))
  | 2 => whenZero (bits l 0 1) (.discard sw (fD l) (fA l) (bits l 1 4))
  | 3 => whenZero (bits l 0 1) (.zero sw (fD l) (fA l) (bits l 1 4))
  | _ => .error .function

/-- Group 0x7C (R74, R120). -/
def decodeSystem (sw : Bool) (l : BitVec 24) : Except Reject Instr :=
  match (fB l).toNat with
  | 0 => whenZero (fD l ||| fA l) (.nop sw)
  | 1 => whenZero (fD l ||| fA l) (.brk sw)
  | 2 => whenZero (fD l) (.trap sw (fA l))
  | 3 => whenZero (fD l ||| fA l) (.idle sw)
  | 4 => .ok (.rdctl sw (fD l) (fA l))
  | 5 => .ok (.wrctl sw (fD l) (fA l))
  | _ => .error .function

/-- The instruction of S, OP and the low 24 bits (R68 to R75). -/
def decodeOp (sw : Bool) (op : Nat) (l : BitVec 24) : Except Reject Instr :=
  match op with
  | 0x01 => .ok (.add sw (fD l) (fA l) (fB l))
  | 0x02 => .ok (.sub sw (fD l) (fA l) (fB l))
  | 0x03 => .ok (.mul sw (fD l) (fA l) (fB l))
  | 0x04 => .ok (.mulh sw (fD l) (fA l) (fB l))
  | 0x05 => .ok (.mulhu sw (fD l) (fA l) (fB l))
  | 0x06 => .ok (.div sw (fD l) (fA l) (fB l))
  | 0x07 => .ok (.divu sw (fD l) (fA l) (fB l))
  | 0x08 => .ok (.rem sw (fD l) (fA l) (fB l))
  | 0x09 => .ok (.remu sw (fD l) (fA l) (fB l))
  | 0x0A => .ok (.and sw (fD l) (fA l) (fB l))
  | 0x0B => .ok (.or sw (fD l) (fA l) (fB l))
  | 0x0C => .ok (.xor sw (fD l) (fA l) (fB l))
  | 0x0D => .ok (.andn sw (fD l) (fA l) (fB l))
  | 0x0E => .ok (.shl sw (fD l) (fA l) (fB l))
  | 0x0F => .ok (.shr sw (fD l) (fA l) (fB l))
  | 0x10 => .ok (.shra sw (fD l) (fA l) (fB l))
  | 0x11 => .ok (.min sw (fD l) (fA l) (fB l))
  | 0x12 => .ok (.max sw (fD l) (fA l) (fB l))
  | 0x13 => .ok (.minu sw (fD l) (fA l) (fB l))
  | 0x14 => .ok (.maxu sw (fD l) (fA l) (fB l))
  | 0x15 => .ok (.seteq sw (fD l) (fA l) (fB l))
  | 0x16 => .ok (.setlt sw (fD l) (fA l) (fB l))
  | 0x17 => .ok (.setltu sw (fD l) (fA l) (fB l))
  | 0x18 => .ok (.sel sw (fD l) (fA l) (fB l))
  | 0x19 => .ok (.addi sw (fD l) (fA l) (fB l))
  | 0x1A => .ok (.andi sw (fD l) (fA l) (fB l))
  | 0x1B => .ok (.ori sw (fD l) (fA l) (fB l))
  | 0x1C => .ok (.xori sw (fD l) (fA l) (fB l))
  | 0x1D => .ok (.shli sw (fD l) (fA l) (fB l))
  | 0x1E => .ok (.shri sw (fD l) (fA l) (fB l))
  | 0x1F => .ok (.shrai sw (fD l) (fA l) (fB l))
  | 0x20 => .ok (.movi sw (fD l) (f16 l))
  | 0x21 => decodeIntUnary sw l
  | 0x22 => .ok (.faddD sw (fD l) (fA l) (fB l))
  | 0x23 => .ok (.faddS sw (fD l) (fA l) (fB l))
  | 0x24 => .ok (.fsubD sw (fD l) (fA l) (fB l))
  | 0x25 => .ok (.fmulD sw (fD l) (fA l) (fB l))
  | 0x26 => .ok (.fmulS sw (fD l) (fA l) (fB l))
  | 0x27 => .ok (.fdivD sw (fD l) (fA l) (fB l))
  | 0x28 => .ok (.ffmaD sw (fD l) (fA l) (fB l))
  | 0x29 => .ok (.ffmaS sw (fD l) (fA l) (fB l))
  | 0x2A => .ok (.fcmpeqD sw (fD l) (fA l) (fB l))
  | 0x2B => .ok (.fcmpltD sw (fD l) (fA l) (fB l))
  | 0x2C => decodeFpUnary sw l
  | 0x2D => .ok (.beq sw (fD l) (fA l) (fB l))
  | 0x2E => .ok (.bne sw (fD l) (fA l) (fB l))
  | 0x2F => .ok (.blt sw (fD l) (fA l) (fB l))
  | 0x30 => .ok (.bge sw (fD l) (fA l) (fB l))
  | 0x31 => .ok (.bltu sw (fD l) (fA l) (fB l))
  | 0x32 => .ok (.bgeu sw (fD l) (fA l) (fB l))
  | 0x33 => whenZero (bits l 22 1) (.bmb sw (flag l 23) (bits l 16 6) (f16 l))
  | 0x34 => .ok (.bcr sw (flag l 23) (bits l 16 7) (f16 l))
  | 0x35 => .ok (.jmp sw l)
  | 0x36 => .ok (.call sw l)
  | 0x37 => decodeControl sw l
  | 0x38 => .ok (.loop sw (fD l) (f16 l))
  | 0x39 => .ok (.ldB sw (fD l) (fA l) (fB l))
  | 0x3A => .ok (.ldH sw (fD l) (fA l) (fB l))
  | 0x3B => .ok (.ldW sw (fD l) (fA l) (fB l))
  | 0x3C => .ok (.ldD sw (fD l) (fA l) (fB l))
  | 0x3D => .ok (.lduB sw (fD l) (fA l) (fB l))
  | 0x3E => .ok (.lduH sw (fD l) (fA l) (fB l))
  | 0x3F => .ok (.lduW sw (fD l) (fA l) (fB l))
  | 0x40 => .ok (.stB sw (fD l) (fA l) (fB l))
  | 0x41 => .ok (.stH sw (fD l) (fA l) (fB l))
  | 0x42 => .ok (.stW sw (fD l) (fA l) (fB l))
  | 0x43 => .ok (.stD sw (fD l) (fA l) (fB l))
  | 0x44 => whenZero (fD l) (.pref sw (fA l) (fB l))
  | 0x45 => vvForm .addSub l fun t m f => whenZero (vC l) (.vadd sw (vD l) (vA l) (vB l) t m f)
  | 0x46 => vvForm .addSub l fun t m f => whenZero (vC l) (.vsub sw (vD l) (vA l) (vB l) t m f)
  | 0x47 => vvForm .mul l fun t m f => whenZero (vC l) (.vmul sw (vD l) (vA l) (vB l) t m f)
  | 0x48 => vvForm .fma l fun t m f => .ok (.vfma sw (vD l) (vA l) (vB l) (vC l) t m f)
  | 0x49 => vvForm .minMax l fun t m f => whenZero (vC l) (.vmin sw (vD l) (vA l) (vB l) t m f)
  | 0x4A => vvForm .minMax l fun t m f => whenZero (vC l) (.vmax sw (vD l) (vA l) (vB l) t m f)
  | 0x4B => vvForm .logic l fun t m f => whenZero (vC l) (.vlogic sw (vD l) (vA l) (vB l) t m f)
  | 0x4C => vvForm .shift l fun t m f => whenZero (vC l) (.vshift sw (vD l) (vA l) (vB l) t m f)
  | 0x4D => vvForm .cmp l fun t m f =>
      match MaskReg.ofCode (vD l) with
      | none => .error .field
      | some md => whenZero (vC l) (.vcmp sw md (vA l) (vB l) t m f)
  | 0x4E => match ElemType.ofCode (vT l), bits l 0 3 with
      | some t, 0 => whenZero (vC l) (.vsel sw (vD l) (vA l) (vB l) t (vM l))
      | _, _ => .error .field
  | 0x4F => match CvtType.ofCode (vB l), CvtType.ofCode (vC l), vT l with
      | some src, some dst, 0 =>
        if cvtOk src dst (bits l 0 3) then .ok (.vcvt sw (vD l) (vA l) src dst (vM l) (bits l 0 3)) else .error .field
      | _, _, _ => .error .field
  | 0x50 => vvForm .unary l fun t m f => whenZero (vC l) (.vunary sw (vD l) (vA l) (vB l) t m f)
  | 0x51 => vvForm .redScan l fun t m f => whenZero (vC l) (.vred sw (vD l) (vA l) (vB l) t m f)
  | 0x52 => vvForm .redScan l fun t m f => whenZero (vC l) (.vscan sw (vD l) (vA l) (vB l) t m f)
  | 0x53 => vxForm l fun t => whenZero (xM l) (.vbcast sw (vD l) (xA l) t (flag l 0))
  | 0x54 => vxForm l fun t => if flag l 0 then .error .field else .ok (.vext sw (vD l) (xA l) (xM l) t)
  | 0x55 => vxForm l fun t => .ok (.vins sw (vD l) (xA l) (xM l) t (flag l 0))
  | 0x56 => match ElemType.ofCode (vT l), bits l 0 3 with
      | some t, 0 => .ok (.vperm sw (vD l) (vA l) (vB l) (vC l) t (vM l))
      | _, _ => .error .field
  | 0x57 => vxForm l fun t => .ok (.vld sw (vD l) (xA l) (xM l) t (flag l 0))
  | 0x58 => vxForm l fun t => .ok (.vst sw (vD l) (xA l) (xM l) t (flag l 0))
  | 0x59 => vxForm l fun t => .ok (.vlds sw (vD l) (xA l) (xM l) t (flag l 0))
  | 0x5A => vxForm l fun t => .ok (.vsts sw (vD l) (xA l) (xM l) t (flag l 0))
  | 0x5B => vxForm l fun t => whenZero (bits l 4 4) (.vgath sw (vD l) (xA l) (bits l 8 4) t (flag l 0))
  | 0x5C => vxForm l fun t => whenZero (bits l 4 4) (.vscat sw (vD l) (xA l) (bits l 8 4) t (flag l 0))
  | 0x5D => decodeMask sw l
  | 0x5E => .ok (.spawn sw (fD l) (fA l) (fB l))
  | 0x5F => whenZero (fB l) (.reap sw (fD l) (fA l))
  | 0x60 => whenZero (fB l) (.repart sw (fD l) (fA l))
  | 0x61 => whenZero (fD l) (.send sw (fA l) (fB l))
  | 0x62 => whenZero l (.waitm sw)
  | 0x63 => whenZero (f16 l) (.recvm sw (fD l))
  | 0x64 => whenZero (f16 l) (.clrf sw (fD l))
  | 0x65 => whenZero (fD l ||| fB l) (.migrate sw (fA l))
  | 0x66 => whenZero (fD l) (.trigger sw (fA l) (fB l))
  | 0x67 => whenZero (fB l) (.bar sw (fD l) (fA l))
  | 0x68 => match FenceKind.ofCode (bits l 5 3) with
      | none => .error .field
      | some k => whenZero ((fD l ++ fA l) ++ bits l 0 1) (.fence sw k (bits l 1 4))
  | 0x69 => decodeAmo sw l
  | 0x6A => .ok (.cas sw (fD l) (fA l) (bits l 4 4) (bits l 0 4))
  | 0x6B => decodeRed sw l
  | 0x6C => if (bits l 1 4).toNat < 4 then .error .field
      else whenZero ((fD l ++ bits l 5 3) ++ bits l 0 1) (.scopew sw (fA l) (bits l 1 4))
  | 0x6D => decodeLineOp sw l
  | 0x6E => whenZero (fB l) (.reserve sw (fD l) (fA l))
  | 0x6F => .ok (.bankmode sw (fD l) (fA l) (fB l))
  | 0x70 => whenZero (fD l) (.copy sw (fA l) (fB l))
  | 0x71 => whenZero (fB l) (.sbind sw (fD l) (fA l))
  | 0x72 => whenZero (fD l) (.bufinit sw (fA l) (fB l))
  | 0x73 => whenZero (fB l) (.bufacq sw (fD l) (fA l))
  | 0x74 => whenZero (fD l) (.bufrel sw (fA l) (fB l))
  | 0x75 => .ok (.qpush sw (fD l) (fA l) (fB l))
  | 0x76 => whenZero (fB l) (.qpop sw (fD l) (fA l))
  | 0x77 => .ok (.qsteal sw (fD l) (fA l) (fB l))
  | 0x78 => whenZero (fB l) (.mloadb sw (fD l) (fA l))
  | 0x79 => match MatType.ofCode (bits l 14 4) with
      | none => .error .field
      | some t => whenZero (bits l 8 6) (.mma sw (bits l 22 2) (flag l 21) (bits l 18 3) t (fB l))
  | 0x7A => match MatType.ofCode (bits l 14 4) with
      | none => .error .field
      | some t => whenZero (bits l 8 3) (.mmas sw (bits l 22 2) (flag l 21) (bits l 18 3) (bits l 11 3) t (fB l))
  | 0x7B => match CvtType.ofCode (bits l 14 4) with
      | none => .error .field
      | some t =>
        if mreadOk t then whenZero (bits l 8 6) (.mread sw (vD l) (bits l 18 2) t (fB l)) else .error .field
  | 0x7C => decodeSystem sw l
  | 0x7D => whenZero (bits l 0 2) (.rep sw (vD l) (bits l 14 6) (bits l 10 4) (bits l 6 4) (bits l 2 4))
  | 0x7E => if sw then .error .extMarked else .ok (.ext l)
  | _ => .error .reservedOp

/-- The instruction an instruction word holds (R68 to R75), or why it holds none (R86 orders 1 to 3). -/
def decode (w : IWord) : Except Reject Instr :=
  decodeOp (w.getLsbD 31) (w.extractLsb' 24 7).toNat (w.extractLsb' 0 24)

/-- The word of an instruction, none for an event row (R68 to R74). -/
def encode : Instr → Option IWord
  | .add sw d a b => some (word sw 0x01 (a3 d a b))
  | .sub sw d a b => some (word sw 0x02 (a3 d a b))
  | .mul sw d a b => some (word sw 0x03 (a3 d a b))
  | .mulh sw d a b => some (word sw 0x04 (a3 d a b))
  | .mulhu sw d a b => some (word sw 0x05 (a3 d a b))
  | .div sw d a b => some (word sw 0x06 (a3 d a b))
  | .divu sw d a b => some (word sw 0x07 (a3 d a b))
  | .rem sw d a b => some (word sw 0x08 (a3 d a b))
  | .remu sw d a b => some (word sw 0x09 (a3 d a b))
  | .and sw d a b => some (word sw 0x0A (a3 d a b))
  | .or sw d a b => some (word sw 0x0B (a3 d a b))
  | .xor sw d a b => some (word sw 0x0C (a3 d a b))
  | .andn sw d a b => some (word sw 0x0D (a3 d a b))
  | .shl sw d a b => some (word sw 0x0E (a3 d a b))
  | .shr sw d a b => some (word sw 0x0F (a3 d a b))
  | .shra sw d a b => some (word sw 0x10 (a3 d a b))
  | .min sw d a b => some (word sw 0x11 (a3 d a b))
  | .max sw d a b => some (word sw 0x12 (a3 d a b))
  | .minu sw d a b => some (word sw 0x13 (a3 d a b))
  | .maxu sw d a b => some (word sw 0x14 (a3 d a b))
  | .seteq sw d a b => some (word sw 0x15 (a3 d a b))
  | .setlt sw d a b => some (word sw 0x16 (a3 d a b))
  | .setltu sw d a b => some (word sw 0x17 (a3 d a b))
  | .sel sw d a b => some (word sw 0x18 (a3 d a b))
  | .addi sw d a i => some (word sw 0x19 (a3 d a i))
  | .andi sw d a i => some (word sw 0x1A (a3 d a i))
  | .ori sw d a i => some (word sw 0x1B (a3 d a i))
  | .xori sw d a i => some (word sw 0x1C (a3 d a i))
  | .shli sw d a i => some (word sw 0x1D (a3 d a i))
  | .shri sw d a i => some (word sw 0x1E (a3 d a i))
  | .shrai sw d a i => some (word sw 0x1F (a3 d a i))
  | .movi sw d i => some (word sw 0x20 (im16 d i))
  | .clz sw d a => some (word sw 0x21 (a3 d a 0x00))
  | .ctz sw d a => some (word sw 0x21 (a3 d a 0x01))
  | .popc sw d a => some (word sw 0x21 (a3 d a 0x02))
  | .sextB sw d a => some (word sw 0x21 (a3 d a 0x03))
  | .sextH sw d a => some (word sw 0x21 (a3 d a 0x04))
  | .sextW sw d a => some (word sw 0x21 (a3 d a 0x05))
  | .zextB sw d a => some (word sw 0x21 (a3 d a 0x06))
  | .zextH sw d a => some (word sw 0x21 (a3 d a 0x07))
  | .zextW sw d a => some (word sw 0x21 (a3 d a 0x08))
  | .bswap sw d a => some (word sw 0x21 (a3 d a 0x09))
  | .mov sw d a => some (word sw 0x21 (a3 d a 0x0A))
  | .faddD sw d a b => some (word sw 0x22 (a3 d a b))
  | .faddS sw d a b => some (word sw 0x23 (a3 d a b))
  | .fsubD sw d a b => some (word sw 0x24 (a3 d a b))
  | .fmulD sw d a b => some (word sw 0x25 (a3 d a b))
  | .fmulS sw d a b => some (word sw 0x26 (a3 d a b))
  | .fdivD sw d a b => some (word sw 0x27 (a3 d a b))
  | .ffmaD sw d a b => some (word sw 0x28 (a3 d a b))
  | .ffmaS sw d a b => some (word sw 0x29 (a3 d a b))
  | .fcmpeqD sw d a b => some (word sw 0x2A (a3 d a b))
  | .fcmpltD sw d a b => some (word sw 0x2B (a3 d a b))
  | .fsqrtD sw d a => some (word sw 0x2C (a3 d a 0x00))
  | .fsqrtS sw d a => some (word sw 0x2C (a3 d a 0x01))
  | .fabsD sw d a => some (word sw 0x2C (a3 d a 0x02))
  | .fnegD sw d a => some (word sw 0x2C (a3 d a 0x03))
  | .fclassD sw d a => some (word sw 0x2C (a3 d a 0x04))
  | .fcvtDS sw d a => some (word sw 0x2C (a3 d a 0x05))
  | .fcvtSD sw d a => some (word sw 0x2C (a3 d a 0x06))
  | .fcvtDL sw d a => some (word sw 0x2C (a3 d a 0x07))
  | .fcvtLD sw d a => some (word sw 0x2C (a3 d a 0x08))
  | .fcvtSH sw d a => some (word sw 0x2C (a3 d a 0x09))
  | .fcvtHS sw d a => some (word sw 0x2C (a3 d a 0x0A))
  | .fcvtSBf sw d a => some (word sw 0x2C (a3 d a 0x0B))
  | .fcvtBfS sw d a => some (word sw 0x2C (a3 d a 0x0C))
  | .beq sw a b o => some (word sw 0x2D (a3 a b o))
  | .bne sw a b o => some (word sw 0x2E (a3 a b o))
  | .blt sw a b o => some (word sw 0x2F (a3 a b o))
  | .bge sw a b o => some (word sw 0x30 (a3 a b o))
  | .bltu sw a b o => some (word sw 0x31 (a3 a b o))
  | .bgeu sw a b o => some (word sw 0x32 (a3 a b o))
  | .bmb sw p i o => some (word sw 0x33 (im16 (BitVec.ofBool p ++ (0 : BitVec 1) ++ i) o))
  | .bcr sw p n o => some (word sw 0x34 (im16 (BitVec.ofBool p ++ n) o))
  | .jmp sw o => some (word sw 0x35 o)
  | .call sw o => some (word sw 0x36 o)
  | .jr sw a => some (word sw 0x37 (a3 0 a 0x00))
  | .callr sw a => some (word sw 0x37 (a3 0 a 0x01))
  | .ret sw => some (word sw 0x37 (a3 0 0 0x02))
  | .loop sw c o => some (word sw 0x38 (im16 c o))
  | .ldB sw d a i => some (word sw 0x39 (a3 d a i))
  | .ldH sw d a i => some (word sw 0x3A (a3 d a i))
  | .ldW sw d a i => some (word sw 0x3B (a3 d a i))
  | .ldD sw d a i => some (word sw 0x3C (a3 d a i))
  | .lduB sw d a i => some (word sw 0x3D (a3 d a i))
  | .lduH sw d a i => some (word sw 0x3E (a3 d a i))
  | .lduW sw d a i => some (word sw 0x3F (a3 d a i))
  | .stB sw d a i => some (word sw 0x40 (a3 d a i))
  | .stH sw d a i => some (word sw 0x41 (a3 d a i))
  | .stW sw d a i => some (word sw 0x42 (a3 d a i))
  | .stD sw d a i => some (word sw 0x43 (a3 d a i))
  | .pref sw a i => some (word sw 0x44 (a3 0 a i))
  | .vadd sw vd va vb t m f => some (word sw 0x45 (vv vd va vb 0 t.code m.code f))
  | .vsub sw vd va vb t m f => some (word sw 0x46 (vv vd va vb 0 t.code m.code f))
  | .vmul sw vd va vb t m f => some (word sw 0x47 (vv vd va vb 0 t.code m.code f))
  | .vmin sw vd va vb t m f => some (word sw 0x49 (vv vd va vb 0 t.code m.code f))
  | .vmax sw vd va vb t m f => some (word sw 0x4A (vv vd va vb 0 t.code m.code f))
  | .vlogic sw vd va vb t m f => some (word sw 0x4B (vv vd va vb 0 t.code m.code f))
  | .vshift sw vd va vb t m f => some (word sw 0x4C (vv vd va vb 0 t.code m.code f))
  | .vunary sw vd va vb t m f => some (word sw 0x50 (vv vd va vb 0 t.code m.code f))
  | .vred sw vd va vb t m f => some (word sw 0x51 (vv vd va vb 0 t.code m.code f))
  | .vscan sw vd va vb t m f => some (word sw 0x52 (vv vd va vb 0 t.code m.code f))
  | .vfma sw vd va vb vc t m f => some (word sw 0x48 (vv vd va vb vc t.code m.code f))
  | .vcmp sw md va vb t m f => some (word sw 0x4D (vv md.code va vb 0 t.code m.code f))
  | .vsel sw vd va vb t m => some (word sw 0x4E (vv vd va vb 0 t.code m.code 0))
  | .vcvt sw vd va src dst m p => some (word sw 0x4F (vv vd va src.code dst.code 0 m.code p))
  | .vperm sw vd va vb vc t m => some (word sw 0x56 (vv vd va vb vc t.code m.code 0))
  | .vbcast sw v xa t k => some (word sw 0x53 (vx v xa 0 t.code k))
  | .vext sw v xa lane t => some (word sw 0x54 (vx v xa lane t.code false))
  | .vins sw v xa lane t k => some (word sw 0x55 (vx v xa lane t.code k))
  | .vld sw v xa i t k => some (word sw 0x57 (vx v xa i t.code k))
  | .vst sw v xa i t k => some (word sw 0x58 (vx v xa i t.code k))
  | .vlds sw v xa i t k => some (word sw 0x59 (vx v xa i t.code k))
  | .vsts sw v xa i t k => some (word sw 0x5A (vx v xa i t.code k))
  | .vgath sw v xa vi t k => some (word sw 0x5B (vx v xa (vi ++ (0 : BitVec 4)) t.code k))
  | .vscat sw v xa vi t k => some (word sw 0x5C (vx v xa (vi ++ (0 : BitVec 4)) t.code k))
  | .mand sw md ma mb => some (word sw 0x5D (a3 ((0 : BitVec 4) ++ md.code) (ma.code ++ mb.code) 0x00))
  | .mor sw md ma mb => some (word sw 0x5D (a3 ((0 : BitVec 4) ++ md.code) (ma.code ++ mb.code) 0x01))
  | .mxor sw md ma mb => some (word sw 0x5D (a3 ((0 : BitVec 4) ++ md.code) (ma.code ++ mb.code) 0x02))
  | .mandn sw md ma mb => some (word sw 0x5D (a3 ((0 : BitVec 4) ++ md.code) (ma.code ++ mb.code) 0x03))
  | .mnot sw md ma => some (word sw 0x5D (a3 ((0 : BitVec 4) ++ md.code) (ma.code ++ (0 : BitVec 4)) 0x04))
  | .mpopc sw d ma => some (word sw 0x5D (a3 d (ma.code ++ (0 : BitVec 4)) 0x05))
  | .mfirst sw d ma => some (word sw 0x5D (a3 d (ma.code ++ (0 : BitVec 4)) 0x06))
  | .mset sw md a => some (word sw 0x5D (a3 ((0 : BitVec 4) ++ md.code) a 0x07))
  | .mget sw d ma => some (word sw 0x5D (a3 d (ma.code ++ (0 : BitVec 4)) 0x08))
  | .spawn sw d a b => some (word sw 0x5E (a3 d a b))
  | .reap sw d a => some (word sw 0x5F (a3 d a 0))
  | .repart sw d a => some (word sw 0x60 (a3 d a 0))
  | .send sw a b => some (word sw 0x61 (a3 0 a b))
  | .waitm sw => some (word sw 0x62 (a3 0 0 0))
  | .recvm sw d => some (word sw 0x63 (a3 d 0 0))
  | .clrf sw d => some (word sw 0x64 (a3 d 0 0))
  | .migrate sw a => some (word sw 0x65 (a3 0 a 0))
  | .trigger sw a b => some (word sw 0x66 (a3 0 a b))
  | .bar sw d a => some (word sw 0x67 (a3 d a 0))
  | .reserve sw d a => some (word sw 0x6E (a3 d a 0))
  | .bankmode sw d a b => some (word sw 0x6F (a3 d a b))
  | .copy sw a b => some (word sw 0x70 (a3 0 a b))
  | .sbind sw d a => some (word sw 0x71 (a3 d a 0))
  | .bufinit sw a b => some (word sw 0x72 (a3 0 a b))
  | .bufacq sw d a => some (word sw 0x73 (a3 d a 0))
  | .bufrel sw a b => some (word sw 0x74 (a3 0 a b))
  | .qpush sw d a b => some (word sw 0x75 (a3 d a b))
  | .qpop sw d a => some (word sw 0x76 (a3 d a 0))
  | .qsteal sw d a b => some (word sw 0x77 (a3 d a b))
  | .mloadb sw d a => some (word sw 0x78 (a3 d a 0))
  | .fence sw k sc => some (word sw 0x68 (at_ 0 0 k.code sc false))
  | .amoAdd sw d a sc o => some (word sw 0x69 (at_ d a 0 sc o))
  | .amoMin sw d a sc o => some (word sw 0x69 (at_ d a 1 sc o))
  | .amoMax sw d a sc o => some (word sw 0x69 (at_ d a 2 sc o))
  | .amoMinu sw d a sc o => some (word sw 0x69 (at_ d a 3 sc o))
  | .amoMaxu sw d a sc o => some (word sw 0x69 (at_ d a 4 sc o))
  | .amoAnd sw d a sc o => some (word sw 0x69 (at_ d a 5 sc o))
  | .amoOr sw d a sc o => some (word sw 0x69 (at_ d a 6 sc o))
  | .amoXchg sw d a sc o => some (word sw 0x69 (at_ d a 7 sc o))
  | .cas sw d a b sc => some (word sw 0x6A (a3 d a (b ++ sc)))
  | .redFaddOrd sw a b sc o => some (word sw 0x6B (at_ a b 0 sc o))
  | .redFaddFast sw a b sc o => some (word sw 0x6B (at_ a b 1 sc o))
  | .redIadd sw a b sc o => some (word sw 0x6B (at_ a b 2 sc o))
  | .redMin sw a b sc o => some (word sw 0x6B (at_ a b 3 sc o))
  | .redMax sw a b sc o => some (word sw 0x6B (at_ a b 4 sc o))
  | .scopew sw a sc => some (word sw 0x6C (at_ 0 a 0 sc false))
  | .clean sw d a sc => some (word sw 0x6D (at_ d a 0 sc false))
  | .inval sw d a sc => some (word sw 0x6D (at_ d a 1 sc false))
  | .discard sw d a sc => some (word sw 0x6D (at_ d a 2 sc false))
  | .zero sw d a sc => some (word sw 0x6D (at_ d a 3 sc false))
  | .mma sw acc z sn t b => some (word sw 0x79 (mx acc z sn t.code 0 b))
  | .mmas sw acc z sn sk t b => some (word sw 0x7A (mx acc z sn t.code (sk ++ (0 : BitVec 3)) b))
  | .mread sw vd acc t b => some (word sw 0x7B (vd ++ acc ++ t.code ++ (0 : BitVec 6) ++ b))
  | .nop sw => some (word sw 0x7C (a3 0 0 0x00))
  | .brk sw => some (word sw 0x7C (a3 0 0 0x01))
  | .trap sw a => some (word sw 0x7C (a3 0 a 0x02))
  | .idle sw => some (word sw 0x7C (a3 0 0 0x03))
  | .rdctl sw d ctl => some (word sw 0x7C (a3 d ctl 0x04))
  | .wrctl sw ctl a => some (word sw 0x7C (a3 ctl a 0x05))
  | .rep sw n t sd sa sb => some (word sw 0x7D (n ++ t ++ sd ++ sa ++ sb ++ (0 : BitVec 2)))
  | .ext p => some (word false 0x7E p)
  | _ => none

/-- The instruction the decoder reads from the bits of one opcode-table row: a word of 32 bits. -/
def decodeTableWord (_nbits w : Nat) : Option Instr :=
  match decode (BitVec.ofNat 32 w) with
  | .ok i => some i
  | .error _ => none

end Sys2Proof
end

