-- ==== Sys2Proof/Machine/Issue.lean ====
section
/-! DEFINITION. An issue slot of a core: what becomes visible in it, which context it chooses, what that thread fetches,
and the words of a repeat frame (R19, R36, R68, R79, R82, R83, R86, R109, R149, R154). -/

namespace Sys2Proof.Machine

/-- Writes of core-shared registers due by a slot, in issue order (R19). -/
def applyShared (cycle : Nat) : List CWrite → Tab CReg → Tab CReg
  | [], r => r
  | w :: t, r => applyShared cycle t (if w.due ≤ cycle then Tab.set r w.n ⟨w.val, w.poison⟩ else r)

/-- The slot's count, and the writes that become visible in it (R19, R36). -/
def Core.beginSlot (c : Core) : Core :=
  { c with
    cycle := c.cycle + 1
    cregs := applyShared (c.cycle + 1) c.cpend c.cregs
    cpend := c.cpend.filter (fun w => decide (c.cycle + 1 < w.due)) }

/-- Whether a context may take the slot (R149). -/
def Core.mayIssue (c : Core) (x : Nat) : Bool :=
  (c.ctx x).st == .runnable && decide ((c.ctx x).notBefore ≤ c.cycle) && !c.sealed && !c.retiring

/-- The first context in cyclic order after the one that issued most recently (R149); none for a bubble. -/
def Core.choose (c : Core) : Option Nat :=
  ((List.range c.n).map (fun k => (c.last + 1 + k) % c.n)).find? c.mayIssue

/-- Gives the slot to context x: it does not issue again before the fourth slot after this one (R149). DEDUCED (log entry
85): a slot in which it parks or faults counts. -/
def Core.grant (c : Core) (x : Nat) : Core :=
  { (c.modCtx x (fun t => { t with notBefore := c.cycle + 4 })) with last := x }

/-- Field of a REP stride, signed (R69). -/
def strideOf (frm : BitVec 24) (lo : Nat) : Int := (frm.extractLsb' lo 4).toInt

/-- Field of `n` bits at `lo` of the low 24 bits, moved by `k`; none outside its range (R82). -/
def moveField (l : BitVec 24) (lo n : Nat) (k : Int) : Option (BitVec 24) :=
  let v := l.toNat / 2 ^ lo % 2 ^ n
  let z := (v : Int) + k
  if z < 0 ∨ (2 ^ n : Nat) ≤ z then none
  else some (BitVec.ofNat 24 (l.toNat % 2 ^ lo + z.toNat * 2 ^ lo + l.toNat / 2 ^ (lo + n) * 2 ^ (lo + n)))

/-- The register fields the strides sd, sa and sb move, by OP (R82): position and width. -/
def strideFields (op : Nat) : List (Nat × Nat) :=
  if op = 0x20 then [(16, 8)]
  else if op = 0x21 ∨ op = 0x2C ∨ op = 0x5D ∨ (0x19 ≤ op ∧ op ≤ 0x1F) then [(16, 8), (8, 8)]
  else if (0x45 ≤ op ∧ op ≤ 0x52) ∨ op = 0x56 then [(20, 4), (16, 4), (12, 4)]
  else if 0x53 ≤ op ∧ op ≤ 0x55 then [(20, 4), (12, 8)]
  else [(16, 8), (8, 8), (0, 8)]

/-- Moves the fields one after another. -/
def moveFields (l : BitVec 24) : List ((Nat × Nat) × Int) → Option (BitVec 24)
  | [] => some l
  | ((lo, n), k) :: t =>
    match moveField l lo n k with
    | some l' => moveFields l' t
    | none => none

/-- A captured word on replay J (R82); none when a field leaves its range. -/
def adjustWord (w : IWord) (frm : BitVec 24) (j : BitVec 6) : Option IWord :=
  let ks := [strideOf frm 10, strideOf frm 6, strideOf frm 2].map (fun k => k * (j.toNat : Int))
  match moveFields (w.extractLsb' 0 24) ((strideFields (w.extractLsb' 24 7).toNat).zip ks) with
  | some l => some (word (w.getLsbD 31) (w.extractLsb' 24 7) l)
  | none => none

/-- Whether an OP may be captured by a frame (R81). -/
def arithmeticOp (op : Nat) : Bool :=
  (decide (1 ≤ op) && decide (op ≤ 0x2C)) || (decide (0x45 ≤ op) && decide (op ≤ 0x56)) || op == 0x5D

/-- Moves the fields one after another; one that leaves its range becomes zero. -/
def moveOrZero (l : BitVec 24) : List ((Nat × Nat) × Int) → BitVec 24
  | [] => l
  | ((lo, n), k) :: t =>
    match moveField l lo n k with
    | some l' => moveOrZero l' t
    | none => moveOrZero (l &&& ~~~(BitVec.ofNat 24 ((2 ^ n - 1) * 2 ^ lo))) t

/-- The word by which orders 1 to 3 of R86 judge a captured word one of whose fields leaves its range (log entry 13): that
field reads as zero. -/
def strayWord (w : IWord) (frm : BitVec 24) (j : BitVec 6) : IWord :=
  let ks := [strideOf frm 10, strideOf frm 6, strideOf frm 2].map (fun k => k * (j.toNat : Int))
  word (w.getLsbD 31) (w.extractLsb' 24 7)
    (moveOrZero (w.extractLsb' 0 24) ((strideFields (w.extractLsb' 24 7).toNat).zip ks))

/-- What a word says, or the illegal-instruction fault (R86 orders 1 to 3). -/
def decoded (w : IWord) : Except Stop Instr :=
  match decode w with
  | .ok i => .ok i
  | .error _ => .error illegalInstr

/-- The instruction a fetched word stands for at a thread: itself, or for a captured word of a frame the adjusted word, to
which every check applies; a field outside its range is the illegal-operand fault where orders 1 to 3 pass (R82, R83, R86). -/
def readWord (t : Ctx) (w : IWord) : Except Stop Instr :=
  if t.repA && t.pre.isEmpty && arithmeticOp (w.extractLsb' 24 7).toNat then
    match adjustWord w t.repFrm t.repJ with
    | some w' => decoded w'
    | none =>
      match decoded (strayWord w t.repFrm t.repJ) with
      | .ok _ => .error illegalOperand
      | .error e => .error e
  else decoded w

/-- The instruction at the thread's place, or why there is none (R39, R109, R312). -/
def State.fetchInstr (s : State) (n x : Nat) : Except Stop Instr :=
  let t := s.thread n x
  match s.fetchWord n t t.opw with
  | .error e => .error (.fault { code := e.code, va := t.opw, vahi := t.vahi, acc := AccKind.fetch.code, level := e.level })
  | .ok (w, p) => if p then .error .contain else readWord t w

/-- Starts a slot of core n; the context it chooses, if any, holds the slot. -/
def State.beginSlot (s : State) (n : Nat) : State × Bool :=
  let c := (s.core n).beginSlot
  match c.choose with
  | none => (s.setCore n c, false)
  | some x => ({ (s.setCore n (c.grant x)) with cur := n, ctx := x }, true)

/-- Whether a constructor is an event row: it has no instruction word. -/
def isEvent (i : Instr) : Bool := (encode i).isNone

/-- Stores an instruction word where context 0 of core 0 fetches next, and makes that thread the next to issue: what a
placement that loads a program leaves (R188). -/
def State.loadWord (s : State) (w : Nat) : State :=
  let pc : Word := 0xFFFFFFFFFFFF0000
  let s := s.localWrite 0 pc 4 (w % 2 ^ 32)
  let s := s.modCore 0 (fun c =>
    { (c.modCtx 0 (fun t =>
        { t with st := .runnable, park := none, pc := pc, pre := [], base := 0, size := 128, priv := true, repA := false,
                 notBefore := 0, shadow := [] })) with last := c.n - 1 })
  { s with cur := 0, ctx := 0, agenda := [], turn := 0 }

end Sys2Proof.Machine
end

