-- ==== Sys2Proof/Machine/EvFaults.lean ====
section
/-! DEFINITION. Fault records and thread images, and the commands of the lock-keeper: RESUME, KILL, STOP, WAKE, IMAGE,
ENGINE, UNSEAL and LAUNCH_BARGE (R300 to R310, R321, R322). -/

namespace Sys2Proof.Machine

/-! ### Images (R309) -/

/-- Bits of 64 registers from `lo`. -/
def regBits (reg : Nat → RegEntry) (lo : Nat) (f : RegEntry → Bool) : Word :=
  (List.range 64).foldl (fun w i => if f (reg (lo + i)) then w ||| ((1 : Word) <<< i) else w) 0

/-- The 256 doublewords of an image, from a context and its registers. -/
def imageWords (t : Ctx) (reg : Nat → RegEntry) : List Word :=
  [t.pc, t.pred, t.rm.setWidth 64, t.flags.setWidth 64, t.win, t.repst, BitVec.ofNat 64 t.lpD, t.rasb, t.vahi.setWidth 64,
   t.rasp, BitVec.ofNat 64 t.rasd, t.lc0, t.ls0, t.le0, t.lc1, t.ls1, t.le1,
   BitVec.ofNat 64 (t.wake.toNat + 2 * t.poison0.toNat + 4 * t.poison1.toNat),
   regBits reg 0 RegEntry.full, regBits reg 64 RegEntry.full, regBits reg 0 RegEntry.armed, regBits reg 64 RegEntry.armed,
   regBits reg 0 RegEntry.poison, regBits reg 64 RegEntry.poison]
  ++ (List.range 16).map (fun i => Tab.getD t.ras i 0) ++ List.replicate 8 0
  ++ (List.range 128).map (fun i => (reg i).val) ++ List.replicate 80 0

/-- What stands at and above the window size. -/
def noReg : RegEntry := ⟨0, false, false, false⟩

/-- The image of context x of a core. -/
def Core.image (c : Core) (x : Nat) : List Word :=
  let t := c.ctx x
  imageWords t (fun i => if i < t.size then c.reg (t.base + i) else noReg)

/-- The thread's own items, as a reload applies them. -/
def Ctx.reload (t : Ctx) (ws : List Word) : Ctx :=
  let w := fun i => wordAt i ws
  let t := (t.setRepst (w 5)).setRasb (w 7)
  { t with
    pred := w 1
    rm := (w 2).extractLsb' 0 2
    flags := (w 3).extractLsb' 0 5
    lpD := storedD (w 6)
    vahi := (w 8).extractLsb' 0 8
    rasp := raspValue (w 9)
    rasd := rasdValue (w 10)
    lc0 := w 11
    ls0 := wordAligned (w 12)
    le0 := wordAligned (w 13)
    lc1 := w 14
    ls1 := wordAligned (w 15)
    le1 := wordAligned (w 16)
    wake := (w 17).getLsbD 0
    poison0 := (w 17).getLsbD 1
    poison1 := (w 17).getLsbD 2
    ras := (List.range 16).map (fun i => (i, w (24 + i))) }

/-- Register i of an image. -/
def imageReg (ws : List Word) (i : Nat) : RegEntry :=
  let bit := fun (k : Nat) => (wordAt (k + i / 64) ws).getLsbD (i % 64)
  ⟨wordAt (48 + i) ws, bit 18, bit 20, bit 22⟩

/-- Reloads the registers below the window size. -/
def Core.reloadRegs (c : Core) (b : Nat) (ws : List Word) : List Nat → Core
  | [] => c
  | i :: t => (c.setReg (b + i) (imageReg ws i)).reloadRegs b ws t

/-- Reloads context x from an image (R309). -/
def Core.reload (c : Core) (x : Nat) (ws : List Word) : Core :=
  let t := c.ctx x
  (c.reloadRegs t.base ws (List.range (min t.size 128))).setCtx x (t.reload ws)

/-- Writes doublewords to HBM under key slot 0. -/
def writeService : List Word → Nat → State → State
  | [], _, s => s
  | w :: t, a, s => writeService t (a + 8) (s.hbmWrite (s.slotTag 0) a w)

/-! ### When an image is written (R302, R322) -/

/-- Whether a fault keeps the queue's head from its step: an MLOADB that is halted, or rows that a suspended stream does not
supply (R295). -/
def State.mxStuck (s : State) (n : Nat) : Bool :=
  match (s.core n).mxq with
  | [] => false
  | q :: _ =>
    s.reqs.any (fun r => r.core == n && r.held && r.kind == .mload q.id) ||
      match (s.core n).rowsWanted with
      | some sn =>
        match (s.core n).binding sn with
        | .input b => b.fault.isSome && b.supply == 0
        | _ => false
      | none => false

/-- Results that an image does not wait for: held accesses, BAR, BUFACQ, and those behind a stuck matrix queue. -/
def State.excused (s : State) (n x : Nat) (o : Outst) : Bool :=
  o.kind == .bar || o.kind == .bufacq || s.reqs.any (fun r => r.core == n && r.ctx == x && r.held && r.out == some o.id)
    || (s.mxStuck n && (s.core n).mxq.any (fun q => q.out == some o.id))

/-- Whether the matrix queue and the output streams of a stopped core are done (R295, R322). -/
def State.coreQuiet (s : State) (n : Nat) : Bool :=
  ((s.core n).mxq.isEmpty || s.mxStuck n) && s.ops.all (fun o => o.core != n || o.buf.isEmpty || o.fault.isSome)

/-- Whether a request is a closing contribution that waits for its set (R244). -/
def State.pendingClose (s : State) (r : Req) : Bool :=
  match r.kind with
  | .red _ _ true (some _) => s.joined r.id
  | _ => false

/-- Whether a release is complete but for acknowledgements that a stop does not wait for (R244). -/
def State.releaseStops (s : State) (n x : Nat) (r : Release) : Bool :=
  ({ s with reqs := s.reqs.filter (fun q => !s.pendingClose q) } : State).releaseDone n x r

/-- Whether the image of a HALTED thread may be written. -/
def State.imageReady (s : State) (n x : Nat) : Bool :=
  let t := s.thread n x
  t.outst.all (s.excused n x) && (t.stopTo.isNone || (s.coreQuiet n && t.releases.all (s.releaseStops n x)))

/-- Writes the image of a HALTED thread: to its slot, or where a STOP named. -/
def State.writeImage (s : State) (n x : Nat) : State :=
  let t := s.thread n x
  let ws := (s.core n).image x
  let s := match t.was, s.partOfCore n with
    | none, some p => writeService ws (s.imageSlot p n x).toNat s
    | some .halted, some p => writeService ws (s.imageSlot p n x).toNat s
    | _, _ => s
  match t.stopTo with
  | some (b, root, vahi) => s.tryStores ⟨n, root, vahi, true⟩ ws b
  | none => s

/-- IMAGE_WRITE (R302, R322). -/
def execImageWrite (c x : Nat) (s : State) : Out :=
  let t := s.thread c x
  whenEnabled (t.st == .halted && t.imageDue && s.imageReady c x)
    ((s.writeImage c x).modThread c x (fun t => { t with imageDue := false, stopTo := none }))

/-! ### Records (R300, R301) -/

/-- What makes two records records of one source. -/
def FaultRec.source (r : FaultRec) : Nat × Nat × Nat :=
  match r.src.toNat with
  | 0 => (0, r.core, r.ctx)
  | 1 => (1, r.core, r.opseq.toNat)
  | 2 => (2, r.core, 0)
  | 3 => (3, r.router, 0)
  | k => (k, 0, 0)

/-- CPC when the record is written: of the thread that stands there, for a record of a thread or of an engine operation. -/
def State.recordCpc (s : State) (r : FaultRec) : Word :=
  let t := s.thread r.core r.ctx
  if (r.src.toNat ≤ 2 ∨ r.eng ≠ 0) ∧ t.st.holdsThread then t.pc else 0

/-- The sixteen doublewords of a record. -/
def FaultRec.words (r : FaultRec) (cpc : Word) : List Word :=
  [(1 : BitVec 1) ++ (0 : BitVec 4) ++ r.src ++ (0 : BitVec 2) ++ r.grade ++ r.code ++ r.eng ++ (0 : BitVec 3)
     ++ BitVec.ofNat 6 r.ctx ++ (0 : BitVec 19) ++ BitVec.ofNat 13 r.core,
   BitVec.ofNat 32 r.seq ++ r.opseq, cpc, r.ipc, r.va,
   BitVec.ofNat 32 r.elem ++ (0 : BitVec 6) ++ BitVec.ofNat 2 r.sect ++ (0 : BitVec 4) ++ BitVec.ofNat 4 r.level ++ r.acc
     ++ r.vahi,
   r.arg, r.image] ++ (List.range 6).map (fun i => wordAt i r.oprs) ++ [0, 0]

/-- Ring control line and records of a partition. -/
def State.ringAt (s : State) (p : Nat) : Nat := s.svc.ring + p * 2 ^ 20
def State.ringWrites (s : State) (p : Nat) : BitVec 32 := (s.hbmRead (s.slotTag 0) (s.ringAt p)).extractLsb' 0 32
def State.ringReads (s : State) (p : Nat) : BitVec 32 := (s.hbmRead (s.slotTag 0) (s.ringAt p + 8)).extractLsb' 0 32

/-- The notice of a record (R163, R300). -/
def FaultRec.notice (r : FaultRec) (index : Nat) : Mail where
  kind := 4
  ctx := 0
  srcCore := BitVec.ofNat 13 r.core
  srcCtx := BitVec.ofNat 6 r.ctx
  tag := 0xFFFF
  payload := BitVec.ofNat 64 index

/-- Writes a record whole, then WRITE, then sends the notice. -/
def State.writeRecord (s : State) (p : Nat) (r : FaultRec) : State :=
  let w := s.ringWrites p
  let i := w.toNat % Config.ringRecords
  let s := writeService (r.words (s.recordCpc r)) (s.ringAt p + 64 + 128 * i) s
  let s := s.hbmWrite (s.slotTag 0) (s.ringAt p) ((w + 1).setWidth 64)
  let s := s.modCore (s.part p).lk (fun c => { c with waitNotice := c.waitNotice ++ [r.notice i] })
  s.count (some p) (fun c => { c with faults := satInc c.faults })

/-- FAULT_RECORD (R300): the k-th record waiting in partition p, the first of its source, while the ring has room. -/
def execFaultRecord (p k : Nat) (s : State) : Out :=
  match (s.part p).recs[k]? with
  | none => notNow
  | some r =>
    whenEnabled (((s.part p).recs.take k).all (fun q => q.source != r.source)
        && (s.ringWrites p - s.ringReads p).toNat != Config.ringRecords)
      ((s.modPart p (fun v => { v with recs := removeAt v.recs k })).writeRecord p r)

/-! ### Commands (R307) -/

/-- The view of a command's payload: the sending thread's translation, as it stood. -/
def Cmd.view (q : Cmd) (c : Nat) : View := ⟨c, q.root, q.vahi, true⟩

/-- The image address in B. -/
def Cmd.imageAt (q : Cmd) : Word := q.b &&& ~~~(0x3F : Word)

/-- Takes the oldest command of core c where it is the one named. -/
def command (c : Nat) (ok : Cmd → Bool) (f : Cmd → State → State) (s : State) : Out :=
  match (s.core c).cmds with
  | [] => notNow
  | q :: t => if ok q then .next (f q (s.modCore c (fun k => { k with cmds := t }))) else notNow

/-- Refuses a command (R160, R307). -/
def State.refuseCmd (s : State) (q : Cmd) : State := s.refuse q.desc q.core q.src q.twin none (sendCore q.desc) false

/-! ### RESUME (R118, R307, R315, R324) -/

/-- Drops a held request, its result, and an MLOADB's place in the queue. -/
def State.dropHeld (s : State) (r : Req) : State :=
  let s := s.removeReq r
  let s := match r.out with
    | some id => s.modThread r.core r.ctx (fun t => t.dropOutst id)
    | none => s
  match r.kind with
  | .mload e =>
    let out := ((s.core r.core).mxq.find? (fun q => q.id == e)).bind MxEntry.out
    let s := s.modCore r.core (fun c => { c with mxq := c.mxq.filter (fun q => q.id != e) })
    match out with
    | some id => s.modThread r.core r.ctx (fun t => t.dropOutst id)
    | none => s
  | _ => s

def dropAllHeld : List Req → State → State
  | [], s => s
  | r :: t, s => dropAllHeld t (s.dropHeld r)

/-- The reissue list of a thread, in issue order. -/
def State.heldOf (s : State) (n x : Nat) : List Req := s.reqs.filter (fun r => r.core == n && r.ctx == x && r.held)

/-- Reads again the lanes of a SCOPEW that lie in the local window. -/
def State.rereadLanes (s : State) (r : Req) : List Lane :=
  r.lanes.map (fun l =>
    if inLocalWindow l.va then
      let (v, p) := s.localRead r.core l.va l.size
      { l with done := true, got := BitVec.ofNat 64 v, gotPoison := p }
    else l)

/-- Samples the scope of a reissued request again; a contribution joins a set of its new generation (R240, R249). -/
def State.resample (s : State) (r : Req) (sc : Scope) : State :=
  match r.kind, r.lanes with
  | .red fn v close _, [l] =>
    if sc = r.scope then s
    else
      let (s, set_) := s.joinSet r.core sc l.va close
      s.modReq r.id (fun q => { q with scope := sc, kind := .red fn v close set_ })
  | _, _ => s.modReq r.id (fun q => { q with scope := sc })

/-- Reissues one request that nothing holds back any more. -/
def State.reissueOne (s : State) (r : Req) : State :=
  let stale : FaultInfo := { code := cSTALE_SCOPE, oprs := r.oprs }
  match r.kind, r.out with
  | .bar a0 a1, some out =>
    match s.sample r.core (barScope a1) with
    | none => s.lateFault r stale
    | some _ =>
      let m : BarMsg :=
        { core := r.core, ctx := r.ctx, a0 := a0, a1 := a1, vahi := r.vahi, root := r.root, priv := r.priv, out := out,
          ipc := r.ipc }
      (s.removeReq r).post (.core r.core) (.core (s.twinTarget r.core (barHome a1))) (.bar m)
  | .scopew _, _ =>
    let r := { r with held := false, lanes := s.rereadLanes r }
    if r.lanes.all Lane.done then s.completeReq r else s.modReq r.id (fun _ => r)
  | k, _ =>
    if k.isAtomic || k.isWrite && k != .store then
      match s.sample r.core r.scopeIdx with
      | none => s.lateFault r stale
      | some sc => s.resample r sc
    else s

/-- Reissues requests in issue order, but those that a fault holds back again. -/
def reissueAll : List Nat → State → State
  | [], s => s
  | id :: t, s =>
    match s.findReq id with
    | some r => reissueAll t (if r.held then s else s.reissueOne r)
    | none => reissueAll t s

/-- Reissues every held request of a thread. -/
def State.reissue (s : State) (n x : Nat) : State :=
  let ids := (s.heldOf n x).map Req.id
  let s := { s with reqs := s.reqs.map (fun (r : Req) => if r.core = n ∧ r.ctx = x then { r with held := false } else r) }
  reissueAll ids (s.modThread n x (fun t => { t with reissue := [] }))

/-- Removes the error token that thread x read at a port of its core: a RESUME of the reader does (R315). -/
def Core.dropToken (c : Core) (x : Nat) : Core :=
  match (c.ctx x).hport with
  | none => c
  | some p =>
    match c.fifo p with
    | w :: t => if w.token then { c with fifos := Tab.set c.fifos (portKey p) t } else c
    | [] => c

/-- Whether a thread waits after its last instruction, so that it goes on waiting when it resumes (R23, R25). -/
def Park.afterIssue : Park → Bool
  | .outstanding | .results _ | .seqCst _ _ => true
  | _ => false

/-- A HALTED thread goes on: RUNNABLE, where one stopped in IDLE runs its IDLE again; one that waited for results after its last
instruction goes on waiting for them (R23, R25, R148, R321). -/
def Ctx.resumed (t : Ctx) : Ctx :=
  let stays := match t.park with
    | some p => p.afterIssue
    | none => false
  { t with
    st := if stays then .parked else .runnable
    park := if stays then t.park else none
    late := false
    hcode := 0
    hport := none
    stopTo := none
    was := none
    imageDue := false }

/-- EXT words at an address, at most two. DEDUCED (log entry 79): a third one counts as the opcode word. -/
def State.extWords (s : State) (n : Nat) (t : Ctx) (ea : Word) : Nat → Nat
  | 0 => 0
  | k + 1 =>
    match s.fetchWord n t ea with
    | .ok (w, _) => if w.extractLsb' 24 7 = 0x7E then 1 + s.extWords n t (ea + 4) k else 0
    | .error _ => 0

/-- Moves past the instruction at PC as if it had completed (R84, R87). DEDUCED (log entry 80): the loop-end
test is made. -/
def State.skipInstr (s : State) (n x : Nat) : State :=
  let t := s.thread n x
  let k := if t.repA then 0 else s.extWords n t t.pc 2
  s.modThread n x (fun t => ({ t with pre := List.replicate k 0 }).advance)

/-- A core is stopped no longer once none of its contexts is (R160, R321). -/
def State.endStop (s : State) (n : Nat) : State :=
  s.modCore n (fun c => { c with stopped := c.stopped && c.ctxs.any (fun e => e.2.was.isSome) })

/-- The image a RESUME reloads: none where B names none, or why it cannot be read. -/
def State.resumeImage (s : State) (c : Nat) (q : Cmd) : Except WalkFault (State × List Word) :=
  if q.imageAt = 0 then .ok (s, []) else State.loadDs (q.view c) 256 q.imageAt s

/-- A RESUME of a HALTED thread; one whose image cannot be read is dropped. -/
def State.resumeBy (s : State) (c : Nat) (q : Cmd) (f : Nat → List Word → State → State) : State :=
  let x := sendCtx q.desc
  if (s.thread c x).st = .halted then
    match s.resumeImage c q with
    | .error _ => s
    | .ok (s, ws) =>
      let s := if ws.isEmpty then s else s.modCore c (fun k => k.reload x ws)
      (f x ws (s.modCore c (fun k => k.dropToken x))).endStop c
  else s.refuseCmd q

/-- Whether a command is a RESUME of a mode. -/
def isResume (mode : BitVec 2) (q : Cmd) : Bool := sendCmd q.desc == 1 && q.b.extractLsb' 0 2 == mode

/-- Mode 00. -/
def State.resumeRetry (s : State) (c x : Nat) : State := (s.modThread c x Ctx.resumed).reissue c x

/-- RESUME_REISSUE (R307). -/
def execResumeReissue (c : Nat) (s : State) : Out :=
  command c (isResume 0) (fun q s => s.resumeBy c q (fun x _ s => s.resumeRetry c x)) s

/-- Mode 01: the faulting instruction counts as completed. -/
def State.resumeNext (s : State) (c x : Nat) : State :=
  let t := s.thread c x
  if t.late then
    let s := match t.reissue with
      | [] => s
      | id :: _ =>
        match s.findReq id with
        | some r => s.dropHeld r
        | none => s
    (s.modThread c x Ctx.resumed).reissue c x
  else
    let s := (dropAllHeld (s.heldOf c x) s).modThread c x (fun t => { t with reissue := [] })
    (s.skipInstr c x).modThread c x Ctx.resumed

/-- RESUME_SKIP (R307). -/
def execResumeSkip (c : Nat) (s : State) : Out :=
  command c (isResume 1) (fun q s => s.resumeBy c q (fun x _ s => s.resumeNext c x)) s

/-- The PC item of the image reloaded, else of the thread's image slot. -/
def State.imagePc (s : State) (c x : Nat) (ws : List Word) : Word :=
  wordAligned (match ws with
    | w :: _ => w
    | [] =>
      match s.partOfCore c with
      | some p => s.hbmRead (s.slotTag 0) (s.imageSlot p c x).toNat
      | none => 0)

/-- RESUME_IMAGE_PC (R307). -/
def execResumeImagePc (c : Nat) (s : State) : Out :=
  command c (isResume 2) (fun q s => s.resumeBy c q (fun x ws s =>
    let pc := s.imagePc c x ws
    (dropAllHeld (s.heldOf c x) s).modThread c x (fun t =>
      { t with was := none }.resumed.goto pc |> fun u => { u with reissue := [] }))) s

/-! ### KILL (R148, R258, R287, R307) -/

/-- The streams whose operations are gone. -/
def unbindOps (ids : List Nat) (t : Tab Binding) : Tab Binding :=
  t.filter (fun e =>
    match e.2 with
    | .output id => !ids.contains id
    | _ => true)

/-- The code that halted a thread, if a fault did and nothing resolved it. -/
def Ctx.openFault (t : Ctx) : Option (BitVec 8) :=
  if t.st = .halted ∧ t.hcode ≠ 0 ∧ (t.was.isNone ∨ t.was = some .halted) then some t.hcode else none

/-- The record of a suspended operation that ends stands for good (R303). -/
def State.lastingFault (s : State) (n : Nat) : Option EngFault → State
  | some f => s.addLasting n f.code
  | none => s

/-- The records of a thread that ends by KILL, and of the operations that end with it, stand for good (R303). -/
def State.keepFaults (s : State) (n x : Nat) : State :=
  let own := match (s.thread n x).openFault with
    | some k => [k]
    | none => []
  let ops := (s.ops.filter (fun o => o.core == n && o.target == x)).filterMap (fun o => o.fault.map EngFault.code)
  (own ++ ops).foldl (fun s k => s.addLasting n k) s

/-- What thread x of core n had on its way is abandoned: its requests, unjoined operations and unread matrix loads. -/
def State.abandon (s : State) (n x : Nat) : State :=
  let ids := (s.ops.filter (fun o => o.core == n && o.target == x)).map EngineOp.id
  let s := { s with reqs := s.reqs.filterMap (orphan n (fun y => y == x)), ops := s.ops.filter (fun o => !(o.core == n && o.target == x)) }
  s.modCore n (fun c =>
    { c with
      reserved := c.reserved - ids.length
      strm := unbindOps ids c.strm
      mail := c.mail.filter (fun m => !(m.kind == 2 && m.ctx.toNat == x))
      mxq := c.mxq.filter (fun q => q.ctx != x || match q.kind with
        | .mloadb _ _ _ _ (some _) => !q.loaded.isEmpty
        | _ => true) })

/-- Whether a KILL may reach a state. -/
def CtxState.killable : CtxState → Bool
  | .runnable | .parked | .idling | .halted => true
  | .free | .empty | .departed | .killed => false

/-- A thread ends by KILL: KILLED, or its barge ends (R148). -/
def State.killOne (s : State) (n x : Nat) : State :=
  let s := (s.keepFaults n x).abandon n x
  if (s.thread n x).bargeCtx then s.endBarge n x else s.modThread n x (fun t => t.released .killed)

def killEach (n : Nat) : List Nat → State → State
  | [], s => s
  | x :: t, s => killEach n t (if (s.thread n x).st.killable then s.killOne n x else s)

/-- KILL of a thread; on context 0 the core's part of the region ends, with its other threads. -/
def State.killThread (s : State) (n x : Nat) : State :=
  if x = 0 then (killEach n (List.range (s.core n).n) s).endPart n else s.killOne n x

/-- KILL (R307). -/
def execKill (c : Nat) (s : State) : Out :=
  command c (fun q => sendCmd q.desc == 2) (fun q s =>
    let x := sendCtx q.desc
    if (s.thread c x).st.killable then (s.killThread c x).endStop c else s.refuseCmd q) s

/-! ### STOP, WAKE, IMAGE (R307, R321) -/

/-- A thread stops at its boundary; its image goes to B. -/
def Ctx.stopped (t : Ctx) (q : Cmd) : Ctx :=
  { t with
    st := .halted
    was := some t.st
    stopTo := some (q.imageAt, q.root, q.vahi)
    imageDue := true
    ipc := t.pc
    late := false
    hcode := 0
    hport := none }

/-- STOP (R307, R321). One that its lock-keeper sends to pre-empt a region stops the core even where it names a thread that
cannot stop any more. -/
def execStop (c : Nat) (s : State) : Out :=
  command c (fun q => sendCmd q.desc == 3) (fun q s =>
    let x := sendCtx q.desc
    match (s.thread c x).st with
    | .runnable | .parked | .idling => s.modCore c (fun k => { k.modCtx x (fun t => t.stopped q) with stopped := true })
    | _ => (if s.keeps c q.core then s.modCore c (fun k => { k with stopped := true }) else s).refuseCmd q) s

/-- WAKE (R307). -/
def execWake (c : Nat) (s : State) : Out :=
  command c (fun q => sendCmd q.desc == 4) (fun q s =>
    let x := sendCtx q.desc
    if (s.thread c x).st.holdsThread then s.modThread c x (fun t => { t with wake := true }) else s.refuseCmd q) s

/-- IMAGE (R307). -/
def execImage (c : Nat) (s : State) : Out :=
  command c (fun q => sendCmd q.desc == 5) (fun q s =>
    let x := sendCtx q.desc
    if (s.thread c x).st = .halted then s.tryStores (q.view c) ((s.core c).image x) q.imageAt else s.refuseCmd q) s

/-! ### ENGINE (R255, R267, R275, R307) -/

/-- What a command of an engine names: an operation, or a stream register bound in. -/
inductive Suspended where
  | op (o : EngineOp)
  | input (n : Nat) (b : InBind)

/-- The suspended operation of core c with a sequence number. -/
def State.suspended (s : State) (c : Nat) (seq : BitVec 32) : Option Suspended :=
  match s.ops.find? (fun o => o.core == c && o.seq == seq && o.fault.isSome) with
  | some o => some (.op o)
  | none =>
    (s.core c).strm.findSome? (fun e =>
      match e.2 with
      | .input b => if b.seq = seq ∧ b.fault.isSome then some (.input e.1 b) else none
      | _ => none)

/-- The operation that the record of a command names, or none where the command is refused. -/
def State.engineTarget (s : State) (c : Nat) (q : Cmd) (ws : List Word) : Option Suspended :=
  if (wordAt 0 ws).getLsbD 63 && fieldAt 0 58 56 ws == 1 && fieldAt 0 12 0 ws == sendCore q.desc then
    s.suspended c ((wordAt 1 ws).extractLsb' 0 32)
  else none

/-- An ENGINE command: the record is read and its operation acted on; one whose record cannot be read is dropped. -/
def State.engineBy (s : State) (c : Nat) (q : Cmd) (f : Suspended → State → State) : State :=
  match State.loadDs (q.view c) 2 (q.b &&& ~~~(0x7F : Word)) s with
  | .error _ => s
  | .ok (s, ws) =>
    match s.engineTarget c q ws with
    | some e => f e s
    | none => s.refuseCmd q

/-- A resumed operation samples its scope again; where its entry is invalid it takes STALE_SCOPE (R240, R324). -/
def State.resampleOp (s : State) (o : EngineOp) : State :=
  match o.scope with
  | .entry i _ =>
    match s.sample o.core (BitVec.ofNat 4 i) with
    | some sc => s.modOp o.id (fun o => { o with scope := sc })
    | none => if o.fault.isSome then s else s.suspend o o.next (elemFault cSTALE_SCOPE 0 0 .engWrite 0)
  | _ => s

/-- An operation that STALE_SCOPE suspended samples again when it is resumed. -/
def State.reviveOp (s : State) (o : EngineOp) : State :=
  if o.fault.any (fun f => f.code == cSTALE_SCOPE) then s.resampleOp { o with fault := none } else s

/-- ENGINE_RESUME (R255): every element above the faulting one is performed, or performed again. -/
def execEngineResume (c : Nat) (s : State) : Out :=
  command c (fun q => sendCmd q.desc == 6 && !q.b.getLsbD 0) (fun q s => s.engineBy c q (fun e s =>
    match e with
    | .op o => (s.modOp o.id (fun o => { o with fault := none, extra := [] })).reviveOp o
    | .input n b => s.setBind c n (.input { b with fault := none }))) s

/-- Counts what a to-buffer copy has written, then closes its slot poisoned (R275). -/
def State.endBuf (s : State) (o : EngineOp) : State :=
  match o.kind with
  | .copy _ dst _ ctl _ _ =>
    if ctlBuf ctl then
      match s.destBuf o dst.base with
      | .ok (some (_, pa, b)) =>
        (setBufAt s pa ((if o.written = 0 then b else b.countBytes o.written).close true)).modOp o.id (fun o => { o with written := 0 })
      | _ => s
    else s
  | .outStream _ _ _ => s

/-- ENGINE_END (R255, R267, R275). -/
def execEngineEnd (c : Nat) (s : State) : Out :=
  command c (fun q => sendCmd q.desc == 6 && q.b.getLsbD 0) (fun q s => s.engineBy c q (fun e s =>
    match e with
    | .op o =>
      ((s.endBuf o).modOp o.id (fun o => { o with fault := none, ended := some o.next, buf := [] })).lastingFault c o.fault
    | .input n b => (s.setBind c n (.input { b with fault := none, ended := true })).lastingFault c b.fault)) s

/-! ### UNSEAL (R314 to R316) -/

/-- Removes every error token that the links of core c delivered to its partners. -/
def clearTokens (s : State) (c : Nat) (cs : Tab Core) : Tab Core :=
  cs.map (fun e => (e.1,
    let mine := fun (k : Nat) => [InPort.nup, .pn, .pe, .ps, .pw].any (fun p => portKey p == k && s.inPartner e.1 p == some c)
    let clean := fun (t : Tab (List PortWord)) =>
      t.map (fun f => (f.1, if mine f.1 then f.2.filter (fun w => !w.token) else f.2))
    { e.2 with fifos := clean e.2.fifos, flying := clean e.2.flying }))

def State.unseal (s : State) (c : Nat) : State :=
  { s with cores := clearTokens s c s.cores }.modCore c (fun k => { k with sealed := false })

/-- UNSEAL (R307, R316). -/
def execUnseal (c : Nat) (s : State) : Out :=
  command c (fun q => sendCmd q.desc == 7) (fun q s => if (s.core c).sealed then s.unseal c else s.refuseCmd q) s

/-! ### The barge hold (R310) -/

/-- Address of hold slot i. -/
def State.holdSlot (s : State) (p i : Nat) : Nat := s.svc.images + p * 2 ^ 31 + (Config.cores * 64 + i) * 2048

/-- The image of a barge. -/
def Barge.image (g : Barge) : List Word :=
  let t : Ctx := { Ctx.free with pc := g.pc, pred := g.pred, rm := g.rm, flags := g.flags, vahi := g.vahi, size := 24 }
  imageWords t (fun i => if i < 24 then ⟨g.regs.getD i 0, true, false, false⟩ else noReg)

/-- The header doubleword of a barge (R171). -/
def Barge.header (g : Barge) : Word := g.flitHeader 0

/-- The lowest free hold slot of a partition. -/
def Part.freeHold (v : Part) : Option Nat := (List.range Config.holdSlots).find? (fun i => (Tab.find v.holdBarges i).isNone)

/-- Holds a barge that reached core c, with its record. -/
def State.holdBarge (s : State) (p c i : Nat) (g : Barge) : State :=
  let s := writeService g.image (s.holdSlot p i) s
  let r : FaultRec :=
    { FaultRec.blank with
      src := 3, router := c / 8, code := cBARGE_NO_CONTEXT, core := c, ctx := g.srcCtx, seq := (s.chip (c / 8)).recNo, arg := g.header,
      image := BitVec.ofNat 64 (s.holdSlot p i) }
  let s := s.modPart p (fun v => { v with holdBarges := Tab.set v.holdBarges i g })
  (s.addRec (some p) r).modChip (c / 8) (fun h => { h with recNo := h.recNo + 1 })

/-- BARGE_HOLD (R310): a barge at a core with no barge context, or at a sealed one (R314). -/
def execBargeHold (c : Nat) (s : State) : Out :=
  match (s.core c).bargeWait, s.partOfCore c with
  | g :: t, some p =>
    match (s.part p).freeHold with
    | some i =>
      whenEnabled ((!(s.core c).hasBarge || (s.core c).sealed) && !(s.core c).inRepart)
        ((s.modCore c (fun k => { k with bargeWait := t })).holdBarge p c i g)
    | none => notNow
  | _, _ => notNow

/-- The barge an image holds. -/
def Barge.ofImage (g : Barge) (ws : List Word) : Barge :=
  { g with
    pc := wordAligned (wordAt 0 ws)
    pred := wordAt 1 ws
    rm := (wordAt 2 ws).extractLsb' 0 2
    flags := (wordAt 3 ws).extractLsb' 0 5
    vahi := (wordAt 8 ws).extractLsb' 0 8
    regs := (List.range 24).map (fun i => wordAt (48 + i) ws) }

/-- The hold slot at a physical address. -/
def State.holdIndex (s : State) (p pa : Nat) : Option Nat :=
  (List.range Config.holdSlots).find? (fun i => s.holdSlot p i == pa)

/-- Delivers a held barge. -/
def State.launchBarge (s : State) (c p : Nat) (q : Cmd) : State :=
  match s.place (q.view c) q.b .load with
  | .error _ => s
  | .ok (_, pa) =>
    match s.holdIndex p pa with
    | none => s.refuseCmd q
    | some i =>
      match Tab.find (s.part p).holdBarges i, State.loadDs (q.view c) 256 q.b s with
      | some g, .ok (s, ws) =>
        let s := s.modPart p (fun v => { v with holdBarges := Tab.erase v.holdBarges i })
        s.modCore c (fun k => { k with bargeq := k.bargeq ++ [g.ofImage ws] })
      | none, _ => s.refuseCmd q
      | some _, .error _ => s

/-- LAUNCH_BARGE (R307, R310). -/
def execLaunchBarge (c : Nat) (s : State) : Out :=
  command c (fun q => sendCmd q.desc == 8) (fun q s =>
    match s.partOfCore c with
    | some p => if (s.core c).bargeRoom then s.launchBarge c p q else s.refuseCmd q
    | none => s.refuseCmd q) s

end Sys2Proof.Machine
end

