-- ==== Sys2Proof/Machine/Ends.lean ====
section
/-! DEFINITION. How a region ends before it completes: its threads, requests and operations, and what it held (R304, R320,
R326, R327). -/

namespace Sys2Proof.Machine

/-- The results that the saved contexts of a pre-empted region wait for. -/
def Region.savedOuts (r : Region) : List Nat := r.saved.flatMap (fun k => k.2.ctxs.flatMap (fun e => e.2.outst.map Outst.id))

/-- A request of an ended region: a write on its way goes on without a thread, every other ends (R327). -/
def State.orphanOf (s : State) (r : Region) (q : Req) : Option Req :=
  if r.st = .preempted then
    match q.out with
    | some id => if r.savedOuts.contains id then none else some q
    | none => some q
  else if r.allCores.contains q.core then
    (if q.kind.isWrite && !q.held && !s.joined q.id && q.pairNo.isNone then some { q with ctx := orphanCtx q.ctx, out := none } else none)
  else some q

/-- Whether an arrival at a barrier comes from a thread of the region. -/
def Region.sent (r : Region) (m : BarMsg) : Bool :=
  if r.st = .preempted then r.savedOuts.contains m.out else r.allCores.contains m.core

/-- Drops what a region's threads have on their way to other cores. -/
def dropTraffic (g : Nat) (r : Region) (cs : Tab Core) : Tab Core :=
  cs.map (fun e => (e.1, { e.2 with
    bargeq := e.2.bargeq.filter (fun b => b.region != g + 1)
    bargeWait := e.2.bargeWait.filter (fun b => b.region != g + 1)
    barq := e.2.barq.filter (fun m => !r.sent m) }))

/-- Ends the threads, requests, operations and barges of region g (R326 steps 2 and 3). -/
def State.endWork (s : State) (g : Nat) (r : Region) : State :=
  let s := { s with
    reqs := s.reqs.filterMap (s.orphanOf r)
    ops := s.ops.filter (fun o => o.region != g + 1)
    cores := dropTraffic g r s.cores }
  s.modPart r.part (fun v =>
    { v with
      holdBarges := v.holdBarges.filter (fun b => b.2.region != g + 1)
      first := if v.first = some g then none else v.first })

/-- Ends region g with a STATE, a code and a grade. -/
def State.endRegion (s : State) (g : Nat) (st : RegionState) (code grade : Nat) : State :=
  match Tab.find s.regions g with
  | none => s
  | some r => (((s.endWork g r).showRegion r st).releaseRegion g r).reportRegion r code grade

/-- Ends regions alike. -/
def endRegions (st : RegionState) (code grade : Nat) : List Nat → State → State
  | [], s => s
  | g :: t, s => endRegions st code grade t (s.endRegion g st code grade)

/-- Selects again in every partition of a list. -/
def selectAll : List Nat → State → State
  | [], s => s
  | p :: t, s => selectAll t (s.select p)

/-- A record that the lock-keeper of partition p raises itself (R300, R326). -/
def State.keeperRec (s : State) (p : Nat) (code : BitVec 8) (grade : Nat) (arg : Word) : State :=
  let r : FaultRec :=
    { FaultRec.blank with
      src := 4, grade := BitVec.ofNat 2 grade, code := code, core := (s.part p).lk, seq := (s.part p).recNo, arg := arg }
  (s.addRec (some p) r).modPart p (fun v => { v with recNo := v.recNo + 1 })

end Sys2Proof.Machine
end

