-- ==== Sys2Proof/Machine/EvSaves.lean ====
section
/-! DEFINITION. The save of a pre-empted region and its resume (R295, R321 to R325, R367). -/

namespace Sys2Proof.Machine

/-! ### The save record (R325) -/

/-- Stores of 16-byte sectors with their marks. -/
def saveSectors (v : View) : List (Nat × Bool) → Word → State → Except ElemFault State
  | [], _, s => .ok s
  | (x, p) :: t, ea, s =>
    match s.engWrite v ea 16 0 x p with
    | .error e => .error e
    | .ok s => saveSectors v t (ea + 16) s

/-- Reads of 16-byte sectors with their marks. -/
def readSaved (v : View) : Nat → Word → State → Except ElemFault (State × List (Nat × Bool))
  | 0, _, s => .ok (s, [])
  | n + 1, ea, s =>
    match s.engRead v ea 16 0 .engRead with
    | .error e => .error e
    | .ok (s, x, p) =>
      match readSaved v n (ea + 16) s with
      | .error e => .error e
      | .ok (s, l) => .ok (s, (x, p) :: l)

/-- Doublewords as sectors. -/
def wordSectors : List Word → List (Nat × Bool)
  | [] => []
  | [w] => [(w.toNat, false)]
  | w :: x :: t => (w.toNat + 2 ^ 64 * x.toNat, false) :: wordSectors t

/-- Sectors of a little-endian number, with a mark. -/
def numberSectors (d n : Nat) (p : Bool) : List (Nat × Bool) := (List.range n).map (fun i => (d / 2 ^ (128 * i) % 2 ^ 128, p))

/-- An owner tag as a save record holds it: bit 63 set, the generation above 16 bits, the slot; 0 for the null tag. DESIGN CHOICE
(log entry 78): the spec gives its size alone. -/
def tagWord : Option Tag → Word
  | some t => BitVec.ofNat 64 (2 ^ 63 + t.gen.toNat * 2 ^ 16 + t.slot.toNat)
  | none => 0

/-- The tag that a doubleword of a save record stands for. -/
def wordTag (w : Word) : Option Tag := if w.getLsbD 63 then some ⟨w.extractLsb' 0 6, w.extractLsb' 16 16⟩ else none

/-- The codes of the context states. -/
def CtxState.code : CtxState → Nat
  | .free => 0
  | .empty => 1
  | .runnable => 2
  | .parked => 3
  | .idling => 4
  | .halted => 5
  | .departed => 6
  | .killed => 7

/-- The state a context is saved in: the one the STOP found. -/
def Ctx.savedState (t : Ctx) : CtxState := if t.st = .halted then t.was.getD .halted else t.st

/-- Operations that leave a resume token (R323). -/
def State.tokensOf (s : State) (n : Nat) : Nat := (s.ops.filter (fun o => o.core == n)).length

/-- Values of core-shared registers, with those still on their way (R19). -/
def Core.sharedNow (c : Core) : Tab CReg := c.cpend.foldl (fun r w => Tab.set r w.n ⟨w.val, w.poison⟩) c.cregs

/-- Entries of the mailbox: header, payload and reserved flag. -/
def Core.mailWords (c : Core) : List Word :=
  (List.range Config.mailboxEntries).flatMap (fun i =>
    match c.mail[i]? with
    | some m => [m.header, m.payload, 0]
    | none => [0, 0, if i < c.mail.length + c.reserved then 1 else 0])

/-- Free words for what a record holds in no stated layout. -/
def State.freeSectors (s : State) (first n : Nat) : List (Nat × Bool) :=
  wordSectors ((List.range (2 * n)).map (fun i => Config.freeWord (s.fresh + 2 * first + i)))

/-- Core-local memory under the job tag. -/
def State.localSectors (s : State) (n : Nat) : List (Nat × Bool) :=
  (List.range 4096).map (fun i => (s.physRead (s.jobTag n) (localPa n (16 * i)) 16, s.physPoison (s.jobTag n) (localPa n (16 * i)) 16))

/-- The parts of the record of core n, by offset. -/
def State.saveParts (s : State) (n : Nat) (at_ : Word) : List (Nat × List (Nat × Bool)) :=
  let c := s.core n
  let tab := (List.range 64).flatMap (fun x =>
    let t := c.ctx x
    [BitVec.ofNat 64 t.savedState.code, if t.st.hasWindow then at_ + BitVec.ofNat 64 (0x2000 + 2048 * x) else 0])
  let shared := (List.range 32).map (fun i => (Tab.getD c.sharedNow i ⟨0, false⟩).val) ++ [c.mxwt.setWidth 64]
  let strips := (List.range 512).map (fun i => s.strip n (512 * (n % 8) + i))
  [(0x1000, wordSectors tab)]
    ++ ((List.range 64).filter (fun x => (c.ctx x).st.hasWindow)).map (fun x => (0x2000 + 2048 * x, wordSectors (c.image x)))
    ++ [(0x22000, wordSectors shared), (0x23000, wordSectors c.mailWords), (0x24000, s.freeSectors 0 3072),
        (0x30000, s.localSectors n), (0x40000, s.freeSectors 3072 16384),
        (0x80000, strips.flatMap (fun p => numberSectors p.data 512 p.poison)),
        (0x480000, strips.flatMap (fun p => numberSectors p.scale 32 p.poison)),
        (0x4C0000, wordSectors (strips.map (fun p => tagWord p.tag)))]

/-- Stores the parts of a record, its header last. -/
def storeParts (v : View) (at_ : Word) : List (Nat × List (Nat × Bool)) → State → Except ElemFault State
  | [], s => .ok s
  | (o, l) :: t, s =>
    match saveSectors v l (at_ + BitVec.ofNat 64 o) s with
    | .error e => .error e
    | .ok s => storeParts v at_ t s

def State.saveHeader (s : State) (n : Nat) : Word :=
  BitVec.ofNat 64 (2 ^ 63 + 2 ^ 16 * min (s.tokensOf n) 256 + (s.core n).n)

/-! ### SAVE_ENGINE_WRITE (R322 to R324) -/

/-- Whether a request of a stopped core still has to be performed: a save comes after it. -/
def State.moving (s : State) (n : Nat) : Bool :=
  s.reqs.any (fun r => r.core == n && !r.held && r.pairNo.isNone && match r.kind with
    | .bufacq _ _ => false
    | _ => !s.joined r.id)

/-- Whether every context of a core has stopped. -/
def State.coreStopped (s : State) (n : Nat) : Bool :=
  let c := s.core n
  c.stopped && s.coreQuiet n && !s.moving n
    && c.ctxs.all (fun e => !e.2.st.holdsThread || (e.2.st == .halted && !e.2.imageDue && e.2.unacked.isEmpty))

/-- What a save engine's fault leaves: a SAVE_FAILED record, and the region killed with G0. -/
def State.saveFailed (s : State) (g n : Nat) (v : View) (e : ElemFault) : State :=
  let r : FaultRec :=
    { FaultRec.blank with
      src := 1, code := cSAVE_FAILED, eng := 7, ctx := 1, core := n, cpc := (s.thread n 1).pc, va := e.va,
      level := e.level, acc := e.acc.code, vahi := v.vahi }
  let p := s.partOfCore n
  let s := (s.addRec p r).endRegion g .killed 3 0
  match p with
  | some p => s.select p
  | none => s

/-- Keeps the cores, reissue lists and pending closes of a region, and gives the cores back (R244, R324). -/
def State.parkRegion (s : State) (g : Nat) (r : Region) : State :=
  let cs := r.allCores
  let kept := fun (q : Req) => cs.contains q.core && (q.held || s.pendingClose q)
  let held := s.reqs.filter kept
  let r' := { r with
    st := .preempted
    saved := (List.range cs.length).map (fun k => (k, s.core (cs.getD k 0)))
    savedReqs := held
    since := s.fresh
    waited := 0 }
  let s := s.showRegion r .preempted
  let s := { s with
    reqs := s.reqs.filter (fun q => !kept q)
    regions := Tab.set s.regions g r'
    fresh := s.fresh + 1 }
  (leaveCores cs s).select r.part

/-- The view of a region's save engines at core c. -/
def Region.saveView (r : Region) (c : Nat) : View := ⟨c, r.root, r.f.vahi, false⟩

/-- Stores the record of core c, the k-th of its region: its parts, and its header last. -/
def State.storeRecord (s : State) (c k : Nat) (r : Region) : Except ElemFault State :=
  storeParts (r.saveView c) (r.saveAt k) (s.saveParts c (r.saveAt k) ++ [(0, wordSectors [s.saveHeader c])]) s

/-- Keeps core c once its record is stored; the last one makes the region PREEMPTED. -/
def State.keepSaved (u : State) (c g k : Nat) (r : Region) : State :=
  let r := { r with saved := Tab.set r.saved k (u.core c) }
  let u := { u with regions := Tab.set u.regions g r, fresh := u.fresh + Config.recordWords }
  if r.saved.length = r.allCores.length then u.parkRegion g r else u

/-- Whether an access of the save engine waits. -/
def elemWaits {α : Type} : Except ElemFault α → Bool
  | .error e => e.code == cWAIT
  | .ok _ => false

/-- How the save of core c of region g, the k-th of its cores, ends. -/
def State.endSave (s : State) (c g k : Nat) (r : Region) : Except ElemFault State → State
  | .error e => s.saveFailed g c (r.saveView c) e
  | .ok u => u.keepSaved c g k r

/-- SAVE_ENGINE_WRITE (R324, R325): the save record of core c; the last one makes its region PREEMPTED. -/
def execSaveEngineWrite (c : Nat) (s : State) : Out :=
  match (s.core c).region with
  | 0 => notNow
  | g + 1 =>
    match Tab.find s.regions g with
    | none => notNow
    | some r =>
      match r.allCores.findIdx? (fun n => n == c) with
      | none => notNow
      | some k =>
        if r.st = .running ∧ r.f.save ≠ 0 ∧ s.coreStopped c ∧ (Tab.find r.saved k).isNone then
          (let x := s.storeRecord c k r
           whenEnabled (!elemWaits x) (s.endSave c g k r x))
        else notNow

/-! ### REGION_RESUME (R323, R324) -/

/-- Input bindings as a stop leaves them: the elements in the buffer are discarded and read again (R323); one that has ended
keeps what it supplies before the faulting element (R267). -/
def rereadStreams (l : Tab Binding) : Tab Binding :=
  l.map (fun e => (e.1, match e.2 with
    | .input b => .input (if b.ended then b else { b with buf := [], next := b.popped, sect := 0, part := (0, false) })
    | x => x))

/-- A core as it was saved, with what has reached the core since. -/
def Core.restored (k c : Core) (scopes : Tab ScopeEntry) : Core :=
  { k with
    cycle := c.cycle
    l1 := c.l1
    tlb := c.tlb
    waitRefuse := c.waitRefuse
    waitNotice := c.waitNotice
    outRefuse := c.outRefuse
    inbox := c.inbox
    cmds := c.cmds
    bargeWait := c.bargeWait
    barq := c.barq
    sealed := c.sealed
    retiring := c.retiring
    opSeq := c.opSeq
    scopes := scopes
    strm := rereadStreams k.strm }

/-- Writes core-local memory back under the job tag (R367). -/
def restoreLocal (n : Nat) : Nat → List (Nat × Bool) → State → State
  | _, [], s => s
  | o, (x, p) :: t, s =>
    let s := if x = 0 ∧ p = false then s else s.physWrite (s.jobTag n) (localPa n o) 16 x
    restoreLocal n (o + 16) t (if p then s.markPoison (localPa n o) 1 else s)

/-- A number from its sectors. -/
def sectorsNumber (l : List (Nat × Bool)) : Nat := l.foldr (fun x a => x.1 + 2 ^ 128 * a) 0

/-- Doublewords of sectors. -/
def sectorWords (l : List (Nat × Bool)) : List Word :=
  l.flatMap (fun x => [BitVec.ofNat 64 x.1, BitVec.ofNat 64 (x.1 / 2 ^ 64)])

/-- What a restore reads of a record, beside the images: context states, core-shared registers, mailbox, core-local memory, strips,
scales, tags. -/
structure SavedParts where
  states : List Word
  shared : List Word
  mail : List Word
  local_ : List (Nat × Bool)
  strips : List (Nat × Bool)
  scales : List (Nat × Bool)
  tags : List Word

def State.readParts (s : State) (v : View) (at_ : Word) : Except ElemFault (State × SavedParts) := do
  let (s, x) ← readSaved v 64 (at_ + 0x1000) s
  let (s, a) ← readSaved v 17 (at_ + 0x22000) s
  let (s, m) ← readSaved v 96 (at_ + 0x23000) s
  let (s, b) ← readSaved v 4096 (at_ + 0x30000) s
  let (s, c) ← readSaved v 262144 (at_ + 0x80000) s
  let (s, d) ← readSaved v 16384 (at_ + 0x480000) s
  let (s, e) ← readSaved v 256 (at_ + 0x4C0000) s
  pure (s, ⟨sectorWords x, sectorWords a, sectorWords m, b, c, d, sectorWords e⟩)

/-- Strip i of a record. -/
def SavedParts.strip (p : SavedParts) (i : Nat) : Strip :=
  let data := (p.strips.drop (512 * i)).take 512
  let scale := (p.scales.drop (32 * i)).take 32
  ⟨sectorsNumber data, sectorsNumber scale, wordTag (wordAt i p.tags), (data ++ scale).any Prod.snd⟩

/-- Puts the strips of core n back with their tags and marks (R295, R325). -/
def restoreStrips (n : Nat) (p : SavedParts) : List Nat → State → State
  | [], s => s
  | i :: t, s =>
    let x := p.strip i
    let s := if x = ⟨0, 0, none, false⟩ then s
      else s.modChip (n / 8) (fun h => { h with cim := Tab.set h.cim (512 * (n % 8) + i) x })
    restoreStrips n p t s

/-- The mailbox that the entries of a record give: its entries in order, and the count of reserved ones. -/
def savedMail (ws : List Word) : List Mail × Nat :=
  let es := (List.range Config.mailboxEntries).map (fun i => (wordAt (3 * i) ws, wordAt (3 * i + 1) ws, wordAt (3 * i + 2) ws))
  (es.filterMap (fun e => if e.1 = 0 then none else some (Mail.ofHeader e.1 e.2.1)), (es.filter (fun e => e.2.2 == 1)).length)

/-- A context in the state that a record gives it; one that ran or waited is HALTED until its RESUME (R324). -/
def Ctx.savedAs (t : Ctx) (code : Word) : Ctx :=
  match code.toNat with
  | 0 => { t with st := .free }
  | 1 => { t with st := .empty }
  | 2 => { t with st := .halted, was := some .runnable }
  | 3 => { t with st := .halted, was := some .parked }
  | 4 => { t with st := .halted, was := some .idling }
  | 5 => { t with st := .halted, was := some .halted }
  | 6 => { t with st := .departed }
  | 7 => { t with st := .killed }
  | _ => t

/-- The contexts of a core as a record gives them. -/
def savedCtxs (ctxs : Tab Ctx) (ws : List Word) : Tab Ctx := ctxs.map (fun e => (e.1, e.2.savedAs (wordAt (2 * e.1) ws)))

/-- Core-shared registers of a record, with the marks they had. -/
def restoreShared (old : Tab CReg) (ws : List Word) : Tab CReg :=
  (List.range 32).map (fun i => (i, ⟨wordAt i ws, (Tab.getD old i ⟨0, false⟩).poison⟩))

/-- Contexts that a resume sends RESUME mode 00 with their images (R324). -/
def Core.toResume (c : Core) : List Nat :=
  (c.ctxs.filter (fun e => e.2.st == .halted && e.2.was.isSome && e.2.was != some .halted)).map Prod.fst

/-- Images of contexts, read from the save record. -/
def readImages (v : View) (at_ : Word) : List Nat → State → Except ElemFault (State × List (Nat × List Word))
  | [], s => .ok (s, [])
  | x :: t, s =>
    match readSaved v 128 (at_ + BitVec.ofNat 64 (0x2000 + 2048 * x)) s with
    | .error e => .error e
    | .ok (s, l) =>
      match readImages v at_ t s with
      | .error e => .error e
      | .ok (s, m) => .ok (s, (x, sectorWords l) :: m)

/-- Resumes contexts with their images. -/
def resumeImages (n : Nat) : List (Nat × List Word) → State → State
  | [], s => s
  | (x, ws) :: t, s => resumeImages n t ((s.modCore n (fun c => c.reload x ws)).resumeRetry n x)

/-- A context that was HALTED when the region was stopped is left to its record. -/
def Core.leaveHalted (c : Core) : Core :=
  { c with
    stopped := false
    ctxs := c.ctxs.map (fun e => (e.1, if e.2.st = .halted then { e.2 with was := none, stopTo := none } else e.2)) }

/-- Restores core n of region g, the k-th of its cores, from its record (R324). -/
def State.restoreCore (s : State) (r : Region) (k n : Nat) (scopes : Tab ScopeEntry) : Except ElemFault State :=
  match Tab.find r.saved k with
  | none => .ok s
  | some old =>
    let v := r.saveView n
    let at_ := r.saveAt k
    match s.readParts v at_ with
    | .error e => .error e
    | .ok (s, p) =>
      let (mail, reserved) := savedMail p.mail
      let new := { old with
        ctxs := savedCtxs old.ctxs p.states
        mail := mail
        reserved := reserved
        cregs := restoreShared old.sharedNow p.shared
        cpend := []
        mxwt := storedWt (wordAt 32 p.shared) }
      match readImages v at_ new.toResume s with
      | .error e => .error e
      | .ok (s, images) =>
        let s := s.modCore n (fun c => new.restored c scopes)
        let s := restoreStrips n p (List.range 512) (restoreLocal n 0 p.local_ s)
        .ok ((resumeImages n images s).modCore n Core.leaveHalted)

/-- Restores the cores of a region in turn; the first fault ends it. -/
def restoreCores (r : Region) (scopes : Tab ScopeEntry) : List Nat → Nat → State → Except (Nat × ElemFault) State
  | [], _, s => .ok s
  | n :: t, k, s =>
    match s.restoreCore r k n scopes with
    | .error e => .error (n, e)
    | .ok s => restoreCores r scopes t (k + 1) s

/-- The operations of a resumed region sample again. -/
def resampleOps (g : Nat) : List EngineOp → State → State
  | [], s => s
  | o :: t, s => resampleOps g t (if o.region = g + 1 then s.resampleOp o else s)

/-- Whether an access of a restore waits. -/
def restoreWaits : Except (Nat × ElemFault) State → Bool
  | .error (_, e) => e.code == cWAIT
  | .ok _ => false

/-- How the restore of region g ends. -/
def State.endRestore (s : State) (g : Nat) (r run : Region) : Except (Nat × ElemFault) State → State
  | .error (n, e) => s.saveFailed g n (r.saveView n) e
  | .ok u => ((resampleOps g u.ops u).showRegion run .running).select r.part

/-- REGION_RESUME (R324): the first region of its partition, once its cores are free. -/
def execRegionResume (g : Nat) (s : State) : Out :=
  match Tab.find s.regions g with
  | none => notNow
  | some r =>
    if r.st = .preempted ∧ (s.part r.part).first = some g ∧ r.allCores.all (s.coreFree r.part) then
      let run := { r with st := .running, saved := [], savedReqs := [], since := 0, waited := 0 }
      let s := (s.modPart r.part (fun v => { v with first := none }))
      let u := { s with regions := Tab.set s.regions g run, reqs := s.reqs ++ r.savedReqs }
      (let x := restoreCores r (u.scopeCache r) r.allCores 0 u
       whenEnabled (!restoreWaits x) (s.endRestore g r run x))
    else notNow

end Sys2Proof.Machine
end

