-- ==== Sys2Proof/Machine/Remap.lean ====
section
/-! DEFINITION. The remap table as the service area holds it, spare silicon, and what an update of the table does (R331 to
R333, R339 to R341). -/

namespace Sys2Proof.Machine

/-! ### Image and control (R332) -/

/-- The doublewords of a remap image: 4,608 core entries and 576 chiplet entries, two to a doubleword. -/
def Remap.words (r : Remap) : List Word :=
  (List.range 2304).map (fun i => r.coreEntry (2 * i + 1) ++ r.coreEntry (2 * i))
    ++ (List.range 288).map (fun i => r.chipEntry (2 * i + 1) ++ r.chipEntry (2 * i))

/-- Address of the remap control doubleword. -/
def State.remapControl (s : State) : Nat := s.svc.remapImage + 20736

def State.control0 (s : State) : Word := s.hbmRead (s.slotTag 0) s.remapControl
def State.phase (s : State) : Nat := fieldOf s.control0.toNat 1 0
def State.acks (s : State) : Nat := fieldOf s.control0.toNat 47 32

/-- The control doubleword: TG, ACKS and PHASE. -/
def controlWord (tg : BitVec 16) (acks phase : Nat) : Word := tg ++ BitVec.ofNat 16 acks ++ BitVec.ofNat 32 phase

def State.setControl (s : State) (tg : BitVec 16) (acks phase : Nat) : State :=
  s.hbmWrite (s.slotTag 0) s.remapControl (controlWord tg acks phase)

/-- Writes a remap image. -/
def State.writeImageOf (s : State) (r : Remap) : State := writeService r.words s.svc.remapImage s

/-- The bits of an entry that are no reserved ones (R10, R331). -/
def entryBits : BitVec 32 := 0x8007FFE0

/-- An entry of the image in HBM, as a router loads it: reserved bits stay zero (R10). -/
def State.imageEntry (s : State) (i : Nat) : BitVec 32 :=
  (s.hbmRead (s.slotTag 0) (s.svc.remapImage + i / 2 * 8)).extractLsb' (32 * (i % 2)) 32 &&& entryBits

/-- The table that the image in HBM holds. -/
def State.readRemap (s : State) : Remap where
  set := true
  core := (List.range Config.cores).map (fun n => (n, s.imageEntry n))
  chip := (List.range Config.chiplets).map (fun c => (c, s.imageEntry (Config.cores + c)))

/-- The sites, as pairs. -/
def allSites : List (Nat × Nat) := (List.range Config.sites).map (fun i => (i / 24, i % 24))

/-- Live sites: those that messages pass through. -/
def State.liveSites (s : State) : Nat := (allSites.filter (fun p => s.siteOpen p.1 p.2)).length

/-- A set of sites, by their numbers. -/
def siteSet (p : Nat × Nat → Bool) : BitVec 624 :=
  BitVec.ofNat 624 (allSites.foldl (fun a q => if p q then a + 2 ^ siteKey q.1 q.2 else a) 0)

/-- How many sites a set has. -/
def siteCount (m : BitVec 624) : Nat := ((List.range Config.sites).filter m.getLsbD).length

/-- The lock's value: taken, or free. -/
def State.setLock (s : State) (taken : Bool) : State := s.hbmWrite (s.slotTag 0) s.svc.remapLock (if taken then 1 else 0)

/-! ### Spare silicon (R316, R339, R340) -/

/-- Whether an entry of a table names a physical core. -/
def Remap.names (r : Remap) (px py pc : Nat) : Bool :=
  (List.range Config.cores).any (fun n => r.coreEntry n == remapEntry px py pc)

/-- Whether an entry names a site. -/
def entryAtSite (px py : Nat) (e : BitVec 32) : Bool := e.getLsbD 31 && entryPx e == px && entryPy e == py

/-- The logical cores and chiplets that a table places at a site. -/
def Remap.coresAt (r : Remap) (px py : Nat) : List Nat := (List.range Config.cores).filter (fun n => entryAtSite px py (r.coreEntry n))
def Remap.chipsAt (r : Remap) (px py : Nat) : List Nat := (List.range Config.chiplets).filter (fun c => entryAtSite px py (r.chipEntry c))

/-- Whether an entry of a table names a site. -/
def Remap.namesSite (r : Remap) (px py : Nat) : Bool :=
  (List.range Config.chiplets).any (fun c => entryAtSite px py (r.chipEntry c))
    || (List.range Config.cores).any (fun n => entryAtSite px py (r.coreEntry n))

/-- Whether a queued update is to put a logical core on a physical one. -/
def Update.takes (px py pc : Nat) : Update → Bool
  | .restart _ _ x y c _ _ => x == px && y == py && c == pc
  | .retire _ c old => entryPx old == px && entryPy old == py && c == pc
  | .boot _ | .death _ _ _ _ => false

/-- Whether a physical core works, runs no logical core, in no table, and is taken by no queued update. -/
def State.spareFree (s : State) (px py pc : Nat) : Bool :=
  s.siteOpen px py && (s.site px py).state != 2 && (s.site px py).cores.getLsbD pc && decide (pc < 9)
    && !s.remap.names px py pc && !(s.pending.getD s.remap).names px py pc && !s.updates.any (Update.takes px py pc)

/-- The spare core of the site of core n, where one is free. -/
def State.siteSpare (s : State) (n : Nat) : Option Nat :=
  let e := s.remap.coreEntry n
  (List.range 9).find? (fun pc => s.spareFree (entryPx e) (entryPy e) pc)

/-- A spare site that is free: none of its cores is in use or taken. -/
def State.spareSite (s : State) : Option (Nat × Nat) :=
  allSites.find? (fun p => s.siteOpen p.1 p.2 && (s.site p.1 p.2).state == 1 && !s.remap.namesSite p.1 p.2
    && (List.range 9).all (fun pc => !s.updates.any (Update.takes p.1 p.2 pc)))

/-- A table with core n on another physical core. -/
def Remap.moveCore (r : Remap) (n px py pc : Nat) : Remap := { r with core := Tab.set r.core n (remapEntry px py pc) }

/-- A working core of a site for a logical core that stood at index pc: that index, or the spare one. -/
def workingCore (v : Site) (pc : Nat) : Nat := if v.cores.getLsbD pc then pc else 8

/-- A table with everything of one site at another. -/
def Remap.moveSite (r : Remap) (px py : Nat) (v : Site) (x y : Nat) : Remap where
  set := r.set
  core := (r.coresAt px py).foldl (fun t n => Tab.set t n (remapEntry x y (workingCore v (entryPc (r.coreEntry n))))) r.core
  chip := (r.chipsAt px py).foldl (fun t c => Tab.set t c (remapEntry x y 0)) r.chip

/-- The physical core of an entry works no more. -/
def State.loseCore (s : State) (e : BitVec 32) : State :=
  let v := s.site (entryPx e) (entryPy e)
  s.setSite (entryPx e) (entryPy e) { v with cores := v.cores &&& ~~~((1 : BitVec 9) <<< entryPc e) }

/-- The entries of a table that another one changes. -/
def changedEntries (old r : Remap) : List (BitVec 32) :=
  (((old.core ++ r.core).map Prod.fst).filter (fun n => old.coreEntry n != r.coreEntry n)).map old.coreEntry
    ++ (((old.chip ++ r.chip).map Prod.fst).filter (fun c => old.chipEntry c != r.chipEntry c)).map old.chipEntry

/-- Fences the links of the sites that such entries named and a table names no longer (R332 step 3). -/
def fenceUnnamed (r : Remap) : List (BitVec 32) → State → State
  | [], s => s
  | e :: t, s =>
    let x := entryPx e
    let y := entryPy e
    fenceUnnamed r t (if e.getLsbD 31 && !r.namesSite x y then s.setSite x y { s.site x y with fenced := true } else s)

/-! ### Updates (R332, R333, R339) -/

/-- The table that an update installs. -/
def State.tableOf (s : State) : Update → Remap
  | .boot r => r
  | .retire n pc _ => let e := s.remap.coreEntry n; s.remap.moveCore n (entryPx e) (entryPy e) pc
  | .restart c _ px py pc _ _ => s.remap.moveCore c px py pc
  | .death px py _ _ =>
    match s.spareSite with
    | some (x, y) => s.remap.moveSite px py (s.site x y) x y
    | none => s.remap

/-- The generation of the update in progress: one above the routers', and 0 for the first table (R332, R361). -/
def State.nextTg (s : State) : BitVec 16 :=
  match s.updates with
  | .boot _ :: _ => 0
  | _ => s.tg + 1

/-- An update waits for its turn. -/
def State.queueUpdate (s : State) (u : Update) : State := { s with updates := s.updates ++ [u] }

/-- A lock-keeper takes the lock, writes the image of an update and phase 1 (R332, R333). -/
def State.beginUpdate (s : State) (u : Update) : State :=
  (((s.setLock true).writeImageOf (s.tableOf u)).setControl s.nextTg 0 1)

/-- What the flip of an update changes beside the table: dead slices leave the live set, and a spare site is in use (R340,
R341). -/
def State.flipSites (s : State) (r : Remap) : Update → State
  | .death _ _ _ cs =>
    let s := cs.foldl (fun s c => s.modChip c (fun h => { h with live := false })) s
    allSites.foldl (fun s p =>
      if (s.site p.1 p.2).state = 1 ∧ r.namesSite p.1 p.2 then s.setSite p.1 p.2 { s.site p.1 p.2 with state := 0 } else s) s
  | .boot _ | .retire _ _ _ | .restart _ _ _ _ _ _ _ => s

/-- Begins a live retirement of core n to the physical core pc of its site: the core stops, and its update waits for the stop
(R339). -/
def State.startRetire (s : State) (n pc : Nat) : State :=
  (s.modCore n (fun c => { c with retiring := true })).queueUpdate (.retire n pc (s.remap.coreEntry n))

end Sys2Proof.Machine
end

