-- ==== Sys2Proof/Machine/EvContain.lean ====
section
/-! DEFINITION. Unresolved faults, the kill of a job, key slots, errors and poison, the restart of a core, corrected errors,
and sweepers (R223, R229, R303, R304, R311, R316, R317, R326 to R329, R365, R366). -/

namespace Sys2Proof.Machine

/-! ### The kill of a job (R229, R326, R327) -/

/-- The effect of an event where it can happen. -/
def tryOut (f : State → Out) (s : State) : State :=
  match f s with
  | .next s' => s'
  | _ => s

/-- Performs the lanes of a request that can be performed now. -/
def landLanes (id : Nat) : List Nat → State → State
  | [], s => s
  | i :: t, s => landLanes id t (tryOut (execBankAccess id i) (tryOut (execMemoryAccess id i false none) s))

/-- Performs writes of ended threads that complete (R327). -/
def landAll (ok : Req → Bool) : List Nat → State → State
  | [], s => s
  | id :: t, s =>
    match s.findReq id with
    | some r =>
      if ok r && r.kind.isWrite then
        landAll ok t (tryOut (execLineopPerform id) (tryOut (execAtomicPerform id)
          (landLanes id (List.range r.lanes.length) s)))
      else landAll ok t s
    | none => landAll ok t s

/-- Makes unbacked lines ABSENT. -/
def absentAll : List Nat → State → State
  | [], s => s
  | k :: t, s => absentAll t (s.makeAbsent k)

/-- Whether a message to a lock-keeper comes from a job. -/
def Body.ofSlot (slot : BitVec 6) : Body → Bool
  | .trigger _ _ _ _ _ root _ => root.slot == slot
  | .scopew _ _ root _ _ _ _ _ _ _ => root.slot == slot
  | _ => false

/-- What a partition keeps for a job goes: its queues, launches and held counts. -/
def Part.dropJob (v : Part) (slot : BitVec 6) : Part :=
  { v with
    queues := v.queues.filter (fun q => q.slot != slot)
    replays := v.replays.filter (fun k => !v.queues.any (fun q => q.func == k.func && q.num == k.queue && q.slot == slot))
    launches := v.launches.filter (fun l => l.root.slot != slot)
    heldCounts := v.heldCounts.filter (fun e => e.1 / 2 ^ 72 != slot.toNat)
    trigq := v.trigq.filter (fun b => !b.ofSlot slot)
    scopeq := v.scopeq.filter (fun b => !b.ofSlot slot) }

/-- Gives code 3 to the packets of a job that have no code yet. -/
def Part.codeJob (v : Part) (slot : BitVec 6) (grade : Nat) : Part :=
  { v with packets := v.packets.map (fun k =>
      if k.code.isNone && v.queues.any (fun q => q.func == k.func && q.num == k.queue && q.slot == slot) then
        { k with code := some (3, BitVec.ofNat 4 grade) } else k) }

/-- Packets of a job. -/
def Part.jobPackets (v : Part) (slot : BitVec 6) : List Packet :=
  v.packets.filter (fun k => v.queues.any (fun q => q.func == k.func && q.num == k.queue && q.slot == slot))

/-- Retires a key slot (R229): a new key pair is installed and the generation rises by one; one that would wrap does so when
the sweep of the slot's sectors ends. -/
def State.retireSlot (s : State) (slot : BitVec 6) : State :=
  s.modSlot slot (fun k =>
    if k.gen = 0xFFFF then { k with root := none, sweeping := true }
    else { k with gen := k.gen + 1, key := k.key + 1, root := none })

/-- The ready and armed launches of a job take STATE 7 and end with code 3 (R326). -/
def killLaunches (p grade : Nat) (slot : BitVec 6) : List Launch → State → State
  | [], s => s
  | l :: t, s =>
    killLaunches p grade slot t (if l.root.slot = slot then
      match s.resolve p l.root l.vahi l.block with
      | some (_, r) =>
        (s.setBlock p l.root l.vahi l.block 0 0 7).reportRegion (newRegion p l.root l.vahi l.block r none 0 0 0 0) 3 grade
      | none => s
    else s)

/-- Kills the job of a key slot (R326). -/
def State.killJob (s : State) (slot : BitVec 6) (grade : Nat) (landed : List Nat) : State :=
  let p := (s.slot slot).part
  let s := landAll (fun r => r.root.slot == slot) landed s
  let gs := (s.regions.filter (fun e => e.2.slot == slot)).map Prod.fst
  let s := endRegions .killed 3 grade gs s
  let s := { s with
    reqs := s.reqs.filter (fun r => r.root.slot != slot)
    ops := s.ops.filter (fun o => o.root.slot != slot) }
  let s := absentAll ((s.ub.filter (fun e => e.2.tag.slot == slot)).map Prod.fst) s
  let s := s.modPart p (fun v => v.codeJob slot grade)
  let s := completeAll p ((s.part p).jobPackets slot) s
  let s := killLaunches p grade slot (s.part p).launches s
  let s := s.modPart p (fun v => v.dropJob slot)
  let s := s.keeperRec p cJOB_KILLED grade (slot.setWidth 64)
  let s := s.notice p 4 grade 0 (slot.setWidth 64)
  (s.retireSlot slot).select p

/-- JOB_KILL (R326). -/
def execJobKill (slot : BitVec 6) (grade : BitVec 2) (landed : List Nat) (s : State) : Out :=
  whenEnabled (s.slot slot).root.isSome (s.killJob slot grade.toNat landed)

/-- Sets the sectors of HBM stored with a slot to zero. -/
def sweepSectors : List Nat → State → State
  | [], s => s
  | k :: t, s =>
    sweepSectors t { s with
      mem := zeroBytes s.mem (16 * k) 16
      otag := Tab.erase s.otag k
      poison := Tab.erase s.poison k }

/-- KEY_SLOT_SWEEP (R229). -/
def execKeySlotSweep (slot : BitVec 6) (s : State) : Out :=
  let ks := (s.otag.filter (fun e => e.2.slot == slot && paKind (16 * e.1) == .hbm)).map Prod.fst
  whenEnabled (s.slot slot).sweeping
    ((sweepSectors ks { s with l2 := s.l2.filter (fun e => e.2.tag.slot != slot) }).modSlot slot (fun k =>
      { k with gen := k.gen + 1, key := k.key + 1, sweeping := false }))

/-! ### Unresolved faults (R303, R304) -/

/-- Code of a suspended input stream. -/
def Binding.openFault : Binding → Option (BitVec 8)
  | .input b => b.fault.map EngFault.code
  | .unbound => none
  | .output _ => none

/-- The faults of a core that nothing has resolved. -/
def Core.openFaults (c : Core) : List (BitVec 8) :=
  c.ctxs.filterMap (fun e => e.2.openFault) ++ c.strm.filterMap (fun e => e.2.openFault)
    ++ (if c.sealed then [cPOISON_CONSUMED] else [])

/-- The faults of a region that nothing has resolved. -/
def State.openFaults (s : State) (g : Nat) (r : Region) : List (BitVec 8) :=
  (if r.st = .preempted then r.saved.map Prod.snd else r.allCores.map s.core).flatMap Core.openFaults
    ++ (s.ops.filter (fun o => o.region == g + 1)).filterMap (fun o => o.fault.map EngFault.code)
    ++ ((s.part r.part).holdBarges.filter (fun b => b.2.region == g + 1)).map (fun _ => cBARGE_NO_CONTEXT)
    ++ (s.ub.filter (fun e => e.2.st == .held && e.2.tag.slot == r.slot)).map (fun _ => cUNBACKED_OVERFLOW)

/-- The highest grade among codes. -/
def highestGrade (l : List (BitVec 8)) : Nat := l.foldl (fun a c => max a (gradeOf c).toNat) 0

/-- Ends an armed or ready launch of a fault domain with code 2. -/
def State.faultLaunch (s : State) (p : Nat) (slot : BitVec 6) (fdom grade : Nat) (l : Launch) : State :=
  if l.root.slot = slot then
    match s.resolve p l.root l.vahi l.block with
    | some (_, r) =>
      if r.f.fdom = fdom then
        let s := s.modPart p (fun v => { v with launches := v.launches.filter (fun k => k != l) })
        let s := s.setBlock p l.root l.vahi l.block 0 0 6
        s.reportRegion (newRegion p l.root l.vahi l.block r none 0 0 0 0) 2 grade
      else s
    | none => s
  else s

def faultLaunches (p : Nat) (slot : BitVec 6) (fdom grade : Nat) : List Launch → State → State
  | [], s => s
  | l :: t, s => faultLaunches p slot fdom grade t (s.faultLaunch p slot fdom grade l)

/-- An unresolved fault of region g: the job is killed, or the regions of its fault domain end (R304). -/
def State.faultRegion (s : State) (r : Region) (grade : Nat) : State :=
  if r.f.fdom = 0 then s.killJob r.slot grade []
  else
    let gs := (s.regions.filter (fun e => e.2.slot == r.slot && e.2.f.fdom == r.f.fdom)).map Prod.fst
    let s := endRegions .faulted 2 grade gs s
    (faultLaunches r.part r.slot r.f.fdom grade (s.part r.part).launches s).select r.part

/-- The grade a region ends with: the highest among its faults that nothing repaired, those that ended with their thread or
operation among them (R303). -/
def State.endGrade (s : State) (g : Nat) (r : Region) : Nat := highestGrade (s.openFaults g r ++ r.lasting)

/-- REGION_FAULTED (R304), with the highest grade of the region's unrepaired faults (R303). -/
def execRegionFaulted (g : Nat) (grade : BitVec 2) (s : State) : Out :=
  match Tab.find s.regions g with
  | none => notNow
  | some r => whenEnabled (!(s.openFaults g r).isEmpty && s.endGrade g r == grade.toNat) (s.faultRegion r grade.toNat)

/-! ### Uncorrectable errors (R311, R328) -/

/-- The partition of the job that a tag names (R328). -/
def State.partOfTag (s : State) (t : Tag) : Option Nat := if (s.slot t.slot).root.isSome then some (s.slot t.slot).part else none

/-- The partition that an error counts for: by the owner tag of the data it struck, else by the job tag of the core whose access
found it; none where it is unattributed (R328). -/
def State.attributed (s : State) (t : Option Tag) (finder : Nat) : Option Nat :=
  match t with
  | some t => s.partOfTag t
  | none => (s.core finder).tag.bind s.partOfTag

/-- Counts a marked sector for the job whose tag it carries. -/
def State.countMarked (s : State) (t : Option Tag) : State :=
  s.count (t.bind s.partOfTag) (fun c => { c with ueMarked := satInc c.ueMarked })

/-- An outstanding result's piece with the mark. -/
def Piece.marked : Piece → Piece
  | .reg n v _ => .reg n v true
  | .mask b v _ => .mask b v true

/-- Marks piece j of the k-th outstanding result. -/
def Ctx.markFlight (t : Ctx) (k j : Nat) : Ctx :=
  match t.outst[k]? with
  | some o =>
    match o.pieces[j]? with
    | some p => { t with outst := setAt t.outst k { o with pieces := setAt o.pieces j p.marked } }
    | none => t
  | none => t

/-- Whether piece j of the k-th outstanding result is data of a load that has reached its core. -/
def Ctx.inFlight (t : Ctx) (k j : Nat) : Bool :=
  match t.outst[k]? with
  | some o => o.ready && (o.kind == .load || o.kind == .atomic) && decide (j < o.pieces.length)
  | none => false

/-- UNCORRECTABLE_ERROR (R311): the sector at rest or in flight, or the register-file entry, is marked. -/
def execUncorrectableError (place : ErrorPlace) (s : State) : Out :=
  match place with
  | .sector k =>
    if paKind (16 * k) = .reserved then .fault (.reserved (16 * k))
    else .next ((s.markPoison (16 * k) 16).countMarked (Tab.find s.otag (unitKey (16 * k))))
  | .l1 core k =>
    match Tab.find (s.core core).l1 k with
    | some x => .next ((s.putL1 core k { x with poison := true }).countMarked (some x.tag))
    | none => notNow
  | .l2 k =>
    match Tab.find s.l2 k with
    | some x => .next ({ s with l2 := Tab.set s.l2 k { x with poison := true } }.countMarked (some x.tag))
    | none => notNow
  | .entry core i =>
    whenEnabled (decide (core < Config.cores) && decide (i < Config.fileEntries))
      (s.modCore core (fun c => c.setReg i { c.reg i with poison := true }))
  | .strip chip i =>
    let x := Tab.getD (s.chip chip).cim i ⟨0, 0, none, false⟩
    whenEnabled (decide (chip < Config.chiplets) && decide (i < 4096))
      ((s.modChip chip (fun h => { h with cim := Tab.set h.cim i { x with poison := true } })).countMarked x.tag)
  | .flight core x k j =>
    whenEnabled ((s.thread core x).inFlight k j)
      ((s.modThread core x (fun t => t.markFlight k j)).countMarked (s.core core).tag)

/-! ### The restart of a core (R195, R316, R317, R339) -/

/-- Withdraws the arrivals of a core at one unit's current episode (R195). -/
def BarUnit.withdraw (u : BarUnit) (c : Nat) : BarUnit :=
  if u.complete then u
  else
    let gone := (u.mem.filter (fun m => m.2.arv && m.2.core == c)).length
    { u with
      mem := u.mem.map (fun m => (m.1, if m.2.arv && m.2.core == c then { m.2 with arv := false } else m.2))
      arrived := u.arrived - gone }

def withdrawAll (c : Nat) (cs : Tab Core) : Tab Core :=
  cs.map (fun e => (e.1, { e.2 with
    units := e.2.units.map (fun u => (u.1, u.2.withdraw c))
    barq := e.2.barq.filter (fun m => m.core != c) }))

/-- The arrival that a member's record stands for. -/
def BarUnit.arrival (u : BarUnit) (home unit i : Nat) (m : Member) : BarMsg where
  core := m.core
  ctx := m.ctx
  a0 := u.obj
  a1 := BitVec.ofNat 64 (u.scope.toNat * 2 ^ 28 + (u.members - 1) * 2 ^ 22 + i * 2 ^ 16 + unit * 2 ^ 14 + home)
  vahi := u.vahi
  root := u.root
  priv := u.priv
  out := m.out
  ipc := m.ipc

/-- The arrivals that a dead home had accepted, in rank order (R316). -/
def Core.accepted (c : Core) (home : Nat) : List BarMsg :=
  c.units.flatMap (fun e =>
    if e.2.complete then []
    else
      let ms := (e.2.mem.filter (fun m => m.2.arv && m.2.core != home)).mergeSort (fun a b => decide (a.2.rank ≤ b.2.rank))
      ms.map (fun m => e.2.arrival home e.1 m.1 m.2))

/-- Sends the results of the units of a core whose episode is complete. -/
def sendUnits : List (Nat × BarUnit) → State → State
  | [], s => s
  | (_, u) :: t, s => sendUnits t (if u.complete then sendResults u u.mem s else s)

/-- Clears a core's core-local memory. -/
def State.clearLocal (s : State) (n : Nat) : State :=
  let inside := fun (a : Nat) => decide (localPa n 0 ≤ a) && decide (a < localPa n 0 + 0x10000)
  { s with
    mem := s.mem.filter (fun c => !inside c.1)
    otag := s.otag.filter (fun e => !inside (16 * e.1))
    poison := s.poison.filter (fun e => !inside (16 * e.1)) }

/-- Register number of the port that CKDIR names (R175). -/
def ckPort : Nat → Option Nat
  | 1 => some 0xA2
  | 2 => some 0xA3
  | 3 => some 0xA4
  | 4 => some 0xA5
  | 5 => some 0xA1
  | _ => none

/-- The core that holds the checkpoint of core n, if it lives. -/
def State.ckHolder (s : State) (n : Nat) (f : Fields) : Option Nat :=
  match ckPort f.ckdir with
  | none => none
  | some k =>
    match Tab.find (s.core n).links k with
    | some m => if (s.core m).sealed then none else some m
    | none => none

/-- A doubleword of a checkpoint, with its mark (R311). -/
def State.ckWord (s : State) (t : Tag) (m : Nat) (f : Fields) (o : Nat) : Word × Bool :=
  (BitVec.ofNat 64 (s.physRead t (localPa m (f.ckoff + o)) 8), s.physPoison t (localPa m (f.ckoff + o)) 8)

/-- The checkpoint of a task, if it is valid. -/
def State.checkpoint (s : State) (n : Nat) (r : Region) : Option Checkpoint :=
  match s.ckHolder n r.f with
  | none => none
  | some m =>
    let x := fun (o : Nat) => s.ckWord (s.slotTag r.slot) m r.f o
    let w := fun (o : Nat) => (x o).1
    let d0 := w 0
    let d2 := w 16
    let nreg := fieldOf d2.toNat 7 0
    let loff := fieldOf d2.toNat 31 16
    let llen := fieldOf d2.toNat 47 32
    let start := 64 + (8 * nreg + 63) / 64 * 64
    let ok := d0.getLsbD 63 && fieldOf d0.toNat 62 32 == 0 && fieldOf d2.toNat 63 48 == 0 && fieldOf d2.toNat 15 8 == 0
      && [32, 40, 48, 56].all (fun o => w o == 0) && decide (nreg ≤ windowOf r.f.nctx)
      && decide (loff + 64 * llen ≤ 65536) && decide (start + 64 * llen ≤ r.f.cksize)
    if ok then
      some { pc := w 8, pred := w 24, regs := (List.range nreg).map (fun i => x (64 + 8 * i)), loff := loff,
             image := (List.range (8 * llen)).map (fun i => x (start + 8 * i)) }
    else none

/-- Writes the core-local image of a checkpoint. -/
def writeLocalImage (n : Nat) (t : Tag) : Nat → List (Word × Bool) → State → State
  | _, [], s => s
  | o, (w, p) :: l, s =>
    let s := s.physWrite t (localPa n o) 8 w.toNat
    writeLocalImage n t (o + 8) l (if p then s.markPoison (localPa n o) 8 else s)

/-- The streams of a restarted core: those into it answer RESYNC, those from it begin anew (R339). -/
def State.resyncStreams (s : State) (n : Nat) : State :=
  { s with
    streams := (s.streams.filter (fun t => t.src != .core n)).map (fun t => if t.dst = .core n then { t with resync := true } else t)
    flights := s.flights.filter (fun f => f.src != .core n) }

/-- Resumes, with mode 00, the threads that error tokens of core c halted (R316). -/
def resumeReaders (c : Nat) : List (Nat × Nat) → State → State
  | [], s => s
  | (m, x) :: t, s => resumeReaders c t (((s.modCore m (fun k => k.dropToken x)).resumeRetry m x).endStop m)

/-- The threads halted by UPSTREAM_ERROR on links from core c. -/
def State.haltedReaders (s : State) (c : Nat) : List (Nat × Nat) :=
  s.cores.flatMap (fun e =>
    (e.2.ctxs.filter (fun t => t.2.st == .halted && t.2.hcode == cUPSTREAM_ERROR && t.2.was.isNone
      && match t.2.hport with
        | some p => s.inPartner e.1 p == some c
        | none => false)).map (fun t => (e.1, t.1)))

/-- The spare that logical core c names is empty, and unsealed (R316 steps 5 and 6). -/
def State.freshCore (s : State) (c : Nat) : State :=
  let s := ((s.resyncStreams c).clearLocal c).modCore c (fun k => { k.vacant with l1 := [], tlb := [], waitRefuse := [] })
  s.unseal c

/-- Sets poison marks of registers. -/
def Core.markRegs (c : Core) (b : Nat) : List (Word × Bool) → Core
  | [] => c
  | (_, p) :: t => (if p then c.setReg b { c.reg b with poison := true } else c).markRegs (b + 1) t

/-- Starts context 0 of the spare from a checkpoint (R317). -/
def State.startCheckpoint (s : State) (c g : Nat) (r : Region) (t : Nat) (k : Checkpoint) : State :=
  let tag := s.slotTag r.slot
  let scopes := s.scopeCache r
  let s := s.modCore c (fun v =>
    let v := v.setUp g r r.tasks t false tag scopes
    (v.modCtx 0 (fun u =>
      { u with st := .runnable, park := none, pc := wordAligned k.pc, pred := k.pred })).fillRegs 0 (k.regs.map Prod.fst)
    |>.markRegs 0 k.regs)
  writeLocalImage c tag k.loff k.image s

/-- Delivers the held barges of a region to cores of it that take them (R316 step 8). -/
def deliverHeld (g p : Nat) (cs : List Nat) : List (Nat × Barge) → State → State
  | [], s => s
  | (i, b) :: t, s =>
    if b.region = g + 1 then
      match cs.find? (fun n => (s.core n).bargeRoom) with
      | some n =>
        deliverHeld g p cs t ((s.modPart p (fun v => { v with holdBarges := Tab.erase v.holdBarges i })).modCore n (fun k =>
          { k with bargeq := k.bargeq ++ [b] }))
      | none => deliverHeld g p cs t s
    else deliverHeld g p cs t s

/-- Steps 1 and 2 of R316: the dead core's arrivals are withdrawn, and those its own units had accepted are kept. -/
def State.withdrawCore (s : State) (c : Nat) : State :=
  let s := sendUnits (s.core c).units s
  { s with cores := withdrawAll c s.cores }

/-- Steps 5 to 8 of R316, once the table names the spare: it starts from the checkpoint, and the readers of its links and the
held barges go on. Where the region has ended, or the core ran none, the spare is left empty. -/
def State.finishRestart (s : State) (c g : Nat) (k : Option Checkpoint) (kept : List BarMsg) : State :=
  let task := (s.core c).task
  let here := (s.core c).region
  let s := s.freshCore c
  match g, k with
  | g + 1, some k =>
    match Tab.find s.regions g with
    | some r =>
      if here = g + 1 ∧ r.st = .running then
        let s := (s.startCheckpoint c g r task k).modCore c (fun v => { v with barq := kept ++ v.barq })
        let s := resumeReaders c (s.haltedReaders c) s
        let s := deliverHeld g r.part r.tasks (s.part r.part).holdBarges s
        s.count (some r.part) (fun n => { n with restarts := satInc n.restarts })
      else s
    | none => s
  | _, _ => s

/-- What R316 does with a dead core: none where its region cannot go on, which has then ended (R317, R320). -/
def State.restartPlan (s : State) (c : Nat) : State × Nat × Option Checkpoint × List BarMsg :=
  let kept := (s.core c).accepted c
  match (s.core c).region with
  | 0 => (s, 0, none, [])
  | g + 1 =>
    match Tab.find s.regions g with
    | none => (s, 0, none, [])
    | some r =>
      if r.f.paired then (s.faultRegion r 2, 0, none, [])
      else
        let s := s.withdrawCore c
        match s.checkpoint c r with
        | some v => (s, g + 1, some v, kept)
        | none => ((s.keeperRec r.part cCHECKPOINT_INVALID 2 0).faultRegion r 2, 0, none, [])

/-- Whether an update is to restart a core. -/
def Update.restarts (c : Nat) : Update → Bool
  | .restart n _ _ _ _ _ _ => n == c
  | .death _ _ ns _ => ns.contains c
  | .boot _ | .retire _ _ _ => false

/-- CONTAINMENT_RESTART (R316): the lock-keeper handles the record of a dead core, and an update of the table is to give it the
spare, physical core `spare` mod 9 of site number `spare` / 9. Where the region cannot be restarted it ends, whatever spare
there is. -/
def execContainmentRestart (c spare : Nat) (s : State) : Out :=
  let px := spare / 9 / 24
  let py := spare / 9 % 24
  let pc := spare % 9
  if !(s.core c).sealed || s.updates.any (Update.restarts c) then notNow
  else
    let (u, g, k, kept) := s.restartPlan c
    if (s.core c).region != 0 && g == 0 then .next u
    else whenEnabled (s.spareFree px py pc) ((u.loseCore (s.remap.coreEntry c)).queueUpdate (.restart c g px py pc k kept))

/-! ### Corrected errors (R328, R365, R366) -/

/-- The owner tag of a 16-byte row of a basin bank: of the window's line, or in CACHE mode of the line at its place. -/
def State.rowTag (s : State) (chip bank row : Nat) : Option Tag :=
  if ((s.chip chip).bank bank).mode != .cache then Tab.find s.otag (unitKey (basinPa chip bank (16 * row)))
  else
    let place := bankLines * bank + row / 4
    match s.l2.find? (fun e => e.2.home == chip && e.2.place == place && e.1 % 4 == row % 4) with
    | some e => some e.2.tag
    | none => (s.ub.find? (fun e => e.2.st == .resident && e.2.home == chip && e.2.place == place)).map (fun e => e.2.tag)

/-- The job tag that a register-file entry carries: that of the window it belongs to, as placement, SPAWN or a barge gave it
(R228). -/
def Core.entryTag (c : Core) (i : Nat) : Option Tag :=
  (c.ctxs.find? (fun e => e.2.st.hasWindow && decide (e.2.base ≤ i) && decide (i < e.2.base + e.2.size))).bind (fun e => e.2.tag)

/-- The owner tag of what a corrected error strikes, and whether the place exists. -/
def State.struck (s : State) : ErrorArray → Nat → Bool × Option Tag
  | .bank chip bank, row => (decide (chip < Config.chiplets) && decide (bank < 32) && decide (row < 32768), s.rowTag chip bank row)
  | .sectors, k => (paKind (16 * k) == .hbm || paKind (16 * k) == .coreLocal, Tab.find s.otag (unitKey (16 * k)))
  | .l1 core, k => ((Tab.find (s.core core).l1 k).isSome, (Tab.find (s.core core).l1 k).map (fun x => x.tag))
  | .entries core, i => (decide (core < Config.cores) && decide (i < Config.fileEntries), (s.core core).entryTag i)
  | .strips chip, i => (decide (chip < Config.chiplets) && decide (i < 4096), (Tab.getD (s.chip chip).cim i ⟨0, 0, none, false⟩).tag)

/-- Whether a corrected error counts as one of HBM. -/
def strikesHbm : ErrorArray → Nat → Bool
  | .sectors, k => paKind (16 * k) == .hbm
  | .bank _ _, _ | .l1 _, _ | .entries _, _ | .strips _, _ => false

/-- The notice of a corrected error that core c's own access met in a basin bank (R365). -/
def State.errorNotice (s : State) (c chip bank : Nat) : State :=
  match s.partOfCore c with
  | none => s
  | some p =>
    let w : Word := BitVec.ofNat 64 (chip * 2 ^ 21 + bank * 2 ^ 16 + c)
    let m : Mail := { kind := 4, ctx := 0, srcCore := BitVec.ofNat 13 c, srcCtx := 0, tag := 0xFFFE, payload := w }
    let s := s.modCore (s.part p).lk (fun k => { k with waitNotice := k.waitNotice ++ [m] })
    s.modPart p (fun v => { v with errq := v.errq ++ [w] })

/-- CORRECTED_ERROR (R328, R365): an access of core c met a corrected error; 4,608 stands for a sweeper (R329). It counts for the
job whose data it struck, and one in a basin bank gives a notice. -/
def execCorrectedError (c : Nat) (array : ErrorArray) (i : Nat) (s : State) : Out :=
  let (there, tag) := s.struck array i
  let u := match array with
    | .bank chip bank => if c < Config.cores then s.errorNotice c chip bank else s
    | .sectors | .l1 _ | .entries _ | .strips _ => s
  whenEnabled (there && decide (c ≤ Config.cores))
    (u.count (s.attributed tag c) (fun n =>
      if strikesHbm array i then { n with ceHbm := satInc n.ceHbm } else { n with ceSram := satInc n.ceSram }))

/-- The last three times of a core's notices, oldest first. -/
def lastThree (l : List Nat) (t : Nat) : List Nat := (l ++ [t]).drop (l.length - 2)

/-- Whether three notices lie within 2.88 × 10^12 lock-keeper cycles. -/
def tooMany (l : List Nat) : Bool :=
  match l with
  | [a, _, c] => decide (c - a ≤ 2880000000000)
  | _ => false

/-- CORRECTED_ERROR_NOTICE (R366): the lock-keeper logs the oldest notice, and may begin to retire its core. -/
def execCorrectedErrorNotice (p : Nat) (s : State) : Out :=
  match (s.part p).errq with
  | [] => notNow
  | w :: t =>
    let c := fieldOf w.toNat 12 0
    let now := (s.core (s.part p).lk).cycle
    let l := lastThree (Tab.getD (s.part p).errLog c []) now
    let u := s.modPart p (fun v => { v with errq := t, errLog := Tab.set v.errLog c l })
    if tooMany l && !(s.core c).retiring then
      match s.siteSpare c with
      | some pc => .next (u.startRetire c pc)
      | none => .next u
    else .next u

/-! ### Sweepers (R329) -/

/-- Lines of a pass: the 32 data banks of a chiplet and its 2 parity banks, or its CIM macros. -/
def passLines (cim : Bool) : Nat := if cim then 557056 else 278528

/-- A sweeper after one line. -/
def Sweeper.tick (v : Sweeper) (lines : Nat) : Sweeper :=
  if v.pos.toNat + 1 = lines then { v with pos := 0, passes := v.passes + 1 } else { v with pos := v.pos + 1 }

/-- SWEEP_LINE (R329): the next line of the basin's or the CIM's sweeper. -/
def execSweepLine (chip : Nat) (cim : Bool) (s : State) : Out :=
  if Config.chiplets ≤ chip then notNow
  else if cim then .next (s.modChip chip (fun h => { h with sweepCim := h.sweepCim.tick (passLines true) }))
  else
    let pos := (s.chip chip).sweepBasin.pos.toNat
    .next ((s.encodeLine chip (pos / 8192) (pos % 8192)).modChip chip (fun h =>
      { h with sweepBasin := h.sweepBasin.tick (passLines false) }))

end Sys2Proof.Machine
end

