-- ==== Sys2Proof/Machine/Guast.lean ====
section
/-! DEFINITION. The Guast requests as the service lock-keeper takes them: the oldest one, its fields, and its end (R352 to
R355, R357). -/

namespace Sys2Proof.Machine

/-! Operations of R354. -/
def gDRAIN : Nat := 0x01
def gUNDRAIN : Nat := 0x02
def gOFFLINE : Nat := 0x03
def gONLINE : Nat := 0x04
def gKILL_JOB : Nat := 0x05
def gSET_AGE : Nat := 0x06
def gSET_STRENGTH : Nat := 0x07
def gSET_TOUT : Nat := 0x08
def gRETIRE_CORE : Nat := 0x09
def gSET_POWER : Nat := 0x0A
def gSET_FABRIC : Nat := 0x0B
def gSURVEY_NOW : Nat := 0x0C
def gSET_QUEUE : Nat := 0x0D

/-- Whether a virtual function may request an operation (R354). -/
def vfMay (op : Nat) : Bool := [gDRAIN, gUNDRAIN, gKILL_JOB, gSURVEY_NOW, gSET_QUEUE].contains op

/-- Whether function f may request an operation. -/
def mayRequest (f op : Nat) : Bool := f == 0 || vfMay op

/-- The partition number of a function: its own, and the service partition for the physical function (R354, R356). -/
def funcPart (f : Nat) : Nat := f

/-- Ends the oldest request: GST and GVAL, DONE, then a notice (R352, R353). -/
def State.endRequest (s : State) (gst gval : Nat) : State :=
  match s.guast with
  | [] => s
  | f :: t =>
    let u := s.func f
    let s := { s with guast := t }.setFunc f { u with gst := BitVec.ofNat 8 gst, gval := BitVec.ofNat 48 gval, done := true }
    let v : Word := BitVec.ofNat 64 (u.gop.toNat * 2 ^ 56 + gval % 2 ^ 48)
    let s := s.noticeTo f 3 gst 0 (funcPart f) v
    if f = 0 then s else s.noticeTo 0 3 gst 0 (funcPart f) v

/-- Whether GARG has a nonzero bit outside the bits of a mask. -/
def unnamed (g mask : Nat) : Bool := g &&& mask != g

/-- The code of a partition's state (R353). -/
def PartState.code : PartState → Nat
  | .active => 0
  | .draining => 1
  | .drained => 2
  | .offline => 3

/-- Moves a partition to a state, with its notice (R353, R357). -/
def State.setPartState (s : State) (p : Nat) (st : PartState) : State :=
  (s.modPart p (fun v => { v with st := st })).notice p 2 st.code 0 0

/-- Handles the oldest request where its operation is the one an event is of: not allowed gives GST 1, a bad argument
GST 2, and what the state refuses GST 1, in the order of R354; `run` is given the caller and GARG. -/
def requestEvent (op : Nat) (sub : Nat → Nat → State → Bool) (bad : Nat → Nat → State → Bool)
    (run : Nat → Nat → State → Out) (s : State) : Out :=
  match s.guast with
  | [] => notNow
  | f :: _ =>
    let u := s.func f
    let g := u.garg.toNat
    if u.gop.toNat = op ∧ sub f g s then
      if !mayRequest f op then .next (s.endRequest 1 0)
      else if bad f g s then .next (s.endRequest 2 0)
      else run f g s
    else notNow

end Sys2Proof.Machine
end

