-- ==== Sys2Proof/Machine/EvUpdates.lean ====
section
/-! DEFINITION. Updates of the remap table: bring-up, the live retirement of a core, the restart of one, and the death of a
site (R316, R332, R333, R339 to R341, R361, R366 to R368). -/

namespace Sys2Proof.Machine

/-! ### The stop and the move of a retired core (R339, R367) -/

/-- Whether a thread of a core that is being retired has stopped, with all that a stop waits for (R322). -/
def State.threadStopped (s : State) (n x : Nat) (t : Ctx) : Bool := t.outst.all (s.excused n x) && t.releases.all (s.releaseStops n x)

/-- Whether every context of a core that is being retired has stopped. -/
def State.retireStopped (s : State) (n : Nat) : Bool :=
  s.coreQuiet n && !s.moving n && (s.core n).ctxs.all (fun e => s.threadStopped n e.1 e.2)

/-- Whether a tag is that of a job. -/
def State.jobTagged (s : State) (t : Tag) : Bool := (s.slot t.slot).root.isSome && t == s.slotTag t.slot

/-- The core-local memory of core n as a restore writes it: the lines with a job's tag; every other line has the null tag
(R367). -/
def State.keepTagged (s : State) (n : Nat) : State :=
  let keep := fun (k : Nat) =>
    !(decide (localPa n 0 ≤ 16 * k) && decide (16 * k < localPa n 0 + 0x10000)) || ((Tab.find s.otag (k / 4 * 4)).map s.jobTagged).getD false
  { s with
    mem := s.mem.filter (fun c => keep (c.1 / 16))
    otag := s.otag.filter (fun e => keep e.1)
    poison := s.poison.filter (fun e => keep e.1) }

/-- Empties an L1: dirty sectors go to their homes or to HBM. -/
def evictAll (n : Nat) : List Nat → State → State
  | [], s => s
  | k :: t, s => evictAll n t (s.evictL1 n k)

/-- The save of a stopped core and its restore on the new one (R339 steps 2 and 3): the new core's L1 and TLB are empty, and
input elements are read again (R323). -/
def State.moveCoreState (s : State) (n : Nat) : State :=
  ((evictAll n ((s.core n).l1.map Prod.fst) s).keepTagged n).modCore n (fun c =>
    { c with tlb := [], strm := rereadStreams c.strm })

/-- Drops the corrected-error notices that name a core, and its log (R366). -/
def Part.dropNotices (v : Part) (c : Nat) : Part :=
  { v with errq := v.errq.filter (fun w => fieldOf w.toNat 12 0 != c), errLog := Tab.erase v.errLog c }

/-- Ends the RETIRE_CORE request of a core, if it is the oldest request. -/
def State.endRetire (s : State) (n gst : Nat) : State :=
  match s.guast with
  | [] => s
  | f :: _ =>
    let u := s.func f
    if u.gop.toNat = gRETIRE_CORE ∧ u.garg.toNat % 2 ^ 13 = n then s.endRequest gst 0 else s

/-- A retired core goes on (R339 step 5); its old silicon is no spare, and its log starts afresh (R366, R368). -/
def State.finishRetire (s : State) (n : Nat) (old : BitVec 32) : State :=
  let s := (s.loseCore old).modCore n (fun c => { c with retiring := false })
  (match s.partOfCore n with
    | some p => s.modPart p (fun v => v.dropNotices n)
    | none => s).endRetire n 0

/-! ### One update (R332, R333) -/

/-- Whether an update can begin: a retirement begins when its core has stopped. -/
def State.updateReady (s : State) : Update → Bool
  | .retire n _ _ => s.retireStopped n
  | .boot _ | .restart _ _ _ _ _ _ _ | .death _ _ _ _ => true

/-- Whether a retirement has lost its object: its core has died or stands elsewhere. -/
def State.updateVoid (s : State) : Update → Bool
  | .retire n _ old => (s.core n).sealed || s.remap.coreEntry n != old
  | .boot _ | .restart _ _ _ _ _ _ _ | .death _ _ _ _ => false

/-- A retirement that has lost its object ends. -/
def State.voidUpdate (s : State) : Update → State
  | .retire n _ _ => (s.modCore n (fun c => { c with retiring := false })).endRetire n 1
  | .boot _ | .restart _ _ _ _ _ _ _ | .death _ _ _ _ => s

/-- What is done before the table changes. -/
def State.prepareUpdate (s : State) : Update → State
  | .retire n _ _ => s.moveCoreState n
  | .boot _ | .restart _ _ _ _ _ _ _ | .death _ _ _ _ => s

/-- Each router but the failed ones copies the image and acknowledges (R332 step 1). -/
def State.loadTables (s : State) (failed : List Nat) : State :=
  let live := allSites.filter (fun p => s.siteOpen p.1 p.2)
  let acks := (live.filter (fun p => !failed.contains (siteKey p.1 p.2))).length
  ({ s with pending := some s.readRemap, flipped := 0 } : State).setControl s.nextTg acks 1

/-- REMAP_LOAD (R332 step 1): the oldest update takes the lock and writes its image, if none is in progress; the routers load
it, again where some of them failed. -/
def execRemapLoad (failed : List Nat) (s : State) : Out :=
  match s.updates with
  | [] => notNow
  | u :: t =>
    if s.phase = 0 then
      if s.updateVoid u then .next ({ s with updates := t }.voidUpdate u)
      else whenEnabled (s.updateReady u) (((s.prepareUpdate u).beginUpdate u).loadTables failed)
    else whenEnabled (s.phase == 1 && s.acks != s.liveSites) ((s.beginUpdate u).loadTables failed)

/-- The last router has taken the new table and generation. -/
def State.commitTable (s : State) (r : Remap) (u : Update) : State :=
  ({ s with former := some s.remap, remap := r, pending := none, tg := s.nextTg, flipped := 0 } : State).flipSites r u

/-- Routers of a set replace their active table and take the new TG (R332 step 2). -/
def flipRouters (routers : BitVec 624) (s : State) : Out :=
  match s.pending, s.updates with
  | some r, u :: _ =>
    let live := siteSet (fun p => s.siteOpen p.1 p.2)
    let done := (s.flipped ||| routers) &&& live
    let v := s.setControl s.nextTg (siteCount done) 2
    whenEnabled ((s.phase == 1 && s.acks == s.liveSites) || s.phase == 2)
      (if done = live then v.commitTable r u else { v with flipped := done })
  | _, _ => notNow

/-- REMAP_FLIP (R332 step 2): every router that has not done so replaces its active table and takes the new TG. -/
def execRemapFlip (s : State) : Out := flipRouters (BitVec.allOnes 624) s

/-- Whether every live old home has released every line whose home moved (R341). -/
def State.released (s : State) : Bool :=
  s.l2.all (fun e => !(s.chip e.2.home).live || e.2.home == s.homeAt e.2.pin e.2.tag.slot (16 * e.1))
    && s.ub.all (fun e => !(s.chip e.2.home).live || e.2.home == s.homeAt e.2.pin e.2.tag.slot (64 * e.1)
        || (match e.2.st with | .spilled _ => true | .resident => false | .held => true))

/-- REMAP_CONFIRM (R332 step 3): base die 0 fences the links of every site that no entry names any longer. -/
def execRemapConfirm (s : State) : Out :=
  whenEnabled (s.pending.isNone && (s.phase == 2 || s.phase == 3) && s.released)
    (let s := match s.former with
        | some old => fenceUnnamed s.remap (changedEntries old s.remap) s
        | none => s
     ({ s with former := none } : State).setControl s.tg s.liveSites 3)

/-- The dead cores of a site that the table places elsewhere now start again (R316, R339, R340); those it could not place stay
sealed. -/
def restartDead (px py : Nat) : List Nat → State → State
  | [], s => s
  | n :: t, s =>
    restartDead px py t (if (s.core n).sealed then
      let (s, g, k, kept) := s.restartPlan n
      if entryAtSite px py (s.remap.coreEntry n) then s else s.finishRestart n g k kept
    else s)

/-- Whether boot accepts an image: its key is the vendor's, its signature verifies, and it is not older than the fuses allow
(R362). -/
def Trust.accepts (t : Trust) (i : Image) : Bool :=
  Config.shake256 i.key == t.digest && Config.ed448 i.key i.code i.sig && decide (t.version ≤ i.version)

/-- Step 7 of R361: the service lock-keeper starts Pyoskeb, and partitions are made; an image that it refuses ends the start-up
at step 6. -/
def State.startPyoskeb (s : State) : State :=
  if s.trust.accepts s.trust.pyoskeb then
    { s with parts := s.plan, boot := ⟨7, Config.sites⟩, trust := { s.trust with loaded := s.trust.loaded ++ [s.trust.pyoskeb] } }
  else { s with boot := ⟨6, Config.sites⟩ }

/-- What Pyoskeb does once the table is in place. -/
def State.finishUpdate (s : State) : Update → State
  | .boot _ => s.startPyoskeb
  | .retire n _ old => s.finishRetire n old
  | .restart c g _ _ _ k kept => s.finishRestart c g k kept
  | .death px py ns _ => restartDead px py ns s

/-- REMAP_IDLE (R332, R333): the update ends, the lock is freed, and what waited for the table goes on. -/
def execRemapIdle (s : State) : Out :=
  match s.updates with
  | [] => notNow
  | u :: t =>
    whenEnabled (s.phase == 3 && s.pending.isNone && s.acks == s.liveSites)
      (({ s with updates := t }.setControl s.tg 0 0).setLock false |>.finishUpdate u)

/-! ### The death of a site (R340) -/

/-- The record of an engine operation that ran at a dead site. -/
def State.lostRec (s : State) (chip core ctx : Nat) (eng : BitVec 3) (opseq : BitVec 32) (ipc : Word) (oprs : List Word) : State :=
  let r : FaultRec :=
    { FaultRec.blank with
      src := 3, router := chip, grade := gradeOf cENGINE_LOST, code := cENGINE_LOST, eng := eng, ctx := ctx, core := core,
      seq := (s.chip chip).recNo, opseq := opseq, cpc := (s.thread core ctx).pc, ipc := ipc, oprs := oprs }
  ((s.addRec (s.partOfCore core) r).modChip chip (fun h => { h with recNo := h.recNo + 1 })).addLasting core cENGINE_LOST

/-- Ends the operations that ran at a dead site: those of the units of its chiplets (R259). -/
def loseOps (cs : List Nat) : List EngineOp → State → State
  | [], s => s
  | o :: t, s =>
    loseOps cs t (if cs.contains (o.core / 8) && o.eng != 1 && o.ended.isNone then
        (s.lostRec (o.core / 8) o.core o.ctx o.eng o.seq o.ipc o.oprs).modOp o.id (fun o =>
          { o with fault := none, ended := some o.next, buf := [] })
      else s)

/-- Ends the input bindings of a core whose stream unit is lost. -/
def loseBindings (n : Nat) : List (Nat × Binding) → State → State
  | [], s => s
  | (i, b) :: t, s =>
    loseBindings n t (match b with
      | .input b =>
        if b.ended then s
        else (s.lostRec (n / 8) n b.ctx 3 b.seq b.ipc b.oprs).setBind n i (.input { b with fault := none, ended := true, buf := [] })
      | .unbound => s
      | .output _ => s)

def loseStreams : List Nat → State → State
  | [], s => s
  | n :: l, s => loseStreams l (loseBindings n (s.core n).strm s)

/-- The tags of the lines lost with cores and slices: dirty sectors, and unbacked lines. -/
def State.lostTags (s : State) (ns cs : List Nat) : List Tag :=
  ((s.l2.filter (fun e => e.2.dirty && cs.contains e.2.home)).map (fun e => e.2.tag))
    ++ ((s.ub.filter (fun e => cs.contains e.2.home && (match e.2.st with | .spilled _ => false | .resident => true | .held => true))).map
        (fun e => e.2.tag))
    ++ ns.flatMap (fun n => ((s.core n).l1.filter (fun e => e.2.dirty)).map (fun e => e.2.tag))

/-- Removes what the slice and banks of a dead chiplet held; it leaves the live set at the flip (R341). -/
def State.loseChip (s : State) (c : Nat) : State :=
  let lines := (s.ub.filter (fun e => e.2.home == c && (match e.2.st with | .spilled _ => false | .resident => true | .held => true))).map
    Prod.fst
  let s := absentAll lines s
  let inside := fun (a : Nat) => decide (basinPa c 0 0 ≤ a) && decide (a < basinPa (c + 1) 0 0)
  let old := s.chip c
  { s with
    l2 := s.l2.filter (fun e => e.2.home != c)
    mem := s.mem.filter (fun x => !inside x.1)
    otag := s.otag.filter (fun e => !inside (16 * e.1))
    poison := s.poison.filter (fun e => !inside (16 * e.1))
    code := s.code.filter (fun e => !inside (16 * e.1)) }.setChip c
    { Chiplet.clear with live := old.live, recNo := old.recNo, breqs := old.breqs.map (fun (q : BankReq) => { q with moving := none }) }

def loseChips : List Nat → State → State
  | [], s => s
  | c :: t, s => loseChips t (s.loseChip c)

/-- A core dies with its state. -/
def State.killCore (s : State) (n : Nat) : State := ((s.sealCore n).clearLocal n).modCore n (fun c => { c with l1 := [], tlb := [] })

def killCores : List Nat → State → State
  | [], s => s
  | n :: l, s => killCores l (s.killCore n)

def killSlots : List (BitVec 6) → State → State
  | [], s => s
  | k :: t, s => killSlots t (if (s.slot k).root.isSome then s.killJob k 2 [] else s)

/-- The logical cores and chiplets that the active table, or the one being loaded, places at a site. -/
def State.heldAt (s : State) (px py : Nat) : List Nat × List Nat :=
  let r := s.pending.getD s.remap
  ((List.range Config.cores).filter (fun n => entryAtSite px py (s.remap.coreEntry n) || entryAtSite px py (r.coreEntry n)),
   (List.range Config.chiplets).filter (fun c => entryAtSite px py (s.remap.chipEntry c) || entryAtSite px py (r.chipEntry c)))

/-- SITE_DEATH (R340): what the site held is lost, and an update of the table is to give its numbers spare silicon. -/
def execSiteDeath (px py : Nat) (s : State) : Out :=
  if px < 26 ∧ py < 24 ∧ s.siteOpen px py ∧ (s.site px py).state ≠ 2 then
    let (ns, cs) := s.heldAt px py
    let keys := ((s.lostTags ns cs).map Tag.slot).eraseDups
    let s := loseOps cs s.ops s
    let s := loseStreams ((List.range Config.cores).filter (fun n => cs.contains (n / 8))) s
    let s := killCores ns s
    let s := loseChips cs s
    let s := s.setSite px py { s.site px py with powered := false, cores := 0, fenced := true, state := 2 }
    let s := { s with flights := s.flights.filter (fun f => !(f.px == px && f.py == py)) }
    let s := if ns.isEmpty && cs.isEmpty then s else s.queueUpdate (.death px py ns cs)
    .next (killSlots keys s)
  else notNow

end Sys2Proof.Machine
end

