-- ==== Sys2Proof/Machine/EvNetwork.lean ====
section
/-! DEFINITION. Events of the routers, the streams and the wharves (R334 to R337, R343 to R348). -/

namespace Sys2Proof.Machine

/-! ### Routers (R334) -/

/-- The station that freight comes from and the one that it goes to. -/
def Flight.target (f : Flight) : Station :=
  match f.freight with
  | .message _ _ => f.dst
  | .answer _ => f.src
  | .resync => f.src

def Flight.origin (f : Flight) : Station :=
  match f.freight with
  | .message _ _ => f.src
  | .answer _ => f.dst
  | .resync => f.dst

/-- The next site in a direction, if there is one. -/
def neighbour (px py : Nat) : Dir → Option (Nat × Nat)
  | .north => if 0 < py then some (px, py - 1) else none
  | .south => if py + 1 < 24 then some (px, py + 1) else none
  | .west => if 0 < px then some (px - 1, py) else none
  | .east => if px + 1 < 26 then some (px + 1, py) else none

/-- Where the table of the router that holds a flight places the flight's station. -/
def State.spotOf (s : State) (f : Flight) : Spot := (s.tableAt (siteKey f.px f.py)).spot f.target

/-- Whether a flight has reached the site of its station; the places of base dies and wharves are not laid down. -/
def State.reached (s : State) (f : Flight) : Bool :=
  match s.spotOf f with
  | .site px py => px == f.px && py == f.py
  | .nowhere => false
  | .unplaced => true

/-- Hops between two sites on an empty mesh. -/
def distance (a b c d : Nat) : Nat := (a - c) + (c - a) + ((b - d) + (d - b))

/-- Key of the step at a site of the ordered class between two sites under the present TG. -/
def State.pathKey (s : State) (src dst here : Nat) : Nat := ((s.tg.toNat * 1024 + src) * 1024 + dst) * 1024 + here

/-- Whether the steps already fixed lead from a site to another, in at most so many hops. -/
def State.leads (s : State) (src dst px py goal : Nat) : Nat → Bool
  | 0 => false
  | k + 1 => siteKey px py == goal ||
    match Tab.find s.paths (s.pathKey src dst (siteKey px py)) with
    | some d =>
      match neighbour px py d with
      | some (x, y) => s.leads src dst x y goal k
      | none => false
    | none => false

/-- Number of the site of a station, for the table of routes; 1,023 where it has none. -/
def spotKey : Spot → Nat
  | .site px py => siteKey px py
  | .nowhere | .unplaced => 1023

/-- Whether a route may enter a site: any on the adaptive class; on the ordered class one that the table names (R334). -/
def State.onRoute (s : State) (f : Flight) (x y : Nat) : Bool := !f.ordered || (s.tableAt (siteKey f.px f.py)).namesSite x y

/-- Whether a router may send a flight from its site to (x, y) towards (px, py): nearer, or round sites that routes avoid. -/
def State.towards (s : State) (f : Flight) (px py x y : Nat) : Bool :=
  let nearer := fun (a b : Nat) => decide (distance a b px py < distance f.px f.py px py)
  s.onRoute f x y && (nearer x y || [Dir.north, .south, .west, .east].all (fun d =>
    match neighbour f.px f.py d with
    | some (a, b) => !(nearer a b && s.onRoute f a b)
    | none => true))

/-- The direction in which the route table of the ordered class leads a flight, once it is fixed. -/
def State.fixedStep (s : State) (f : Flight) : Option Dir :=
  if f.ordered then
    Tab.find s.paths (s.pathKey (spotKey (s.remap.spot f.origin)) (spotKey (s.spotOf f)) (siteKey f.px f.py))
  else none

/-- Whether a direction is one that the router may take for a flight to (px, py), where its neighbour is (x, y). -/
def State.mayStep (s : State) (f : Flight) (dir : Dir) (px py x y : Nat) : Bool :=
  match s.fixedStep f with
  | some d => d == dir
  | none =>
    s.towards f px py x y &&
      !(f.ordered && s.leads (spotKey (s.remap.spot f.origin)) (siteKey px py) x y (siteKey f.px f.py) Config.maxHops)

/-- Fixes the step that the ordered class takes at a site. -/
def State.fixStep (s : State) (f : Flight) (dir : Dir) : State :=
  let key := s.pathKey (spotKey (s.remap.spot f.origin)) (spotKey (s.spotOf f)) (siteKey f.px f.py)
  if f.ordered then { s with paths := Tab.set s.paths key dir } else s

/-- The flight at the next site. -/
def Flight.hop (f : Flight) (x y : Nat) : Flight := { f with px := x, py := y, hops := f.hops + 1 }

/-- ROUTER_HOP (R334): the router that holds flight k forwards it towards the site that its table names, or drops it. The event
gives the direction where the table of routes has not fixed it. -/
def execRouterHop (k : Nat) (dir : Dir) (s : State) : Out :=
  match s.flights[k]? with
  | none => notNow
  | some f =>
    let drop : Out := .next { s with flights := removeAt s.flights k }
    match s.spotOf f with
    | .unplaced => notNow
    | .nowhere => drop
    | .site px py =>
      if px = f.px ∧ py = f.py then notNow
      else if !s.siteOpen f.px f.py || decide (Config.maxHops ≤ f.hops) then drop
      else
        match neighbour f.px f.py dir with
        | none => notNow
        | some (x, y) =>
          if s.mayStep f dir px py x y then
            (if s.siteOpen x y then .next { (s.fixStep f dir) with flights := setAt s.flights k (f.hop x y) } else drop)
          else notNow

/-! ### Arrivals (R336, R337, R339) -/

/-- Whether two flights carry messages of one stream. -/
def Flight.sameStream (f g : Flight) : Bool :=
  f.src == g.src && f.dst == g.dst && f.ordered == g.ordered &&
    match f.freight, g.freight with
    | .message _ _, .message _ _ => true
    | _, _ => false

/-- Whether an earlier message of the ordered class is still under way. -/
def State.overtakes (s : State) (k : Nat) (f : Flight) : Bool := f.ordered && (s.flights.take k).any f.sameStream

/-- A RESYNC at the source (R339): the destination takes the lowest number of the resend as its expected number. -/
def State.resynced (s : State) (t : Stream) : State :=
  let t' := { t with resync := false, map := 0, answers := [], expected := (t.unacked.head?.map Prod.fst).getD t.nextSeq }
  (s.setStream t').resend t'

/-- Whether the site where a flight has arrived passes messages. -/
def State.openAt (s : State) (f : Flight) : Bool :=
  match s.spotOf f with
  | .site px py => s.siteOpen px py
  | .nowhere | .unplaced => true

/-- STREAM_MESSAGE_ARRIVAL (R336): flight k at its station. -/
def execStreamMessageArrival (k : Nat) (s : State) : Out :=
  match s.flights[k]? with
  | none => notNow
  | some f =>
    if !s.reached f || s.overtakes k f then notNow
    else
      let t := s.stream f.src f.dst f.ordered
      let gone := { s with flights := removeAt s.flights k }
      if !s.openAt f then .next gone
      else
        match f.freight with
        | .message q b =>
          if s.performs f.dst then .next (gone.arrive t q b)
          else
            match f.dst with
            | .wharf _ => notNow
            | _ => .next gone
        | .answer q => .next (gone.acknowledge t q)
        | .resync => .next (gone.resynced t)

/-- RETRANSMIT_TIMEOUT (R337): stream k sends every unacknowledged message again. -/
def execRetransmitTimeout (k : Nat) (s : State) : Out :=
  match s.streams[k]? with
  | none => notNow
  | some t => whenEnabled (!t.unacked.isEmpty) (s.resend t)

/-! ### Links of wharves (R347, R348) -/

/-- Sends flits again with the link's present LACK and NAK. -/
def Wharf.resend (v : Wharf) (fs : List Flit) : Wharf :=
  { v with
    out := v.out ++ fs.map (fun (f : Flit) => sealFlit { f with lack := v.got, nak := v.nak })
    nak := v.nak && fs.isEmpty }

/-- Whether a LACK of q leaves a flit unreturned: it comes after q, in a window of 1,024. -/
def afterLack (q p : BitVec 16) : Bool := decide (0 < (p - q).toNat) && decide ((p - q).toNat ≤ Config.wharfSlots)

/-- Flits that a LACK of q does not return, and the messages of which one stands. -/
def Wharf.returned (v : Wharf) (q : BitVec 16) : Wharf :=
  { v with sent := v.sent.filter (fun f => afterLack q f.lseq), taken := v.taken.filter (fun m => afterLack q m.1) }

/-- A flit taken in LSEQ order: its LACK and NAK act, and its payload joins what the wharf received. -/
def Wharf.take (v : Wharf) (f : Flit) : Wharf :=
  let v := ({ v with got := f.lseq }).returned f.lack
  let v := if f.kind = 1 ∨ f.kind = 2 then { v with rx := v.rx ++ [f.payload] } else v
  if f.nak then v.resend v.sent else v

/-- An idle flit, where nothing has left since `before` flits had and a LACK or NAK is to be told (R348). -/
def Wharf.tell (v : Wharf) (before : Nat) : Wharf :=
  if v.live && decide (v.out.length = before) && v.roomFor 1 then v.sendFlit 0 0 else v

/-! ### What other panels send (R343 to R345) -/

/-- A SEND from another panel reaches its core's station (R345, R347); one for a core that there is not is refused (R160). -/
def State.inSend (s : State) (w : Nat) (x : BitVec 12 × Nat × Nat × Word × Word) : State :=
  let (panel, core, ctx, desc, val) := x
  let m : SendMsg :=
    { desc := desc, val := val, core := core, ctx := ctx, priv := false, root := ⟨0, 0⟩, vahi := 0, notBefore := 0,
      panel := some panel, twin := none }
  if sendCore desc < Config.cores then s.deliver (.wharf w) (.core (sendCore desc)) (.send m)
  else s.sendWharf w (.wharf w) (.refused panel core (refusal desc ctx false))

/-- A refusal from another panel waits at its core (R160, R345). -/
def State.inRefusal (s : State) (x : Nat × Word × Word) : State :=
  let (core, h, v) := x
  if core < Config.cores then s.modCore core (fun c => { c with waitRefuse := c.waitRefuse ++ [Mail.ofHeader h v] }) else s

/-- The leaf that an access of another panel carries. -/
def fabricLeaf (x : Config.FabricAccess) : Leaf where
  pin := x.pin.getD 0
  hp := x.pin.isSome
  c := x.c
  frame := x.pa / 65536
  key := x.slot
  ub := paKind x.pa == .unbacked
  x := false
  w := true
  rd := true
  us := true
  level := 3

/-- A write of part of a sector straight to HBM. -/
def State.rawStore (s : State) (t : Tag) (pa size v : Nat) : State :=
  s.storeSector (sectorOf pa) ((s.storedSector (sectorOf pa)).write t (pa % 16) size v)

/-- What an access of another panel asks for, as a request's kind. -/
def fabricKind (x : Config.FabricAccess) : ReqKind :=
  let a := x.a.setWidth 64
  if x.kind = 24 then .cas 0 a x.b
  else if 40 ≤ x.kind then .lineop (BitVec.ofNat 2 (x.kind - 40))
  else if 32 ≤ x.kind then .red (BitVec.ofNat 3 (x.kind - 32)) a false none
  else .amo (BitVec.ofNat 3 (x.kind - 16)) 0 a

/-- Performs an access of another panel at its endpoint here, under the tag of its slot (R343, R344): the old value; none
where there is no such place. Core 4,608 stands for an agent without an L1. -/
def State.fabricAccess (s : State) (x : Config.FabricAccess) : Option (State × BitVec 128) :=
  let t := s.slotTag x.slot
  let lf := fabricLeaf x
  let raw := paKind x.pa == .hbm && !x.c
  if paKind x.pa == .reserved || (paKind x.pa == .basin && (s.bankOf x.pa).faults) then none
  else if x.kind = 0 then
    let v := if raw then ((s.storedSector (sectorOf x.pa)).read t (x.pa % 16) x.size).1
      else (s.endRead Config.cores lf x.pa x.size false).2.1
    some (s, BitVec.ofNat 128 v)
  else if x.kind = 1 then
    some (if raw then s.rawStore t x.pa x.size x.a.toNat else s.endWrite Config.cores lf x.pa x.size x.a.toNat false, 0)
  else
    match fabricKind x with
    | .lineop fn =>
      if raw then
        some (if fn = 3 then (lineSectors (x.pa / 64)).foldl (fun s k => s.rawStore t (16 * k) 16 0) s else s, 0)
      else some (s.lineEffect Config.cores .job false lf x.pa fn, 0)
    | k => if raw then none else
      let (u, old, _) := s.update t lf.pinned x.pa k.update
      some (u, old.setWidth 128)

/-- The wharf by which an answer to a panel leaves: the lowest live one of its route, else the one the access came by. -/
def State.replyWharf (s : State) (panel : BitVec 12) (w : Nat) : Nat := (s.lowestWharf (Tab.getD s.routes panel.toNat 0)).getD w

/-- Whether this panel performs an access of another one: its admission table names the source, and the generation is the slot's
(R343). -/
def State.admitsAccess (s : State) (x : Config.FabricAccess) : Bool :=
  (s.slot x.slot).allowed.contains (x.panel, x.src) && x.gen == (s.slot x.slot).gen && decide (x.pa % 16 + x.size ≤ 16)

/-- An access that reached wharf w: performed where it is admitted, and answered. -/
def State.inAccess (s : State) (w : Nat) (x : Config.FabricAccess) : State :=
  let (s, v) := match (if s.admitsAccess x then s.fabricAccess x else none) with
    | some (u, v) => (u, some v)
    | none => (s, none)
  s.sendWharf (s.replyWharf x.panel w) (.wharf (s.replyWharf x.panel w)) (.reply x.panel x.num v)

/-- What a payload that completes a message does on this panel (R343 to R347). -/
def State.inbound (s : State) (w : Nat) (rx : List Nat) : State :=
  let s := match Config.inboundSend rx with
    | some x => s.inSend w x
    | none => s
  let s := match Config.inboundRefusal rx with
    | some x => s.inRefusal x
    | none => s
  let s := match Config.inboundAnswer rx with
    | some (num, v) => s.fabricAnswer num v
    | none => s
  match Config.inboundAccess rx with
  | some x => s.inAccess w x
  | none => s

/-- What a good flit in order does: the link's state, the messages that waited for room, and the message it completes. -/
def State.takeFlit (s : State) (w : Nat) (f : Flit) : State :=
  let v := (s.wharf w).take f
  let s := s.setWharf w (v.pump s.panel v.queue)
  if f.kind = 1 ∨ f.kind = 2 then s.inbound w (s.wharf w).rx else s

/-- WHARF_FLIT_RECEIVE (R348): a flit in LSEQ order is taken; a bad or misplaced one is dropped and NAK is set. An idle flit tells
the other side where no other flit does. -/
def execWharfFlitReceive (w : Nat) (flit : Flit) (s : State) : Out :=
  let v := s.wharf w
  if w < 16 ∧ v.live then
    if flitOk flit && flit.lseq == v.got + 1 then
      let u := s.takeFlit w flit
      .next (if flit.kind = 0 then u else u.setWharf w ((u.wharf w).tell v.out.length))
    else .next (s.setWharf w ({ v with nak := true }.tell v.out.length))
  else notNow

/-- WHARF_RESEND_TIMEOUT (R348): resends from the oldest flit not returned. -/
def execWharfResendTimeout (w : Nat) (s : State) : Out :=
  let v := s.wharf w
  whenEnabled (decide (w < 16) && v.live && !v.sent.isEmpty) (s.setWharf w (v.resend v.sent))

/-! ### The failure of a wharf (R346) -/

/-- The panel that a message leaves for. -/
def Body.panel : Body → Option (BitVec 12)
  | .send m => some (m.desc.extractLsb' 48 12)
  | .refused p _ _ => some p
  | .access p _ => some p
  | .reply p _ _ => some p
  | _ => none

/-- The lowest live wharf for a message. -/
def State.nextWharf (s : State) (b : Body) : Option Nat := b.panel.bind (fun p => s.lowestWharf (Tab.getD s.routes p.toNat 0))

/-- A message of a failed wharf leaves by the next one. -/
def State.rerouted (s : State) (src : Station) (b : Body) (w : Nat) : State :=
  match src with
  | .wharf _ => s.sendWharf w (.wharf w) b
  | _ => s.post src (.wharf w) b

/-- A message waits at its source until a wharf of its route lives: an access of a thread is asked again. -/
def State.unsent (s : State) (src : Station) (b : Body) : State :=
  match src, b with
  | .core n, .send m => s.modCore n (fun c => { c with sendq := m :: c.sendq })
  | .core n, .refused p k m => s.modCore n (fun c => { c with outRefuse := (p, k, m) :: c.outRefuse })
  | .wharf w, b => s.setWharf w { s.wharf w with queue := (src, b) :: (s.wharf w).queue }
  | _, .access _ x => { s with asks := Tab.erase s.asks x.num }
  | _, _ => s

/-- Sends the messages that have a live wharf. -/
def rerouteAll : List (Station × Body) → State → State
  | [], s => s
  | (src, b) :: l, s =>
    rerouteAll l (match s.nextWharf b with
      | some w => s.rerouted src b w
      | none => s)

/-- Puts back the messages that have none, the youngest first. -/
def unsendAll : List (Station × Body) → State → State
  | [], s => s
  | (src, b) :: l, s => unsendAll l (if (s.nextWharf b).isNone then s.unsent src b else s)

/-- Whether the destination of a stream has performed a number. -/
def Stream.performed (t : Stream) (q : BitVec 16) : Bool :=
  let ahead := (q - t.expected).toNat
  decide (64 ≤ ahead) || (!t.ordered && t.map.getLsbD ahead)

/-- The messages that a failed wharf had not handed over: those it held, then those on their way to it. -/
def State.strandedAt (s : State) (w : Nat) : List (Station × Body) :=
  let v := s.wharf w
  v.taken.map (fun m => (m.2.1, m.2.2)) ++ v.queue
    ++ (s.streams.filter (fun t => t.dst == .wharf w)).flatMap (fun t =>
      (t.unacked.filter (fun u => !t.performed u.1)).map (fun u => (t.src, u.2)))

/-- Sends stranded messages by other wharves, or puts them back. -/
def State.reroute (s : State) (l : List (Station × Body)) : State := unsendAll l.reverse (rerouteAll l s)

/-- WHARF_FAILURE (R346): what a failed wharf had not handed over moves to the next live wharf of its mask. -/
def execWharfFailure (w : Nat) (s : State) : Out :=
  let v := s.wharf w
  if w < 16 ∧ v.live then
    let l := s.strandedAt w
    let s := (s.setWharf w { v with live := false, queue := [], taken := [], sent := [] }).dropStreams (fun t => t == .wharf w)
    .next (s.reroute l)
  else notNow

/-- Answers that waited at a failed wharf for a route. -/
def drainWharves : List (Nat × Wharf) → State → State
  | [], s => s
  | (w, v) :: t, s => drainWharves t (if v.live then s else (s.setWharf w { v with queue := [] }).reroute v.queue)

end Sys2Proof.Machine
end

