-- ==== Sys2Proof/Machine/Survey.lean ====
section
/-! DEFINITION. The survey, and the registers of a function as the host reads them (R328, R329, R352, R358, R359). -/

namespace Sys2Proof.Machine

/-! ### Contents of a buffer (R359), as pairs of a byte offset and a doubleword -/

/-- Doublewords from an offset upward. -/
def dwordsAt (o : Nat) : List Word → List (Nat × Word)
  | [] => []
  | w :: t => (o, w) :: dwordsAt (o + 8) t

/-- The counters of R328 as doublewords. -/
def Counters.words (c : Counters) : List Word :=
  [c.ceSram, c.ceHbm, c.ueMarked, c.ueConsumed, c.restarts, c.mismatch, c.faults, 0].map (BitVec.ofNat 64)

/-- A site's word: live cores and state. -/
def Site.word (v : Site) : Nat := v.cores.toNat + 2 ^ 10 * v.state.toNat

/-- Numbers of 16 bits, four to a doubleword. -/
def pack16 : List Nat → List Word
  | a :: b :: c :: d :: t => BitVec.ofNat 64 (a + 2 ^ 16 * b + 2 ^ 32 * c + 2 ^ 48 * d) :: pack16 t
  | [] => []
  | t => [BitVec.ofNat 64 (t.foldr (fun a w => a + 2 ^ 16 * w) 0)]

/-- The entry of a partition: state, function, lock-keeper, standby, chiplet count, running regions, counters. -/
def State.partEntry (s : State) (p : Nat) : List Word :=
  let v := s.part p
  let running := (s.regions.filter (fun e => e.2.part == p && e.2.st == .running)).length
  [v.st.code, v.func, v.lk, v.standby, v.chiplets.length, running, 0, 0].map (BitVec.ofNat 64) ++ (s.func v.func).counters.words

/-- A sweeper's register (R329). -/
def Sweeper.reg (v : Sweeper) (reenc : Bool) : Word :=
  BitVec.ofNat 64 (v.passes.toNat * 2 ^ 48 + reenc.toNat * 2 ^ 32 + v.str.toNat * 2 ^ 28 + v.pos.toNat)

/-- The entry of a chiplet: failed banks, strengths, the two sweepers, the slice's live bit. -/
def State.chipEntry (s : State) (c : Nat) : List Word :=
  let h := s.chip c
  let mask := fun (f : Bank → Bool) => (List.range 32).foldl (fun w b => if f (h.bank b) then w + 2 ^ b else w) 0
  let par := (Tab.getD s.parity (2 * c) false).toNat * 2 ^ 32 + (Tab.getD s.parity (2 * c + 1) false).toNat * 2 ^ 33
  [BitVec.ofNat 64 (mask (fun b => b.failed)), BitVec.ofNat 64 (mask (fun b => b.strength) + par), h.sweepBasin.reg (s.reenc c),
   h.sweepCim.reg false, BitVec.ofNat 64 h.live.toNat]

/-- The barrier entries of a partition, in increasing object address: object, EPISODE, MAXLAG and LASTM, STEAL. -/
def State.barEntries (s : State) (p : Nat) : List Word :=
  let us := s.cores.flatMap (fun e => if (s.part p).chiplets.contains (e.1 / 8) then e.2.units.map Prod.snd else [])
  let us := us.mergeSort (fun a b => decide (virtual a.vahi a.obj ≤ virtual b.vahi b.obj))
  (us.take 256).flatMap (fun u =>
    [u.obj, BitVec.ofNat 64 u.episode, BitVec.ofNat 64 (u.maxlag + u.lastm * 2 ^ 32), u.steal])

/-- The SIGNAL_IN_DOUBT records of a partition. -/
def State.doubtEntries (s : State) (p : Nat) : List Word :=
  ((s.part p).doubt.take 32).map (fun d => BitVec.ofNat 64 (d.1 * 2 ^ 32 + d.2.toNat))

/-- What a buffer holds for partition v. -/
def State.partBuffer (s : State) (v : Nat) : List (Nat × Word) :=
  match Tab.find s.parts v with
  | none => []
  | some _ =>
    dwordsAt (0x8000 + (v - 1) * 256) (s.partEntry v) ++ dwordsAt (0x20000 + (v - 1) * 0x2000) (s.barEntries v)
      ++ dwordsAt (0xA0000 + (v - 1) * 0x100) (s.doubtEntries v)

/-- A whole buffer with generation `gen`; doublewords not listed are zero. -/
def State.surveyBuffer (s : State) (gen : Nat) : List (Nat × Word) :=
  dwordsAt 0 [BitVec.ofNat 64 gen, s.panel.setWidth 64, s.tg.setWidth 64, BitVec.ofNat 64 s.phase]
    ++ dwordsAt 0x40 (pack16 (allSites.map (fun p => (s.site p.1 p.2).word)))
    ++ dwordsAt 0x1000 s.remap.words
    ++ (List.range 64).flatMap (fun i => s.partBuffer (i + 1))
    ++ (List.range Config.chiplets).flatMap (fun c => dwordsAt (0xC000 + 64 * c) (s.chipEntry c))
    ++ dwordsAt 0xB0000 ((s.func 0).counters.words ++ s.unattributed.words)
    ++ dwordsAt 0xB1000 (s.partEntry 0) ++ dwordsAt 0xB2000 (s.barEntries 0) ++ dwordsAt 0xB4000 (s.doubtEntries 0)

/-! ### A refresh (R358) -/

/-- Writes the nonzero doublewords of a list. -/
def writeWords (base : Nat) : List (Nat × Word) → State → State
  | [], s => s
  | (o, w) :: t, s => writeWords base t (if w = 0 then s else s.hbmWrite (s.slotTag 0) (base + o) w)

/-- Removes what HBM holds from `a` to `a + n`. -/
def State.wipe (s : State) (a n : Nat) : State :=
  let inside := fun (x : Nat) => decide (a ≤ x) && decide (x < a + n)
  { s with
    mem := s.mem.filter (fun c => !inside c.1)
    otag := s.otag.filter (fun e => !inside (16 * e.1))
    poison := s.poison.filter (fun e => !inside (16 * e.1)) }

/-- Tells every function that the survey is refreshed (R353). -/
def noticeAll (kind : Nat) (value : Word) : List Nat → State → State
  | [], s => s
  | f :: t, s => noticeAll kind value t (s.noticeTo f kind 0 0 (funcPart f) value)

/-- Refreshes the survey: the buffer CUR does not name, GEN, and CUR. -/
def State.refresh (s : State) : State :=
  let gen := (s.survey.gen + 1) % 2 ^ 64
  let cur := !s.survey.cur
  let base := s.survey.at_ + (if cur then 0x101000 else 0x1000)
  let ws := s.surveyBuffer gen
  let s := writeWords base ws (s.wipe base 0x100000)
  let s := s.hbmWrite (s.slotTag 0) s.survey.at_ (BitVec.ofNat 64 gen)
  let s := s.hbmWrite (s.slotTag 0) (s.survey.at_ + 8) (BitVec.ofNat 64 cur.toNat)
  noticeAll 5 (BitVec.ofNat 64 gen) (s.funcs.map Prod.fst) { s with survey := { s.survey with gen := gen, cur := cur } }

/-- SURVEY_REFRESH (R358). -/
def execSurveyRefresh (s : State) : Out := .next s.refresh

/-! ### What a host reads (R352, R359) -/

/-- Whether a buffer offset belongs to a partition entry of another function, or to the unattributed counters. -/
def hiddenFrom (f o : Nat) : Bool :=
  if f = 0 then false
  else if 0x8000 ≤ o ∧ o < 0xC000 then decide ((o - 0x8000) / 256 + 1 ≠ f)
  else if 0x20000 ≤ o ∧ o < 0xA0000 then decide ((o - 0x20000) / 0x2000 + 1 ≠ f)
  else if 0xA0000 ≤ o ∧ o < 0xA4000 then decide ((o - 0xA0000) / 0x100 + 1 ≠ f)
  else decide (0xB0000 ≤ o)

/-- A doubleword of a function's BAR2 window at an offset. -/
def State.bar2 (s : State) (f o : Nat) : Word :=
  let hidden := if 0x101000 ≤ o then hiddenFrom f (o - 0x101000) else if 0x1000 ≤ o then hiddenFrom f (o - 0x1000) else false
  if hidden then 0 else s.hbmRead (s.slotTag 0) (s.survey.at_ + o)

/-- A doubleword of a function's BAR0 registers at an offset (R352). -/
def State.bar0 (s : State) (f o : Nat) : Word :=
  let u := s.func f
  match o with
  | 0x08 => u.gop ++ u.garg
  | 0x10 => BitVec.ofNat 64 (u.done.toNat * 2 ^ 63 + u.gst.toNat * 2 ^ 48 + u.gval.toNat)
  | 0x18 => u.nring
  | _ => 0

end Sys2Proof.Machine
end

