-- ==== Sys2Proof/Machine/EvHost.lean ====
section
/-! DEFINITION. The host port: HDM ranges, registers, attestation, and the operations of Guast (R349 to R358, R362,
R363). -/

namespace Sys2Proof.Machine

/-! ### HDM ranges (R350) -/

/-- Whether there is such a function: physical function 0, or one of the 64 virtual functions (R349). -/
def isFunction (f : Nat) : Bool := decide (f ≤ 64)

/-- Whether a range is one of R350: multiples of 256 MiB, onto HBM frames. -/
def Hdm.wf (r : Hdm) : Bool :=
  decide (r.hp % 2 ^ 28 = 0) && decide (r.size % 2 ^ 28 = 0) && decide (0 < r.size) && decide (r.pa % 65536 = 0)
    && decide (r.pa + r.size ≤ hbmEnd) && decide (r.hp + r.size ≤ 2 ^ 64)

/-- The lock-keeper of a function writes its HDM ranges, at most eight (R349, R350). -/
def writeRanges (f : Nat) (l : List Hdm) (s : State) : Out :=
  whenEnabled (isFunction f && decide (l.length ≤ 8) && l.all Hdm.wf) (s.modFunc f (fun u => { u with hdm := l }))

/-- The range of a function that holds a host-physical address. -/
def State.hdmRange (s : State) (f hp : Nat) : Option Hdm := (s.func f).hdm.find? (fun r => decide (r.hp ≤ hp) && decide (hp < r.hp + r.size))

/-- A read of part of a sector through a range: coherent at the home slice, or straight from HBM. -/
def State.hdmRead (s : State) (r : Hdm) (hp size : Nat) : Word :=
  let pa := r.pa + (hp - r.hp)
  let t := s.slotTag r.key
  let x := if r.c then s.cohSector (sectorOf pa) else s.storedSector (sectorOf pa)
  BitVec.ofNat 64 (x.read t (pa % 16) size).1

/-- A write of part of a sector through a range. -/
def State.hdmWrite (s : State) (r : Hdm) (hp size : Nat) (v : Word) : State :=
  let pa := r.pa + (hp - r.hp)
  let t := s.slotTag r.key
  if r.c then s.cohWrite Config.cores t pa size v.toNat none false else s.rawStore t pa size v.toNat

/-- CXL_MEM_ACCESS (R350): an access of at most eight bytes within a sector; a write under a slot that is swept waits (R229). -/
def execCxlMemAccess (f : Nat) (hp : Word) (size : Nat) (write : Option Word) (s : State) : Out :=
  match s.hdmRange f hp.toNat with
  | none => .fault (.noRange f hp.toNat)
  | some r =>
    let pa := r.pa + (hp.toNat - r.hp)
    if size = 0 ∨ 8 < size ∨ 16 < hp.toNat % 16 + size ∨ (write.isSome ∧ s.slotSweeping (s.slotTag r.key)) then notNow
    else if paKind pa ≠ .hbm then .fault (.reserved pa)
    else
      match write with
      | some v => .next (s.hdmWrite r hp.toNat size v)
      | none => .next (s.modFunc f (fun u => { u with readData := s.hdmRead r hp.toNat size }))

/-! ### Registers (R352, R353) -/

/-- NRING (R353): the count of notices begins anew. -/
def execNring (f : Nat) (v : Word) (s : State) : Out := whenEnabled (isFunction f) (s.modFunc f (fun u => { u with nring := v, nseq := 0 }))

/-- Whether a GOP lies in the table of R354. -/
def knownOp (op : Nat) : Bool := decide (1 ≤ op) && decide (op ≤ 0x0D)

/-- A GREQ write (R352): it is dropped while DONE is 0; an operation outside the table ends at once. -/
def State.greq (s : State) (f : Nat) (v : Word) : State :=
  let u := s.func f
  if u.done then
    let op := v.extractLsb' 56 8
    let s := s.setFunc f { u with gop := op, garg := v.extractLsb' 0 56, done := false }
    if knownOp op.toNat then { s with guast := s.guast ++ [f] }
    else
      let rest := s.guast
      { ({ s with guast := [f] } : State).endRequest 2 0 with guast := rest }
  else s

/-- Bytes of a doubleword replaced by a write of `size` bytes from byte `o`. -/
def mergeBytes (old : Word) (o size : Nat) (v : Word) : Word := BitVec.ofNat 64 (spliceIn old.toNat o size v.toNat % 2 ^ 64)

/-- REGISTER_WRITE (R352): a GREQ write, a partial write of doubleword 0x08, which is dropped, or a write that reaches
NOTIFY or NRING; every other field is read-only or reserved. -/
def execRegisterWrite (f off size : Nat) (v : Word) (s : State) : Out :=
  if !isFunction f then notNow
  else if off = 0x08 ∧ size = 8 then .next (s.greq f v)
  else if off = 0 ∧ 0 < size then execNotify f (v.extractLsb' 0 8) s
  else if 0x18 ≤ off ∧ 0 < size ∧ off + size ≤ 0x20 then
    execNring f (mergeBytes (s.func f).nring (off - 0x18) size v) s
  else .next s

/-- FUNCTION_RESET (R328, R353): registers, error counters and the notice count. -/
def execFunctionReset (f : Nat) (s : State) : Out :=
  let u := s.func f
  whenEnabled (isFunction f) (({ s with
      guast := s.guast.filter (fun g => g != f)
      unattributed := if f = 0 then Counters.clear else s.unattributed } : State).setFunc f
    { Func.clear with hdm := u.hdm, notices := u.notices })

/-- SPDM_REQUEST (R362): the measurement blocks are the SHAKE256 digests of the images loaded. -/
def execSpdmRequest (req : Nat) (s : State) : Out :=
  .next { s with doe := s.doe ++ [Config.spdmAnswer req (s.trust.loaded.map (fun i => Config.shake256 i.code))] }

/-- The DOE mailbox answers a CDAT request (R349). -/
def answerCdat (req : Nat) (s : State) : Out := .next { s with doe := s.doe ++ [Config.cdatAnswer req] }

/-! ### Partition states (R355, R357) -/

/-- The partition that an argument names: a virtual function's own. -/
def argPart (f g : Nat) : Nat := if f = 0 then g % 128 else f

/-- Whether PART is out of range. -/
def badPart (f g : Nat) : Bool := if f = 0 then decide (64 < g % 128) else decide (g % 128 ≠ 0)

def State.hasPart (s : State) (p : Nat) : Bool := (Tab.find s.parts p).isSome

/-- A change of a partition's state, where R357 allows it. -/
def partEvent (op : Nat) (bad : Nat → Nat → State → Bool) (ok : PartState → Bool) (run : Nat → State → State) (s : State) : Out :=
  requestEvent op (fun _ _ _ => true) bad
    (fun f g s =>
      let p := argPart f g
      if s.hasPart p && ok (s.part p).st then .next ((run p s).endRequest 0 0) else .next (s.endRequest 1 0)) s

/-- GARG of DRAIN and UNDRAIN. -/
def badDrain (f g : Nat) (_ : State) : Bool := unnamed g 0x7F || badPart f g

/-- DRAIN (R357). -/
def execDrain (s : State) : Out :=
  partEvent gDRAIN badDrain (fun st => st == .active) (fun p s => s.setPartState p .draining) s

/-- UNDRAIN (R357). -/
def execUndrain (s : State) : Out :=
  partEvent gUNDRAIN badDrain (fun st => st == .draining || st == .drained) (fun p s => (s.setPartState p .active).select p) s

/-- GARG of OFFLINE and ONLINE: PART is 1 to 64. -/
def badOffline (f g : Nat) (s : State) : Bool := badDrain f g s || decide (g % 128 = 0)

/-- Every bank of a chiplet returns to CACHE mode. -/
def cacheBanks : List Nat → State → State
  | [], s => s
  | c :: t, s => cacheBanks t (freeBanks c ((s.chip c).banks.map Prod.fst) s)

/-- Retires the key slots that jobs of a partition hold. -/
def retireSlots : List (Nat × KeySlot) → Nat → State → State
  | [], _, s => s
  | (k, v) :: t, p, s => retireSlots t p (if v.root.isSome ∧ v.part = p then s.retireSlot (BitVec.ofNat 6 k) else s)

/-- OFFLINE (R357): every bank returns to CACHE mode, and the key slots are retired. -/
def execOffline (s : State) : Out :=
  partEvent gOFFLINE badOffline (fun st => st == .drained)
    (fun p s => (retireSlots s.slots p (cacheBanks (s.part p).chiplets s)).setPartState p .offline) s

/-- ONLINE (R357). -/
def execOnline (s : State) : Out :=
  partEvent gONLINE badOffline (fun st => st == .offline) (fun p s => (s.setPartState p .active).select p) s

/-! ### Jobs and settings (R355) -/

/-- KILL_JOB (R326, R355): requeuing the job is safe. -/
def execKillJob (s : State) : Out :=
  requestEvent gKILL_JOB (fun _ _ _ => true) (fun _ g _ => unnamed g 0x3F)
    (fun f g s =>
      let k := BitVec.ofNat 6 g
      let v := s.slot k
      if v.root.isSome && (f == 0 || v.part == f) then .next ((s.killJob k 0 []).endRequest 0 0) else .next (s.endRequest 1 0)) s

/-- SET_AGE (R183, R355). -/
def execSetAge (s : State) : Out :=
  requestEvent gSET_AGE (fun _ _ _ => true)
    (fun f g _ => unnamed g (0x7F + (2 ^ 33 - 1) * 2 ^ 8) || badPart f g || decide (g / 2 ^ 8 < 2 ^ 10) || decide (2 ^ 32 < g / 2 ^ 8))
    (fun f g s =>
      let p := argPart f g
      if s.hasPart p then
        let old := (s.part p).age
        .next ((s.modPart p (fun v => { v with age := g / 2 ^ 8 })).endRequest 0 old)
      else .next (s.endRequest 1 0)) s

/-- Sets the strength of a data bank, or of a parity bank. -/
def State.setStrength (s : State) (c b : Nat) (st : Bool) : State :=
  let s := if b < 32 then s.modChip c (fun h => h.setBank b { h.bank b with strength := st })
    else { s with parity := Tab.set s.parity (2 * c + (b - 32)) st }
  s.modChip c (fun h => { h with sweepBasin := { h.sweepBasin with str := st } })

/-- SET_STRENGTH (R329, R355). -/
def execSetStrength (s : State) : Out :=
  requestEvent gSET_STRENGTH (fun _ _ _ => true)
    (fun _ g _ => unnamed g 0x1FFFF || decide (Config.chiplets ≤ g % 1024) || decide (33 < g / 1024 % 64))
    (fun _ g s => .next ((s.setStrength (g % 1024) (g / 1024 % 64) (g.testBit 16)).endRequest 0 0)) s

/-- SET_TOUT (R337, R355). -/
def execSetTout (s : State) : Out :=
  requestEvent gSET_TOUT (fun _ _ _ => true)
    (fun _ g _ => decide (g < 10000) || decide (2 ^ 24 < g))
    (fun _ g s => .next (({ s with tout := g } : State).endRequest 0 s.tout)) s

/-- RETIRE_CORE (R339, R355): the request ends with the update of the table, which waits for its turn. -/
def execRetireCore (s : State) : Out :=
  requestEvent gRETIRE_CORE (fun _ _ _ => true) (fun _ g _ => decide (Config.cores ≤ g))
    (fun _ g s =>
      if (s.core g).retiring then notNow
      else
        match s.siteSpare g with
        | none => .next (s.endRequest 1 0)
        | some pc => .next (s.startRetire g pc)) s

/-- SET_POWER (R355, R363). -/
def execSetPower (s : State) : Out :=
  requestEvent gSET_POWER (fun _ _ _ => true)
    (fun _ g _ => decide (g < 10000) || decide (21000 < g))
    (fun _ g s => .next (({ s with power := g } : State).endRequest 0 0)) s

/-! ### Fabric (R343, R345, R346, R355) -/

/-- SUB of SET_FABRIC. -/
def subOf (g : Nat) : Nat := fieldOf g 55 52

/-- SET_FABRIC with SUB 0, and with a SUB that the table does not name. -/
def execSetFabricSlot (s : State) : Out :=
  requestEvent gSET_FABRIC (fun _ g _ => subOf g == 0 || decide (3 < subOf g))
    (fun _ g _ => unnamed g (2 ^ 41 - 1))
    (fun _ g s =>
      let v := if g.testBit 40 then
          some (BitVec.ofNat 12 (fieldOf g 17 6), BitVec.ofNat 6 (fieldOf g 23 18), BitVec.ofNat 16 (fieldOf g 39 24))
        else none
      .next ((s.modSlot (BitVec.ofNat 6 g) (fun k => { k with fabric := v })).endRequest 0 0)) s

/-- Adds or removes an item of a table. -/
def admitted {α : Type} [DecidableEq α] (l : List α) (x : α) (add : Bool) : List α :=
  if add then (if l.contains x then l else l ++ [x]) else l.filter (fun y => decide (y ≠ x))

/-- SET_FABRIC with SUB 1. -/
def execSetFabricAdmission (s : State) : Out :=
  requestEvent gSET_FABRIC (fun _ g _ => subOf g == 1)
    (fun _ g _ => unnamed g (0xFFFFFF + 2 ^ 40 + 15 * 2 ^ 52))
    (fun _ g s =>
      let x := (BitVec.ofNat 12 (fieldOf g 17 6), BitVec.ofNat 6 (fieldOf g 23 18))
      .next ((s.modSlot (BitVec.ofNat 6 g) (fun k => { k with allowed := admitted k.allowed x (g.testBit 40) })).endRequest 0 0)) s

/-- SET_FABRIC with SUB 2. -/
def execSetFabricSendAdmission (s : State) : Out :=
  requestEvent gSET_FABRIC (fun _ g _ => subOf g == 2)
    (fun f g _ => unnamed g (0x7FF7F + 2 ^ 7 + 2 ^ 40 + 15 * 2 ^ 52) || badPart f g)
    (fun f g s =>
      let p := argPart f g
      let x := BitVec.ofNat 12 (fieldOf g 18 7)
      if s.hasPart p then
        .next ((s.modPart p (fun v => { v with allowed := admitted v.allowed x (g.testBit 40) })).endRequest 0 0)
      else .next (s.endRequest 1 0)) s

/-- The refusals of a core that waited for a route go on. -/
def State.drainRefused (s : State) (n : Nat) (c : Core) : State :=
  if c.outRefuse.isEmpty then s else drainRefusals n c.outRefuse (s.modCore n (fun c => { c with outRefuse := [] }))

/-- SENDs and refusals that waited for a route go on. -/
def drainAll : List (Nat × Core) → State → State
  | [], s => s
  | (n, c) :: t, s => drainAll t ((if c.sendq.isEmpty then s else drainSends n (s.core n).sendq s).drainRefused n c)

/-- SET_FABRIC with SUB 3. -/
def execSetFabricRoute (s : State) : Out :=
  requestEvent gSET_FABRIC (fun _ g _ => subOf g == 3)
    (fun _ g _ => unnamed g (0xFFFFFFF + 15 * 2 ^ 52))
    (fun _ g s =>
      let s := { s with routes := Tab.put s.routes (g % 4096) (BitVec.ofNat 16 (fieldOf g 27 12)) 0 }
      .next ((drainWharves s.wharves (drainAll s.cores s)).endRequest 0 0)) s

/-! ### The survey and host queues (R356, R358) -/

/-- SURVEY_NOW (R358). -/
def execSurveyNow (s : State) : Out :=
  requestEvent gSURVEY_NOW (fun _ _ _ => true) (fun _ g _ => decide (g ≠ 0))
    (fun _ _ s =>
      let s := s.refresh
      .next (s.endRequest 0 s.survey.gen)) s

/-- The registration record at GARG, where it lies in a range of the caller. -/
def State.regRecord (s : State) (f g : Nat) : Option (List Word) :=
  match s.hdmRange f g with
  | some r =>
    if g + 64 ≤ r.hp + r.size then some ((List.range 8).map (fun i => s.hdmRead r (g + 8 * i) 8)) else none
  | none => none

/-- Whether a record is well formed. -/
def recordOk (ws : List Word) : Bool :=
  fieldAt 0 63 17 ws == 0 && fieldAt 0 15 14 ws == 0 && (wordAt 1 ws).toNat % 64 == 0 && fieldAt 2 63 8 ws == 0
    && [3, 4, 5, 6, 7].all (fun i => wordAt i ws == 0)

def badRecord (f g : Nat) (s : State) : Bool :=
  decide (g % 64 ≠ 0) || !((s.regRecord f g).map recordOk).getD false

/-- Whether a record asks for a removal. -/
def State.asksRemove (s : State) (f g : Nat) : Bool := ((s.regRecord f g).map (fun ws => (wordAt 0 ws).getLsbD 16)).getD false

/-- Whether a queue is idle. -/
def State.queueIdle (s : State) (p : Nat) (q : HostQueue) : Bool :=
  let ws := match s.queueView p q with
    | none => q.seen
    | some v =>
      match State.loadDs v 8 q.desc s with
      | .ok (_, ws) => ws
      | .error _ => q.seen
  !(wordAt 1 ws).getLsbD 16
    || (fieldAt 2 31 0 ws == fieldAt 3 31 0 ws
        && ((s.part p).packets ++ (s.part p).replays).all (fun k => !(k.func == q.func && k.queue == q.num)))

def State.findQueue (s : State) (p f num : Nat) : Option HostQueue :=
  (s.part p).queues.find? (fun q => q.func == f && q.num == num)

/-- Removes a queue of a partition. -/
def State.dropQueue (s : State) (p f num : Nat) : State :=
  s.modPart p (fun v =>
    { v with
      queues := v.queues.filter (fun q => !(q.func == f && q.num == num))
      replays := v.replays.filter (fun k => !(k.func == f && k.queue == num)) })

/-- Whether QDESC translates under the job to a coherent page with RD and W. -/
def State.descTranslates (s : State) (p : Nat) (root : Root) (vahi : BitVec 8) (a : Word) : Bool :=
  let v := s.jobView p root vahi
  match s.translate v.core v.root v.vahi a .store true with
  | .ok (l, _) => l.c && l.rd && l.w
  | .error _ => false

/-- The job of a record's KEY, where it is one of the partition. -/
def State.keyJob (s : State) (p : Nat) (ws : List Word) : Option Root :=
  let v := s.slot (BitVec.ofNat 6 (fieldAt 0 13 8 ws))
  if v.part = p then v.root else none

/-- A queue as it is registered: nothing is taken before a notify. -/
def newQueue (f : Nat) (ws : List Word) : HostQueue where
  func := f
  num := fieldAt 0 7 0 ws
  slot := BitVec.ofNat 6 (fieldAt 0 13 8 ws)
  vahi := BitVec.ofNat 8 (fieldAt 2 7 0 ws)
  desc := wordAt 1 ws
  seen := []
  on := false
  since := none
  waited := 0

/-- SET_QUEUE with REMOVE = 0, and with a record that is malformed (R356). -/
def execSetQueueRegister (s : State) : Out :=
  requestEvent gSET_QUEUE (fun f g s => badRecord f g s || !s.asksRemove f g) badRecord
    (fun f g s =>
      let p := funcPart f
      let ws := (s.regRecord f g).getD []
      let q := newQueue f ws
      let free := match s.findQueue p f q.num with
        | some old => s.queueIdle p old
        | none => true
      match s.keyJob p ws with
      | some root =>
        if s.hasPart p && s.descTranslates p root q.vahi q.desc && free then
          .next (((s.dropQueue p f q.num).modPart p (fun v => { v with queues := v.queues ++ [q] })).endRequest 0 0)
        else .next (s.endRequest 1 0)
      | none => .next (s.endRequest 1 0)) s

/-- SET_QUEUE with REMOVE = 1 (R356). -/
def execSetQueueRemove (s : State) : Out :=
  requestEvent gSET_QUEUE (fun f g s => !badRecord f g s && s.asksRemove f g) badRecord
    (fun f g s =>
      let p := funcPart f
      let ws := (s.regRecord f g).getD []
      let num := fieldAt 0 7 0 ws
      match s.findQueue p f num with
      | some q =>
        if (s.keyJob p ws).isSome && s.queueIdle p q then .next ((s.dropQueue p f num).endRequest 0 0)
        else .next (s.endRequest 1 0)
      | none => .next (s.endRequest 1 0)) s

end Sys2Proof.Machine
end

