-- ==== Sys2Proof/Machine/EvBoot.lean ====
section
/-! DEFINITION. Power-on, bring-up and warm reset (R9, R360, R361). -/

namespace Sys2Proof.Machine

/-- What stays of a function through a reset: the notices that lie in host memory. -/
def Func.afterReset (u : Func) : Func := { Func.clear with notices := u.notices }

/-- The machine with every field at its reset value, at the moves still to come: no table is loaded (R331), and no partition is
made (R361). What fuses and the boot medium hold stays. -/
def State.afterReset (s : State) : State :=
  { State.reset with
    agenda := s.agenda
    turn := s.turn
    fresh := s.fresh
    panel := s.panel
    funcs := s.funcs.map (fun e => (e.1, e.2.afterReset))
    doe := s.doe
    wharves := s.wharves.map (fun e => (e.1, { Wharf.clear with out := e.2.out }))
    remap := Remap.unset
    parts := []
    plan := s.plan
    trust := { s.trust with loaded := [] } }

/-- Step 2 of R361: the boot ROM verifies the boot firmware and loads it; an image that it refuses ends the start-up there. -/
def State.loadFirmware (s : State) : State :=
  if s.trust.accepts s.trust.firmware then { s with trust := { s.trust with loaded := [s.trust.firmware] }, boot := ⟨3, 0⟩ }
  else { s with boot := ⟨2, 0⟩ }

/-- POWER_ON (R361 steps 1 and 2): no site is powered, and memory holds nothing. -/
def execPowerOn (s : State) : Out :=
  let u : State := { s.afterReset with
    sites := allSites.map (fun (p : Nat × Nat) => (siteKey p.1 p.2, { bootSite p.1 with powered := false })) }
  .next u.loadFirmware

/-- What an update under way means for the table that a warm reset starts from: dead silicon is not named again. -/
def State.settleUpdate (s : State) : Update → State
  | .retire _ _ _ => s
  | u => let r := s.tableOf u; ({ s with remap := r }.flipSites r u)

/-- The table and the sites that a warm reset starts from. -/
def State.settled (s : State) : State := s.updates.foldl State.settleUpdate s

/-- WARM_RESET (R9): every field takes its reset value; no field carries P. Memory, its caches and the sites stay. The routers
load the table again, from step 5 of R361 on (log entry 75). -/
def execWarmReset (s : State) : Out :=
  let old := s.settled
  let up := decide (5 ≤ s.boot.step)
  let u : State := { s.afterReset with
    cores := s.cores.map (fun e => (e.1, { Core.clear with l1 := e.2.l1 }))
    chips := old.chips.map (fun e => (e.1, { Chiplet.clear with live := e.2.live }))
    mem := s.mem
    otag := s.otag
    poison := s.poison
    code := s.code
    l2 := s.l2
    ub := s.ub
    slots := s.slots.map (fun e => (e.1, { KeySlot.clear with gen := e.2.gen }))
    sites := old.sites
    boot := if up then ⟨5, Config.sites⟩ else s.boot
    updates := if up then [.boot old.remap] else []
    trust := { s.trust with loaded := s.trust.loaded.take 1 } }
  .next ((u.setControl 0 0 0).setLock false)

/-- The place of the k-th site in the order of R361: logical chiplets, then spares. -/
def bootPlace (k : Nat) : Nat × Nat :=
  if k < Config.chiplets then (bootPx k, bootPy k) else (24 + (k - Config.chiplets) / 24, (k - Config.chiplets) % 24)

/-- A site after its self-test: one with fewer than eight working cores has failed. -/
def testedSite (px : Nat) (dead : BitVec 9) : Site :=
  let cores := 0x1FF &&& ~~~dead
  let n := ((List.range 9).filter (fun i => cores.getLsbD i)).length
  { bootSite px with cores := cores, state := if n < 8 then 3 else (bootSite px).state }

/-- The entry of core n in the first table: its own place, or the spare of its site (R361 step 4). -/
def bootCore (v : Site) (px py lc : Nat) : BitVec 32 := remapEntry px py (if v.cores.getLsbD lc then lc else 8)

/-- The entries of chiplet c at a site. -/
def placeChip (r : Remap) (v : Site) (c px py : Nat) : Remap where
  set := r.set
  core := (List.range 8).foldl (fun t i => Tab.set t (8 * c + i) (bootCore v px py i)) r.core
  chip := Tab.set r.chip c (remapEntry px py 0)

/-- Entries of chiplet c that name no silicon. -/
def dropEntries (r : Remap) (c : Nat) : Remap where
  set := r.set
  core := (List.range 8).foldl (fun t i => Tab.set t (8 * c + i) 0) r.core
  chip := Tab.set r.chip c 0

/-- The first table: a failed site gives way to a spare one; without a spare its entries name no silicon and its slice is not
live (R361 step 4). -/
def firstRemap : List Nat → Remap → State → Remap × State
  | [], r, s => (r, s)
  | c :: t, r, s =>
    let px := bootPx c
    let py := bootPy c
    let v := s.site px py
    if v.state ≠ 3 then
      firstRemap t (if v.cores = 0x1FF then r else placeChip r v c px py) s
    else
      match s.spareSite with
      | none => firstRemap t (dropEntries r c) (s.modChip c (fun h => { h with live := false }))
      | some (x, y) =>
        let s := s.setSite x y { s.site x y with state := 0 }
        firstRemap t (placeChip r (s.site x y) c x y) s

/-- Step 4 of R361: the first table waits for the routers to load it under TG 0 (step 5). -/
def State.bringUp (s : State) : State :=
  let (r, s) := firstRemap (List.range Config.chiplets) ⟨true, [], []⟩ s
  { s with updates := [.boot r], boot := ⟨5, Config.sites⟩ }

/-- SITE_POWER_ON (R361 step 3): the next site powers on and tests itself. -/
def execSitePowerOn (deadCores : BitVec 9) (s : State) : Out :=
  if s.boot.step = 3 ∧ s.boot.sites < Config.sites then
    let (px, py) := bootPlace s.boot.sites
    let s := (s.setSite px py (testedSite px deadCores))
    let s := { s with boot := ⟨3, s.boot.sites + 1⟩ }
    .next (if s.boot.sites = Config.sites then s.bringUp else s)
  else notNow

end Sys2Proof.Machine
end

