-- ==== Sys2Proof/Machine/EvPairs.lean ====
section
/-! DEFINITION. The twins of compared messages: match, time-out and mismatch (R318 to R320). -/

namespace Sys2Proof.Machine

/-- Whether two held messages are twins: same region, task and count, one of each copy (R319). -/
def PairMsg.twins (a b : PairMsg) : Bool :=
  a.region == b.region && a.task == b.task && a.count == b.count && a.twin != b.twin

/-- The outstanding result that waits for the answer to a message. -/
def Body.result : Body → Option (Nat × Nat × Nat)
  | .bar m => some (m.core, m.ctx, m.out)
  | .scopew _ _ _ _ _ core ctx out _ _ => some (core, ctx, out)
  | .reserve core ctx out _ => some (core, ctx, out)
  | .send _ => none
  | .barge _ _ => none
  | .trigger _ _ _ _ _ _ _ => none
  | .refused _ _ _ | .access _ _ | .reply _ _ _ => none

/-- The result of a held message. -/
def State.pairResult (s : State) (m : PairMsg) : Option (Nat × Nat × Nat) :=
  match m.body, m.req with
  | some (_, _, b), _ => b.result
  | none, some id => (s.findReq id).bind (fun r => r.out.map (fun o => (r.core, r.ctx, o)))
  | none, none => none

/-- An answer to the first copy's result goes to the second's as well (R319). -/
def State.mirror (s : State) (a b : PairMsg) : State :=
  match s.pairResult a, s.pairResult b with
  | some (_, _, id), some t => { s with mirrors := Tab.set s.mirrors id t }
  | _, _ => s

/-- Forwards the first copy's message once: `a` is the first copy's, `b` its twin. -/
def State.forwardPair (s : State) (a b : PairMsg) : State :=
  let s := (s.mirror a b).modRegion a.region (fun r => { r with forwarded := true })
  match a.body with
  | some (src, dst, body) =>
    match body with
    | .send m =>
      let twin := match b.body with
        | some (_, _, .send w) => some (w.core, w.ctx)
        | _ => none
      drainSends m.core ((s.core m.core).sendq ++ [{ m with twin := twin }]) s
    | _ => s.post src dst body
  | none =>
    match a.req, a.op with
    | some id, _ => s.modReq id (fun r => { r with pairNo := none, twin := b.req })
    | none, some id =>
      let s := s.modOp id (fun o => { o with pairNo := none, twin := b.op })
      match b.op with
      | some j => s.modOp j (fun o => { o with pairNo := none, mute := true })
      | none => s
    | none, none => s

/-- The chiplet whose router holds a message: that of its destination. -/
def State.pairChip (s : State) (m : PairMsg) (core : Nat) : Nat :=
  match m.body, m.req with
  | some (_, .core n, _), _ => n / 8
  | _, some id =>
    match s.findReq id with
    | some r => ((r.lanes.head?.bind (s.laneChip r)).getD (core / 8))
    | none => core / 8
  | _, _ => core / 8

/-- PAIR_MISMATCH (R320): forwarding stops, the record carries the grade, and the job is killed (R326). -/
def State.pairMismatch (s : State) (m : PairMsg) (hash : Word) : State :=
  match Tab.find s.regions m.region with
  | none => s
  | some r =>
    let grade := if r.forwarded then 3 else 0
    let core := r.tasks.getD m.task 0
    let chip := s.pairChip m core
    let f : FaultRec :=
      { FaultRec.blank with
        src := 3, router := chip, grade := BitVec.ofNat 2 grade, code := cPAIR_MISMATCH, core := core, seq := (s.chip chip).recNo, arg := hash }
    let s := s.modRegion m.region (fun r => { r with mismatch := true })
    let s := (s.addRec (some r.part) f).modChip chip (fun h => { h with recNo := h.recNo + 1 })
    let s := s.count (some r.part) (fun c => { c with mismatch := satInc c.mismatch })
    s.killJob r.slot grade []

/-- PAIR_COMPARE (R319): message k meets its twin. -/
def execPairCompare (k : Nat) (s : State) : Out :=
  match s.pairs[k]? with
  | none => notNow
  | some m =>
    match s.pairs.find? (fun x => x.twins m) with
    | none => notNow
    | some x =>
      let a := if m.twin then x else m
      let b := if m.twin then m else x
      let s := { s with pairs := s.pairs.filter (fun y => y != m && y != x) }
      .next (if a.hash = b.hash then s.forwardPair a b else s.pairMismatch a a.hash)

/-- PAIR_TIMEOUT (R319): the twin of message k has not arrived. The first copy's hash is a free value where the message
held is the second copy's. -/
def execPairTimeout (k : Nat) (s : State) : Out :=
  match s.pairs[k]? with
  | none => notNow
  | some m =>
    whenEnabled (!s.pairs.any (fun x => x.twins m))
      (({ s with fresh := s.fresh + 1 } : State).pairMismatch m (if m.twin then Config.freeWord s.fresh else m.hash))

end Sys2Proof.Machine
end

