-- ==== Sys2Proof/Machine/EvPartitions.lean ====
section
/-! DEFINITION. Heartbeats, the reset of a partition with its replay, and the end of a drain (R198, R199, R357, R360). -/

namespace Sys2Proof.Machine

/-- HEARTBEAT_READ (R360). -/
def execHeartbeatRead (p : Nat) (s : State) : Out :=
  match Tab.find s.parts p with
  | none => notNow
  | some v =>
    let w := s.hbmRead (s.slotTag 0) (s.svc.record + 64 * p)
    .next (s.setPart p (if w = v.beat then { v with beatSame := v.beatSame + 1 } else { v with beat := w, beatSame := 0 }))

/-! ### The reset (R198) -/

/-- Logical cores of chiplets. -/
def chipCores (cs : List Nat) : List Nat := cs.flatMap (fun c => (List.range 8).map (fun i => 8 * c + i))

/-- A core that the reset leaves: no thread, nothing queued; its caches and its cycle count stay. -/
def Core.wiped (c : Core) : Core :=
  { Core.clear with cycle := c.cycle, l1 := c.l1, tlb := c.tlb, opSeq := c.opSeq, sealed := c.sealed, retiring := c.retiring }

def wipeCores : List Nat → State → State
  | [], s => s
  | n :: l, s => wipeCores l (s.modCore n Core.wiped)

/-- The shared units of a chiplet forget what its cores asked for. -/
def wipeChips : List Nat → State → State
  | [], s => s
  | c :: t, s =>
    wipeChips t (s.modChip c (fun h =>
      { h with breqs := [], cim := (List.range 8).foldl nullStrips h.cim, mxGrant := none, mxIdle := true }))

/-- Drops the regions of a partition, with the banks they hold. -/
def dropRegions : List Nat → State → State
  | [], s => s
  | g :: t, s =>
    let s := freeAllBanks g s.chips s
    dropRegions t { s with
      regions := Tab.erase s.regions g
      pairs := s.pairs.filter (fun m => m.region != g)
      redsets := s.redsets.filter (fun q => q.region != g + 1) }

/-- Steps 2 and 3 of R198: nothing of the partition's work goes on. -/
def State.emptyPart (s : State) (p : Nat) (landed : List Nat) : State :=
  let cs := (s.part p).chiplets
  let ns := chipCores cs
  let s := landAll (fun r => ns.contains r.core) landed s
  let s := { s with
    reqs := s.reqs.filter (fun r => !ns.contains r.core)
    ops := s.ops.filter (fun o => !ns.contains o.core) }
  let s := dropRegions ((s.regions.filter (fun e => e.2.part == p)).map Prod.fst) s
  let s := (wipeChips cs (wipeCores ns s)).dropStreams (Station.among ns)
  s.modPart p (fun v =>
    { v with
      launches := []
      first := none
      heldCounts := []
      trigq := []
      scopeq := []
      scopeWork := none
      resq := []
      errq := []
      holdBarges := []
      recNo := 0 })

/-! ### Replay (R199) -/

/-- Whether a packet is recorded as complete: it lies below LOW, or its DONE bit is set. -/
def recordedDone (q low done : BitVec 32) : Bool :=
  let d := (q - low).toNat
  decide (2 ^ 31 ≤ d) || (decide (0 < d) && decide (d ≤ 32) && done.getLsbD (d - 1))

/-- The packet that PV and PSEQ leave in doubt is counted complete: its record is not touched. -/
def State.settleDoubt (s : State) (p : Nat) (q : HostQueue) : State :=
  match s.queueView p q with
  | none => s
  | some v =>
    match State.loadDs v 8 q.desc s with
    | .error _ => s
    | .ok (s, ws) =>
      let w5 := wordAt 5 ws
      let seq := BitVec.ofNat 32 (w5.toNat % 2 ^ 32)
      let low := BitVec.ofNat 32 (fieldAt 4 31 0 ws)
      let done := BitVec.ofNat 32 (fieldAt 4 63 32 ws)
      if w5.getLsbD 63 && descOk ws && !recordedDone seq low done then
        let (l, d) := markDone seq low done
        let s := s.tryStores v [d ++ l, BitVec.ofNat 64 seq.toNat] (q.desc + 0x20)
        s.modPart p (fun v => { v with doubt := v.doubt ++ [(q.num, seq)] })
      else s

def settleDoubts (p : Nat) : List HostQueue → State → State
  | [], s => s
  | q :: t, s => settleDoubts p t (s.settleDoubt p q)

/-- Packet n of a queue as its ring holds it (R179). -/
def State.ringPacket (s : State) (p : Nat) (q : HostQueue) (n : BitVec 32) : Option Packet :=
  match s.queueView p q with
  | none => none
  | some v =>
    match State.loadDs v 8 (q.packetAt n) s with
    | .ok (_, ws) => some ⟨q.func, q.num, n, wordAt 2 ws, ws, none⟩
    | .error _ => none

/-- The packets of a queue to be run again, in order: those from LOW up to READ that its descriptor does not record as complete,
from the lock-keeper's copy, else from the ring (R199; log entry 49). -/
def State.replayOfQueue (s : State) (p : Nat) (held : List Packet) (q : HostQueue) : List Packet :=
  (List.range (min 33 (q.read - q.low).toNat)).filterMap (fun i =>
    let n := q.low + BitVec.ofNat 32 i
    if recordedDone n q.low (BitVec.ofNat 32 (fieldAt 4 63 32 q.seen)) then none
    else (held.find? (fun k => k.func == q.func && k.queue == q.num && k.seq == n)).or (s.ringPacket p q n))

/-- Reads every queue's descriptor again. -/
def readQueues (p : Nat) : List HostQueue → State → State
  | [], s => s
  | q :: t, s => readQueues p t (s.readDesc p { q with since := none, waited := 0 } true)

/-- A record of grade G1 for each region run again. -/
def replayRecs (p : Nat) : List Packet → State → State
  | [], s => s
  | k :: t, s => replayRecs p t (if fieldAt 0 7 0 k.words = 1 then s.keeperRec p cPARTITION_RESET 1 0 else s)

/-- Step 5 of R198. -/
def State.replay (s : State) (p : Nat) : State :=
  let qs := (s.part p).queues
  let s := readQueues p qs (settleDoubts p qs s)
  let held := (s.part p).packets ++ (s.part p).replays
  let again := (s.part p).queues.flatMap (s.replayOfQueue p held)
  replayRecs p again (s.modPart p (fun v => { v with packets := [], replays := again }))

/-- PARTITION_RESET (R198, R360); a silent service lock-keeper gives way to its standby. -/
def execPartitionReset (p : Nat) (landed : List Nat) (s : State) : Out :=
  match Tab.find s.parts p with
  | none => notNow
  | some v =>
    if v.beatSame < 64 then notNow
    else if p = 0 then .next (s.setPart 0 { v with lk := v.standby, standby := v.lk, beatSame := 0 })
    else
      let s := ((s.setPartState p .offline).emptyPart p landed).modPart p (fun v => { v with beatSame := 0 })
      .next (((s.replay p).setPartState p v.st).select p)

/-- PARTITION_DRAINED (R357). -/
def execPartitionDrained (p : Nat) (s : State) : Out :=
  whenEnabled ((s.part p).st == .draining
      && s.regions.all (fun e => e.2.part != p || !(e.2.st == .running || e.2.st == .preempted)))
    (s.setPartState p .drained)

end Sys2Proof.Machine
end

