-- ==== Sys2Proof/Machine/Dispatch.lean ====
section
/-! DEFINITION. One arm per constructor of Instr: each a call of the instruction's meaning. -/

namespace Sys2Proof.Machine

def exec (i : Instr) (s : State) : Host.Outcome State Fault Refusal :=
  match i with
  | .add sw d a b => Sys2Proof.Machine.execAdd sw d a b s
  | .sub sw d a b => Sys2Proof.Machine.execSub sw d a b s
  | .mul sw d a b => Sys2Proof.Machine.execMul sw d a b s
  | .mulh sw d a b => Sys2Proof.Machine.execMulh sw d a b s
  | .mulhu sw d a b => Sys2Proof.Machine.execMulhu sw d a b s
  | .div sw d a b => Sys2Proof.Machine.execDiv sw d a b s
  | .divu sw d a b => Sys2Proof.Machine.execDivu sw d a b s
  | .rem sw d a b => Sys2Proof.Machine.execRem sw d a b s
  | .remu sw d a b => Sys2Proof.Machine.execRemu sw d a b s
  | .and sw d a b => Sys2Proof.Machine.execAnd sw d a b s
  | .or sw d a b => Sys2Proof.Machine.execOr sw d a b s
  | .xor sw d a b => Sys2Proof.Machine.execXor sw d a b s
  | .andn sw d a b => Sys2Proof.Machine.execAndn sw d a b s
  | .shl sw d a b => Sys2Proof.Machine.execShl sw d a b s
  | .shr sw d a b => Sys2Proof.Machine.execShr sw d a b s
  | .shra sw d a b => Sys2Proof.Machine.execShra sw d a b s
  | .min sw d a b => Sys2Proof.Machine.execMin sw d a b s
  | .max sw d a b => Sys2Proof.Machine.execMax sw d a b s
  | .minu sw d a b => Sys2Proof.Machine.execMinu sw d a b s
  | .maxu sw d a b => Sys2Proof.Machine.execMaxu sw d a b s
  | .seteq sw d a b => Sys2Proof.Machine.execSeteq sw d a b s
  | .setlt sw d a b => Sys2Proof.Machine.execSetlt sw d a b s
  | .setltu sw d a b => Sys2Proof.Machine.execSetltu sw d a b s
  | .sel sw d a b => Sys2Proof.Machine.execSel sw d a b s
  | .addi sw d a imm => Sys2Proof.Machine.execAddi sw d a imm s
  | .andi sw d a imm => Sys2Proof.Machine.execAndi sw d a imm s
  | .ori sw d a imm => Sys2Proof.Machine.execOri sw d a imm s
  | .xori sw d a imm => Sys2Proof.Machine.execXori sw d a imm s
  | .shli sw d a imm => Sys2Proof.Machine.execShli sw d a imm s
  | .shri sw d a imm => Sys2Proof.Machine.execShri sw d a imm s
  | .shrai sw d a imm => Sys2Proof.Machine.execShrai sw d a imm s
  | .movi sw d imm => Sys2Proof.Machine.execMovi sw d imm s
  | .clz sw d a => Sys2Proof.Machine.execClz sw d a s
  | .ctz sw d a => Sys2Proof.Machine.execCtz sw d a s
  | .popc sw d a => Sys2Proof.Machine.execPopc sw d a s
  | .sextB sw d a => Sys2Proof.Machine.execSextB sw d a s
  | .sextH sw d a => Sys2Proof.Machine.execSextH sw d a s
  | .sextW sw d a => Sys2Proof.Machine.execSextW sw d a s
  | .zextB sw d a => Sys2Proof.Machine.execZextB sw d a s
  | .zextH sw d a => Sys2Proof.Machine.execZextH sw d a s
  | .zextW sw d a => Sys2Proof.Machine.execZextW sw d a s
  | .bswap sw d a => Sys2Proof.Machine.execBswap sw d a s
  | .mov sw d a => Sys2Proof.Machine.execMov sw d a s
  | .faddD sw d a b => Sys2Proof.Machine.execFaddD sw d a b s
  | .faddS sw d a b => Sys2Proof.Machine.execFaddS sw d a b s
  | .fsubD sw d a b => Sys2Proof.Machine.execFsubD sw d a b s
  | .fmulD sw d a b => Sys2Proof.Machine.execFmulD sw d a b s
  | .fmulS sw d a b => Sys2Proof.Machine.execFmulS sw d a b s
  | .fdivD sw d a b => Sys2Proof.Machine.execFdivD sw d a b s
  | .ffmaD sw d a b => Sys2Proof.Machine.execFfmaD sw d a b s
  | .ffmaS sw d a b => Sys2Proof.Machine.execFfmaS sw d a b s
  | .fcmpeqD sw d a b => Sys2Proof.Machine.execFcmpeqD sw d a b s
  | .fcmpltD sw d a b => Sys2Proof.Machine.execFcmpltD sw d a b s
  | .fsqrtD sw d a => Sys2Proof.Machine.execFsqrtD sw d a s
  | .fsqrtS sw d a => Sys2Proof.Machine.execFsqrtS sw d a s
  | .fabsD sw d a => Sys2Proof.Machine.execFabsD sw d a s
  | .fnegD sw d a => Sys2Proof.Machine.execFnegD sw d a s
  | .fclassD sw d a => Sys2Proof.Machine.execFclassD sw d a s
  | .fcvtDS sw d a => Sys2Proof.Machine.execFcvtDS sw d a s
  | .fcvtSD sw d a => Sys2Proof.Machine.execFcvtSD sw d a s
  | .fcvtDL sw d a => Sys2Proof.Machine.execFcvtDL sw d a s
  | .fcvtLD sw d a => Sys2Proof.Machine.execFcvtLD sw d a s
  | .fcvtSH sw d a => Sys2Proof.Machine.execFcvtSH sw d a s
  | .fcvtHS sw d a => Sys2Proof.Machine.execFcvtHS sw d a s
  | .fcvtSBf sw d a => Sys2Proof.Machine.execFcvtSBf sw d a s
  | .fcvtBfS sw d a => Sys2Proof.Machine.execFcvtBfS sw d a s
  | .beq sw a b off => Sys2Proof.Machine.execBeq sw a b off s
  | .bne sw a b off => Sys2Proof.Machine.execBne sw a b off s
  | .blt sw a b off => Sys2Proof.Machine.execBlt sw a b off s
  | .bge sw a b off => Sys2Proof.Machine.execBge sw a b off s
  | .bltu sw a b off => Sys2Proof.Machine.execBltu sw a b off s
  | .bgeu sw a b off => Sys2Proof.Machine.execBgeu sw a b off s
  | .bmb sw p idx off => Sys2Proof.Machine.execBmb sw p idx off s
  | .bcr sw p n off => Sys2Proof.Machine.execBcr sw p n off s
  | .jmp sw off => Sys2Proof.Machine.execJmp sw off s
  | .call sw off => Sys2Proof.Machine.execCall sw off s
  | .jr sw a => Sys2Proof.Machine.execJr sw a s
  | .callr sw a => Sys2Proof.Machine.execCallr sw a s
  | .ret sw => Sys2Proof.Machine.execRet sw s
  | .loop sw c off => Sys2Proof.Machine.execLoop sw c off s
  | .ldB sw d a imm => Sys2Proof.Machine.execLdB sw d a imm s
  | .ldH sw d a imm => Sys2Proof.Machine.execLdH sw d a imm s
  | .ldW sw d a imm => Sys2Proof.Machine.execLdW sw d a imm s
  | .ldD sw d a imm => Sys2Proof.Machine.execLdD sw d a imm s
  | .lduB sw d a imm => Sys2Proof.Machine.execLduB sw d a imm s
  | .lduH sw d a imm => Sys2Proof.Machine.execLduH sw d a imm s
  | .lduW sw d a imm => Sys2Proof.Machine.execLduW sw d a imm s
  | .stB sw d a imm => Sys2Proof.Machine.execStB sw d a imm s
  | .stH sw d a imm => Sys2Proof.Machine.execStH sw d a imm s
  | .stW sw d a imm => Sys2Proof.Machine.execStW sw d a imm s
  | .stD sw d a imm => Sys2Proof.Machine.execStD sw d a imm s
  | .pref sw a imm => Sys2Proof.Machine.execPref sw a imm s
  | .vadd sw vd va vb t m f => Sys2Proof.Machine.execVadd sw vd va vb t m f s
  | .vsub sw vd va vb t m f => Sys2Proof.Machine.execVsub sw vd va vb t m f s
  | .vmul sw vd va vb t m f => Sys2Proof.Machine.execVmul sw vd va vb t m f s
  | .vfma sw vd va vb vc t m f => Sys2Proof.Machine.execVfma sw vd va vb vc t m f s
  | .vmin sw vd va vb t m f => Sys2Proof.Machine.execVmin sw vd va vb t m f s
  | .vmax sw vd va vb t m f => Sys2Proof.Machine.execVmax sw vd va vb t m f s
  | .vlogic sw vd va vb t m f => Sys2Proof.Machine.execVlogic sw vd va vb t m f s
  | .vshift sw vd va vb t m f => Sys2Proof.Machine.execVshift sw vd va vb t m f s
  | .vcmp sw md va vb t m f => Sys2Proof.Machine.execVcmp sw md va vb t m f s
  | .vsel sw vd va vb t m => Sys2Proof.Machine.execVsel sw vd va vb t m s
  | .vcvt sw vd va src dst m p => Sys2Proof.Machine.execVcvt sw vd va src dst m p s
  | .vunary sw vd va vb t m f => Sys2Proof.Machine.execVunary sw vd va vb t m f s
  | .vred sw vd va vb t m f => Sys2Proof.Machine.execVred sw vd va vb t m f s
  | .vscan sw vd va vb t m f => Sys2Proof.Machine.execVscan sw vd va vb t m f s
  | .vbcast sw v xa t k => Sys2Proof.Machine.execVbcast sw v xa t k s
  | .vext sw v xa lane t => Sys2Proof.Machine.execVext sw v xa lane t s
  | .vins sw v xa lane t k => Sys2Proof.Machine.execVins sw v xa lane t k s
  | .vperm sw vd va vb vc t m => Sys2Proof.Machine.execVperm sw vd va vb vc t m s
  | .vld sw v xa imm t k => Sys2Proof.Machine.execVld sw v xa imm t k s
  | .vst sw v xa imm t k => Sys2Proof.Machine.execVst sw v xa imm t k s
  | .vlds sw v xa xb t k => Sys2Proof.Machine.execVlds sw v xa xb t k s
  | .vsts sw v xa xb t k => Sys2Proof.Machine.execVsts sw v xa xb t k s
  | .vgath sw v xa vi t k => Sys2Proof.Machine.execVgath sw v xa vi t k s
  | .vscat sw v xa vi t k => Sys2Proof.Machine.execVscat sw v xa vi t k s
  | .mand sw md ma mb => Sys2Proof.Machine.execMand sw md ma mb s
  | .mor sw md ma mb => Sys2Proof.Machine.execMor sw md ma mb s
  | .mxor sw md ma mb => Sys2Proof.Machine.execMxor sw md ma mb s
  | .mandn sw md ma mb => Sys2Proof.Machine.execMandn sw md ma mb s
  | .mnot sw md ma => Sys2Proof.Machine.execMnot sw md ma s
  | .mpopc sw d ma => Sys2Proof.Machine.execMpopc sw d ma s
  | .mfirst sw d ma => Sys2Proof.Machine.execMfirst sw d ma s
  | .mset sw md a => Sys2Proof.Machine.execMset sw md a s
  | .mget sw d ma => Sys2Proof.Machine.execMget sw d ma s
  | .spawn sw d a b => Sys2Proof.Machine.execSpawn sw d a b s
  | .reap sw d a => Sys2Proof.Machine.execReap sw d a s
  | .repart sw d a => Sys2Proof.Machine.execRepart sw d a s
  | .send sw a b => Sys2Proof.Machine.execSend sw a b s
  | .waitm sw => Sys2Proof.Machine.execWaitm sw s
  | .recvm sw d => Sys2Proof.Machine.execRecvm sw d s
  | .clrf sw d => Sys2Proof.Machine.execClrf sw d s
  | .migrate sw a => Sys2Proof.Machine.execMigrate sw a s
  | .trigger sw a b => Sys2Proof.Machine.execTrigger sw a b s
  | .bar sw d a => Sys2Proof.Machine.execBar sw d a s
  | .fence sw kind scope => Sys2Proof.Machine.execFence sw kind scope s
  | .amoAdd sw d a scope ord => Sys2Proof.Machine.execAmoAdd sw d a scope ord s
  | .amoMin sw d a scope ord => Sys2Proof.Machine.execAmoMin sw d a scope ord s
  | .amoMax sw d a scope ord => Sys2Proof.Machine.execAmoMax sw d a scope ord s
  | .amoMinu sw d a scope ord => Sys2Proof.Machine.execAmoMinu sw d a scope ord s
  | .amoMaxu sw d a scope ord => Sys2Proof.Machine.execAmoMaxu sw d a scope ord s
  | .amoAnd sw d a scope ord => Sys2Proof.Machine.execAmoAnd sw d a scope ord s
  | .amoOr sw d a scope ord => Sys2Proof.Machine.execAmoOr sw d a scope ord s
  | .amoXchg sw d a scope ord => Sys2Proof.Machine.execAmoXchg sw d a scope ord s
  | .cas sw d a b scope => Sys2Proof.Machine.execCas sw d a b scope s
  | .redFaddOrd sw a b scope ord => Sys2Proof.Machine.execRedFaddOrd sw a b scope ord s
  | .redFaddFast sw a b scope ord => Sys2Proof.Machine.execRedFaddFast sw a b scope ord s
  | .redIadd sw a b scope ord => Sys2Proof.Machine.execRedIadd sw a b scope ord s
  | .redMin sw a b scope ord => Sys2Proof.Machine.execRedMin sw a b scope ord s
  | .redMax sw a b scope ord => Sys2Proof.Machine.execRedMax sw a b scope ord s
  | .scopew sw a scope => Sys2Proof.Machine.execScopew sw a scope s
  | .clean sw d a scope => Sys2Proof.Machine.execClean sw d a scope s
  | .inval sw d a scope => Sys2Proof.Machine.execInval sw d a scope s
  | .discard sw d a scope => Sys2Proof.Machine.execDiscard sw d a scope s
  | .zero sw d a scope => Sys2Proof.Machine.execZero sw d a scope s
  | .reserve sw d a => Sys2Proof.Machine.execReserve sw d a s
  | .bankmode sw d a b => Sys2Proof.Machine.execBankmode sw d a b s
  | .copy sw a b => Sys2Proof.Machine.execCopy sw a b s
  | .sbind sw d a => Sys2Proof.Machine.execSbind sw d a s
  | .bufinit sw a b => Sys2Proof.Machine.execBufinit sw a b s
  | .bufacq sw d a => Sys2Proof.Machine.execBufacq sw d a s
  | .bufrel sw a b => Sys2Proof.Machine.execBufrel sw a b s
  | .qpush sw d a b => Sys2Proof.Machine.execQpush sw d a b s
  | .qpop sw d a => Sys2Proof.Machine.execQpop sw d a s
  | .qsteal sw d a b => Sys2Proof.Machine.execQsteal sw d a b s
  | .mloadb sw d a => Sys2Proof.Machine.execMloadb sw d a s
  | .mma sw acc z sn t b => Sys2Proof.Machine.execMma sw acc z sn t b s
  | .mmas sw acc z sn sk t b => Sys2Proof.Machine.execMmas sw acc z sn sk t b s
  | .mread sw vd acc t b => Sys2Proof.Machine.execMread sw vd acc t b s
  | .nop sw => Sys2Proof.Machine.execNop sw s
  | .brk sw => Sys2Proof.Machine.execBrk sw s
  | .trap sw a => Sys2Proof.Machine.execTrap sw a s
  | .idle sw => Sys2Proof.Machine.execIdle sw s
  | .rdctl sw d ctl => Sys2Proof.Machine.execRdctl sw d ctl s
  | .wrctl sw ctl a => Sys2Proof.Machine.execWrctl sw ctl a s
  | .rep sw len times sd sa sb => Sys2Proof.Machine.execRep sw len times sd sa sb s
  | .ext payload => Sys2Proof.Machine.execExt payload s
  | .outstandingResultWrite c x k j bits => Sys2Proof.Machine.execOutstandingResultWrite c x k j bits s
  | .parkConditionHolds c x => Sys2Proof.Machine.execParkConditionHolds c x s
  | .vectorGrant chip unit => Sys2Proof.Machine.execVectorGrant chip unit s
  | .sendArrival c => Sys2Proof.Machine.execSendArrival c s
  | .refusalDelivery c => Sys2Proof.Machine.execRefusalDelivery c s
  | .mailboxMessageArrival c => Sys2Proof.Machine.execMailboxMessageArrival c s
  | .noticeDelivery c => Sys2Proof.Machine.execNoticeDelivery c s
  | .portWordArrival c port => Sys2Proof.Machine.execPortWordArrival c port s
  | .errorToken c port => Sys2Proof.Machine.execErrorToken c port s
  | .bargeArrival c => Sys2Proof.Machine.execBargeArrival c s
  | .bargeHold c => Sys2Proof.Machine.execBargeHold c s
  | .bargeTake c x => Sys2Proof.Machine.execBargeTake c x s
  | .bargeEnd c x => Sys2Proof.Machine.execBargeEnd c x s
  | .memoryAccess r lane fill victim => Sys2Proof.Machine.execMemoryAccess r lane fill victim s
  | .acknowledgement c x j => Sys2Proof.Machine.execAcknowledgement c x j s
  | .atomicPerform r => Sys2Proof.Machine.execAtomicPerform r s
  | .lineopPerform r => Sys2Proof.Machine.execLineopPerform r s
  | .redContribution r => Sys2Proof.Machine.execRedContribution r s
  | .reductionSetComplete k order => Sys2Proof.Machine.execReductionSetComplete k order s
  | .pageWalk c vahi va => Sys2Proof.Machine.execPageWalk c vahi va s
  | .l1Eviction c line => Sys2Proof.Machine.execL1Eviction c line s
  | .bankAccess r lane => Sys2Proof.Machine.execBankAccess r lane s
  | .bankmodeRequest chip => Sys2Proof.Machine.execBankmodeRequest chip s
  | .bankSwitchComplete chip bank => Sys2Proof.Machine.execBankSwitchComplete chip bank s
  | .bankFailure chip bank => Sys2Proof.Machine.execBankFailure chip bank s
  | .heldLineResolve line how => Sys2Proof.Machine.execHeldLineResolve line how s
  | .unbackedAllocationResume r lane => Sys2Proof.Machine.execUnbackedAllocationResume r lane s
  | .unbackedLineMove line => Sys2Proof.Machine.execUnbackedLineMove line s
  | .scopewHandle p => Sys2Proof.Machine.execScopewHandle p s
  | .scopeInstall c => Sys2Proof.Machine.execScopeInstall c s
  | .scopewAnswer p => Sys2Proof.Machine.execScopewAnswer p s
  | .reserveRequest p => Sys2Proof.Machine.execReserveRequest p s
  | .barrierArrival c => Sys2Proof.Machine.execBarrierArrival c s
  | .barrierResult c unit => Sys2Proof.Machine.execBarrierResult c unit s
  | .qpushCommand r => Sys2Proof.Machine.execQpushCommand r s
  | .qpopCommand r => Sys2Proof.Machine.execQpopCommand r s
  | .qstealCommand r => Sys2Proof.Machine.execQstealCommand r s
  | .bufinitRequest r => Sys2Proof.Machine.execBufinitRequest r s
  | .bufacqRequest r => Sys2Proof.Machine.execBufacqRequest r s
  | .bufacqGrant chip bank base produce => Sys2Proof.Machine.execBufacqGrant chip bank base produce s
  | .bufrelRequest r => Sys2Proof.Machine.execBufrelRequest r s
  | .bufferSectorCounted o => Sys2Proof.Machine.execBufferSectorCounted o s
  | .copyElement o l => Sys2Proof.Machine.execCopyElement o l s
  | .copyCompletion o => Sys2Proof.Machine.execCopyCompletion o s
  | .streamFill c n => Sys2Proof.Machine.execStreamFill c n s
  | .streamDrain c n => Sys2Proof.Machine.execStreamDrain c n s
  | .outputBindingCompletion o => Sys2Proof.Machine.execOutputBindingCompletion o s
  | .rowPop c => Sys2Proof.Machine.execRowPop c s
  | .matrixGrant chip => Sys2Proof.Machine.execMatrixGrant chip s
  | .mloadbStep chip => Sys2Proof.Machine.execMloadbStep chip s
  | .mmaStep chip => Sys2Proof.Machine.execMmaStep chip s
  | .mmasStep chip => Sys2Proof.Machine.execMmasStep chip s
  | .mreadStep chip => Sys2Proof.Machine.execMreadStep chip s
  | .matrixIdle chip => Sys2Proof.Machine.execMatrixIdle chip s
  | .columnUnitRelease chip u => Sys2Proof.Machine.execColumnUnitRelease chip u s
  | .notify f q => Sys2Proof.Machine.execNotify f q s
  | .triggerDec p => Sys2Proof.Machine.execTriggerDec p s
  | .triggerArm p => Sys2Proof.Machine.execTriggerArm p s
  | .triggerNotify p => Sys2Proof.Machine.execTriggerNotify p s
  | .priorityAging p k => Sys2Proof.Machine.execPriorityAging p k s
  | .regionPlace p => Sys2Proof.Machine.execRegionPlace p s
  | .corePartEnd c => Sys2Proof.Machine.execCorePartEnd c s
  | .regionComplete e => Sys2Proof.Machine.execRegionComplete e s
  | .packetCompletion p => Sys2Proof.Machine.execPacketCompletion p s
  | .saveEngineWrite c => Sys2Proof.Machine.execSaveEngineWrite c s
  | .regionResume g => Sys2Proof.Machine.execRegionResume g s
  | .imageWrite c x => Sys2Proof.Machine.execImageWrite c x s
  | .faultRecord p k => Sys2Proof.Machine.execFaultRecord p k s
  | .resumeReissue c => Sys2Proof.Machine.execResumeReissue c s
  | .resumeSkip c => Sys2Proof.Machine.execResumeSkip c s
  | .resumeImagePc c => Sys2Proof.Machine.execResumeImagePc c s
  | .kill c => Sys2Proof.Machine.execKill c s
  | .stop c => Sys2Proof.Machine.execStop c s
  | .wake c => Sys2Proof.Machine.execWake c s
  | .image c => Sys2Proof.Machine.execImage c s
  | .engineResume c => Sys2Proof.Machine.execEngineResume c s
  | .engineEnd c => Sys2Proof.Machine.execEngineEnd c s
  | .unseal c => Sys2Proof.Machine.execUnseal c s
  | .launchBarge c => Sys2Proof.Machine.execLaunchBarge c s
  | .regionFaulted g grade => Sys2Proof.Machine.execRegionFaulted g grade s
  | .jobKill slot grade landed => Sys2Proof.Machine.execJobKill slot grade landed s
  | .keySlotSweep slot => Sys2Proof.Machine.execKeySlotSweep slot s
  | .uncorrectableError place => Sys2Proof.Machine.execUncorrectableError place s
  | .containmentRestart c spare => Sys2Proof.Machine.execContainmentRestart c spare s
  | .correctedError c array k => Sys2Proof.Machine.execCorrectedError c array k s
  | .correctedErrorNotice p => Sys2Proof.Machine.execCorrectedErrorNotice p s
  | .pairCompare k => Sys2Proof.Machine.execPairCompare k s
  | .pairTimeout k => Sys2Proof.Machine.execPairTimeout k s
  | .heartbeatRead p => Sys2Proof.Machine.execHeartbeatRead p s
  | .partitionReset p landed => Sys2Proof.Machine.execPartitionReset p landed s
  | .surveyRefresh => Sys2Proof.Machine.execSurveyRefresh s
  | .partitionDrained p => Sys2Proof.Machine.execPartitionDrained p s
  | .sweepLine chip cim => Sys2Proof.Machine.execSweepLine chip cim s
  | .remapLoad failed => Sys2Proof.Machine.execRemapLoad failed s
  | .remapFlip => Sys2Proof.Machine.execRemapFlip s
  | .remapConfirm => Sys2Proof.Machine.execRemapConfirm s
  | .remapIdle => Sys2Proof.Machine.execRemapIdle s
  | .routerHop k dir => Sys2Proof.Machine.execRouterHop k dir s
  | .streamMessageArrival k => Sys2Proof.Machine.execStreamMessageArrival k s
  | .retransmitTimeout k => Sys2Proof.Machine.execRetransmitTimeout k s
  | .rehome l => Sys2Proof.Machine.execRehome l s
  | .lineRelease line => Sys2Proof.Machine.execLineRelease line s
  | .siteDeath px py => Sys2Proof.Machine.execSiteDeath px py s
  | .wharfFlitReceive w flit => Sys2Proof.Machine.execWharfFlitReceive w flit s
  | .wharfResendTimeout w => Sys2Proof.Machine.execWharfResendTimeout w s
  | .wharfFailure w => Sys2Proof.Machine.execWharfFailure w s
  | .cxlMemAccess f hp size write => Sys2Proof.Machine.execCxlMemAccess f hp size write s
  | .spdmRequest req => Sys2Proof.Machine.execSpdmRequest req s
  | .powerOn => Sys2Proof.Machine.execPowerOn s
  | .sitePowerOn deadCores => Sys2Proof.Machine.execSitePowerOn deadCores s
  | .warmReset => Sys2Proof.Machine.execWarmReset s
  | .functionReset f => Sys2Proof.Machine.execFunctionReset f s
  | .drain => Sys2Proof.Machine.execDrain s
  | .undrain => Sys2Proof.Machine.execUndrain s
  | .offline => Sys2Proof.Machine.execOffline s
  | .online => Sys2Proof.Machine.execOnline s
  | .killJob => Sys2Proof.Machine.execKillJob s
  | .setAge => Sys2Proof.Machine.execSetAge s
  | .setStrength => Sys2Proof.Machine.execSetStrength s
  | .setTout => Sys2Proof.Machine.execSetTout s
  | .retireCore => Sys2Proof.Machine.execRetireCore s
  | .setPower => Sys2Proof.Machine.execSetPower s
  | .setFabricSlot => Sys2Proof.Machine.execSetFabricSlot s
  | .setFabricAdmission => Sys2Proof.Machine.execSetFabricAdmission s
  | .setFabricSendAdmission => Sys2Proof.Machine.execSetFabricSendAdmission s
  | .setFabricRoute => Sys2Proof.Machine.execSetFabricRoute s
  | .surveyNow => Sys2Proof.Machine.execSurveyNow s
  | .setQueueRegister => Sys2Proof.Machine.execSetQueueRegister s
  | .setQueueRemove => Sys2Proof.Machine.execSetQueueRemove s
  | .nring f v => Sys2Proof.Machine.execNring f v s
  | .registerWrite f off size v => Sys2Proof.Machine.execRegisterWrite f off size v s

end Sys2Proof.Machine
end

