-- ==== Sys2Proof/Machine/Step.lean ====
section
/-! DEFINITION. One step: the next move of the agenda, or the issue slot of the core `turn`. -/

namespace Sys2Proof.Machine

/-- Fetches and runs the instruction of the thread that holds the slot. -/
def runThread (s : State) : Host.Outcome State Fault Refusal :=
  match s.fetchInstr s.cur s.ctx with
  | .ok i => exec i s
  | .error e => finish (stop e) s

/-- An issue slot of core n; a bubble when no context qualifies (R149). -/
def slotStep (n : Nat) (s : State) : Host.Outcome State Fault Refusal :=
  match s.beginSlot n with
  | (s', true) => runThread s'
  | (s', false) => .next s'

/-- Whether the thread that holds the slot can lose it to bank arbitration: the instruction at hand accesses a bank of its own
chiplet, and it has not lost all but the last of its attempts (R150, R211). -/
def State.canLose (s : State) : Bool :=
  decide (s.thr.tries + 1 < arbitrationTries) &&
    match s.fetchInstr s.cur s.ctx with
    | .error _ => false
    | .ok i =>
      match exec i s with
      | .next s' => s.sendsToBasin s'
      | .fault _ => false
      | .refused _ => false

/-- An issue slot of core n in which the chosen thread loses bank arbitration (R150). -/
def lostStep (n : Nat) (s : State) : Host.Outcome State Fault Refusal :=
  match s.beginSlot n with
  | (s', true) => whenEnabled s'.canLose s'.loseTry
  | (_, false) => notNow

/-- The next word of an instruction whose EXT words the thread has taken; where its core's next move is a lost slot and the
instruction is one that can lose, the thread loses this one. -/
def wordStep (s : State) : Host.Outcome State Fault Refusal :=
  match s.agenda with
  | .lost n :: t => if n = s.cur ∧ s.canLose then .next { s.loseTry with agenda := t } else runThread s
  | _ => runThread s

def step (s : State) : Host.Outcome State Fault Refusal :=
  if s.thr.pre.isEmpty then
    match s.agenda with
    | [] => slotStep s.turn s
    | .slot n :: t => slotStep n { s with agenda := t }
    | .lost n :: t => lostStep n { s with agenda := t }
    | .event i :: t => if isEvent i then exec i { s with agenda := t } else notNow
    | .flips r :: t => flipRouters r { s with agenda := t }
    | .ranges f l :: t => writeRanges f l { s with agenda := t }
    | .cdat req :: t => answerCdat req { s with agenda := t }
  else wordStep s

/-- The state in which the very next step fetches and runs the word (R68). -/
def State.withFetchWord (s : State) (_nbits w : Nat) : State := s.loadWord w

end Sys2Proof.Machine
end

