-- ==== Sys2Proof/Safety.lean ====
section
/-! DEFINITION. The terms that statements about the machine use: runs and what counts as a safe one, the values and
effects of operand fields, and what an instruction leaves. -/

namespace Sys2Proof.Machine

/-! ### Runs -/

/-- States that steps reach. -/
inductive Reaches : State → State → Prop where
  | refl (s : State) : Reaches s s
  | next {s t u : State} (h : Reaches s t) (hs : step t = .next u) : Reaches s u

/-- A property that every step keeps. -/
def Kept (inv : State → Prop) : Prop := ∀ s s', inv s → step s = .next s' → inv s'

/-- Memory, tags and marks stand in their canonical form: equal memories are equal data (R201, R228, R311). -/
def State.memoryCanonical (s : State) : Prop :=
  Memory.wf s.mem = true ∧ Tab.wf s.otag = true ∧ Tab.wf s.poison = true

/-- A run is safe when it reaches no place that does not exist. -/
def State.safe (s : State) : Prop := ∀ t, Reaches s t → ∀ f, step t ≠ .fault f

/-! ### Operand fields (R14 to R19, R26, R30, R96, R157, R167, R263) -/

/-- The fields can be used now: their names are legal (R15, R16), no port or stream among them faults and none has to be
waited for (R96). -/
def State.canUse (s : State) (srcs dsts : List Reg) : Prop :=
  (∀ r ∈ srcs, readable s.thr.size r = true) ∧ (∀ r ∈ dsts, writable s.thr.size r = true)
  ∧ (∀ r ∈ srcs, s.srcFault s.cur r.toNat (countOf r srcs) = none)
  ∧ (∀ r ∈ dsts, s.dstFault s.cur r.toNat (countOf r dsts) = none)
  ∧ (∀ r ∈ srcs, s.srcPark s.cur s.thr r.toNat (countOf r srcs) = none)
  ∧ (∀ r ∈ dsts, s.dstPark s.cur r.toNat (countOf r dsts) = none)

/-- What a source field gives: a window register, a core-shared register, the oldest word of a port's FIFO, the next
element of a stream, a loop register, or the return-address registers (R15). -/
def State.value (s : State) (r : Reg) : PVal :=
  let n := r.toNat
  let c := s.core s.cur
  if n < 0x80 then ⟨(c.reg (s.thr.base + n)).val, (c.reg (s.thr.base + n)).poison⟩
  else if n < 0xA0 then ⟨(Tab.getD c.cregs (n - 0x80) ⟨0, false⟩).val, (Tab.getD c.cregs (n - 0x80) ⟨0, false⟩).poison⟩
  else
    match inFifo n, streamOf n with
    | some p, _ => ⟨((c.fifo p).headD ⟨0, false⟩).val, false⟩
    | none, some k =>
      match c.binding k with
      | .input b => ⟨extendElem b (popStream b).2.1, (popStream b).2.2⟩
      | _ => ⟨0, false⟩
    | none, none =>
      let t := s.thr
      ⟨match n with
        | 0xB0 => t.lc0
        | 0xB1 => t.ls0
        | 0xB2 => t.le0
        | 0xB3 => t.lc1
        | 0xB4 => t.ls1
        | 0xB5 => t.le1
        | 0xB6 => t.rasp
        | _ => BitVec.ofNat 64 t.rasd, false⟩

/-- What reading a source field takes away: the oldest word of a port, the next element of a stream, which unbinds with
its last element (R168, R266); nothing for a register. -/
def State.afterRead (s : State) (r : Reg) : State :=
  let n := r.toNat
  let c := s.core s.cur
  if n < 0xA0 then s
  else
    match inFifo n, streamOf n with
    | some p, _ => s.setCore s.cur { c with fifos := Tab.set c.fifos (portKey p) ((c.fifo p).drop 1) }
    | none, some k =>
      match c.binding k with
      | .input b =>
        let b' := (popStream b).1
        s.setCore s.cur { c with strm := Tab.set c.strm k (if b'.total ≤ b'.popped then .unbound else .input b') }
      | _ => s
    | none, none => s

/-- What writing a destination field leaves: a window register full with the value, a core-shared register with a write on
its way, a word towards the port's partner, a value in the stream, or a loop or return-address register (R15, R19, R29,
R32, R157, R167, R266). -/
def State.afterWrite (s : State) (d : Reg) (v : Word) (p : Bool) : State :=
  let n := d.toNat
  if n < 0x80 then s.modCore s.cur (fun c => c.setReg (s.thr.base + n) ⟨v, true, false, p⟩)
  else if n < 0xA0 then
    s.modCore s.cur (fun c => { c with cpend := enterWrite ⟨c.cycle + 4, n - 0x80, v, p, 2 * s.fresh⟩ c.cpend })
  else
    match outFifo n, streamOf n with
    | some _, _ => s.pushPort s.cur n v
    | none, some k =>
      match (s.core s.cur).binding k with
      | .output id => s.pushStream s.cur k id v
      | _ => s
    | none, none =>
      s.modThr (fun t =>
        match n with
        | 0xB0 => { t with lc0 := v }
        | 0xB1 => { t with ls0 := v &&& ~~~(3 : Word) }
        | 0xB2 => { t with le0 := v &&& ~~~(3 : Word) }
        | 0xB3 => { t with lc1 := v }
        | 0xB4 => { t with ls1 := v &&& ~~~(3 : Word) }
        | 0xB5 => { t with le1 := v &&& ~~~(3 : Word) }
        | 0xB6 => { t with rasp := v &&& 0xFFF8 }
        | 0xB7 => { t with rasd := min v.toNat 16 }
        | _ => t)

/-- A field that carries no poison mark: a port, a stream, or a loop or return-address register (R311). -/
def unmarked (d : Reg) : Bool := decide (0xA0 ≤ d.toNat)

/-! ### The end of an instruction -/

/-- Moves on: the frame's loop, or the next word and the loop-end test; the switch marker (R23, R31, R83). -/
def State.moved (s : State) (sw : Bool) : State := s.modThr (fun t => t.advance.settle sw)

/-- A taken transfer, and the switch marker (R23, R109). -/
def State.jumped (s : State) (sw : Bool) (target : Word) : State := s.modThr (fun t => (t.goto target).settle sw)

/-- The thread at hand halts with a fault at its instruction; nothing else of the instruction happens (R86). -/
def State.faulted (s : State) (f : FaultInfo) : State := s.haltThread s.cur s.ctx f s.thr.pc false

/-- The thread at hand parks before its instruction (R148, R150). -/
def State.parkedFor (s : State) (p : Park) : State :=
  s.modThr (fun t => { t with st := .parked, park := some p, pre := [] })

/-! ### What a thread's own instruction leaves alone -/

/-- Every core but the one at hand is as before. -/
def State.otherCores (s t : State) : Prop := ∀ n, n ≠ s.cur → t.core n = s.core n

/-- Every context of the core but the one at hand is as before. -/
def State.otherThreads (s t : State) : Prop := ∀ x, x ≠ s.ctx → t.thread s.cur x = s.thread s.cur x

end Sys2Proof.Machine
end

