-- ==== Sys2Proof/Certificates/Slice0/Obligations.lean ====
section
/-! DEFINITION. What the provers prove of the machine. -/

namespace Sys2Proof.Machine

/-! ### Terms of the statements -/

/-- amt of R100: bits 5:0. -/
def amount (b : Word) : Nat := (b.extractLsb' 0 6).toNat

/-- Marker, destination, sources and function of the integer register instructions (R100). -/
def integerRegister : Instr → Option (Bool × Reg × Reg × Reg × (Word → Word → Word))
  | .add sw d a b => some (sw, d, a, b, fun x y => BitVec.ofInt 64 (x.toInt + y.toInt))
  | .sub sw d a b => some (sw, d, a, b, fun x y => BitVec.ofInt 64 (x.toInt - y.toInt))
  | .mul sw d a b => some (sw, d, a, b, fun x y => BitVec.ofInt 64 (x.toInt * y.toInt))
  | .mulh sw d a b => some (sw, d, a, b, fun x y => (x.signExtend 128 * y.signExtend 128).extractLsb' 64 64)
  | .mulhu sw d a b => some (sw, d, a, b, fun x y => (x.setWidth 128 * y.setWidth 128).extractLsb' 64 64)
  | .div sw d a b => some (sw, d, a, b, fun x y => if y = 0 then 0xFFFFFFFFFFFFFFFF else x.sdiv y)
  | .divu sw d a b => some (sw, d, a, b, fun x y => if y = 0 then 0xFFFFFFFFFFFFFFFF else x / y)
  | .rem sw d a b => some (sw, d, a, b, fun x y => x.srem y)
  | .remu sw d a b => some (sw, d, a, b, fun x y => x % y)
  | .and sw d a b => some (sw, d, a, b, fun x y => x &&& y)
  | .or sw d a b => some (sw, d, a, b, fun x y => x ||| y)
  | .xor sw d a b => some (sw, d, a, b, fun x y => x ^^^ y)
  | .andn sw d a b => some (sw, d, a, b, fun x y => x &&& ~~~y)
  | .shl sw d a b => some (sw, d, a, b, fun x y => x * BitVec.ofNat 64 (2 ^ amount y))
  | .shr sw d a b => some (sw, d, a, b, fun x y => BitVec.ofNat 64 (x.toNat / 2 ^ amount y))
  | .shra sw d a b => some (sw, d, a, b, fun x y => BitVec.ofInt 64 (x.toInt / (2 ^ amount y : Nat)))
  | .min sw d a b => some (sw, d, a, b, fun x y => BitVec.ofInt 64 (min x.toInt y.toInt))
  | .max sw d a b => some (sw, d, a, b, fun x y => BitVec.ofInt 64 (max x.toInt y.toInt))
  | .minu sw d a b => some (sw, d, a, b, fun x y => BitVec.ofNat 64 (min x.toNat y.toNat))
  | .maxu sw d a b => some (sw, d, a, b, fun x y => BitVec.ofNat 64 (max x.toNat y.toNat))
  | .seteq sw d a b => some (sw, d, a, b, fun x y => if x = y then 1 else 0)
  | .setlt sw d a b => some (sw, d, a, b, fun x y => if x.toInt < y.toInt then 1 else 0)
  | .setltu sw d a b => some (sw, d, a, b, fun x y => if x.toNat < y.toNat then 1 else 0)
  | _ => none

/-- Marker, destination, source, immediate field and function of the integer immediate instructions (R102). -/
def integerImmediate : Instr → Option (Bool × Reg × Reg × BitVec 8 × (Word → Word → Word))
  | .addi sw d a k => some (sw, d, a, k, fun x y => x + y)
  | .andi sw d a k => some (sw, d, a, k, fun x y => x &&& y)
  | .ori sw d a k => some (sw, d, a, k, fun x y => x ||| y)
  | .xori sw d a k => some (sw, d, a, k, fun x y => x ^^^ y)
  | .shli sw d a k => some (sw, d, a, k, fun x y => x * BitVec.ofNat 64 (2 ^ amount y))
  | .shri sw d a k => some (sw, d, a, k, fun x y => BitVec.ofNat 64 (x.toNat / 2 ^ amount y))
  | .shrai sw d a k => some (sw, d, a, k, fun x y => BitVec.ofInt 64 (x.toInt / (2 ^ amount y : Nat)))
  | _ => none

/-- Marker, destination, source and function of the integer unary group (R104). -/
def integerUnary : Instr → Option (Bool × Reg × Reg × (Word → Word))
  | .clz sw d a => some (sw, d, a, fun x =>
      BitVec.ofNat 64 ((List.range 64).reverse.takeWhile (fun i => !x.getLsbD i)).length)
  | .ctz sw d a => some (sw, d, a, fun x => BitVec.ofNat 64 ((List.range 64).takeWhile (fun i => !x.getLsbD i)).length)
  | .popc sw d a => some (sw, d, a, fun x => BitVec.ofNat 64 ((List.range 64).filter (fun i => x.getLsbD i)).length)
  | .sextB sw d a => some (sw, d, a, fun x => (x.extractLsb' 0 8).signExtend 64)
  | .sextH sw d a => some (sw, d, a, fun x => (x.extractLsb' 0 16).signExtend 64)
  | .sextW sw d a => some (sw, d, a, fun x => (x.extractLsb' 0 32).signExtend 64)
  | .zextB sw d a => some (sw, d, a, fun x => BitVec.ofNat 64 (x.toNat % 2 ^ 8))
  | .zextH sw d a => some (sw, d, a, fun x => BitVec.ofNat 64 (x.toNat % 2 ^ 16))
  | .zextW sw d a => some (sw, d, a, fun x => BitVec.ofNat 64 (x.toNat % 2 ^ 32))
  | .bswap sw d a => some (sw, d, a, fun x =>
      x.extractLsb' 0 8 ++ x.extractLsb' 8 8 ++ x.extractLsb' 16 8 ++ x.extractLsb' 24 8 ++ x.extractLsb' 32 8
        ++ x.extractLsb' 40 8 ++ x.extractLsb' 48 8 ++ x.extractLsb' 56 8)
  | .mov sw d a => some (sw, d, a, fun x => x)
  | _ => none

/-- Low bits of a register as a narrower value (R98). -/
def low (w : Nat) (x : Word) : Nat := x.toNat % 2 ^ w

/-- The scalar floating-point instructions of two sources: marker, destination, sources, and the value and flags for a
rounding mode (R105). -/
def floatTwo : Instr → Option (Bool × Reg × Reg × Reg × (BitVec 2 → Word → Word → Nat × Flags))
  | .faddD sw d a b => some (sw, d, a, b, fun rm x y => fpAdd fmt64 rm x.toNat y.toNat)
  | .faddS sw d a b => some (sw, d, a, b, fun rm x y => fpAdd fmt32 rm (low 32 x) (low 32 y))
  | .fsubD sw d a b => some (sw, d, a, b, fun rm x y => fpSub fmt64 rm x.toNat y.toNat)
  | .fmulD sw d a b => some (sw, d, a, b, fun rm x y => fpMul fmt64 rm x.toNat y.toNat)
  | .fmulS sw d a b => some (sw, d, a, b, fun rm x y => fpMul fmt32 rm (low 32 x) (low 32 y))
  | .fcmpeqD sw d a b => some (sw, d, a, b, fun _ x y =>
      ((fpEq fmt64 x.toNat y.toNat).1.toNat, (fpEq fmt64 x.toNat y.toNat).2))
  | .fcmpltD sw d a b => some (sw, d, a, b, fun _ x y =>
      ((fpLt fmt64 x.toNat y.toNat).1.toNat, (fpLt fmt64 x.toNat y.toNat).2))
  | _ => none

/-- The scalar floating-point instructions of one source (R107, R108). -/
def floatOne : Instr → Option (Bool × Reg × Reg × (BitVec 2 → Word → Nat × Flags))
  | .fabsD sw d a => some (sw, d, a, fun _ x => ((x &&& 0x7FFFFFFFFFFFFFFF).toNat, 0))
  | .fnegD sw d a => some (sw, d, a, fun _ x => ((x ^^^ 0x8000000000000000).toNat, 0))
  | .fclassD sw d a => some (sw, d, a, fun _ x => (fpClass fmt64 x.toNat, 0))
  | .fcvtDS sw d a => some (sw, d, a, fun rm x => fpConvert fmt32 fmt64 rm (low 32 x))
  | .fcvtSD sw d a => some (sw, d, a, fun rm x => fpConvert fmt64 fmt32 rm x.toNat)
  | .fcvtDL sw d a => some (sw, d, a, fun rm x => intToFp fmt64 rm x.toInt)
  | .fcvtLD sw d a => some (sw, d, a, fun rm x =>
      (toPattern 64 (fpToInt fmt64 rm 64 x.toNat).1, (fpToInt fmt64 rm 64 x.toNat).2))
  | .fcvtSH sw d a => some (sw, d, a, fun rm x => fpConvert fmt16 fmt32 rm (low 16 x))
  | .fcvtHS sw d a => some (sw, d, a, fun rm x => fpConvert fmt32 fmt16 rm (low 32 x))
  | .fcvtSBf sw d a => some (sw, d, a, fun rm x => fpConvert fmtBf16 fmt32 rm (low 16 x))
  | .fcvtBfS sw d a => some (sw, d, a, fun rm x => fpConvert fmt32 fmtBf16 rm (low 32 x))
  | _ => none

/-- Width and format of the scalar fused multiply-adds (R106). -/
def floatFma : Instr → Option (Bool × Reg × Reg × Reg × Nat × Fmt)
  | .ffmaD sw d a b => some (sw, d, a, b, 64, fmt64)
  | .ffmaS sw d a b => some (sw, d, a, b, 32, fmt32)
  | _ => none

/-- Raises flags of the thread at hand (R99). -/
def State.raised (s : State) (f : Flags) : State := s.modThr (fun t => { t with flags := t.flags ||| f })

/-- The mask functions of masks (R145). -/
def maskFunction : Instr → Option (Bool × MaskReg × MaskReg × MaskReg × (BitVec 32 → BitVec 32 → BitVec 32))
  | .mand sw md ma mb => some (sw, md, ma, mb, fun x y => x &&& y)
  | .mor sw md ma mb => some (sw, md, ma, mb, fun x y => x ||| y)
  | .mxor sw md ma mb => some (sw, md, ma, mb, fun x y => x ^^^ y)
  | .mandn sw md ma mb => some (sw, md, ma, mb, fun x y => x &&& ~~~y)
  | .mnot sw md ma => some (sw, md, ma, ma, fun x _ => ~~~x)
  | _ => none

/-- The mask functions that write an operand register (R145). -/
def maskToRegister : Instr → Option (Bool × Reg × MaskReg × (BitVec 32 → Word))
  | .mpopc sw d ma => some (sw, d, ma, fun x => BitVec.ofNat 64 ((List.range 32).filter (fun i => x.getLsbD i)).length)
  | .mfirst sw d ma => some (sw, d, ma, fun x =>
      BitVec.ofNat 64 ((List.range 32).takeWhile (fun i => !x.getLsbD i)).length)
  | .mget sw d ma => some (sw, d, ma, fun x => BitVec.ofNat 64 x.toNat)
  | _ => none

/-- The conditional branches: marker, sources, offset and condition (R110). -/
def branchOf : Instr → Option (Bool × Reg × Reg × BitVec 8 × (Word → Word → Bool))
  | .beq sw a b o => some (sw, a, b, o, fun x y => decide (x = y))
  | .bne sw a b o => some (sw, a, b, o, fun x y => decide (x ≠ y))
  | .blt sw a b o => some (sw, a, b, o, fun x y => x.slt y)
  | .bge sw a b o => some (sw, a, b, o, fun x y => !x.slt y)
  | .bltu sw a b o => some (sw, a, b, o, fun x y => x.ult y)
  | .bgeu sw a b o => some (sw, a, b, o, fun x y => !x.ult y)
  | _ => none

/-- wrap64(OPW + 4 · I) for an immediate field (R109). -/
def branchTarget (t : Ctx) {w : Nat} (off : BitVec w) : Word := t.opw + 4 * t.imm off

/-- The scalar loads: marker, destination, base, immediate field, bytes and whether the value is signed (R116). -/
def loadOf : Instr → Option (Bool × Reg × Reg × BitVec 8 × Nat × Bool)
  | .ldB sw d a k => some (sw, d, a, k, 1, true)
  | .ldH sw d a k => some (sw, d, a, k, 2, true)
  | .ldW sw d a k => some (sw, d, a, k, 4, true)
  | .ldD sw d a k => some (sw, d, a, k, 8, true)
  | .lduB sw d a k => some (sw, d, a, k, 1, false)
  | .lduH sw d a k => some (sw, d, a, k, 2, false)
  | .lduW sw d a k => some (sw, d, a, k, 4, false)
  | _ => none

/-- The scalar stores: marker, source, base, immediate field and bytes (R116). -/
def storeOf : Instr → Option (Bool × Reg × Reg × BitVec 8 × Nat)
  | .stB sw d a k => some (sw, d, a, k, 1)
  | .stH sw d a k => some (sw, d, a, k, 2)
  | .stW sw d a k => some (sw, d, a, k, 4)
  | .stD sw d a k => some (sw, d, a, k, 8)
  | _ => none

/-- wrap64(A + size · I) of a load or store of the thread at hand (R116). -/
def State.address (s : State) (x : Word) (size : Nat) (k : BitVec 8) : Word := x + BitVec.ofNat 64 size * s.thr.imm k

/-- The register value of the bytes a load reads (R116). -/
def loadValue (size : Nat) (signed : Bool) (v : Nat) : Word :=
  if signed then (BitVec.ofNat (8 * size) v).signExtend 64 else BitVec.ofNat 64 v

/-- The thread at hand with no release pending: what a held instruction leaves before it acts (R242). -/
def State.gated (s : State) : State := s.modThr (fun t => { t with releases := [] })

/-- From s to t the thread at hand sends one request, and memory is as before. -/
def State.sends (s t : State) (k : ReqKind) (ls : List Lane) (out : Option Nat) : Prop :=
  t.mem = s.mem ∧ t.otag = s.otag ∧
  ∃ r, t.reqs = s.reqs ++ [r] ∧ r.core = s.cur ∧ r.ctx = s.ctx ∧ r.kind = k ∧ r.lanes = ls ∧ r.out = out ∧ r.held = false
    ∧ r.root = (s.core s.cur).root ∧ r.vahi = s.thr.vahi ∧ r.priv = s.thr.priv

/-- From s to t the thread at hand moves on (R31, R83), with one outstanding result more. -/
def State.owes (s t : State) (o : Outst) : Prop := t.thr.outst = s.thr.outst ++ [o] ∧ t.thr.pc = s.thr.advance.pc

/-! #### Vectors -/

/-- The fields of a vector instruction can be used now (R17, R96, R131, R157). -/
def State.canUseVectors (s : State) (reads writes : List VReg) (srcs dsts : List Reg) : Prop :=
  (∀ v ∈ reads, vecExists s.thr.size v = true) ∧ (∀ v ∈ writes, vecExists s.thr.size v = true) ∧ s.canUse srcs dsts
  ∧ ∀ v ∈ reads, s.vecArmed s.cur s.thr v = none

/-- The vector queue of the core takes an entry (R170). -/
def State.vectorRoom (s : State) : Prop := (s.core s.cur).vq.length < Config.vectorQueueEntries

/-- The thread at hand issues into the vector queue, with one outstanding result more (R20, R130, R170). -/
def State.queued (s : State) (k : OutKind) (ps : List Piece) (f : Flags) : State :=
  (s.addOutst s.cur s.ctx k ps f false).modCore s.cur (fun c => { c with vq := c.vq ++ [⟨s.ctx, s.fresh⟩] })

/-- A vector register of the thread at hand. -/
def State.vec (s : State) (v : VReg) : VVal := s.readVec s.cur s.thr v

/-- Lane k of width w of the n-th source; zero for a source that is not read. -/
def State.srcLane (s : State) (srcs : List VReg) (w n k : Nat) : Nat :=
  match srcs[n]? with
  | some v => laneOf (s.vec v).data w k
  | none => 0

/-- The lanes of n that are active (R129). -/
def State.lanes (s : State) (m : MaskSel) (n : Nat) : List Nat := (List.range n).filter (fun k => s.thr.active m k)

/-- The registers of v that hold one of the lanes, with the bits of d and a mark each (R22, R128, R129). -/
def resultPieces (v : VReg) (w d : Nat) (is : List Nat) (p : Nat → Bool) : List Piece :=
  ((List.range 8).filter (fun j => is.any (fun i => i * w / 64 == j))).map (fun j =>
    .reg (BitVec.ofNat 8 (8 * v.toNat + j)) (BitVec.ofNat 64 (laneOf d 64 j)) (p j))

/-- The union of the flags of lanes. -/
def unionFlags (fs : List Flags) : Flags := fs.foldl (fun a f => a ||| f) 0

/-- The mark of a vector result: a poisoned source register or governing mask (R311). -/
def State.vectorPoison (s : State) (reads : List VReg) (m : MaskSel) : Bool :=
  reads.any (fun v => (s.vec v).poison.any id) || s.thr.govPoison m

/-- Signed value of a lane, and the bits of an integer in a lane (R45). -/
def signedLane (w a : Nat) : Int := (BitVec.ofNat w a).toInt
def laneBits (w : Nat) (z : Int) : Nat := (BitVec.ofInt w z).toNat

/-- Saturation to the signed range of w bits (R45). -/
def clampSigned (w : Nat) (z : Int) : Int := max (-(2 ^ (w - 1) : Nat)) (min z ((2 ^ (w - 1) : Nat) - 1))

/-- Marker, destination, sources, type, mask and lane function of the instructions whose lanes are independent (R132). -/
def laneFunction :
    Instr → Option (Bool × VReg × List VReg × ElemType × MaskSel × (BitVec 2 → Nat → Nat → Nat → Nat × Flags))
  | .vadd sw vd va vb t m f => some (sw, vd, [va, vb], t, m, fun rm a b _ =>
      let w := t.width
      if !t.isInt then fpAdd (elemFmt t) rm a b
      else if f = 0 then ((a + b) % 2 ^ w, 0)
      else if f = 1 then (laneBits w (clampSigned w (signedLane w a + signedLane w b)), 0)
      else (min (a + b) (2 ^ w - 1), 0))
  | .vsub sw vd va vb t m f => some (sw, vd, [va, vb], t, m, fun rm a b _ =>
      let w := t.width
      if !t.isInt then fpSub (elemFmt t) rm a b
      else if f = 0 then ((a + (2 ^ w - b)) % 2 ^ w, 0)
      else if f = 1 then (laneBits w (clampSigned w (signedLane w a - signedLane w b)), 0)
      else (a - b, 0))
  | .vmul sw vd va vb t m f => some (sw, vd, [va, vb], t, m, fun rm a b _ =>
      let w := t.width
      if !t.isInt then fpMul (elemFmt t) rm a b
      else if f = 0 then (a * b % 2 ^ w, 0)
      else if f = 1 then (laneBits w (signedLane w a * signedLane w b / (2 ^ w : Nat)), 0)
      else (a * b / 2 ^ w, 0))
  | .vfma sw vd va vb vc t m f => some (sw, vd, [va, vb, vc], t, m, fun rm a b c =>
      let w := t.width
      let p := signedLane w a * signedLane w b
      let z := signedLane w c
      if !t.isInt then fpFma (elemFmt t) rm (f == 1 || f == 3) (f == 2 || f == 3) a b c
      else (laneBits w (if f = 0 then p + z else if f = 1 then -p + z else if f = 2 then p - z else -p - z), 0))
  | .vmin sw vd va vb t m f => some (sw, vd, [va, vb], t, m, fun _ a b _ =>
      let w := t.width
      if !t.isInt then fpMinMax (elemFmt t) false a b
      else if f = 0 then (laneBits w (min (signedLane w a) (signedLane w b)), 0)
      else (min a b, 0))
  | .vmax sw vd va vb t m f => some (sw, vd, [va, vb], t, m, fun _ a b _ =>
      let w := t.width
      if !t.isInt then fpMinMax (elemFmt t) true a b
      else if f = 0 then (laneBits w (max (signedLane w a) (signedLane w b)), 0)
      else (max a b, 0))
  | .vlogic sw vd va vb t m f => some (sw, vd, if f = 4 then [va] else [va, vb], t, m, fun _ a b _ =>
      let n := 2 ^ t.width - 1
      (if f = 0 then a &&& b else if f = 1 then a ||| b else if f = 2 then a ^^^ b else if f = 3 then a &&& (b ^^^ n)
       else a ^^^ n, 0))
  | .vshift sw vd va vb t m f => some (sw, vd, [va, vb], t, m, fun _ a b _ =>
      let w := t.width
      let k := b % w
      (if f = 0 then a * 2 ^ k % 2 ^ w else if f = 1 then a / 2 ^ k
       else laneBits w (signedLane w a / (2 ^ k : Nat)), 0))
  | .vunary sw vd va _ t m f => some (sw, vd, [va], t, m, fun rm a _ _ =>
      let w := t.width
      if f = 0 then (if t.isInt then laneBits w (signedLane w a).natAbs else a % 2 ^ (w - 1), 0)
      else if f = 1 then (if t.isInt then laneBits w (-signedLane w a) else a ^^^ 2 ^ (w - 1), 0)
      else if f = 2 then fpSqrt (elemFmt t) rm a
      else if f = 3 then (((List.range w).reverse.takeWhile (fun i => !a.testBit i)).length, 0)
      else (((List.range w).filter (fun i => a.testBit i)).length, 0))
  | _ => none

/-- The condition of a compare of lanes (R133). -/
def laneCondition (t : ElemType) (f : BitVec 3) (a b : Nat) : Bool × Flags :=
  let x := signedLane t.width a
  let y := signedLane t.width b
  if t.isInt then
    (if f = 0 then a == b else if f = 1 then a != b else if f = 2 then decide (x < y) else if f = 3 then decide (x ≤ y)
     else if f = 4 then decide (a < b) else decide (a ≤ b), 0)
  else if f = 0 then fpEq (elemFmt t) a b
  else if f = 1 then (!(fpEq (elemFmt t) a b).1, (fpEq (elemFmt t) a b).2)
  else if f = 2 then fpLt (elemFmt t) a b
  else fpLe (elemFmt t) a b

/-- Bit of the predicate word where a mask begins (R18). -/
def maskStart : MaskReg → Nat
  | .m0 => 0
  | .m1 => 32

/-- The sum of the active lanes of an integer vector (R138). -/
def activeSum (is : List Nat) (lane : Nat → Nat) : Nat := (is.map lane).sum

/-- The accesses of a vector load or store: operands, element type, whether m0 governs, and what a lane names (R140,
R143). -/
structure VectorAccess where
  sw : Bool
  v : VReg
  ty : ElemType
  k : Bool
  reads : List VReg
  xs : List Reg
  target : Nat → LaneTarget

/-- What lane j of an index vector names (R143). -/
def indexTarget (w : Nat) (a0 a1 : Word) (ix : VVal) (j : Nat) : LaneTarget :=
  let e := signedLane w (laneOf ix.data w j)
  if ix.lanePoison w j then .poisoned
  else if e < 0 ∨ (a1.toNat % 2 ^ 48 : Nat) ≤ e then .out
  else .access (a0 + BitVec.ofInt 64 (e * (w / 8 : Nat)))

/-- The vector loads (R140, R143). -/
def State.vectorLoad (s : State) : Instr → Option VectorAccess
  | .vld sw v xa off ty k => some ⟨sw, v, ty, k, [], [xa], fun j =>
      .access (s.address (s.value xa).v 64 off + BitVec.ofNat 64 (j * (ty.width / 8)))⟩
  | .vlds sw v xa xb ty k => some ⟨sw, v, ty, k, [], [xa, xb], fun j =>
      .access ((s.value xa).v + BitVec.ofNat 64 j * ((s.afterRead xa).value xb).v)⟩
  | .vgath sw v xa vi ty k => some ⟨sw, v, ty, k, [vi], [xa, xa + 1],
      indexTarget ty.width (s.value xa).v (s.value (xa + 1)).v (s.vec vi)⟩
  | _ => none

/-- The vector stores (R140, R143). -/
def State.vectorStore (s : State) : Instr → Option VectorAccess
  | .vst sw v xa off ty k => some ⟨sw, v, ty, k, [v], [xa], fun j =>
      .access (s.address (s.value xa).v 64 off + BitVec.ofNat 64 (j * (ty.width / 8)))⟩
  | .vsts sw v xa xb ty k => some ⟨sw, v, ty, k, [v], [xa, xb], fun j =>
      .access ((s.value xa).v + BitVec.ofNat 64 j * ((s.afterRead xa).value xb).v)⟩
  | .vscat sw v xa vi ty k => some ⟨sw, v, ty, k, [vi, v], [xa, xa + 1],
      indexTarget ty.width (s.value xa).v (s.value (xa + 1)).v (s.vec vi)⟩
  | _ => none

/-- The lanes an access masks in. -/
def State.accessLanes (s : State) (x : VectorAccess) : List Nat := s.lanes (if x.k then .m0 else .all) x.ty.lanes

/-- When a vector access issues without a fault (R140, R143, R312): its form's alignment, clean operands, and for the indexed
forms consecutive window registers and no poisoned index under PF. -/
def State.accessOk (s : State) (i : Instr) (x : VectorAccess) : Prop :=
  let size := x.ty.width / 8
  (match i with
   | .vld _ _ xa off _ _ | .vst _ _ xa off _ _ =>
     (s.value xa).p = false ∧ (s.address (s.value xa).v 64 off).toNat % 64 = 0
   | .vlds _ _ xa xb _ _ | .vsts _ _ xa xb _ _ =>
     s.thr.pre = [] ∧ (s.value xa).p = false ∧ ((s.afterRead xa).value xb).p = false
     ∧ ∀ k ∈ s.accessLanes x, ∀ ea, x.target k = .access ea → ea.toNat % size = 0
   | .vgath _ _ xa _ _ _ | .vscat _ _ xa _ _ _ =>
     s.thr.pre = [] ∧ xa.toNat + 2 ≤ s.thr.size ∧ xa.toNat + 2 ≤ 0x80
     ∧ (s.value xa).p = false ∧ (s.value (xa + 1)).p = false ∧ (s.value xa).v.toNat % size = 0
     ∧ ((s.value (xa + 1)).v.getLsbD 63 = true → ∀ k ∈ s.accessLanes x, x.target k ≠ .poisoned)
   | _ => False)

/-- The lanes of an access outside the local window, as lanes of a request. -/
def State.awayLanes (s : State) (x : VectorAccess) (data : Nat → Nat) : List Lane :=
  (s.accessLanes x).filterMap (fun k =>
    match x.target k with
    | .access ea =>
      if 0xFFFFFFFFFFFF0000 ≤ ea.toNat then none else some (Lane.start k ea (x.ty.width / 8) (BitVec.ofNat 64 (data k)))
    | _ => none)

/-- Whether an access of lanes returns a mask in m1 (R143). -/
def returnsMask : Instr → Bool
  | .vgath _ _ _ _ _ _ | .vscat _ _ _ _ _ _ => true
  | _ => false

/-- The returned mask: a bit of m1 for each active lane, one where the lane made no access (R143). -/
def State.maskPiece (s : State) (i : Instr) (x : VectorAccess) (ps : List Piece) : Prop :=
  if returnsMask i ∧ s.accessLanes x ≠ [] then
    ∃ bits v : Word, ps = [.mask bits v (s.thr.govPoison (if x.k then .m0 else .all)
        || (decide ((s.accessLanes x).length < 32) && s.thr.poison1))]
      ∧ ∀ b, b < 64 → (bits.getLsbD b = true ↔ ∃ k ∈ s.accessLanes x, b = 32 + k)
        ∧ (v.getLsbD b = true ↔ ∃ k ∈ s.accessLanes x, b = 32 + k ∧ (x.target k = .out ∨ x.target k = .poisoned))
  else ps = []

/-! #### Threads, synchronisation and engines -/

/-- A source field whose value is used: its value is clean (R312). -/
def State.clean (s : State) (rs : List Reg) : Prop := s.canUse rs [] ∧
  ∀ k r, rs[k]? = some r → (((rs.take k).foldl State.afterRead s).value r).p = false

/-- The value the k-th source field of a list gives when the fields are read in order. -/
def State.operand (s : State) (rs : List Reg) (k : Nat) : Word :=
  match rs[k]? with
  | some r => (((rs.take k).foldl State.afterRead s).value r).v
  | none => 0

/-- The state after the fields of a list are read. -/
def State.afterReads (s : State) (rs : List Reg) : State := rs.foldl State.afterRead s

/-- An instruction outside the arithmetic class stands alone: no EXT prefix and no frame (R73, R81). -/
def State.plain (s : State) : Prop := s.thr.pre = [] ∧ s.thr.repA = false

/-- The spawn descriptor names a context and a window that SPAWN may use (R154). -/
def spawnFits (c : Core) (a : Word) : Prop :=
  let x := (a.extractLsb' 0 6).toNat
  let base := 8 * (a.extractLsb' 8 8).toNat
  let size := 8 * ((a.extractLsb' 16 4).toNat + 1)
  a &&& 0xFC0000007E0000C0 = (0 : Word) ∧ x ≠ 0 ∧ x < c.n ∧ (c.ctx x).st = .free ∧ (a.extractLsb' 20 4).toNat ≤ 8
  ∧ base + size ≤ 2048
  ∧ (∀ e ∈ c.ctxs, e.2.st.hasWindow = true → e.2.base + e.2.size ≤ base ∨ base + size ≤ e.2.base)
  ∧ (a.getLsbD 24 = true → size = 24 ∧ x ≠ 1)

/-- The atomic functions of R246. -/
def atomicOf : Instr → Option (BitVec 3 × Bool × Reg × Reg × BitVec 4 × Bool × (Word → Word → Word))
  | .amoAdd sw d a sc ord => some (0, sw, d, a, sc, ord, fun x v => x + v)
  | .amoMin sw d a sc ord => some (1, sw, d, a, sc, ord, fun x v => if x.slt v then x else v)
  | .amoMax sw d a sc ord => some (2, sw, d, a, sc, ord, fun x v => if x.slt v then v else x)
  | .amoMinu sw d a sc ord => some (3, sw, d, a, sc, ord, fun x v => if x.ult v then x else v)
  | .amoMaxu sw d a sc ord => some (4, sw, d, a, sc, ord, fun x v => if x.ult v then v else x)
  | .amoAnd sw d a sc ord => some (5, sw, d, a, sc, ord, fun x v => x &&& v)
  | .amoOr sw d a sc ord => some (6, sw, d, a, sc, ord, fun x v => x ||| v)
  | .amoXchg sw d a sc ord => some (7, sw, d, a, sc, ord, fun _ v => v)
  | _ => none

/-- The reductions of R248. -/
def reductionOf : Instr → Option (BitVec 3 × Bool × Reg × Reg × BitVec 4 × Bool × (Word → Word → Word))
  | .redFaddOrd sw a b sc ord => some (0, sw, a, b, sc, ord, fun x v => BitVec.ofNat 64 (fpAdd fmt64 0 x.toNat v.toNat).1)
  | .redFaddFast sw a b sc ord => some (1, sw, a, b, sc, ord, fun x v => BitVec.ofNat 64 (fpAdd fmt64 0 x.toNat v.toNat).1)
  | .redIadd sw a b sc ord => some (2, sw, a, b, sc, ord, fun x v => x + v)
  | .redMin sw a b sc ord => some (3, sw, a, b, sc, ord, fun x v => if x.slt v then x else v)
  | .redMax sw a b sc ord => some (4, sw, a, b, sc, ord, fun x v => if x.slt v then v else x)
  | _ => none

/-- The line operations of R225. -/
def lineOf : Instr → Option (BitVec 2 × Bool × Reg × Reg × BitVec 4)
  | .clean sw d a sc => some (0, sw, d, a, sc)
  | .inval sw d a sc => some (1, sw, d, a, sc)
  | .discard sw d a sc => some (2, sw, d, a, sc)
  | .zero sw d a sc => some (3, sw, d, a, sc)
  | _ => none

/-- What the thread at hand waits for at a scope index: the release it began to wait under, or, with no wait begun, one
over every earlier access at the scope the index names now (R240). -/
def State.scoped (s : State) (idx : BitVec 4) (r : Release) : Prop :=
  s.thr.waitedAt idx = some r
  ∨ s.thr.waitedAt idx = none ∧ s.sample s.cur idx = some r.scope ∧ r.before = s.fresh

/-- An access ordered as a release waits for nothing at its scope (R242, R246, R248). -/
def State.releasable (s : State) (ord : Bool) (r : Release) : Prop := ord = true → s.releaseDone s.cur s.ctx r = true

/-- The state in which an access ordered as a release goes on: its wait is over, and at a scope with the level HBM the dirty
sectors are written there (R239, R240). -/
def State.afterRelease (s : State) (ord : Bool) (sc : Scope) : State := if ord then s.passGate sc else s

/-- From s to t a message of the core at hand to a station is on its stream with the next number, or waits for its twin
(R318, R335). -/
def State.posts (s t : State) (dst : Station) (b : Body) : Prop :=
  (∃ m, t.pairs = s.pairs ++ [m] ∧ m.body = some (.core s.cur, dst, b))
  ∨ ((s.stream (.core s.cur) dst true).nextSeq, b) ∈ (t.stream (.core s.cur) dst true).unacked

/-- From s to t memory is as before. -/
def State.sameMemory (s t : State) : Prop := t.mem = s.mem ∧ t.otag = s.otag

/-- From s to t the thread at hand moves on. -/
def State.passes (s t : State) : Prop := t.thr.pc = s.thr.advance.pc ∧ t.thr.outst = s.thr.outst

/-- A state and its core with a SEND queue that keeps the newest messages, in order (R161). -/
def State.sendq (s : State) : List SendMsg := (s.core s.cur).sendq

/-- A SEND of the thread at hand (R159): its words, and whose it is; a thread of a second copy addresses its own copy
(R318). -/
def State.ownSend (s : State) (x y : Word) (m : SendMsg) : Prop :=
  m.val = y ∧ m.core = s.cur ∧ m.ctx = s.ctx ∧ m.priv = s.thr.priv ∧ m.vahi = s.thr.vahi ∧ m.root = (s.core s.cur).root ∧ ((s.core s.cur).twin = false → m.desc = x)

/-- The three window registers a descriptor of k registers names from a (R16). -/
def State.group (s : State) (a : Reg) (k : Nat) : Prop := a.toNat + k ≤ s.thr.size ∧ a.toNat + k ≤ 0x80

/-- Register i of a descriptor that begins at a. -/
def State.groupReg (s : State) (a : Reg) (i : Nat) : Word := (s.value (a + BitVec.ofNat 8 i)).v

/-- The address of element l of a pattern with base, extents and strides in three words: i0 + E0 · (i1 + E1 · i2) (R256,
R264). -/
def elementAt (base ext str : Word) (l : Nat) : Word :=
  let e0 := (ext.extractLsb' 0 24).toNat
  let e1 := (ext.extractLsb' 24 20).toNat
  let i0 := l % e0
  let i1 := l / e0 % e1
  let i2 := l / (e0 * e1)
  base + BitVec.ofInt 64 (i0 * (str.extractLsb' 0 16).toInt) + BitVec.ofInt 64 (i1 * (str.extractLsb' 16 24).toInt)
    + BitVec.ofInt 64 (i2 * (str.extractLsb' 40 24).toInt)

/-- Elements of the extents of a pattern. -/
def extentTotal (ext : Word) : Nat :=
  (ext.extractLsb' 0 24).toNat * (ext.extractLsb' 24 20).toNat * (ext.extractLsb' 44 20).toNat

/-- From s to t the core at hand forks one engine operation: the next sequence number, and a reserved mailbox entry (R253). -/
def State.forks (s t : State) (o : EngineOp) : Prop :=
  o ∈ t.ops ∧ o.id = s.fresh ∧ o.seq = (s.core s.cur).opSeq ∧ o.core = s.cur ∧ o.ctx = s.ctx ∧ o.vahi = s.thr.vahi
  ∧ o.priv = s.thr.priv ∧ o.next = 0 ∧ (t.core s.cur).opSeq = (s.core s.cur).opSeq + 1
  ∧ (t.core s.cur).reserved = (s.core s.cur).reserved + 1

/-- The matrix queue of the core takes an entry (R282). -/
def State.matrixRoom (s : State) : Prop := (s.core s.cur).mxq.length < Config.matrixQueueEntries

/-- From s to t the last entry of the matrix queue is new. -/
def State.queuesMatrix (s t : State) (q : MxEntry) : Prop :=
  (t.core s.cur).mxq.length = (s.core s.cur).mxq.length + 1 ∧ (t.core s.cur).mxq.getLast? = some q ∧ q.ctx = s.ctx

/-- The strip entry that b names holds a type compatible with ty, and the accumulator its class or is zeroed (R281, R289,
R291). -/
def State.tileReady (s : State) (acc : BitVec 2) (z : Bool) (ty : MatType) (b : Word) : Prop :=
  (∃ slot tb, (s.core s.cur).futureBind (b.extractLsb' 0 8).toNat = some (slot, tb) ∧ compatible ty tb = true)
  ∧ (z = true ∨ (s.core s.cur).futureClass acc = matClass ty)

/-- The value RDCTL gives (R34 to R37). -/
def State.controlValue (s : State) (k : Nat) : Word :=
  let t := s.thr
  match k with
  | 0 => t.rm.setWidth 64
  | 1 => t.flags.setWidth 64
  | 2 => BitVec.ofNat 64 (s.shownCore s.cur + s.ctx * 2 ^ 13 + (if t.barge then 2 ^ 19 else 0) + if t.priv then 2 ^ 20 else 0)
  | 3 => BitVec.ofNat 64 (t.size + t.base * 2 ^ 16)
  | 4 => BitVec.ofNat 64 (s.core s.cur).cycle
  | 5 => BitVec.ofNat 64 (t.repI.toNat * 2 ^ 16 + t.repJ.toNat * 2 ^ 24 + t.repFrm.toNat * 2 ^ 32
      + if t.repA then 2 ^ 63 else 0)
  | 6 => BitVec.ofNat 64 t.lpD
  | 7 => BitVec.ofNat 64 (t.rbase + t.rlim * 2 ^ 16)
  | 8 => (s.core s.cur).mxwt.setWidth 64
  | _ => t.vahi.setWidth 64

/-- A control register that only a privileged thread reads or writes (R36, R37). -/
def guarded (k : Nat) : Bool := k == 5 || k == 6 || k == 7 || k == 9

/-! #### Events -/

/-- Every result of a thread that carries a number is ready with the value v in its registers. -/
def State.answered (t : State) (n x id : Nat) (v : Word) : Prop :=
  ∀ o ∈ (t.thread n x).outst, o.id = id → o.ready = true ∧ ∀ r w q, Piece.reg r w q ∈ o.pieces → w = v

/-- Lane i of a load or store that goes out now, meets no fault and may be performed, with its leaf and place (R42, R118,
R210, R233). -/
def State.laneReady (s : State) (id i : Nat) (r : Req) (l : Lane) (lf : Leaf) (pa : Nat) : Prop :=
  s.findReq id = some r ∧ r.lanes[i]? = some l ∧ r.kind.isAccess = true ∧ l.done = false ∧ s.goes r = true
  ∧ s.firstFault r = none ∧ s.target r l = .ok (lf, pa) ∧ s.mayPerform r i l lf pa = true ∧ s.isFabric lf = false

/-- A request of one lane that goes out now, meets no fault and may be performed, with its leaf and place. -/
def State.oneReady (s : State) (id : Nat) (r : Req) (l : Lane) (lf : Leaf) (pa : Nat) : Prop :=
  s.single id = some (r, l) ∧ s.firstFault r = none ∧ s.target r l = .ok (lf, pa) ∧ s.mayPerform r 0 l lf pa = true
  ∧ s.isFabric lf = false ∧ (paKind pa = .basin → (s.bankOf pa).waits = false)

/-- A message enters the mailbox of core c, and the wake bit of its context is set (R124, R163). -/
def State.received (s : State) (c : Nat) (m : Mail) (t : State) : Prop :=
  (t.core c).mail = (s.core c).mail ++ [m] ∧ (t.thread c m.ctx.toNat).wake = true

/-- A SEND from another thread of the partition that finds its context (R160). -/
def State.sendReaches (s : State) (c : Nat) (m : SendMsg) : Prop :=
  let x := (m.desc.extractLsb' 13 6).toNat
  let k := s.core c
  m.panel = none ∧ (m.priv = false ∨ m.desc.extractLsb' 60 4 = 0) ∧ (m.core ≠ c ∨ m.notBefore ≤ k.cycle)
  ∧ k.sealed = false ∧ s.partOfCore m.core = s.partOfCore c ∧ x < k.n
  ∧ ((k.ctx x).st = .runnable ∨ (k.ctx x).st = .parked ∨ (k.ctx x).st = .idling ∨ (k.ctx x).st = .halted)
  ∧ k.stopped = false ∧ k.ended = false ∧ (k.inRepart = true → x = 0)

/-- The 64-bit number that a doubleword with two 32-bit halves holds. -/
def twoHalves (hi lo : Nat) : Word := BitVec.ofNat 64 (hi * 2 ^ 32 + lo)

/-- The first waiting message of a partition's lock-keeper is a TRIGGER of a kind (R190, R191). -/
def State.trigger (s : State) (p kind : Nat) (a : Word) (vahi : BitVec 8) (core x : Nat) (root : Root)
    (rest : List Body) : Prop :=
  ∃ priv, (s.part p).trigq = .trigger kind a vahi core x root priv :: rest

/-- The oldest request is of function f, for an operation that f may make, with argument g (R352, R354). -/
def State.asksFor (s : State) (f op g : Nat) (rest : List Nat) : Prop :=
  s.guast = f :: rest ∧ (s.func f).gop.toNat = op ∧ (s.func f).garg.toNat = g ∧ mayRequest f op = true

/-- The request of function f has ended with GST and GVAL (R352). -/
def State.ended (t : State) (f gst gval : Nat) (rest : List Nat) : Prop :=
  t.guast = rest ∧ (t.func f).done = true ∧ (t.func f).gst = BitVec.ofNat 8 gst ∧ (t.func f).gval = BitVec.ofNat 48 gval

/-- The oldest command of the lock-keeper at a core, and the state after it is taken (R307). -/
def State.commanded (s u : State) (c : Nat) (q : Cmd) : Prop :=
  ∃ rest, (s.core c).cmds = q :: rest ∧ u = s.modCore c (fun k => { k with cmds := rest })

/-! #### The machine -/

/-- OP of an instruction word (R69). -/
def opOf (w : IWord) : Nat := (w.extractLsb' 24 7).toNat

/-- The column EXT of R73. -/
def takesPrefix (op : Nat) : Bool :=
  (decide (0x19 ≤ op) && decide (op ≤ 0x20)) || (decide (0x2D ≤ op) && decide (op ≤ 0x36))
    || (decide (0x38 ≤ op) && decide (op ≤ 0x44)) || op == 0x57 || op == 0x58

/-- The destination of an instruction that writes one operand register and stores nothing (R100 to R108, R145). -/
def registerOnly (i : Instr) : Option Reg :=
  match i with
  | .sel _ d _ _ | .movi _ d _ | .fdivD _ d _ _ | .fsqrtD _ d _ | .fsqrtS _ d _ => some d
  | _ =>
    firstSome id [(integerRegister i).map (·.2.1), (integerImmediate i).map (·.2.1), (integerUnary i).map (·.2.1),
      (floatTwo i).map (·.2.1), (floatOne i).map (·.2.1), (floatFma i).map (·.2.1), (maskToRegister i).map (·.2.1)]

/-- The instructions among them that raise no flag. -/
def raisesNoFlag (i : Instr) : Bool :=
  (integerRegister i).isSome || (integerImmediate i).isSome || (integerUnary i).isSome || (maskToRegister i).isSome

/-- From s to t nothing of the core at hand changes but the window register d, and of the thread at hand neither its window,
predicate word, rounding mode, address extension, privilege, spill bounds nor return-address entries; no other context and no
other core changes its registers. -/
def State.leaves (s t : State) (d : Reg) : Prop :=
  (∀ k, (d.toNat < 0x80 → k ≠ s.thr.base + d.toNat) → (t.core s.cur).reg k = (s.core s.cur).reg k)
  ∧ (t.core s.cur).cregs = (s.core s.cur).cregs ∧ (t.core s.cur).accs = (s.core s.cur).accs
  ∧ (t.core s.cur).btab = (s.core s.cur).btab ∧ (t.core s.cur).mxwt = (s.core s.cur).mxwt
  ∧ (t.core s.cur).mail = (s.core s.cur).mail ∧ (t.core s.cur).scopes = (s.core s.cur).scopes
  ∧ t.thr.base = s.thr.base ∧ t.thr.size = s.thr.size ∧ t.thr.pred = s.thr.pred ∧ t.thr.rm = s.thr.rm
  ∧ t.thr.vahi = s.thr.vahi ∧ t.thr.priv = s.thr.priv ∧ t.thr.rbase = s.thr.rbase ∧ t.thr.rlim = s.thr.rlim
  ∧ t.thr.ras = s.thr.ras
  ∧ s.otherThreads t ∧ ∀ n, n ≠ s.cur → (t.core n).rf = (s.core n).rf ∧ (t.core n).ctxs = (s.core n).ctxs

/-- State s begins an issue slot, of the core of its turn or of the one its agenda names, in which the chosen thread holds the
state t. -/
def State.beginsSlot (s t : State) : Prop :=
  s.thr.pre = [] ∧ ((s.agenda = [] ∧ s.beginSlot s.turn = (t, true))
    ∨ ∃ n rest, s.agenda = .slot n :: rest ∧ ({ s with agenda := rest }).beginSlot n = (t, true))

end Sys2Proof.Machine

open Sys2Proof Sys2Proof.Machine

/-- R100: every integer register instruction reads a, then b, and writes f(A, B) to d, at every field it accepts. R101: SEL
reads a, b, then d, and writes A or B to d by whether C is zero. -/
def Obligations.IntegerRegisterResult : Prop :=
  (
    ∀ (s : State) (i : Instr) (sw : Bool) (d a b : Reg) (f : Word → Word → Word),
      integerRegister i = some (sw, d, a, b, f) → s.thr.pre = [] → s.canUse [a, b] [d] →
      let x := s.value a
      let y := (s.afterRead a).value b
      (unmarked d = true → x.p = false ∧ y.p = false) →
      exec i s = .next ((((s.afterRead a).afterRead b).afterWrite d (f x.v y.v) (x.p || y.p)).moved sw))
  ∧ (
    (∀ (s : State) (sw : Bool) (d a b : Reg),
      s.thr.pre = [] → ¬ (0xA0 ≤ d.toNat ∧ d.toNat ≤ 0xAF) → s.canUse [a, b, d] [d] →
      let x := s.value a
      let y := (s.afterRead a).value b
      let c := ((s.afterRead a).afterRead b).value d
      (unmarked d = true → x.p = false ∧ y.p = false ∧ c.p = false) →
      exec (.sel sw d a b) s
        = .next ((((s.afterRead a).afterRead b).afterWrite d (if c.v = 0 then y.v else x.v) (x.p || y.p || c.p)).moved sw))
    ∧ ∀ (s : State) (sw : Bool) (d a b : Reg), s.thr.pre = [] → 0xA0 ≤ d.toNat → d.toNat ≤ 0xAF →
      exec (.sel sw d a b) s = .next (s.faulted { code := 0x02 }))

/-- R102, R103: an integer immediate instruction writes f(A, I) to d, and MOVI writes I, with any prefixes. R104: an integer
unary instruction writes f(A) to d. The model's own choices and readings in it: log entry 17. -/
def Obligations.IntegerImmediateUnaryResult : Prop :=
  (
    (∀ (s : State) (i : Instr) (sw : Bool) (d a : Reg) (k : BitVec 8) (f : Word → Word → Word),
      integerImmediate i = some (sw, d, a, k, f) → (s.thr.pre = [] ∨ s.thr.repA = false) → s.canUse [a] [d] → (unmarked d = true → (s.value a).p = false) →
      exec i s = .next (((s.afterRead a).afterWrite d (f (s.value a).v (s.thr.imm k)) (s.value a).p).moved sw))
    ∧ ∀ (s : State) (sw : Bool) (d : Reg) (k : BitVec 16), (s.thr.pre = [] ∨ s.thr.repA = false) → s.canUse [] [d] →
      exec (.movi sw d k) s = .next ((s.afterWrite d (s.thr.imm k) false).moved sw))
  ∧ (
    ∀ (s : State) (i : Instr) (sw : Bool) (d a : Reg) (f : Word → Word),
      integerUnary i = some (sw, d, a, f) → s.thr.pre = [] → s.canUse [a] [d] → (unmarked d = true → (s.value a).p = false) →
      exec i s = .next (((s.afterRead a).afterWrite d (f (s.value a).v) (s.value a).p).moved sw))

/-- R99, R105 to R108: a scalar floating-point instruction other than a division or a square root raises its flags and writes
its value under the thread's rounding mode. R20, R97, R105, R107: FDIV.D, FSQRT.D and FSQRT.S leave an outstanding result
with its flags, ready to be written; d keeps its value until then. -/
def Obligations.ScalarFloatResult : Prop :=
  (
    (∀ (s : State) (i : Instr) (sw : Bool) (d a b : Reg) (f : BitVec 2 → Word → Word → Nat × Flags),
      floatTwo i = some (sw, d, a, b, f) → s.thr.pre = [] → s.canUse [a, b] [d] →
      let x := s.value a
      let y := (s.afterRead a).value b
      let r := f s.thr.rm x.v y.v
      (unmarked d = true → x.p = false ∧ y.p = false) →
      exec i s = .next
        (((((s.afterRead a).afterRead b).raised r.2).afterWrite d (BitVec.ofNat 64 r.1) (x.p || y.p)).moved sw))
    ∧ (∀ (s : State) (i : Instr) (sw : Bool) (d a : Reg) (f : BitVec 2 → Word → Nat × Flags),
      floatOne i = some (sw, d, a, f) → s.thr.pre = [] → s.canUse [a] [d] →
      let x := s.value a
      let r := f s.thr.rm x.v
      (unmarked d = true → x.p = false) →
      exec i s = .next ((((s.afterRead a).raised r.2).afterWrite d (BitVec.ofNat 64 r.1) x.p).moved sw))
    ∧ ∀ (s : State) (i : Instr) (sw : Bool) (d a b : Reg) (w : Nat) (m : Fmt),
      floatFma i = some (sw, d, a, b, w, m) → s.thr.pre = [] → s.canUse [a, b, d] [d] →
      let x := s.value a
      let y := (s.afterRead a).value b
      let z := ((s.afterRead a).afterRead b).value d
      let r := fpFma m s.thr.rm false false (low w x.v) (low w y.v) (low w z.v)
      (unmarked d = true → x.p = false ∧ y.p = false ∧ z.p = false) →
      exec i s = .next
        ((((((s.afterRead a).afterRead b).afterRead d).raised r.2).afterWrite d (BitVec.ofNat 64 r.1)
          (x.p || y.p || z.p)).moved sw))
  ∧ (
    (∀ (s : State) (sw : Bool) (d a b : Reg), s.thr.pre = [] → outWritable s.thr.size d = true → s.canUse [a, b] [d] →
      let x := s.value a
      let y := (s.afterRead a).value b
      let r := fpDiv fmt64 s.thr.rm x.v.toNat y.v.toNat
      exec (.fdivD sw d a b) s = .next
        ((((s.afterRead a).afterRead b).addOutst s.cur s.ctx .other [.reg d (BitVec.ofNat 64 r.1) (x.p || y.p)] r.2
          true).moved sw))
    ∧ ∀ (s : State) (sw : Bool) (d a : Reg), s.thr.pre = [] → outWritable s.thr.size d = true → s.canUse [a] [d] →
      let x := s.value a
      let out := fun (r : Nat × Flags) =>
        ((s.afterRead a).addOutst s.cur s.ctx .other [.reg d (BitVec.ofNat 64 r.1) x.p] r.2 true).moved sw
      exec (.fsqrtD sw d a) s = .next (out (fpSqrt fmt64 s.thr.rm x.v.toNat))
      ∧ exec (.fsqrtS sw d a) s = .next (out (fpSqrt fmt32 s.thr.rm (low 32 x.v))))

/-- R145: the mask group. -/
def Obligations.MaskGroupResult : Prop :=
  (∀ (s : State) (i : Instr) (sw : Bool) (md ma mb : MaskReg) (f : BitVec 32 → BitVec 32 → BitVec 32),
    maskFunction i = some (sw, md, ma, mb, f) → s.thr.pre = [] →
    exec i s = .next ((s.modThr (fun t =>
      t.setMask md (f (t.mask ma) (t.mask mb)) (t.maskPoison ma || t.maskPoison mb))).moved sw))
  ∧ (∀ (s : State) (i : Instr) (sw : Bool) (d : Reg) (ma : MaskReg) (f : BitVec 32 → Word),
    maskToRegister i = some (sw, d, ma, f) → s.thr.pre = [] → s.canUse [] [d] →
    (unmarked d = true → s.thr.maskPoison ma = false) →
    exec i s = .next ((s.afterWrite d (f (s.thr.mask ma)) (s.thr.maskPoison ma)).moved sw))
  ∧ ∀ (s : State) (sw : Bool) (md : MaskReg) (a : Reg), s.thr.pre = [] → s.canUse [a] [] →
    exec (.mset sw md a) s = .next (((s.afterRead a).modThr (fun t =>
      t.setMask md ((s.value a).v.extractLsb' 0 32) (s.value a).p)).moved sw)

/-- R109 to R112: a branch goes to OPW + 4 · I when its condition holds, and on otherwise; it transfers no register. -/
def Obligations.BranchResult : Prop :=
  (∀ (s : State) (i : Instr) (sw : Bool) (a b : Reg) (off : BitVec 8) (c : Word → Word → Bool),
    branchOf i = some (sw, a, b, off, c) → s.thr.repA = false → s.canUse [a, b] [] →
    let x := s.value a
    let y := (s.afterRead a).value b
    x.p = false → y.p = false →
    let u := (s.afterRead a).afterRead b
    exec i s = .next (if c x.v y.v then u.jumped sw (branchTarget s.thr off) else u.moved sw))
  ∧ (∀ (s : State) (sw p : Bool) (k : BitVec 6) (off : BitVec 16), s.thr.repA = false →
    (if k.toNat < 32 then s.thr.poison0 else s.thr.poison1) = false →
    exec (.bmb sw p k off) s
      = .next (if s.thr.pred.getLsbD k.toNat = p then s.jumped sw (branchTarget s.thr off) else s.moved sw))
  ∧ ∀ (s : State) (sw p b : Bool) (n : BitVec 7) (off : BitVec 16), s.thr.repA = false →
    s.condition s.cur s.ctx n.toNat = some b →
    exec (.bcr sw p n off) s = .next (if b = p then s.jumped sw (branchTarget s.thr off) else s.moved sw)

/-- R26 to R28, R113, R114: jumps, calls and returns. A call keeps the address of the next word on top of the return-address
store, spilling its oldest entry to core-local memory when sixteen are held; a return takes it back, from memory when none
is held. -/
def Obligations.JumpCallReturn : Prop :=
  (∀ (s : State) (sw : Bool) (off : BitVec 24), s.thr.repA = false →
    exec (.jmp sw off) s = .next (s.jumped sw (branchTarget s.thr off)))
  ∧ (∀ (s : State) (sw : Bool) (off : BitVec 24), s.thr.repA = false → s.thr.rasd < 16 →
    exec (.call sw off) s = .next ((s.modThr (fun t =>
      { t with ras := Tab.set t.ras t.rasd (s.thr.opw + 4), rasd := t.rasd + 1 })).jumped sw (branchTarget s.thr off)))
  ∧ (∀ (s : State) (sw : Bool) (off : BitVec 24), s.thr.repA = false → ¬ s.thr.rasd < 16 →
    s.thr.rbase * 8 ≤ s.thr.rasp.toNat → s.thr.rasp.toNat + 8 ≤ s.thr.rlim * 8 →
    ∃ t, exec (.call sw off) s = .next t
      ∧ t.mem = (s.localWrite s.cur (localEa s.thr.rasp) 8 (Tab.getD s.thr.ras 0 0).toNat).mem
      ∧ t.thr.rasp = s.thr.rasp + 8 ∧ t.thr.rasd = s.thr.rasd ∧ Tab.getD t.thr.ras 15 0 = s.thr.opw + 4
      ∧ (∀ i, i < 15 → Tab.getD t.thr.ras i 0 = Tab.getD s.thr.ras (i + 1) 0) ∧ t.thr.pc = branchTarget s.thr off)
  ∧ (∀ (s : State) (sw : Bool) (a : Reg), s.thr.pre = [] → s.thr.repA = false → s.canUse [a] [] → (s.value a).p = false →
    (s.value a).v.toNat % 4 = 0 → exec (.jr sw a) s = .next ((s.afterRead a).jumped sw (s.value a).v))
  ∧ (∀ (s : State) (sw : Bool) (a : Reg), s.thr.pre = [] → s.thr.repA = false → s.canUse [a] [] → (s.value a).p = false →
    (s.value a).v.toNat % 4 = 0 → s.thr.rasd < 16 →
    exec (.callr sw a) s = .next (((s.afterRead a).modThr (fun t =>
      { t with ras := Tab.set t.ras t.rasd (s.thr.opw + 4), rasd := t.rasd + 1 })).jumped sw (s.value a).v))
  ∧ (∀ (s : State) (sw : Bool) (a : Reg), s.thr.pre = [] → s.thr.repA = false → s.canUse [a] [] → (s.value a).p = false →
    (s.value a).v.toNat % 4 = 0 → ¬ s.thr.rasd < 16 →
    s.thr.rbase * 8 ≤ s.thr.rasp.toNat →
    s.thr.rasp.toNat + 8 ≤ s.thr.rlim * 8 →
    ∃ t, exec (.callr sw a) s = .next t ∧ t.thr.rasp = s.thr.rasp + 8 ∧ t.thr.rasd = s.thr.rasd
      ∧ Tab.getD t.thr.ras 15 0 = s.thr.opw + 4 ∧ t.thr.pc = (s.value a).v)
  ∧ (∀ (s : State) (sw : Bool), s.thr.pre = [] → s.thr.repA = false → 0 < s.thr.rasd →
    (Tab.getD s.thr.ras (s.thr.rasd - 1) 0).toNat % 4 = 0 →
    exec (.ret sw) s = .next ((s.modThr (fun t => { t with rasd := t.rasd - 1 })).jumped sw
      (Tab.getD s.thr.ras (s.thr.rasd - 1) 0)))
  ∧ ∀ (s : State) (sw : Bool), s.thr.pre = [] → s.thr.repA = false → s.thr.rasd = 0 →
    s.thr.rbase * 8 < s.thr.rasp.toNat → s.thr.rasp.toNat ≤ s.thr.rlim * 8 →
    let r := s.localRead s.cur (localEa (s.thr.rasp - 8)) 8
    r.2 = false → r.1 % 4 = 0 →
    exec (.ret sw) s = .next ((s.modThr (fun t => { t with rasp := t.rasp - 8 })).jumped sw (BitVec.ofNat 64 r.1))

/-- R30, R115: LOOP with a count of zero goes past the body; otherwise it opens a level whose body starts at the next word
and ends at OPW + 4 · I, or with two levels open takes the loop-depth fault; with I below 1 it is an illegal instruction. -/
def Obligations.LoopResult : Prop :=
  (∀ (s : State) (sw : Bool) (c : Reg) (off : BitVec 16), (s.thr.imm off).toInt ≤ 0 →
    exec (.loop sw c off) s = .next (s.faulted { code := 0x01 }))
  ∧ ∀ (s : State) (sw : Bool) (c : Reg) (off : BitVec 16), s.thr.repA = false → 0 < (s.thr.imm off).toInt → s.canUse [c] [] →
    (s.value c).p = false →
    let n := (s.value c).v
    let u := s.afterRead c
    (n = 0 → exec (.loop sw c off) s = .next (u.jumped sw (branchTarget s.thr off + 4)))
    ∧ (n ≠ 0 → s.thr.lpD = 0 → exec (.loop sw c off) s = .next ((u.modThr (fun t =>
        { t with lc0 := n, ls0 := s.thr.opw + 4, le0 := branchTarget s.thr off, lpD := 1 })).moved sw))
    ∧ (n ≠ 0 → s.thr.lpD = 1 → exec (.loop sw c off) s = .next ((u.modThr (fun t =>
        { t with lc1 := n, ls1 := s.thr.opw + 4, le1 := branchTarget s.thr off, lpD := 2 })).moved sw))
    ∧ (n ≠ 0 → s.thr.lpD = 2 → exec (.loop sw c off) s = .next (s.faulted { code := 0x08, oprs := [n] }))

/-- R116, R117: a load in the local window writes its value at once; any other sends one request for its bytes and leaves
an outstanding result. -/
def Obligations.LoadResult : Prop :=
  ∀ (s : State) (i : Instr) (sw : Bool) (d a : Reg) (k : BitVec 8) (size : Nat) (signed : Bool),
    loadOf i = some (sw, d, a, k, size, signed) → s.thr.repA = false → outWritable s.thr.size d = true → s.canUse [a] [] →
    (s.value a).p = false →
    let ea := s.address (s.value a).v size k
    ea.toNat % size = 0 →
    (0xFFFFFFFFFFFF0000 ≤ ea.toNat →
      let r := s.localRead s.cur ea size
      exec i s = .next (((s.afterRead a).afterWrite d (loadValue size signed r.1) r.2).moved sw))
    ∧ (ea.toNat < 0xFFFFFFFFFFFF0000 → ∃ t, exec i s = .next t
      ∧ s.sends t (.load d signed) [Lane.start 0 ea size 0] (some s.fresh)
      ∧ s.owes t ⟨s.fresh, .load, [.reg d 0 false], 0, false⟩)

/-- R116, R117: a store in the local window writes its bytes at once; any other sends one request. -/
def Obligations.StoreResult : Prop :=
  ∀ (s : State) (i : Instr) (sw : Bool) (d a : Reg) (k : BitVec 8) (size : Nat),
    storeOf i = some (sw, d, a, k, size) → s.thr.repA = false → s.thr.releases = [] → s.canUse [a, d] [] →
    (s.value a).p = false → ((s.afterRead a).value d).p = false →
    let ea := s.address (s.value a).v size k
    let v := ((s.afterRead a).value d).v
    ea.toNat % size = 0 →
    (0xFFFFFFFFFFFF0000 ≤ ea.toNat →
      exec i s = .next ((((((s.gated.afterRead a).afterRead d).noteStore s.cur s.ctx ea size).localWrite s.cur ea size
        (v.toNat % 2 ^ (8 * size)))).moved sw))
    ∧ (ea.toNat < 0xFFFFFFFFFFFF0000 → ∃ t, exec i s = .next t
      ∧ s.sends t .store [Lane.start 0 ea size v] none ∧ t.thr.pc = s.thr.advance.pc ∧ t.thr.outst = s.thr.outst)

/-- R119, R121: PREF and NOP change nothing but the place of the thread, PREF after reading its operand. R77 to R80, R83: REP
opens a frame at the next word; EXT adds its payload to the prefixes of the instruction, and a third one is an illegal
instruction. -/
def Obligations.NopPrefetchFramePrefix : Prop :=
  (
    (∀ (s : State) (sw : Bool), s.thr.pre = [] → s.thr.repA = false → exec (.nop sw) s = .next (s.moved sw))
    ∧ ∀ (s : State) (sw : Bool) (a k : BitVec 8), s.thr.repA = false → s.canUse [a] [] → (s.value a).p = false →
      exec (.pref sw a k) s = .next ((s.afterRead a).moved sw))
  ∧ (
    (∀ (s : State) (sw : Bool) (len : BitVec 4) (times : BitVec 6) (sd sa sb : BitVec 4), s.plain →
      exec (.rep sw len times sd sa sb) s = .next (s.modThr (fun t =>
        ({ t with repA := true, repFrm := len ++ times ++ sd ++ sa ++ sb ++ (0 : BitVec 2), repJ := 0, repI := 0,
                  pc := t.pc + 4 }).settle sw)))
    ∧ ∀ (s : State) (p : BitVec 24),
      (s.thr.pre.length < 2 → exec (.ext p) s = .next (s.modThr (fun t => { t with pre := t.pre ++ [p] })))
      ∧ (2 ≤ s.thr.pre.length → exec (.ext p) s = .next (s.faulted { code := 0x01 })))

/-- R99, R129 to R132: VADD, VSUB, VMUL, VFMA, VMIN, VMAX, VLOGIC, VSHIFT and VUNARY leave an outstanding result whose
active lanes hold the function of the source lanes at issue; inactive lanes keep their values and raise no flag. -/
def Obligations.VectorLanesResult : Prop :=
  ∀ (s : State) (i : Instr) (sw : Bool) (vd : VReg) (srcs : List VReg) (ty : ElemType) (m : MaskSel)
    (f : BitVec 2 → Nat → Nat → Nat → Nat × Flags),
    laneFunction i = some (sw, vd, srcs, ty, m, f) → i.wf = true → s.thr.pre = [] → s.vectorRoom →
    let w := ty.width
    let is := s.lanes m ty.lanes
    let reads := if is.length = ty.lanes then srcs else srcs ++ [vd]
    let lane := fun k => f s.thr.rm (s.srcLane srcs w 0 k) (s.srcLane srcs w 1 k) (s.srcLane srcs w 2 k)
    s.canUseVectors reads [vd] [] [] →
    ∃ d, exec i s = .next ((s.queued .other (resultPieces vd w d is (fun _ => s.vectorPoison reads m))
        (unionFlags (is.map (fun k => (lane k).2)))).moved sw)
      ∧ ∀ k, k < ty.lanes →
        laneOf d w k = if s.thr.active m k then (lane k).1 % 2 ^ w else laneOf (s.vec vd).data w k

/-- R134 to R137: VSEL writes every lane from one of two vectors by the mask, VPERM chooses among the lanes of two, and VCVT
converts the lanes of the wider type into or out of the part of the narrower. -/
def Obligations.VectorSelectPermuteConvert : Prop :=
  (∀ (s : State) (sw : Bool) (vd va vb : VReg) (ty : ElemType) (m : MaskSel),
    s.thr.pre = [] → s.vectorRoom → s.canUseVectors [va, vb] [vd] [] [] →
    ∃ d, exec (.vsel sw vd va vb ty m) s = .next ((s.queued .other
        (resultPieces vd ty.width d (List.range ty.lanes) (fun _ => s.vectorPoison [va, vb] m)) 0).moved sw)
      ∧ ∀ k, k < ty.lanes → laneOf d ty.width k
        = if s.thr.active m k then laneOf (s.vec va).data ty.width k else laneOf (s.vec vb).data ty.width k)
  ∧ (∀ (s : State) (sw : Bool) (vd va vb vc : VReg) (ty : ElemType) (m : MaskSel), s.thr.pre = [] → s.vectorRoom →
    let w := ty.width
    let n := ty.lanes
    let is := s.lanes m n
    let reads := if is.length = n then [va, vb, vc] else [va, vb, vc, vd]
    s.canUseVectors reads [vd] [] [] →
    ∃ d, exec (.vperm sw vd va vb vc ty m) s
        = .next ((s.queued .other (resultPieces vd w d is (fun _ => s.vectorPoison reads m)) 0).moved sw)
      ∧ ∀ k, k < n → laneOf d w k =
        let c := laneOf (s.vec vc).data w k
        if s.thr.active m k then
          (if c < n then laneOf (s.vec va).data w c else if c < 2 * n then laneOf (s.vec vb).data w (c - n) else 0)
        else laneOf (s.vec vd).data w k)
  ∧ ∀ (s : State) (sw : Bool) (vd va : VReg) (src dst : CvtType) (m : MaskSel) (p : BitVec 3),
    s.thr.pre = [] → s.vectorRoom → (Instr.vcvt sw vd va src dst m p).wf = true →
    let n := 512 / max src.width dst.width
    let is := s.lanes m n
    let reads := if 512 ≤ dst.width * n ∧ is.length = n then [va] else [va, vd]
    let from_ := if src.width < dst.width then p.toNat * n else 0
    let into := if dst.width < src.width then p.toNat * n else 0
    let lane := fun k => convert src dst s.thr.rm (laneOf (s.vec va).data src.width (from_ + k))
    s.canUseVectors reads [vd] [] [] →
    ∃ d, exec (.vcvt sw vd va src dst m p) s
        = .next ((s.queued .other (resultPieces vd dst.width d (is.map (fun k => into + k)) (fun _ => s.vectorPoison reads m))
            (unionFlags (is.map (fun k => (lane k).2)))).moved sw)
      ∧ (∀ k, k < n → laneOf d dst.width (into + k)
          = if s.thr.active m k then (lane k).1 % 2 ^ dst.width else laneOf (s.vec vd).data dst.width (into + k))
      ∧ ∀ q, q < 512 / dst.width → ¬ (into ≤ q ∧ q < into + n) → laneOf d dst.width q = laneOf (s.vec vd).data dst.width q

/-- R60, R61, R138: VRED writes lane 0 alone with the tree of the active lanes, VSCAN every lane with the running value;
over integers the sum is that of the active lanes, wrapped. -/
def Obligations.VectorReduceScan : Prop :=
  (∀ (s : State) (sw : Bool) (vd va vb : VReg) (ty : ElemType) (m : MaskSel) (f : BitVec 3),
    s.thr.pre = [] → s.vectorRoom → s.canUseVectors [va, vd] [vd] [] [] →
    let w := ty.width
    let is := s.lanes m ty.lanes
    let r := redTree (laneRed ty f s.thr.rm) (Nat.log2 ty.lanes)
      ((List.range ty.lanes).map (fun k => (if s.thr.active m k then some (laneOf (s.vec va).data w k) else none, 0)))
    ∃ d, exec (.vred sw vd va vb ty m f) s
        = .next ((s.queued .other (resultPieces vd w d [0] (fun _ => s.vectorPoison [va, vd] m)) r.2).moved sw)
      ∧ laneOf d w 0 = r.1.getD (redIdentity ty f) % 2 ^ w
      ∧ (ty.isInt = true → f = 0 → laneOf d w 0 = activeSum is (fun k => laneOf (s.vec va).data w k) % 2 ^ w)
      ∧ ∀ k, 0 < k → k < ty.lanes → laneOf d w k = laneOf (s.vec vd).data w k)
  ∧ ∀ (s : State) (sw : Bool) (vd va vb : VReg) (ty : ElemType) (m : MaskSel) (f : BitVec 3),
    s.thr.pre = [] → s.vectorRoom → s.canUseVectors [va] [vd] [] [] →
    let w := ty.width
    let r := scanLanes (laneRed ty f s.thr.rm) (redIdentity ty f) none 0
      ((List.range ty.lanes).map (fun k => if s.thr.active m k then some (laneOf (s.vec va).data w k) else none))
    ∃ d, exec (.vscan sw vd va vb ty m f) s
        = .next ((s.queued .other (resultPieces vd w d (List.range ty.lanes) (fun _ => s.vectorPoison [va] m))
            (unionFlags (r.map (fun x => x.2.2)))).moved sw)
      ∧ (∀ x ∈ r, laneOf d w x.1 = x.2.1 % 2 ^ w)
      ∧ (ty.isInt = true → f = 0 → ∀ k, k < ty.lanes →
          laneOf d w k = activeSum (s.lanes m (k + 1)) (fun j => laneOf (s.vec va).data w j) % 2 ^ w)

/-- R133, R139: VCMP writes a bit of a mask for each active lane and no other, VBCAST and VINS write the low bits of a
register to lanes, and VEXT a lane to a register. -/
def Obligations.VectorCompareAndMove : Prop :=
  (∀ (s : State) (sw : Bool) (md : MaskReg) (va vb : VReg) (ty : ElemType) (m : MaskSel) (f : BitVec 3),
    s.thr.pre = [] → s.vectorRoom → s.canUseVectors [va, vb] [] [] [] →
    let w := ty.width
    let is := s.lanes m ty.lanes
    let cond := fun k => laneCondition ty f (laneOf (s.vec va).data w k) (laneOf (s.vec vb).data w k)
    let p := s.vectorPoison [va, vb] m || (decide (is.length < 32) && s.thr.maskPoison md)
    ∃ bits v : Word, exec (.vcmp sw md va vb ty m f) s
        = .next ((s.queued .other (if is = [] then [] else [.mask bits v p]) (unionFlags (is.map (fun k => (cond k).2)))).moved
            sw)
      ∧ ∀ b, b < 64 →
        (bits.getLsbD b = true ↔ ∃ k ∈ is, b = maskStart md + k)
        ∧ (v.getLsbD b = true ↔ ∃ k ∈ is, b = maskStart md + k ∧ (cond k).1 = true))
  ∧ (∀ (s : State) (i : Instr) (sw k : Bool) (v : VReg) (xa : Reg) (ty : ElemType) (ls : List Nat),
    (i = .vbcast sw v xa ty k ∧ ls = List.range ty.lanes
      ∨ ∃ l : BitVec 8, i = .vins sw v xa l ty k ∧ ls = [l.toNat] ∧ l.toNat < ty.lanes) →
    s.thr.pre = [] → s.vectorRoom →
    let w := ty.width
    let is := ls.filter (fun j => s.thr.active (if k then .m0 else .all) j)
    let reads := if is.length < ty.lanes then [v] else []
    s.canUseVectors reads [v] [xa] [] →
    ∃ d, exec i s = .next (((s.afterRead xa).queued .other (resultPieces v w d is
        (fun _ => (s.value xa).p || s.vectorPoison reads (if k then .m0 else .all))) 0).moved sw)
      ∧ ∀ j, j < ty.lanes → laneOf d w j
        = if j ∈ is then (s.value xa).v.toNat % 2 ^ w else laneOf (s.vec v).data w j)
  ∧ ∀ (s : State) (sw : Bool) (v : VReg) (xa : Reg) (l : BitVec 8) (ty : ElemType),
    l.toNat < ty.lanes → outWritable s.thr.size xa = true → s.thr.pre = [] → s.vectorRoom →
    s.canUseVectors [v] [] [] [xa] →
    let e := laneOf (s.vec v).data ty.width l.toNat
    exec (.vext sw v xa l ty) s = .next ((s.queued .other
      [.reg xa (if ty.isInt then BitVec.ofInt 64 (signedLane ty.width e) else BitVec.ofNat 64 e)
        ((s.vec v).poison.any id)] 0).moved sw)

/-- R140, R141, R143, R144, R236: a vector load reads its lanes in the local window at issue and sends one request for the
others; it leaves one outstanding result with a place in the vector queue, and a gather returns its mask in m1. -/
def Obligations.VectorLoadResult : Prop :=
  ∀ (s : State) (i : Instr) (x : VectorAccess), s.vectorLoad i = some x → s.thr.repA = false → s.vectorRoom →
    let w := x.ty.width
    let is := s.accessLanes x
    let merge := if is.length = x.ty.lanes then [] else [x.v]
    s.canUseVectors (x.reads ++ merge) [x.v] x.xs [] → s.accessOk i x →
    ∃ t d ps, exec i s = .next t
      ∧ (s.maskPiece i x ps
        ∧ s.owes t ⟨s.fresh, .load, resultPieces x.v w d is (fun j =>
          s.vectorPoison merge (if x.k then .m0 else .all)
          || is.any (fun k => decide (k * w / 64 = j) && match x.target k with
            | .access ea => decide (0xFFFFFFFFFFFF0000 ≤ ea.toNat) && (s.localRead s.cur ea (w / 8)).2
            | .out => false
            | .poisoned => true)) ++ ps, 0, false⟩)
      ∧ (t.core s.cur).vq = (s.core s.cur).vq ++ [⟨s.ctx, s.fresh⟩]
      ∧ (∀ k, k < x.ty.lanes → laneOf d w k = if k ∈ is then
            match x.target k with
            | .access ea => if 0xFFFFFFFFFFFF0000 ≤ ea.toNat then (s.localRead s.cur ea (w / 8)).1 % 2 ^ w
              else laneOf (s.vec x.v).data w k
            | _ => 0
          else laneOf (s.vec x.v).data w k)
      ∧ if s.awayLanes x (fun _ => 0) = [] then t.reqs = s.reqs ∧ t.mem = s.mem ∧ t.otag = s.otag
        else s.sends t (.vload x.v w) (s.awayLanes x (fun _ => 0)) (some s.fresh)

/-- R141, R143: a vector store writes its lanes in the local window at issue, the highest last, and sends one request for
the others; the bytes of other lanes are not written, and a scatter returns its mask in m1. -/
def Obligations.VectorStoreResult : Prop :=
  ∀ (s : State) (i : Instr) (x : VectorAccess), s.vectorStore i = some x → s.thr.repA = false → s.vectorRoom →
    s.thr.releases = [] →
    let w := x.ty.width
    let is := s.accessLanes x
    let data := fun k => laneOf (s.vec x.v).data w k
    s.canUseVectors x.reads [] x.xs [] → s.accessOk i x →
    (∀ k ∈ is, ∀ ea, x.target k = .access ea → (s.vec x.v).lanePoison w k = false) →
    ∃ t ps, exec i s = .next t ∧ s.maskPiece i x ps
      ∧ (t.core s.cur).vq = (s.core s.cur).vq ++ [⟨s.ctx, s.fresh⟩]
      ∧ (if ps = [] then t.thr.outst = s.thr.outst else t.thr.outst = s.thr.outst ++ [⟨s.fresh, .other, ps, 0, false⟩])
      ∧ t.thr.pc = s.thr.advance.pc
      ∧ (let u := is.foldl (fun (u : State) k =>
          match x.target k with
          | .access ea => if 0xFFFFFFFFFFFF0000 ≤ ea.toNat then u.localWrite s.cur ea (w / 8) (data k) else u
          | _ => u) s
        t.mem = u.mem ∧ t.otag = u.otag)
      ∧ if s.awayLanes x data = [] then t.reqs = s.reqs
        else ∃ r, t.reqs = s.reqs ++ [r] ∧ r.core = s.cur ∧ r.ctx = s.ctx ∧ r.kind = .store ∧ r.lanes = s.awayLanes x data
          ∧ r.out = (if ps = [] then none else some s.fresh) ∧ r.held = false

/-- R154: SPAWN clears the window it names, copies its arguments into it and makes the context RUNNABLE at B, or EMPTY when it
declares a barge context. R155, R156, R158: REAP frees a context and writes the value its state gives; REPART gives N, or
changes it and the window of context 0; CLRF arms and empties a register. The model's own choices and readings in it: log
entry 19. -/
def Obligations.SpawnReapResult : Prop :=
  (
    ∀ (s : State) (sw : Bool) (d a b : Reg), s.plain → s.ctx = 0 → s.clean [a, b] →
      let x := s.operand [a, b] 0
      let y := s.operand [a, b] 1
      let n := (x.extractLsb' 20 4).toNat
      let c := (x.extractLsb' 0 6).toNat
      let base := 8 * (x.extractLsb' 8 8).toNat
      let size := 8 * ((x.extractLsb' 16 4).toNat + 1)
      let barge := x.getLsbD 24
      spawnFits (s.core s.cur) x → (n ≠ 0 → d.toNat + n ≤ s.thr.size ∧ d.toNat + n ≤ 0x80) →
      (barge = false → y.toNat % 4 = 0 ∧ s.clean (regsFrom d n)) →
      ∃ t, exec (.spawn sw d a b) s = .next t
        ∧ (t.thread s.cur c).st = (if barge then .empty else .runnable)
        ∧ (t.thread s.cur c).base = base ∧ (t.thread s.cur c).size = size
        ∧ (t.thread s.cur c).rlim = min (x.extractLsb' 44 14).toNat 8192 ∧ (t.thread s.cur c).rbase = (x.extractLsb' 31 13).toNat
        ∧ (t.thread s.cur c).rasp.toNat = 8 * (x.extractLsb' 31 13).toNat ∧ (t.thread s.cur c).wake = false
        ∧ (t.thread s.cur c).priv = false ∧ (t.thread s.cur c).outst = []
        ∧ (barge = false → (t.thread s.cur c).pc = y ∧ (t.thread s.cur c).vahi = s.thr.vahi)
        ∧ (∀ r, r < size → (t.core s.cur).reg (base + r)
            = ⟨if barge = false ∧ r < n then (s.value (d + BitVec.ofNat 8 r)).v else 0, true, false, false⟩)
        ∧ s.passes t ∧ s.sameMemory t)
  ∧ (
    (∀ (s : State) (sw : Bool) (d a : Reg) (v : PVal), s.plain → s.ctx = 0 → s.canUse [a] [d] → (s.value a).p = false →
      let x := (s.value a).v.toNat
      let k := s.thread s.cur x
      0 < x → x < (s.core s.cur).n → (unmarked d = true → v.p = false) →
      (k.st = .empty ∧ v = ⟨0, false⟩ ∨ k.st = .departed ∧ v = ⟨0xFFFFFFFFFFFFFFFF, false⟩
        ∨ k.st = .killed ∧ v = ⟨0xFFFFFFFFFFFFFFFE, false⟩
        ∨ k.st = .idling ∧ k.bargeCtx = false ∧ k.outst = [] ∧ s.unjoined s.cur x = false
          ∧ v = ⟨((s.core s.cur).reg k.base).val, ((s.core s.cur).reg k.base).poison⟩) →
      exec (.reap sw d a) s = .next
        ((((s.afterRead a).modThread s.cur x (fun t => { Ctx.free with recNo := t.recNo })).afterWrite d v.v v.p).moved sw))
    ∧ (∀ (s : State) (sw : Bool) (d a : Reg), s.plain → s.ctx = 0 → s.thr.priv = true → s.canUse [a] [] →
      (s.value a).p = false →
      let x := (s.value a).v.toNat
      let n := (s.core s.cur).n
      let n' := if x = 1 then n / 2 else if x = 2 then n * 2 else n
      let w := if n' ≤ 16 then 128 else if n' = 32 then 64 else 32
      d.toNat < 0x80 → d.toNat < s.thr.size → d.toNat < w →
      (x = 0 → exec (.repart sw d a) s = .next (((s.afterRead a).afterWrite d (BitVec.ofNat 64 n) false).moved sw))
      ∧ (x = 1 ∧ n ≠ 8 ∨ x = 2 ∧ n ≠ 64 → (∀ e ∈ (s.core s.cur).ctxs, e.1 = 0 ∨ e.2.st = .free) → s.thr.outst = [] →
        ∃ t, exec (.repart sw d a) s = .next t
          ∧ (t.core s.cur).n = n' ∧ t.thr.base = 0 ∧ t.thr.size = w
          ∧ (t.core s.cur).reg d.toNat = ⟨BitVec.ofNat 64 n', true, false, false⟩
          ∧ (∀ r, r ≠ d.toNat → r < min s.thr.size w → (t.core s.cur).reg r = (s.core s.cur).reg r)
          ∧ (∀ r, min s.thr.size w ≤ r → r < 128 → (t.core s.cur).reg r = RegEntry.clear)
          ∧ s.passes t ∧ s.sameMemory t))
    ∧ ∀ (s : State) (sw : Bool) (d : Reg), s.plain → d.toNat < s.thr.size → d.toNat < 0x80 →
      let i := s.thr.base + d.toNat
      exec (.clrf sw d) s = .next ((s.modCore s.cur (fun c =>
        c.setReg i ⟨(c.reg i).val, false, true, (c.reg i).poison⟩)).moved sw))

/-- R159 to R161, R318: a SEND whose queue has room completes: one whose core number names no core is refused, and any other
goes behind those of its core, of which as many leave, oldest first, as their streams take; one that leaves the copy of a
PAIRED region waits for its twin instead. With a full queue the slot is forfeited. R165, R166: WAITM goes on when the
mailbox has an entry for the thread, and else parks; RECVM takes the oldest one at issue, or zeros, as two outstanding
results. The model's own choices and readings in it: log entry 86. -/
def Obligations.SendMailboxResult : Prop :=
  (
    ∀ (s : State) (sw : Bool) (a b : Reg), s.plain → s.thr.releases = [] → s.clean [a, b] →
      let x := s.operand [a, b] 0
      let y := s.operand [a, b] 1
      let u := s.gated.afterReads [a, b]
      let away := x.getLsbD 47 && x.extractLsb' 48 12 != s.panel
      let m := (x.extractLsb' 0 13).toNat
      (Config.sendQueueEntries ≤ s.sendq.length →
        exec (.send sw a b) s = .next (s.modThr (fun t => { t with pre := [] })))
      ∧ (s.sendq.length < Config.sendQueueEntries → away = false → Config.cores ≤ m →
        exec (.send sw a b) s = .next ((u.modCore s.cur (fun c => { c with waitRefuse := c.waitRefuse ++
          [⟨3, BitVec.ofNat 6 s.ctx, x.extractLsb' 0 13, x.extractLsb' 13 6, x.extractLsb' 31 16, x⟩] })).moved sw))
      ∧ (s.sendq.length < Config.sendQueueEntries → away = true ∨ m < Config.cores →
        ∃ t msg, exec (.send sw a b) s = .next t ∧ s.passes t ∧ s.sameMemory t ∧ s.ownSend x y msg
          ∧ (s.nextPair s.cur = none ∨ away = false ∧ s.sameCopy s.cur (s.twinTarget s.cur m) = true → ∃ k,
            t.sendq = (s.sendq ++ [msg]).drop k
            ∧ (∀ q ∈ (s.sendq ++ [msg]).take k, ∃ dst n, s.sendStation q.desc = some dst
              ∧ (n, .send q) ∈ (t.stream (.core s.cur) dst true).unacked)
            ∧ ∀ q, t.sendq.head? = some q → ∀ dst, s.sendStation q.desc = some dst →
              (t.stream (.core s.cur) dst true).room = false)
          ∧ (∀ k, s.nextPair s.cur = some k → away = true ∨ s.sameCopy s.cur (s.twinTarget s.cur m) = false →
            t.sendq = s.sendq ∧ ∃ p, t.pairs = s.pairs ++ [p] ∧ p.count = k ∧ p.twin = (s.core s.cur).twin
              ∧ ∃ dst, p.body = some (.core s.cur, dst, .send msg))))
  ∧ (
    (∀ (s : State) (sw : Bool), s.plain →
      ((∃ e ∈ (s.core s.cur).mail, e.ctx.toNat = s.ctx) → exec (.waitm sw) s = .next (s.moved sw))
      ∧ ((∀ e ∈ (s.core s.cur).mail, e.ctx.toNat ≠ s.ctx) → exec (.waitm sw) s = .next (s.parkedFor .mail)))
    ∧ (∀ (s : State) (sw : Bool) (d : Reg) (before after : List Mail) (h p : Word), s.plain →
      d.toNat + 2 ≤ s.thr.size → d.toNat + 2 ≤ 0x80 → (∀ e ∈ before, e.ctx.toNat ≠ s.ctx) →
      ((s.core s.cur).mail = before ∧ after = [] ∧ h = 0 ∧ p = 0
        ∨ ∃ e, (s.core s.cur).mail = before ++ e :: after ∧ e.ctx.toNat = s.ctx ∧ h = e.header ∧ p = e.payload) →
      exec (.recvm sw d) s = .next (((s.modCore s.cur (fun c => { c with mail := before ++ after })).addOutst s.cur s.ctx
        .recvm [.reg d h false, .reg (d + 1) p false] 0 true).moved sw))
    ∧ ∀ (s : State) (sw : Bool) (d : Reg), s.plain → s.thr.size < d.toNat + 2 ∨ 0x80 < d.toNat + 2 →
      exec (.recvm sw d) s = .next (s.faulted { code := 0x02 }))

/-- R171, R172: MIGRATE packs its thread into a barge for a core of the home chiplet, and leaves its context DEPARTED, or
EMPTY in a barge context. R190, R194: TRIGGER sends its request to the lock-keeper, and BAR its arrival to the barrier's
home core, once the earlier writes of the thread in the scope are acknowledged. The model's own choices and readings in it:
log entries 81, 91. -/
def Obligations.MigrateTriggerBar : Prop :=
  (
    ∀ (s : State) (sw : Bool) (a : Reg) (home : Nat), s.plain → s.clean [a] → 2 ≤ s.ctx → 24 ≤ s.thr.size → s.thr.lpD = 0 →
      s.thr.rasd = 0 → s.thr.rasp.toNat = s.thr.rbase * 8 → s.unjoined s.cur s.ctx = false → s.thr.outst = [] →
      s.storesAcked s.cur s.ctx = true → s.thr.releases = [] → s.clean (regsFrom 0 24) →
      s.thr.poison0 = false → s.thr.poison1 = false →
      let x := (s.value a).v
      (s.afterRead a).migrateHome s.cur s.thr x = .ok home →
      ∃ (t : State) (g : Barge), exec (.migrate sw a) s = .next t
        ∧ s.posts t (.core (8 * home + (x.extractLsb' 6 3).toNat)) (.barge g.flits g.region)
        ∧ g.pc = s.thr.opw + 4 ∧ g.pred = s.thr.pred ∧ g.rm = s.thr.rm ∧ g.flags = s.thr.flags ∧ g.vahi = s.thr.vahi
        ∧ g.srcCore = s.cur ∧ g.srcCtx = s.ctx ∧ g.regs = (regsFrom 0 24).map (fun r => (s.value r).v)
        ∧ t.thr.st = (if s.thr.bargeCtx then .empty else .departed) ∧ s.sameMemory t)
  ∧ (
    (∀ (s : State) (sw : Bool) (a b : Reg) (r : Release), s.plain → s.thr.releases = [] → s.clean [a, b] →
      let x := s.operand [a, b] 0
      let y := s.operand [a, b] 1
      let kind := (y.extractLsb' 4 2).toNat
      let v := s.gated.afterReads [a, b]
      y.toNat < 64 → kind < 3 → x.toNat % (if kind = 2 then 64 else 128) = 0 →
      v.scoped (y.extractLsb' 0 4) r → v.writesDone v.cur v.ctx r = true →
      let u := v.passGate r.scope
      ∃ t, exec (.trigger sw a b) s = .next t ∧ u.passes t
        ∧ u.posts t (.core (u.keeperCore u.cur)) (.trigger kind x s.thr.vahi u.cur u.ctx (u.core u.cur).root s.thr.priv))
    ∧ ∀ (s : State) (sw : Bool) (d a : Reg) (r : Release), s.plain → s.thr.releases = [] → s.clean [a, a + 1] →
      a.toNat + 2 ≤ s.thr.size → a.toNat + 2 ≤ 0x80 → outWritable s.thr.size d = true →
      let x := (s.value a).v
      let y := (s.value (a + 1)).v
      let home := (y.extractLsb' 0 13).toNat
      y.toNat < 2 ^ 32 → y.getLsbD 13 = false → (y.extractLsb' 16 6).toNat ≤ (y.extractLsb' 22 6).toNat →
      home < Config.cores → s.partOfCore home = s.partOfCore s.cur → x.toNat % 64 = 0 →
      s.gated.scoped (y.extractLsb' 28 4) r → s.gated.writesDone s.cur s.ctx r = true →
      let u := s.gated.passGate r.scope
      ∃ t m, exec (.bar sw d a) s = .next t ∧ u.owes t ⟨u.fresh, .bar, [.reg d 0 false], 0, false⟩
        ∧ u.posts t (.core (u.twinTarget u.cur home)) (.bar m)
        ∧ m.core = u.cur ∧ m.ctx = u.ctx ∧ m.a0 = x ∧ m.a1 = y ∧ m.out = u.fresh ∧ m.vahi = s.thr.vahi ∧ m.priv = s.thr.priv)

/-- R43, R242: a release is kept for the accesses that it holds; an acquire parks the next instruction while a load, atomic,
received entry or barrier of the thread is outstanding; a sequentially consistent fence waits for these, with the marker for
every outstanding result, and for its release. The model's own choices and readings in it: log entry 15. -/
def Obligations.FenceResult : Prop :=
  ∀ (s : State) (sw : Bool) (idx : BitVec 4) (w : Release), s.plain → s.scoped idx w →
    let ids := (s.thr.outst.filter (fun o =>
      o.kind = .load ∨ o.kind = .atomic ∨ o.kind = .recvm ∨ o.kind = .bar)).map Outst.id
    let r : Release := ⟨s.fresh, w.scope⟩
    let wait := fun (p : Park) (t : Ctx) => if t.st = .runnable then { t with st := .parked, park := some p } else t
    let acquire := fun (t : Ctx) => if ids = [] then t else wait (.results ids) t
    let keep := fun (t : Ctx) => { t with releases := t.releases ++ [r] }
    exec (.fence sw .acq idx) s = .next ((s.moved sw).modThr acquire)
    ∧ exec (.fence sw .rel idx) s = .next ((s.moved sw).modThr keep)
    ∧ exec (.fence sw .ar idx) s = .next ((s.moved sw).modThr (fun t => acquire (keep t)))
    ∧ exec (.fence sw .sc idx) s = .next ((s.moved sw).modThr (fun t =>
        { t with st := .parked, synced := t.synced || decide (w.scope = .thread),
                 park := some (.seqCst (if sw then s.thr.outst.map Outst.id else ids) r) }))

/-- R245 to R247: an atomic in the local window is performed at once; any other sends one request and leaves an outstanding
result, and with ord parks the next instruction until it is written. R225, R226, R248: a reduction and a line operation
complete at issue; in the local window a reduction, DISCARD and ZERO act at once, and elsewhere one request is sent. A line
operation writes the address of the next line. The model's own choices and readings in it: log entry 91. -/
def Obligations.AtomicReductionLine : Prop :=
  (
    (∀ (s : State) (i : Instr) (fn : BitVec 3) (sw : Bool) (d a : Reg) (idx : BitVec 4) (ord : Bool)
      (f : Word → Word → Word) (r : Release), atomicOf i = some (fn, sw, d, a, idx, ord, f) → s.plain → s.thr.releases = [] →
      outWritable s.thr.size d = true → s.canUse [a, d] [d] → s.clean [a, d] →
      let x := s.operand [a, d] 0
      let v := s.operand [a, d] 1
      let g := s.gated.afterReads [a, d]
      x.toNat % 8 = 0 → g.scoped idx r → g.releasable ord r →
      let u := g.afterRelease ord r.scope
      (0xFFFFFFFFFFFF0000 ≤ x.toNat →
        let old := u.localRead u.cur x 8
        exec i s = .next ((((u.noteStore u.cur u.ctx x 8).localWrite u.cur x 8 (f (BitVec.ofNat 64 old.1) v).toNat).afterWrite d
          (BitVec.ofNat 64 old.1) old.2).moved sw))
      ∧ (x.toNat < 0xFFFFFFFFFFFF0000 → ∃ t, exec i s = .next t ∧ u.sends t (.amo fn d v) [Lane.start 0 x 8 0] (some u.fresh)
        ∧ u.owes t ⟨u.fresh, .atomic, [.reg d 0 false], 0, false⟩
        ∧ (ord = true → u.thr.st = .runnable → t.thr.st = .parked)))
    ∧ ∀ (s : State) (sw : Bool) (d a : Reg) (b idx : BitVec 4) (r : Release), s.plain → s.thr.releases = [] →
      let rs : List Reg := [a, b.setWidth 8, d]
      outWritable s.thr.size d = true → s.canUse rs [d] → s.clean rs →
      let x := s.operand rs 0
      let e := s.operand rs 1
      let n := s.operand rs 2
      let u := s.gated.afterReads rs
      x.toNat % 8 = 0 → u.scoped idx r →
      (0xFFFFFFFFFFFF0000 ≤ x.toNat →
        let old := u.localRead u.cur x 8
        exec (.cas sw d a b idx) s = .next
          (((if BitVec.ofNat 64 old.1 = e then (u.noteStore u.cur u.ctx x 8).localWrite u.cur x 8 n.toNat else u).afterWrite d
            (BitVec.ofNat 64 old.1) old.2).moved sw))
      ∧ (x.toNat < 0xFFFFFFFFFFFF0000 → ∃ t, exec (.cas sw d a b idx) s = .next t
        ∧ u.sends t (.cas d e n) [Lane.start 0 x 8 0] (some u.fresh)
        ∧ u.owes t ⟨u.fresh, .atomic, [.reg d 0 false], 0, false⟩))
  ∧ (
    (∀ (s : State) (i : Instr) (fn : BitVec 3) (sw : Bool) (a b : Reg) (idx : BitVec 4) (ord : Bool)
      (f : Word → Word → Word) (r : Release), reductionOf i = some (fn, sw, a, b, idx, ord, f) → s.plain →
      s.thr.releases = [] → s.clean [a, b] →
      let x := s.operand [a, b] 0
      let v := s.operand [a, b] 1
      let g := s.gated.afterReads [a, b]
      x.toNat % 8 = 0 → g.scoped idx r → g.releasable ord r →
      let u := g.afterRelease ord r.scope
      (0xFFFFFFFFFFFF0000 ≤ x.toNat → exec i s = .next (((u.noteStore u.cur u.ctx x 8).localWrite u.cur x 8
        (f (BitVec.ofNat 64 (u.localRead u.cur x 8).1) v).toNat).moved sw))
      ∧ (x.toNat < 0xFFFFFFFFFFFF0000 → ∃ t j, exec i s = .next t ∧ u.sends t (.red fn v ord j) [Lane.start 0 x 8 v] none
        ∧ u.passes t))
    ∧ ∀ (s : State) (i : Instr) (fn : BitVec 2) (sw : Bool) (d a : Reg) (idx : BitVec 4) (r : Release),
      lineOf i = some (fn, sw, d, a, idx) → s.plain → s.thr.releases = [] → s.canUse [a] [d] → (s.value a).p = false →
      (s.gated.afterRead a).scoped idx r →
      let base := (s.value a).v &&& ~~~(63 : Word)
      let u := (s.gated.afterRead a).afterWrite d (base + 64) false
      (0xFFFFFFFFFFFF0000 ≤ base.toNat →
        exec i s = .next ((if fn.toNat < 2 then u else (u.noteStore u.cur u.ctx base 64).localWrite u.cur base 64 0).moved sw))
      ∧ (base.toNat < 0xFFFFFFFFFFFF0000 → ∃ t, exec i s = .next t ∧ u.sends t (.lineop fn) [Lane.start 0 base 64 0] none
        ∧ u.passes t))

/-- R221, R241, R208: SCOPEW reads its entry's image and parks the thread until it is answered, sending the image to the
lock-keeper at once when it lies in the local window; RESERVE asks the lock-keeper, and BANKMODE the chiplet's bank
controller, and each leaves an outstanding result. -/
def Obligations.ScopewReserveBankmode : Prop :=
  (∀ (s : State) (sw : Bool) (a : Reg) (idx : BitVec 4), s.plain → s.thr.releases = [] → s.clean [a] →
    let x := (s.value a).v
    let u := s.gated.afterRead a
    let word := fun (i : Nat) => x + BitVec.ofNat 64 (8 * i)
    x.toNat % 128 = 0 → u.mayScope = true →
    (0xFFFFFFFFFFFF0000 ≤ x.toNat → (∀ i, i < 16 → (u.localRead u.cur (word i) 8).2 = false) →
      ∃ t, exec (.scopew sw a idx) s = .next t ∧ u.owes t ⟨u.fresh, .scopew, [], 0, false⟩
        ∧ u.posts t (.core (u.keeperCore u.cur)) (.scopew (u.scopeTable u.cur) (u.tableVahi u.cur) (u.core u.cur).root idx
          ((List.range 16).map (fun i => BitVec.ofNat 64 (u.localRead u.cur (word i) 8).1)) u.cur u.ctx u.fresh u.thr.pc x)
        ∧ (u.thr.st = .runnable → t.thr.st = .parked))
    ∧ (x.toNat < 0xFFFFFFFFFFFF0000 → ∃ t, exec (.scopew sw a idx) s = .next t
      ∧ u.sends t (.scopew idx) ((List.range 16).map (fun i => Lane.start i (word i) 8 0)) (some u.fresh)
      ∧ u.owes t ⟨u.fresh, .scopew, [], 0, false⟩ ∧ (u.thr.st = .runnable → t.thr.st = .parked)))
  ∧ (∀ (s : State) (sw : Bool) (d a : Reg), s.plain → outWritable s.thr.size d = true → s.clean [a] →
    ∃ t, exec (.reserve sw d a) s = .next t ∧ s.owes t ⟨s.fresh, .other, [.reg d 0 false], 0, false⟩ ∧ s.sameMemory t
      ∧ s.posts t (.core (s.keeperCore s.cur)) (.reserve s.cur s.ctx s.fresh (s.value a).v))
  ∧ ∀ (s : State) (sw : Bool) (d a b : Reg), s.plain → outWritable s.thr.size d = true → s.clean [a, b] →
    let x := s.operand [a, b] 0
    let y := s.operand [a, b] 1
    x.toNat < 2 ^ 32 → y.toNat < 3 →
    ∃ t, exec (.bankmode sw d a b) s = .next t ∧ s.owes t ⟨s.fresh, .other, [.reg d 0 false], 0, false⟩ ∧ s.sameMemory t
      ∧ (t.chip (s.cur / 8)).breqs = (s.chip (s.cur / 8)).breqs ++ [⟨s.cur, s.ctx, s.fresh, x.setWidth 32,
          if y = 0 then .cache else if y = 1 then .scratch else .fifo, (s.core s.cur).region, none⟩]

/-- R269 to R272: BUFINIT, BUFACQ and BUFREL send one request to the controller of their buffer's bank; BUFACQ leaves two
outstanding results and parks the thread until they are written. R277: QPUSH, QPOP and QSTEAL send one request to the home
of the queue's line and leave their results outstanding. The model's own choices and readings in it: log entry 103. -/
def Obligations.BufferQueueResult : Prop :=
  (
    (∀ (s : State) (sw : Bool) (a b : Reg), s.plain → s.thr.releases = [] → s.clean [a, b] →
      let x := s.operand [a, b] 0
      let y := s.operand [a, b] 1
      let n := (y.extractLsb' 16 9).toNat
      let u := s.gated.afterReads [a, b]
      x.toNat % 64 = 0 → y &&& 0xFFFFFFFDFE00F000 = 0 → n ≠ 1 → n ≤ 256 → (n = 0 ∨ y.extractLsb' 0 12 ≠ 0) →
      ∃ t, exec (.bufinit sw a b) s = .next t ∧ u.sends t (.bufinit y) [Lane.start 0 x 1 0] none ∧ u.passes t)
    ∧ (∀ (s : State) (sw : Bool) (d a : Reg), s.plain → s.thr.releases = [] → s.clean [a] → s.group d 2 →
      let x := (s.value a).v
      let u := s.gated.afterRead a
      x &&& 0x3E = 0 →
      ∃ t, exec (.bufacq sw d a) s = .next t
        ∧ u.sends t (.bufacq d (x.getLsbD 0)) [Lane.start 0 (x &&& ~~~(1 : Word)) 1 0] (some u.fresh)
        ∧ u.owes t ⟨u.fresh, .bufacq, [.reg d 0 false, .reg (d + 1) 0 false], 0, false⟩
        ∧ (u.thr.st = .runnable → t.thr.st = .parked))
    ∧ ∀ (s : State) (sw : Bool) (a b : Reg), s.plain → s.thr.releases = [] → s.clean [a, b] →
      let x := s.operand [a, b] 0
      let y := s.operand [a, b] 1
      let base := x &&& ~~~(1 : Word)
      let u := s.gated.afterReads [a, b]
      x &&& 0x3E = 0 →
      (if x.getLsbD 0 then
        u.writesDone u.cur u.ctx ⟨u.fresh, match u.bufChip u.cur u.thr base with
          | some c => .chiplet c
          | none => .job⟩ = true
       else ∀ r ∈ u.reqs, r.core = u.cur → r.ctx = u.ctx → r.id < u.fresh → r.kind.isLoad = true → ∀ l ∈ r.lanes, l.done = true) →
      ∃ t, exec (.bufrel sw a b) s = .next t ∧ u.sends t (.bufrel (x.getLsbD 0) y) [Lane.start 0 base 1 0] none ∧ u.passes t)
  ∧ (
    (∀ (s : State) (sw : Bool) (d a b : Reg), s.plain → s.thr.releases = [] → s.clean [a, b, d] →
      outWritable s.thr.size d = true →
      let rs := [a, b, d]
      let x := s.operand rs 0
      let u := s.gated.afterReads rs
      x.toNat % 64 = 0 →
      ∃ t, exec (.qpush sw d a b) s = .next t
        ∧ u.sends t (.qpush d (s.operand rs 1) (s.operand rs 2)) [Lane.start 0 x 8 0] (some u.fresh)
        ∧ u.owes t ⟨u.fresh, .atomic, [.reg d 0 false], 0, false⟩)
    ∧ (∀ (s : State) (sw : Bool) (d a : Reg), s.plain → s.thr.releases = [] → s.clean [a] → s.group d 3 →
      let u := s.gated.afterRead a
      (s.value a).v.toNat % 64 = 0 →
      ∃ t, exec (.qpop sw d a) s = .next t ∧ u.sends t (.qpop d) [Lane.start 0 (s.value a).v 8 0] (some u.fresh)
        ∧ u.owes t ⟨u.fresh, .atomic, [.reg d 0 false, .reg (d + 1) 0 false, .reg (d + 2) 0 false], 0, false⟩)
    ∧ ∀ (s : State) (sw : Bool) (d a b : Reg), s.plain → s.thr.releases = [] → s.clean [a, b] → s.group d 3 →
      let x := s.operand [a, b] 0
      let u := s.gated.afterReads [a, b]
      x.toNat % 64 = 0 →
      ∃ t, exec (.qsteal sw d a b) s = .next t
        ∧ u.sends t (.qsteal d (s.operand [a, b] 1)) [Lane.start 0 x 8 0] (some u.fresh)
        ∧ u.owes t ⟨u.fresh, .atomic, [.reg d 0 false, .reg (d + 1) 0 false, .reg (d + 2) 0 false], 0, false⟩)

/-- R253, R256 to R258: COPY, issued by context 1, forks one operation over the elements of its patterns, for the context that
NOTE names or its own. -/
def Obligations.CopyResult : Prop :=
  ∀ (s : State) (sw : Bool) (a b : Reg) (r : Release), s.plain → s.ctx = 1 → s.thr.releases = [] → s.group a 6 →
    let rs := regsFrom a 6 ++ [b]
    let y := s.operand rs 6
    let d := fun i => s.operand rs i
    let u := s.gated.afterReads rs
    s.clean rs → y.toNat < 2 ^ 34 → (y.extractLsb' 20 3).toNat ≤ 5 → (y.getLsbD 26 = true → y.getLsbD 25 = true) →
    (y.getLsbD 27 = true → (y.extractLsb' 28 6).toNat < (s.core s.cur).n
      ∧ ((s.thread s.cur (y.extractLsb' 28 6).toNat).st).holdsThread = true) →
    u.scoped (y.extractLsb' 16 4) r → (s.core s.cur).mailRoom = true → s.copiesOf s.cur < 32 →
    ∃ t o src dst pf lim, exec (.copy sw a b) s = .next t ∧ u.passes t ∧ s.sameMemory t ∧ u.forks t o
      ∧ o.target = (if y.getLsbD 27 then (y.extractLsb' 28 6).toNat else s.ctx) ∧ o.tag = y.extractLsb' 0 16 ∧ o.scope = r.scope
      ∧ o.ord = y.getLsbD 23 ∧ o.total = extentTotal (d 2) ∧ o.kind = .copy src dst (d 5) y pf lim
      ∧ (∀ l, l < o.total → dst.elem l = elementAt (d 1) (d 2) (d 4) l
        ∧ (y.getLsbD 24 = false → src.elem l = elementAt (d 0) (d 2) (d 3) l))

/-- R264, R265: SBIND writes the number of elements that the stream's last binding had left, and binds the stream to its
pattern: an input starts to read, an output forks an operation, and a pattern without elements unbinds it. -/
def Obligations.SbindResult : Prop :=
  ∀ (s : State) (sw : Bool) (d a : Reg) (r : Release), s.plain → s.thr.releases = [] → s.group a 4 →
    outWritable s.thr.size d = true → s.clean (regsFrom a 4) →
    let c := s.groupReg a 3
    let n := extentTotal (s.groupReg a 1)
    let sn := (c.extractLsb' 0 3).toNat
    c &&& 0xFFFFFFFF0000C200 = 0 → (c.extractLsb' 4 3).toNat ≤ 4 →
    ((c.extractLsb' 4 3).toNat = 4 → c.getLsbD 7 = false ∧ c.getLsbD 3 = false) →
    (c.getLsbD 3 = true → 0 < n → s.gated.scoped (c.extractLsb' 10 4) r ∧ (s.core s.cur).mailRoom = true) →
    (s.core s.cur).claimedRows sn = 0 →
    ∃ t u, exec (.sbind sw d a) s = .next t ∧ t = (u.afterWrite d (BitVec.ofNat 64 (s.bindingLeft s.cur sn)) false).moved sw
      ∧ (n = 0 → (u.core s.cur).binding sn = .unbound)
      ∧ (0 < n → c.getLsbD 3 = false → ∃ b, (u.core s.cur).binding sn = .input b ∧ b.total = n ∧ b.next = 0 ∧ b.popped = 0
        ∧ b.buf = [] ∧ b.es = (c.extractLsb' 4 3).toNat ∧ b.sx = c.getLsbD 7
        ∧ ∀ l, l < n → b.pat.elem l = elementAt (s.groupReg a 0) (s.groupReg a 1) (s.groupReg a 2) l)
      ∧ (0 < n → c.getLsbD 3 = true → (u.core s.cur).binding sn = .output s.fresh
        ∧ ∃ o p, s.forks u o ∧ o.total = n ∧ o.scope = r.scope ∧ o.tag = c.extractLsb' 16 16
          ∧ o.kind = .outStream sn p (c.extractLsb' 4 3).toNat
          ∧ ∀ l, l < n → p.elem l = elementAt (s.groupReg a 0) (s.groupReg a 1) (s.groupReg a 2) l)

/-- R282, R286, R288, R291 to R293: the matrix instructions enter the matrix queue in order: MLOADB with the reads of its strip,
MMA and MMAS with the rows of the A block they claim, MREAD with an outstanding vector result. -/
def Obligations.MatrixQueueResult : Prop :=
  (∀ (s : State) (sw : Bool) (d a : Reg), s.plain → s.thr.releases = [] → s.group a 3 → outWritable s.thr.size d = true →
    s.clean (regsFrom a 3) → s.matrixRoom →
    let a0 := s.groupReg a 0
    let a1 := s.groupReg a 1
    let a2 := s.groupReg a 2
    mloadOk s.cur a1 = true → mloadAligned a0 a1 a2 = true →
    ∃ t q, exec (.mloadb sw d a) s = .next t ∧ s.owes t ⟨s.fresh, .load, [.reg d 0 false], 0, false⟩
      ∧ s.queuesMatrix t q ∧ q.id = s.fresh + 1 ∧ q.out = some s.fresh
      ∧ (a1.getLsbD 25 = true → q.kind = .mloadb d a0 a1 a2 none ∧ t.reqs = s.reqs)
      ∧ (a1.getLsbD 25 = false → (∀ x ∈ mloadAddrs a0 a1 a2, 0xFFFFFFFFFFFF0000 ≤ x.toNat) →
        q.kind = .mloadb d a0 a1 a2 none ∧ t.reqs = s.reqs
        ∧ q.loaded = (mloadAddrs a0 a1 a2).map (fun x => BitVec.ofNat 64 (s.localRead s.cur x 8).1))
      ∧ (a1.getLsbD 25 = false → (∃ x ∈ mloadAddrs a0 a1 a2, x.toNat < 0xFFFFFFFFFFFF0000) →
        q.kind = .mloadb d a0 a1 a2 (some (s.fresh + 2))
        ∧ ∃ ls, s.sends t (.mload (s.fresh + 1)) ls (some s.fresh)
          ∧ ls.map (fun l => (l.va, l.size)) = (mloadAddrs a0 a1 a2).map (fun x => (x, 8))))
  ∧ (∀ (s : State) (sw z : Bool) (acc : BitVec 2) (sn : BitVec 3) (ty : MatType) (b : Reg), s.plain → s.clean [b] →
    s.matrixRoom →
    let x := (s.value b).v
    let u := s.afterRead b
    u.tileReady acc z ty x → ∀ k, (u.core u.cur).binding sn.toNat = .input k → k.es = 4 → blockRows ty 8 ≤ k.unclaimed →
    ∃ t, exec (.mma sw acc z sn ty b) s = .next t ∧ s.passes t ∧ s.sameMemory t
      ∧ s.queuesMatrix t ⟨s.fresh, s.ctx, .mma acc z sn ty (x.extractLsb' 0 8).toNat (blockRows ty 8), none, [], false⟩
      ∧ (t.core s.cur).binding sn.toNat = .input { k with claimed := k.claimed + blockRows ty 8 })
  ∧ (∀ (s : State) (sw z : Bool) (acc : BitVec 2) (sn sk : BitVec 3) (ty : MatType) (b : Reg), s.plain → s.clean [b] →
    s.matrixRoom →
    let x := (s.value b).v
    let u := s.afterRead b
    let skip : Reg := 0xA8 + sk.setWidth 8
    let e := (u.value skip).v
    let rows := if e.getLsbD 7 then 0 else blockRows ty ((e.extractLsb' 3 3).toNat + 1)
    u.tileReady acc z ty x → sk ≠ sn → ((u.core u.cur).isByteBinding sk.toNat) = true → u.clean [skip] →
    e.getLsbD 6 = false → (if e.getLsbD 7 then e.extractLsb' 0 6 = 0
      else (e.extractLsb' 0 3).toNat + ((e.extractLsb' 3 3).toNat + 1) ≤ 8) →
    ∀ k, (u.core u.cur).binding sn.toNat = .input k → k.es = 4 → rows ≤ k.unclaimed →
    ∃ t, exec (.mmas sw acc z sn sk ty b) s = .next t ∧ s.passes t ∧ s.sameMemory t
      ∧ s.queuesMatrix t ⟨s.fresh, s.ctx, .mmas acc z sn ty (x.extractLsb' 0 8).toNat rows (e.extractLsb' 0 3).toNat
          ((e.extractLsb' 3 3).toNat + 1) (e.getLsbD 7), none, [], false⟩
      ∧ (t.core s.cur).binding sn.toNat = .input { k with claimed := k.claimed + rows })
  ∧ ∀ (s : State) (sw : Bool) (vd : VReg) (acc : BitVec 2) (ty : CvtType) (b : Reg), s.plain →
    s.canUseVectors [] [vd] [b] [] → s.matrixRoom →
    let x := s.value b
    let row := (x.v.extractLsb' 0 4).toNat
    let col := (x.v.extractLsb' 8 6).toNat
    let n := 512 / ty.width
    ((s.core s.cur).futureClass acc = .fp64 → row ≤ 7) → col % n = 0 → col + n ≤ 64 →
    ∃ t, exec (.mread sw vd acc ty b) s = .next t ∧ s.sameMemory t
      ∧ s.owes t ⟨s.fresh, .other, resultPieces vd 64 0 (List.range 8) (fun _ => false), 0, false⟩
      ∧ s.queuesMatrix t ⟨s.fresh + 1, s.ctx, .mread vd acc ty row col x.p, some s.fresh, [], false⟩

/-- R122, R123: BRK takes the breakpoint fault and TRAP the trap fault, with A as operand and argument. R124, R174: IDLE
takes a pending wake and goes on; it ends a barge with nothing outstanding and nothing unjoined, whose context becomes EMPTY
with its window zero; else the thread is IDLING at the same instruction. The model's own choices and readings in it: log
entry 81. -/
def Obligations.BreakTrapIdle : Prop :=
  (
    ∀ (s : State) (sw : Bool), s.plain →
      exec (.brk sw) s = .next (s.faulted { code := 0x09 })
      ∧ ∀ (a : Reg), s.clean [a] →
        exec (.trap sw a) s = .next ((s.faulted { code := 0x0A, oprs := [(s.value a).v], arg := (s.value a).v })))
  ∧ (
    ∀ (s : State) (sw : Bool), s.plain → (sw = true → s.thr.outst = []) →
      let ends := s.thr.barge = true ∧ s.thr.outst = [] ∧ s.unjoined s.cur s.ctx = false
      (s.thr.wake = true → exec (.idle sw) s = .next ((s.modThr (fun t => { t with wake := false })).moved sw))
      ∧ (s.thr.wake = false → ¬ ends → exec (.idle sw) s = .next (s.modThr (fun t => { t with st := .idling, pre := [] })))
      ∧ (s.thr.wake = false → ends → ∃ t, exec (.idle sw) s = .next t ∧ t.thr.st = .empty ∧ t.thr.bargeCtx = true
        ∧ t.thr.base = s.thr.base ∧ t.thr.size = s.thr.size ∧ t.thr.barge = false ∧ s.sameMemory t
        ∧ ∀ r, r < s.thr.size → (t.core s.cur).reg (s.thr.base + r) = RegEntry.clear))

/-- R34 to R37, R125, R126: RDCTL writes the register's value, its reserved fields zero. WRCTL writes the fields that can be
written and moves on: `tid`, `win` and `cycle` keep theirs; with `repst` an active frame, and with `lpst` a raised level, begin at
the next instruction, which follows the WRCTL. Numbers above 9 are illegal operands; a register with a -P field, or for RDCTL an
RO-P or RW-P field, needs a privileged thread, and `mxwt` is written by context 0 alone. The model's own choices and readings in
it: log entry 82. -/
def Obligations.ControlRegisterResult : Prop :=
  (∀ (s : State) (sw : Bool) (d : Reg) (k : BitVec 8), s.plain →
    (9 < k.toNat → exec (.rdctl sw d k) s = .next (s.faulted { code := 0x02 }))
    ∧ (k.toNat ≤ 9 → writable s.thr.size d = true → guarded k.toNat = true → s.thr.priv = false →
      exec (.rdctl sw d k) s = .next (s.faulted { code := 0x03 }))
    ∧ (k.toNat ≤ 9 → s.canUse [] [d] → (guarded k.toNat = true → s.thr.priv = true) →
      exec (.rdctl sw d k) s = .next ((s.afterWrite d (s.controlValue k.toNat) false).moved sw)))
  ∧ (∀ (s : State) (sw : Bool) (k : BitVec 8) (a : Reg), s.plain →
    (9 < k.toNat → exec (.wrctl sw k a) s = .next (s.faulted { code := 0x02 }))
    ∧ (k.toNat ≤ 9 → readable s.thr.size a = true → guarded k.toNat = true → s.thr.priv = false →
      exec (.wrctl sw k a) s = .next (s.faulted { code := 0x03 }))
    ∧ (k = 8 → readable s.thr.size a = true → s.ctx ≠ 0 → exec (.wrctl sw k a) s = .next (s.faulted { code := 0x04 })))
  ∧ ∀ (s : State) (sw : Bool) (k : BitVec 8) (a : Reg), s.plain → s.clean [a] → k.toNat ≤ 9 →
    (guarded k.toNat = true → s.thr.priv = true) → (k = 8 → s.ctx = 0) →
    let v := (s.value a).v
    let levels := min (v.toNat % 4) 2
    let begins := k = 5 ∧ v.getLsbD 63 = true ∨ k = 6 ∧ s.thr.lpD < levels
    ∃ t, exec (.wrctl sw k a) s = .next t ∧ s.sameMemory t ∧ t.thr.outst = s.thr.outst
      ∧ t.thr.pc = (if begins then s.thr.opw + 4
          else ({ s.thr with lpD := if k = 6 then levels else s.thr.lpD } : Ctx).advance.pc)
      ∧ t.thr.rm = (if k = 0 then v.extractLsb' 0 2 else s.thr.rm)
      ∧ t.thr.flags = (if k = 1 then v.extractLsb' 0 5 else s.thr.flags)
      ∧ t.thr.vahi = (if k = 9 then v.extractLsb' 0 8 else s.thr.vahi)
      ∧ t.thr.rbase = (if k = 7 then (v.extractLsb' 0 13).toNat else s.thr.rbase)
      ∧ t.thr.rlim = (if k = 7 then min (v.extractLsb' 16 14).toNat 8192 else s.thr.rlim)
      ∧ (t.core s.cur).mxwt = (if k = 8 then (if v.extractLsb' 0 4 = 0 then 1 else v.extractLsb' 0 4) else (s.core s.cur).mxwt)
      ∧ t.thr.repA = (decide (k = 5) && v.getLsbD 63)
      ∧ (k = 5 → t.thr.repFrm = v.extractLsb' 32 24 ∧ t.thr.repJ = v.extractLsb' 24 6 ∧ t.thr.repI = v.extractLsb' 16 4)
      ∧ (k = 6 → s.thr.lpD < levels → t.thr.lpD = levels)
      ∧ t.thr.base = s.thr.base ∧ t.thr.size = s.thr.size ∧ t.thr.priv = s.thr.priv ∧ t.thr.barge = s.thr.barge
      ∧ (t.core s.cur).cycle = (s.core s.cur).cycle

/-- R22, R23, R99, R124, R148, R152, R170: a ready result that no earlier one precedes at its register is written there and
leaves the outstanding results with its last register, when its flags are raised; a parked thread whose condition holds, and
an idling one whose wake bit is set, go on; a vector unit grants the oldest entry of the first core in its order. The
model's own choices and readings in it: log entry 22. -/
def Obligations.ThreadEvents : Prop :=
  (∀ (s : State) (c x : Nat) (bits : Word) (before after : List Outst) (o : Outst) (ps qs : List Piece) (r : Reg) (v : Word)
    (p : Bool), (s.thread c x).outst = before ++ o :: after → o.pieces = ps ++ .reg r v p :: qs → o.ready = true →
    (∀ e ∈ before, ∀ w q, Piece.reg r w q ∉ e.pieces) →
    ((s.thread c x).st = .halted → o.kind = .bar ∨ o.kind = .bufacq →
      exec (.outstandingResultWrite c x before.length ps.length bits) s = .refused .notEnabled)
    ∧ (((s.thread c x).st = .halted → o.kind ≠ .bar ∧ o.kind ≠ .bufacq) →
    ∃ t, exec (.outstandingResultWrite c x before.length ps.length bits) s = .next t
      ∧ (r.toNat < 0x80 → (t.core c).reg ((s.thread c x).base + r.toNat) = ⟨v, true, false, p⟩)
      ∧ (0x80 ≤ r.toNat → (t.core c).cpend
          = enterWrite ⟨(s.core c).cycle + 4, r.toNat - 0x80, v, p, 2 * o.id + 1⟩ (s.core c).cpend)
      ∧ (ps ++ qs = [] → (t.thread c x).outst = before ++ after ∧ (t.thread c x).flags = (s.thread c x).flags ||| o.flags)
      ∧ (ps ++ qs ≠ [] → (t.thread c x).outst = before ++ { o with pieces := ps ++ qs } :: after
        ∧ (t.thread c x).flags = (s.thread c x).flags)
      ∧ s.sameMemory t))
  ∧ (∀ (s : State) (c x : Nat) (p : Park), (s.thread c x).st = .parked → (s.thread c x).park = some p →
    s.parkHolds c x p = true →
    ∃ t, exec (.parkConditionHolds c x) s = .next t ∧ (t.thread c x).st = .runnable ∧ (t.thread c x).park = none
      ∧ (t.thread c x).sampled = p.sample)
  ∧ (∀ (s : State) (c x : Nat), (s.thread c x).st = .idling → (s.thread c x).wake = true → (s.core c).ended = false →
    exec (.parkConditionHolds c x) s = .next (s.modThread c x (fun t => { t.advance with st := .runnable, wake := false })))
  ∧ ∀ (s : State) (chip unit n : Nat) (q : VqEntry) (rest : List VqEntry),
    (s.vecOrder chip unit).find? (fun m => !(s.core m).vq.isEmpty) = some n → (s.core n).vq = q :: rest →
    ∃ t, exec (.vectorGrant chip unit) s = .next t ∧ (t.core n).vq = rest
      ∧ Tab.getD (t.chip chip).vecPtr unit 0 = (n + 1) % 4
      ∧ ((∀ r ∈ s.reqs, r.out ≠ some q.out) → ∀ o ∈ (t.thread n q.ctx).outst, o.id = q.out → o.ready = true)

/-- R157, R160 to R164, R300: an arriving SEND fills its register, or waits for the mailbox, or is refused when its context
has no thread, with a copy for the twin of its sender; messages, refusals and notices take an entry of the mailbox that is
neither occupied nor reserved. The model's own choices and readings in it: log entries 86, 88. -/
def Obligations.MessageEvents : Prop :=
  (∀ (s : State) (c : Nat) (m : SendMsg) (rest : List Body), (s.core c).inbox = .send m :: rest → s.sendReaches c m →
    let x := (m.desc.extractLsb' 13 6).toNat
    let r := (m.desc.extractLsb' 19 7).toNat
    (m.desc.getLsbD 26 = false → r < (s.thread c x).size →
      ∃ t, exec (.sendArrival c) s = .next t ∧ (t.core c).inbox = rest
        ∧ (t.core c).reg ((s.thread c x).base + r) = ⟨m.val, true, false, false⟩ ∧ (t.thread c x).wake = true)
    ∧ (m.desc.getLsbD 26 = true → ∃ t, exec (.sendArrival c) s = .next t ∧ (t.core c).inbox = rest
      ∧ (t.core c).waitSend = (s.core c).waitSend ++
        [⟨1, m.desc.extractLsb' 13 6, BitVec.ofNat 13 m.core, BitVec.ofNat 6 m.ctx, m.desc.extractLsb' 31 16, m.val⟩]))
  ∧ (∀ (s : State) (c : Nat) (m : SendMsg) (rest : List Body), (s.core c).inbox = .send m :: rest →
    m.panel = none → (m.priv = false ∨ m.desc.extractLsb' 60 4 = 0) → m.core ≠ c →
    (s.thread c (m.desc.extractLsb' 13 6).toNat).st = .free →
    ∃ t e, exec (.sendArrival c) s = .next t ∧ (t.core c).inbox = rest ∧ e.kind = 3 ∧ e.tag = m.desc.extractLsb' 31 16
      ∧ (m.twin = none → (t.core m.core).waitRefuse = (s.core m.core).waitRefuse ++ [e])
      ∧ ∀ n y, m.twin = some (n, y) → n ≠ m.core → (t.core m.core).waitRefuse = (s.core m.core).waitRefuse ++ [e]
        ∧ (t.core n).waitRefuse = (s.core n).waitRefuse ++ [{ e with ctx := BitVec.ofNat 6 y }])
  ∧ (∀ (s : State) (c : Nat) (m : Mail) (rest : List Mail),
    (s.core c).mail.length + (s.core c).reserved < Config.mailboxEntries →
    ((s.core c).waitRefuse = m :: rest →
      ∃ t, exec (.refusalDelivery c) s = .next t ∧ s.received c m t ∧ (t.core c).waitRefuse = rest)
    ∧ ((s.core c).waitNotice = m :: rest →
      ∃ t, exec (.noticeDelivery c) s = .next t ∧ s.received c m t ∧ (t.core c).waitNotice = rest))
  ∧ ∀ (s : State) (c : Nat) (m : Mail) (rest : List Mail),
    (s.core c).mail.length + (s.core c).reserved < Config.mailboxEntries → (s.core c).waitSend = m :: rest →
    ∃ t, exec (.mailboxMessageArrival c) s = .next t ∧ s.received c m t ∧ (t.core c).waitSend = rest

/-- R168, R173, R174, R310, R314, R315: a word in flight enters its FIFO; the link of a sealed core delivers an error token
after it; a barge enters the barge queue of a core that has a barge context, is held where there is none, becomes the thread
of an EMPTY barge context, and ends from IDLE. The model's own choices and readings in it: log entry 40. -/
def Obligations.PortBargeEvents : Prop :=
  (∀ (s : State) (c : Nat) (port : InPort) (w : PortWord) (rest : List PortWord), (s.core c).inFlight port = w :: rest →
    (s.core c).sealed = false →
    ∃ t, exec (.portWordArrival c port) s = .next t ∧ (t.core c).fifo port = (s.core c).fifo port ++ [w]
      ∧ (t.core c).inFlight port = rest)
  ∧ (∀ (s : State) (c m : Nat) (port : InPort), s.inPartner c port = some m → (s.core m).sealed = true →
    (s.core c).inFlight port = [] → 0 < (s.core c).room port →
    ∃ t, exec (.errorToken c port) s = .next t ∧ (t.core c).fifo port = (s.core c).fifo port ++ [⟨0, true⟩])
  ∧ (∀ (s : State) (c : Nat) (g : Barge) (rest : List Barge), (s.core c).bargeWait = g :: rest →
    ((s.core c).bargeRoom = true →
      ∃ t, exec (.bargeArrival c) s = .next t ∧ (t.core c).bargeWait = rest ∧ (t.core c).bargeq = (s.core c).bargeq ++ [g])
    ∧ (∀ p i, s.partOfCore c = some p → (s.part p).freeHold = some i → (s.core c).inRepart = false →
      ((s.core c).hasBarge = false ∨ (s.core c).sealed = true) →
      ∃ t e, exec (.bargeHold c) s = .next t ∧ (t.core c).bargeWait = rest ∧ Tab.find (t.part p).holdBarges i = some g
        ∧ (t.part p).recs = (s.part p).recs ++ [e] ∧ e.code = 0x0D ∧ e.core = c))
  ∧ (∀ (s : State) (c x : Nat) (g : Barge) (rest : List Barge), (s.core c).bargeq = g :: rest →
    (s.thread c x).st = .empty → (s.thread c x).bargeCtx = true → (s.core c).sealed = false →
    ∃ t, exec (.bargeTake c x) s = .next t ∧ (t.core c).bargeq = rest
      ∧ (let u := t.thread c x
        u.st = .runnable ∧ u.barge = true ∧ u.pc = g.pc ∧ u.pred = g.pred ∧ u.rm = g.rm ∧ u.flags = g.flags ∧ u.vahi = g.vahi
        ∧ u.base = (s.thread c x).base ∧ u.size = (s.thread c x).size ∧ u.lpD = 0 ∧ u.rasd = 0)
      ∧ ∀ i v, g.regs[i]? = some v → (t.core c).reg ((s.thread c x).base + i) = ⟨v, true, false, false⟩)
  ∧ ∀ (s : State) (c x : Nat), (s.thread c x).st = .idling → (s.thread c x).barge = true → (s.thread c x).wake = false →
    (s.thread c x).outst = [] → s.unjoined c x = false →
    ∃ t, exec (.bargeEnd c x) s = .next t ∧ (t.thread c x).st = .empty ∧ (t.thread c x).bargeCtx = true
      ∧ ∀ r, r < (s.thread c x).size → (t.core c).reg ((s.thread c x).base + r) = RegEntry.clear

/-- R118, R142, R210, R233, R306, R341, R342: a lane of a load or store is performed at its endpoint, a bank's by the bank;
a failing one halts its thread after issue; acknowledgements return; a walk fills the TLBs; a line leaves an L1 and an old
home; and a request whose home moved is sent again. The model's own choices and readings in it: log entries 23, 24, 26, 71,
83, 89, 90. -/
def Obligations.AccessEvents : Prop :=
  (∀ (s : State) (id i : Nat) (fill : Bool) (victim : Option Nat) (r : Req) (l : Lane) (lf : Leaf) (pa : Nat),
    s.laneReady id i r l lf pa →
    (∀ u, paKind pa ≠ .basin → (entersL1 r.kind.isWrite fill lf pa = true → s.l1Room r.core (pa / 64) = true) →
      s.reach r.kind.isWrite lf pa victim = some u →
      exec (.memoryAccess id i fill victim) s = .next (u.doLane r i l lf pa fill))
    ∧ (paKind pa = .basin → (s.bankOf pa).waits = false → exec (.bankAccess id i) s = .next (s.doLane r i l lf pa false)))
  ∧ (∀ (s : State) (id : Nat) (fill sg : Bool) (d : Reg) (o : Nat) (r : Req) (l : Lane) (lf : Leaf) (pa : Nat),
    s.laneReady id 0 r l lf pa → r.lanes = [l] → paKind pa = .coreLocal → lf.c = false →
    (r.kind = .load d sg → r.out = some o → ∃ t, exec (.memoryAccess id 0 fill none) s = .next t ∧ s.sameMemory t
      ∧ t.findReq id = none
      ∧ t.answered r.core r.ctx o (loadValue l.size sg (s.physRead (s.slotTag lf.key) pa l.size % 2 ^ 64)))
    ∧ (r.kind = .store → ∃ t, exec (.memoryAccess id 0 fill none) s = .next t ∧ t.findReq id = none
      ∧ t.mem = (s.physWrite (s.slotTag lf.key) pa l.size l.data.toNat).mem
      ∧ (t.thread r.core r.ctx).unacked.length = (s.thread r.core r.ctx).unacked.length + 1))
  ∧ (∀ (s : State) (id i : Nat) (fill : Bool) (victim : Option Nat) (r : Req) (l : Lane) (f : FaultInfo),
    s.findReq id = some r → r.lanes[i]? = some l → r.kind.isAccess = true → l.done = false → s.goes r = true →
    s.firstFault r = some f → (s.thread r.core r.ctx).st = .runnable →
    ∃ t, exec (if f.code = 0x19 then .bankAccess id i else .memoryAccess id i fill victim) s = .next t
      ∧ (t.thread r.core r.ctx).st = .halted ∧ (t.thread r.core r.ctx).late = true ∧ (t.thread r.core r.ctx).ipc = r.ipc
      ∧ (t.thread r.core r.ctx).hcode = f.code ∧ s.sameMemory t)
  ∧ (∀ (s : State) (c x i : Nat), i < (s.thread c x).unacked.length → exec (.acknowledgement c x i) s
    = .next (s.modThread c x (fun t => { t with unacked := t.unacked.take i ++ t.unacked.drop (i + 1) })))
  ∧ (∀ (s : State) (c : Nat) (vahi : BitVec 8) (va : Word) (l : Leaf) (seen : List Nat),
    let r := (s.core c).root
    let a := virtual vahi va
    s.walk r.slot a 4 0 r.table [] = .ok (l, seen) → l.serves a = true →
    ∃ t e, exec (.pageWalk c vahi va) s = .next t ∧ (t.core c).tlb.getLast? = some e ∧ e.root = r ∧ e.leaf = l
      ∧ s.sameMemory t)
  ∧ (∀ (s : State) (c line : Nat), (∃ k ∈ lineSectors line, Tab.find (s.core c).l1 k ≠ none) →
    ∃ t, exec (.l1Eviction c line) s = .next t ∧ ∀ k ∈ lineSectors line, Tab.find (t.core c).l1 k = none)
  ∧ (∀ (s : State) (id i h : Nat) (r : Req) (l : Lane) (lf : Leaf) (pa : Nat), s.findReq id = some r →
    r.lanes[i]? = some l → r.homes[i]? = some (some h) → l.done = false → s.target r l = .ok (lf, pa) → s.homeOf lf pa ≠ h →
    s.rehomesBefore r pa = false →
    exec (.rehome ⟨id, i⟩) s = .next (s.modReq id (fun q => { q with homes := setAt q.homes i (some (s.homeOf lf pa)) })))
  ∧ ∀ (s : State) (line : Nat), s.movedSectors line ≠ [] →
    ∃ t, exec (.lineRelease line) s = .next t ∧ ∀ k ∈ s.movedSectors line, Tab.find t.l2 k = none

/-- R223 to R226, R245, R249: an atomic is one indivisible update at its endpoint and answers the old value; a line
operation acts on its line; a contribution joins its set, which merges when every member has closed it; an unbacked line
that is held, waited for or rehomed is resolved. The model's own choices and readings in it: log entries 23, 30, 31, 71, 72,
89. -/
def Obligations.AtomicLineEvents : Prop :=
  (∀ (s u : State) (id : Nat) (r : Req) (l : Lane) (lf : Leaf) (pa : Nat), s.oneReady id r l lf pa → r.kind.isAtomic = true →
    s.inWindow r l = false → s.reach r.kind.isWrite lf pa none = some u →
    let v := (u.notePerformed r 8 lf pa).update (u.slotTag lf.key) lf.pinned pa r.kind.update
    exec (.atomicPerform id) s = .next (v.1.finishLane r.id 0 v.2.1 v.2.2 (u.destChiplet r.core lf pa)))
  ∧ (∀ (s : State) (id o : Nat) (r : Req) (l : Lane) (lf : Leaf) (pa : Nat) (fn : BitVec 3) (d : Reg) (x : Word),
    s.oneReady id r l lf pa → r.kind = .amo fn d x → r.out = some o → paKind pa = .coreLocal → lf.c = false →
    let old := BitVec.ofNat 64 (s.physRead (s.slotTag lf.key) pa 8)
    ∃ t, exec (.atomicPerform id) s = .next t ∧ t.answered r.core r.ctx o old ∧ t.findReq id = none
      ∧ t.mem = (s.physWrite (s.slotTag lf.key) pa 8 (amoValue fn old x).toNat).mem)
  ∧ (∀ (s : State) (id : Nat) (r : Req) (l : Lane) (lf : Leaf) (pa : Nat) (fn : BitVec 2), s.oneReady id r l lf pa →
    r.kind = .lineop fn → (fn = 3 → entersL1 true false lf pa = true → s.l1Room r.core (pa / 64) = true) →
    let u := if fn.toNat < 2 then s else s.notePerformed r 64 lf (pa / 64 * 64)
    exec (.lineopPerform id) s = .next ((u.lineEffect r.core r.scope r.priv lf pa fn).finishLane r.id 0 0 false
      (u.destChiplet r.core lf pa)))
  ∧ (∀ (s : State) (id i : Nat) (r : Req) (l : Lane) (lf : Leaf) (pa : Nat) (fn : BitVec 3) (v : Word) (close : Bool)
    (k : SetKey) (e : ScopeEntry), s.single id = some (r, l) → s.firstFault r = none → s.target r l = .ok (lf, pa) →
    r.kind = .red fn v close (some k) → r.scope = .entry i e → (paKind pa = .basin → (s.bankOf pa).waits = false) →
    s.inOrder (fun q => !q.kind.joins) r 0 l lf pa = true → s.joined r.id = false →
    ∃ t q, exec (.redContribution id) s = .next t ∧ q ∈ t.redsets ∧ q.key = k
      ∧ (∃ c ∈ q.contribs, c.req = r.id ∧ c.val = v ∧ c.fn = fn ∧ c.pa = pa ∧ c.core = r.core)
      ∧ (close = true → r.core ∈ q.closed) ∧ s.sameMemory t)
  ∧ (∀ (s : State) (k : Nat) (order : List (Nat × Nat)) (q : RedSet), s.redsets[k]? = some q → (∀ m ∈ q.members, m ∈ q.closed) →
    (∀ x ∈ s.redsets, x.before q.key = false) →
    (∀ r ∈ s.reqs, r.onWayTo q.key = true → ∃ c ∈ q.contribs, c.req = r.id) →
    (∀ c ∈ q.contribs, s.contribReady q c = true ∧ s.contribRoom c = true) →
    exec (.reductionSetComplete k order) s
      = .next (({ s with redsets := s.redsets.take k ++ s.redsets.drop (k + 1) } : State).mergeSet q order))
  ∧ (∀ (s : State) (line : Nat) (u : UbLine), Tab.find s.ub line = some u → u.st = .held →
    (∀ p, s.freePlace u.home = some p →
      ∃ t, exec (.heldLineResolve line .taken) s = .next t ∧ Tab.find t.ub line = some { u with st := .resident, place := p })
    ∧ ∀ pa, (∀ x, s.lateSlot u.tag.slot line = some x → x.pa = pa) →
      (s.lateSlot u.tag.slot line = none → pa % 64 = 0 ∧ paKind pa = .hbm) →
      ∃ t, exec (.heldLineResolve line (.lateSlot pa)) s = .next t ∧ Tab.find t.ub line = some { u with st := .spilled pa })
  ∧ (∀ (s u : State) (id i v : Nat) (r : Req) (l : Lane) (lf : Leaf) (pa : Nat), s.laneReady id i r l lf pa →
    r.kind.isWrite = true → paKind pa = .unbacked → Tab.find s.ub (pa / 64) = none →
    (lf.c = false → s.l1Room r.core (pa / 64) = true) →
    s.chooseUb (s.homeOf lf pa) lf.key = some v → s.reach true lf pa (some v) = some u →
    exec (.unbackedAllocationResume id i) s = .next (u.doLane r i l lf pa false))
  ∧ ∀ (s : State) (line : Nat) (u : UbLine), Tab.find s.ub line = some u →
    let home := s.homeAt u.pin u.tag.slot (64 * line)
    home ≠ u.home →
    (∀ p, u.st = .resident → s.freePlace home = some p →
      ∃ t, exec (.unbackedLineMove line) s = .next t ∧ Tab.find t.ub line = some { u with home := home, place := p }
        ∧ s.sameMemory t)
    ∧ (u.st = .held → s.holdRoom home = true →
      ∃ t, exec (.unbackedLineMove line) s = .next t ∧ Tab.find t.ub line = some { u with home := home } ∧ s.sameMemory t)

/-- R194 to R196, R208, R209, R212, R221, R237, R241: a lock-keeper stores a scope entry with the next generation or rejects it,
cores install it, and the SCOPEW is answered when all have; a RESERVE is answered; a barrier counts its arrivals and answers
when the last is in; and a bank controller answers a switch when its last bank has switched. The model's own choices and
readings in it: log entry 27. -/
def Obligations.SyncEvents : Prop :=
  (∀ (s : State) (p : Nat) (table : Word) (vahi : BitVec 8) (root : Root) (sc : BitVec 4) (ws : List Word)
    (core ctx out : Nat) (ipc a : Word) (rest : List Body),
    (s.part p).scopeq = .scopew table vahi root sc ws core ctx out ipc a :: rest → (s.part p).scopeWork = none →
    let u := s.modPart p (fun q => { q with scopeq := rest })
    (u.imageOk p (u.jobView p root vahi) table ws = true →
      ∃ t w, exec (.scopewHandle p) s = .next t ∧ (t.part p).scopeWork = some w ∧ w.core = core ∧ w.ctx = ctx ∧ w.out = out
        ∧ w.left = u.tableCores root vahi table)
    ∧ (u.imageOk p (u.jobView p root vahi) table ws = false → (s.thread core ctx).st = .runnable →
      (∃ o ∈ (s.thread core ctx).outst, o.id = out) →
      ∃ t, exec (.scopewHandle p) s = .next t ∧ (t.thread core ctx).st = .halted ∧ (t.thread core ctx).hcode = 0x13
        ∧ s.sameMemory t))
  ∧ (∀ (s : State) (c i : Nat) (e : ScopeEntry) (rest : List (Nat × ScopeEntry)), (s.core c).installs = (i, e) :: rest →
    exec (.scopeInstall c) s = .next (s.modCore c (fun k => { k with installs := rest, scopes := Tab.set k.scopes i e })))
  ∧ (∀ (s : State) (p : Nat) (w : ScopeWork), (s.part p).scopeWork = some w → (∀ n ∈ w.left, (s.core n).installs = []) →
    ∃ t, exec (.scopewAnswer p) s = .next t ∧ (t.part p).scopeWork = none
      ∧ ∀ o ∈ (t.thread w.core w.ctx).outst, o.id ≠ w.out)
  ∧ (∀ (s : State) (p core ctx out : Nat) (a : Word) (rest : List Body), (s.part p).resq = .reserve core ctx out a :: rest →
    ∃ t st n, exec (.reserveRequest p) s = .next t ∧ (t.part p).resq = rest ∧ t.answered core ctx out (twoHalves st n)
      ∧ (s.regionOf core = none → st = 1 ∧ n = 0) ∧ (st = 0 → n = a.toNat) ∧ s.sameMemory t)
  ∧ (∀ (s : State) (c : Nat) (m : BarMsg), s.nextArrival c = some m → (s.core c).sealed = false →
    ∀ u, Tab.find (s.core c).units (barUnit m.a1) = some u → u.complete = false →
    (u.matches_ m = true → u.arrived + 1 < u.members →
      ∃ t v, exec (.barrierArrival c) s = .next t ∧ Tab.find (t.core c).units (barUnit m.a1) = some v
        ∧ v.arrived = u.arrived + 1 ∧ v.complete = false ∧ s.sameMemory t)
    ∧ (u.matches_ m = true → u.arrived + 1 = u.members →
      ∃ t v, exec (.barrierArrival c) s = .next t ∧ Tab.find (t.core c).units (barUnit m.a1) = some v
        ∧ v.arrived = 0 ∧ v.episode = (u.episode + 1) % 2 ^ 32 ∧ v.complete = true)
    ∧ (u.matches_ m = false → (s.thread m.core m.ctx).st = .runnable → (∃ o ∈ (s.thread m.core m.ctx).outst, o.id = m.out) →
      ∃ t, exec (.barrierArrival c) s = .next t ∧ Tab.find (t.core c).units (barUnit m.a1) = some u
        ∧ (t.thread m.core m.ctx).st = .halted ∧ (t.thread m.core m.ctx).hcode = 0x11))
  ∧ (∀ (s : State) (c unit : Nat) (u : BarUnit), Tab.find (s.core c).units unit = some u → u.complete = true →
    ∃ t, exec (.barrierResult c unit) s = .next t ∧ Tab.find (t.core c).units unit = some { u with complete := false }
      ∧ s.sameMemory t)
  ∧ (∀ (s : State) (chip : Nat) (q : BankReq) (rest : List BankReq), (s.chip chip).breqs = q :: rest → q.moving = none →
    s.bankAccessBefore chip q = false →
    (s.bankStatus chip q ≠ 0 → ∃ t, exec (.bankmodeRequest chip) s = .next t ∧ (t.chip chip).breqs = rest
      ∧ t.answered q.core q.ctx q.out (twoHalves (s.bankStatus chip q) 0) ∧ ∀ b, (t.chip chip).bank b = (s.chip chip).bank b)
    ∧ (s.bankStatus chip q = 0 → ∀ b, b < 32 → q.mask.getLsbD b = true → ((s.chip chip).bank b).mode ≠ q.mode →
      ∃ t, exec (.bankmodeRequest chip) s = .next t ∧ ((t.chip chip).bank b).moveTo = some q.mode
        ∧ ((t.chip chip).bank b).mode = ((s.chip chip).bank b).mode))
  ∧ (∀ (s : State) (chip bank : Nat) (q : BankReq) (rest : List BankReq) (mask : BitVec 32) (left : List Nat) (m : BankMode),
    (s.chip chip).breqs = q :: rest → q.moving = some (mask, left) → bank ∈ left → ((s.chip chip).bank bank).moveTo = some m →
    (s.vacateBank chip bank).isSome = true →
    ∃ t, exec (.bankSwitchComplete chip bank) s = .next t ∧ ((t.chip chip).bank bank).mode = m
      ∧ ((t.chip chip).bank bank).moveTo = none
      ∧ (∀ a, basinPa chip bank 0 ≤ a → a < basinPa chip bank 0 + 0x80000 → readByte t.mem a = 0)
      ∧ ((∀ b ∈ left, b = bank) → (t.chip chip).breqs = rest ∧ t.answered q.core q.ctx q.out (mask.setWidth 64)))
  ∧ ∀ (s : State) (chip bank : Nat), bank < 32 →
    ∃ t, exec (.bankFailure chip bank) s = .next t ∧ t = { s with chips := t.chips }
      ∧ ((t.chip chip).bank bank) = { (s.chip chip).bank bank with failed := true }

/-- R268 to R277: the logic of a queue's line pushes at TAIL, pops the oldest queued tile and steals the newest, and
answers; a bank controller makes and removes buffers, grants the slot at FILL or TAKE, releases slots, and counts what a
copy has written. The model's own choices and readings in it: log entries 28, 67, 76, 77. -/
def Obligations.QueueBufferEvents : Prop :=
  (∀ (s : State) (id out : Nat) (r : Req) (q : Queue) (d : Reg), s.tryQueue id = .ok r q → r.out = some out →
    let size := (q.tail + 2 ^ 32 - q.head) % 2 ^ 32
    (∀ b res, r.kind = .qpush d b res → size = 2 ^ q.log2 →
      exec (.qpushCommand id) s = .next ((s.settleQueue q).answerQueue r d [2]))
    ∧ (∀ b res, r.kind = .qpush d b res → size ≠ 2 ^ q.log2 →
      ∃ t, exec (.qpushCommand id) s = .next t ∧ ∀ o ∈ (t.thread r.core r.ctx).outst, o.id = out →
        o.ready = true ∧ o.pieces = [.reg (d + 0) (twoHalves q.tail 0) false])
    ∧ (r.kind = .qpop d → q.live.find? (fun n => s.recState q n == 1) = none →
      exec (.qpopCommand id) s = .next ((s.settleQueue q).answerQueue r d [1, 0, 0]))
    ∧ (∀ n, r.kind = .qpop d → q.live.find? (fun n => s.recState q n == 1) = some n →
      exec (.qpopCommand id) s = .next (((s.setRec q n 2 (some r.core)).settleQueue q).answerQueue r d
        [twoHalves n 0, s.hbmRead q.tag (q.record n), s.hbmRead q.tag (q.record n + 8)]))
    ∧ (∀ b, r.kind = .qsteal d b →
      let newest := q.live.reverse.find? (fun n => s.recState q n == 1)
      let steals := fun (v : State) =>
        (newest = none → exec (.qstealCommand id) s = .next ((v.settleQueue q).answerQueue r d [1, 0, 0]))
        ∧ ∀ n, newest = some n → exec (.qstealCommand id) s = .next (((v.setRec q n 3 (some r.core)).settleQueue q).answerQueue r d
          [twoHalves n 0, v.hbmRead q.tag (q.record n), v.hbmRead q.tag (q.record n + 8)])
      (q.barva = 0 → steals s)
      ∧ (q.barva ≠ 0 → b ≠ q.barva →
        exec (.qstealCommand id) s = .next (s.lateFault r (State.queueFault r 0x1F)))
      ∧ ∀ u w, q.barva ≠ 0 → b = q.barva → s.loadD ⟨r.core, r.root, r.vahi, r.priv⟩ (b + 16) = .ok (u, w) →
        (w.getLsbD q.owner = true → steals u)
        ∧ (w.getLsbD q.owner = false → exec (.qstealCommand id) s = .next ((u.settleQueue q).answerQueue r d [3, 0, 0]))))
  ∧ (∀ (s : State) (id chip bank off : Nat) (r : Req) (b : Word), s.tryBuf id = .ok r chip bank off → r.kind = .bufinit b →
    s.bufinitBad chip bank off b = false → (b.extractLsb' 16 9).toNat ≠ 0 →
    ∃ t x, exec (.bufinitRequest id) s = .next t ∧ t.findReq id = none ∧ x ∈ ((t.chip chip).bank bank).bufs ∧ x.base = off
      ∧ x.size = (b.extractLsb' 0 12).toNat ∧ x.count = (b.extractLsb' 16 9).toNat ∧ x.pk = b.getLsbD 33 ∧ x.fill = 0
      ∧ x.take = 0 ∧ x.bytes = 0 ∧ (∀ y ∈ x.slots, y.st = .free) ∧ s.sameMemory t)
  ∧ (∀ (s : State) (id chip bank off : Nat) (r : Req) (b : Word), s.tryBuf id = .ok r chip bank off → r.kind = .bufinit b →
    s.bufinitBad chip bank off b = false → (b.extractLsb' 16 9).toNat = 0 →
    ∃ t, exec (.bufinitRequest id) s = .next t ∧ t.findReq id = none ∧ (∀ x ∈ ((t.chip chip).bank bank).bufs, x.base ≠ off)
      ∧ s.sameMemory t)
  ∧ (∀ (s : State) (id chip bank off : Nat) (r : Req) (d : Reg) (produce : Bool) (x : CBuf),
    s.tryBuf id = .ok r chip bank off → r.kind = .bufacq d produce → ((s.chip chip).bank bank).buf off = some x →
    r.id ∉ x.waitC → r.id ∉ x.waitP → (produce = true → x.pk = true) →
    exec (.bufacqRequest id) s = .next (s.modBank chip bank (fun k => k.setBuf
      (if produce then { x with waitP := x.waitP ++ [r.id] } else { x with waitC := x.waitC ++ [r.id] }))))
  ∧ (∀ (s : State) (chip bank base id out : Nat) (b : CBuf) (r : Req) (d : Reg) (rest : List Nat),
    ((s.chip chip).bank bank).buf base = some b → s.findReq id = some r → r.kind = .bufacq d false → r.out = some out →
    b.waitC = id :: rest → (b.slot b.take).st = .full →
    ∃ t y, exec (.bufacqGrant chip bank base false) s = .next t ∧ t.findReq id = none ∧ y ∈ ((t.chip chip).bank bank).bufs
      ∧ y.base = base ∧ y.take = (b.take + 1) % b.count ∧ y.waitC = rest ∧ s.sameMemory t)
  ∧ (∀ (s : State) (chip bank base id out : Nat) (b : CBuf) (r : Req) (d : Reg) (rest : List Nat),
    ((s.chip chip).bank bank).buf base = some b → s.findReq id = some r → r.kind = .bufacq d true → r.out = some out →
    b.waitP = id :: rest → (b.slot b.fill).st = .free →
    ∃ t y, exec (.bufacqGrant chip bank base true) s = .next t ∧ t.findReq id = none ∧ y ∈ ((t.chip chip).bank bank).bufs
      ∧ y.base = base ∧ y.fill = (b.fill + 1) % b.count ∧ y.waitP = rest ∧ s.sameMemory t)
  ∧ (∀ (s : State) (id chip bank off : Nat) (r : Req) (a : Word) (produce : Bool) (b b' : CBuf),
    s.tryBuf id = .ok r chip bank off → r.kind = .bufrel produce a → ((s.chip chip).bank bank).buf off = some b →
    b.release produce (slotNumber (r.lanes.headD (Lane.start 0 0 8 0)).va a b.slotBytes) = some b' →
    exec (.bufrelRequest id) s = .next ((s.removeReq r).modBank chip bank (fun k => k.setBuf b')))
  ∧ ∀ (s : State) (o pa : Nat) (q : EngineOp) (src dst : Pattern) (index ctl : Word) (pf : Bool) (extent : Nat) (lf : Leaf)
    (b : CBuf), s.op o = some q → q.kind = .copy src dst index ctl pf extent → s.destBuf q dst.base = .ok (some (lf, pa, b)) →
    ctl.getLsbD 25 = true → 16 - b.bytes % 16 ≤ q.written →
    ∃ t x, exec (.bufferSectorCounted o) s = .next t ∧ t.op o = some x ∧ x.written = q.written - (16 - b.bytes % 16)
      ∧ s.sameMemory t

/-- R253 to R267: an element of a copy is read and written, or its operation is suspended; an operation that is done sends
its completion to the mailbox of its target, whose wake bit is set; streams are filled and drained in order. The model's own
choices and readings in it: log entries 29, 39, 76, 86. -/
def Obligations.CopyStreamEvents : Prop :=
  (∀ (s w : State) (o l : Nat) (q : EngineOp) (src dst : Pattern) (index ctl : Word) (pf : Bool) (extent : Nat),
    s.op o = some q → q.runs = true → q.mute = false → s.copyPaused q = false → l < q.total →
    q.isDone l = false → q.kind = .copy src dst index ctl pf extent → ctl.getLsbD 25 = false → ctl.getLsbD 24 = false →
    s.ordWaits q src dst false l = false →
    let size := if (ctl.extractLsb' 20 3).toNat = 5 then 64 else 2 ^ (ctl.extractLsb' 20 3).toNat
    let run := copySectors q.view (some (src.elem l)) (dst.elem l) size false
      (elemParts size (if l = q.next then q.sect else 0)) s
    (src.elem l).toNat % size = 0 → (dst.elem l).toNat % size = 0 →
    (run = (w, none) → exec (.copyElement o l) s = .next (w.modOp q.id (fun k => k.mark l false)))
    ∧ (∀ e, run = (w, some e) → l = q.next → e.code ≠ 0 → exec (.copyElement o l) s = .next (w.suspend q l e)))
  ∧ (∀ (s : State) (o : Nat) (q : EngineOp) (src dst : Pattern) (index ctl : Word) (pf : Bool) (extent : Nat),
    s.op o = some q → q.kind = .copy src dst index ctl pf extent → q.mute = false → q.pairNo = none → q.fault = none →
    s.paused q = false → q.ended = none → q.refused = false → q.next = q.total → q.written = 0 → q.twin = none →
    q.target < 64 → q.total < 2 ^ 32 → q.oor < 2 ^ 24 → (s.core q.core).retiring = false →
    s.refusedEmpty q dst.base ctl = false →
    ∃ t m, exec (.copyCompletion o) s = .next t ∧ t.op q.id = none ∧ m ∈ (t.core q.core).mail ∧ m.kind = 2
      ∧ m.ctx.toNat = q.target ∧ m.tag = q.tag ∧ m.payload = twoHalves q.oor q.total
      ∧ (t.thread q.core q.target).wake = true)
  ∧ (∀ (s u : State) (c n : Nat) (b : InBind) (vs : List (Nat × Nat × Bool)), (s.core c).binding n = .input b → b.fault = none →
    b.ended = false → b.next < b.total → b.buf.length < 256 / esBytes b.es →
    let a := b.pat.elem b.next
    let run := readElem (b.view c) (some a) (esBytes b.es) false (elemParts (esBytes b.es) b.sect) s
    let x := joinSectors b.part vs
    a.toNat % esBytes b.es = 0 →
    (run = (u, vs, none) → exec (.streamFill c n) s
      = .next (u.setBind c n (.input { b with next := b.next + 1, buf := b.buf ++ [x], part := (0, false), sect := 0 })))
    ∧ ∀ e, run = (u, vs, some e) → e.code ≠ 0 →
      exec (.streamFill c n) s = .next (u.suspendIn c n { b with part := x, sect := e.sect } e))
  ∧ (∀ (s u : State) (c n sn es x : Nat) (p : Bool) (pat : Pattern) (o : EngineOp) (rest : List (Word × Bool)) (v : Word),
    s.op n = some o → o.kind = .outStream sn pat es → o.buf = (v, p) :: rest → o.core = c → o.runs = true → s.paused o = false →
    o.mute = false → (pat.elem o.next).toNat % esBytes es = 0 → x = v.toNat →
    s.engWrite o.view (pat.elem o.next) (esBytes es) 0 x p = .ok u →
    exec (.streamDrain c n) s = .next (u.modOp n (fun o => { o with buf := rest, next := o.next + 1, sect := 0 })))
  ∧ ∀ (s : State) (o sn es : Nat) (q : EngineOp) (pat : Pattern), s.op o = some q → q.kind = .outStream sn pat es →
    q.closed = true → s.paused q = false → (s.core q.core).retiring = false → q.fault = none → q.pairNo = none → q.ended = none → q.buf = [] → q.target < 64 →
    q.next < 2 ^ 32 →
    ∃ t m, exec (.outputBindingCompletion o) s = .next t ∧ t.op q.id = none ∧ m ∈ (t.core q.core).mail ∧ m.kind = 2
      ∧ m.ctx.toNat = q.target ∧ m.tag = q.tag ∧ m.payload = twoHalves 0 q.next ∧ (t.thread q.core q.target).wake = true

/-- R280 to R293: claimed rows enter the row buffer in order; the matrix unit grants the first ready core at its pointer; a step
of the granted core's head loads a strip, forms a tile from the rows, the strip and the accumulator, or answers with
elements of an accumulator, and the queue moves on; an idle unit is released column by column. The model's own choices and
readings in it: log entries 16, 20, 21, 66. -/
def Obligations.MatrixEvents : Prop :=
  (∀ (s : State) (c sn v : Nat) (p : Bool) (b : InBind) (rest : List (Nat × Bool)), (s.core c).rowsWanted = some sn →
    (s.core c).binding sn = .input b → 0 < b.claimed → b.ended = false → b.buf = (v, p) :: rest → (s.core c).sealed = false →
    ∃ t, exec (.rowPop c) s = .next t ∧ (t.core c).rowbuf = (s.core c).rowbuf ++ [(v, p)] ∧ s.sameMemory t)
  ∧ (∀ (s : State) (chip lc : Nat), (s.chip chip).mxIdle = false → s.grantHolds chip = false →
    ((List.range 8).map (fun i => ((s.chip chip).pointer + i) % 8)).find? (s.mxReadyAt chip) = some lc →
    ∃ t, exec (.matrixGrant chip) s = .next t ∧ (t.chip chip).mxGrant = some (lc, 0))
  ∧ (∀ (s : State) (chip n : Nat) (q : MxEntry) (rest : List MxEntry), s.stepHead chip = some (n, q) →
    (s.core n).mxq = q :: rest → n / 8 = chip →
    (∀ d a0 a1 a2 w, q.kind = .mloadb d a0 a1 a2 w → ∃ t, exec (.mloadbStep chip) s = .next t ∧ (t.core n).mxq = rest
      ∧ Tab.find (t.core n).btab (a1.extractLsb' 0 8).toNat = some ((a1.extractLsb' 8 12).toNat, mloadType a1)
      ∧ (a1.getLsbD 25 = false → (t.strip n (a1.extractLsb' 8 12).toNat).data = joinWords (q.loaded.take 1024)
        ∧ (t.strip n (a1.extractLsb' 8 12).toNat).tag = some (s.jobTag n)))
    ∧ (∀ acc z sn ty e need, q.kind = .mma acc z sn ty e need → ∃ t, exec (.mmaStep chip) s = .next t ∧ (t.core n).mxq = rest
      ∧ (t.core n).acc acc = s.tileAfter n acc z ty e ((s.core n).rowbuf.take need) 0 8 false
      ∧ (t.core n).rowbuf = (s.core n).rowbuf.drop need)
    ∧ (∀ acc z sn ty e need skip run emp, q.kind = .mmas acc z sn ty e need skip run emp →
      ∃ t, exec (.mmasStep chip) s = .next t ∧ (t.core n).mxq = rest
        ∧ (t.core n).acc acc = s.tileAfter n acc z ty e ((s.core n).rowbuf.take need) skip run emp
        ∧ (t.core n).rowbuf = (s.core n).rowbuf.drop need)
    ∧ (∀ vd acc ty row col p out, q.kind = .mread vd acc ty row col p → q.out = some out →
      ∃ t, exec (.mreadStep chip) s = .next t ∧ (t.core n).mxq = rest
        ∧ ∀ o ∈ (t.thread n q.ctx).outst, o.id = out → o.ready = true
          ∧ o.flags = ((mreadLanes ((s.core n).acc acc) ty row col).foldl (fun f l => f ||| l.2.2) ((s.core n).acc acc).flags)))
  ∧ (∀ (s : State) (chip : Nat), (s.chip chip).mxIdle = false → s.mxAny chip = false →
    ∃ t, exec (.matrixIdle chip) s = .next t ∧ (t.chip chip).mxIdle = true ∧ (t.chip chip).mxReleased = 0
      ∧ (t.chip chip).mxGrant = none)
  ∧ ∀ (s : State) (chip u : Nat), (s.chip chip).mxIdle = true → u < 8 → s.mxAny chip = true →
    (∀ i, i < u → (s.chip chip).mxReleased.getLsbD i = true) → (s.chip chip).mxReleased.getLsbD u = false →
    ∃ t, exec (.columnUnitRelease chip u) s = .next t ∧ (t.chip chip).mxReleased.getLsbD u = true
      ∧ (u = 7 → (t.chip chip).mxIdle = false)

/-- R181, R183 to R191, R249, R263: the lock-keeper acts on a notify and on TRIGGERs and selects again; what waits ages; the
first region is placed on its cores; a core's part ends; a region whose cores have ended completes; and a packet with its
code is completed. The model's own choices and readings in it: log entries 42, 43, 44, 45, 46, 47, 87. -/
def Obligations.RegionEvents : Prop :=
  (∀ (s : State) (f : Nat) (q : BitVec 8),
    (s.queueOf f q.toNat = none → f ≤ 64 → exec (.notify f q) s = .next s)
    ∧ ∀ p k, s.queueOf f q.toNat = some (p, k) → exec (.notify f q) s = .next ((s.readDesc p k true).select p))
  ∧ (∀ (s : State) (p core x : Nat) (a : Word) (vahi : BitVec 8) (root : Root) (rest : List Body),
    let u := s.modPart p (fun v => { v with trigq := rest })
    let v := u.blockView p root vahi
    let l := (u.part p).launches.find? (fun l => l.is root vahi a)
    (s.trigger p 0 a vahi core x root rest →
      (∀ k, l = some k → k.ready = true → exec (.triggerDec p) s = .next ((u.lkMessage p core x 1 a).select p))
      ∧ (∀ k w y z, l = some k → k.ready = false → u.loadD v (a + 0x70) = .ok (w, y) →
        w.storeD v (a + 0x70) (BitVec.ofNat 64 (y.toNat % 2 ^ 32 - 1)) = .ok z →
        exec (.triggerDec p) s = .next ((if y.toNat % 2 ^ 32 ≤ 1 then z.readyLaunch p root vahi a else z).select p))
      ∧ (∀ n, l = none → u.blockState v a = some n → 2 ≤ n →
        exec (.triggerDec p) s = .next ((u.lkMessage p core x 1 a).select p))
      ∧ (∀ n, l = none → u.blockState v a = none → Tab.find (u.part p).heldCounts (heldKey root.slot vahi a) = some n →
        exec (.triggerDec p) s = .next ((u.modPart p (fun q =>
          { q with heldCounts := Tab.set q.heldCounts (heldKey root.slot vahi a) (n + 1) })).select p)))
    ∧ (s.trigger p 1 a vahi core x root rest → ∀ w ws, State.loadDs v 16 a u = .ok (w, ws) →
      ((wordAt 13 ws).toNat % 16 ≠ 0 → exec (.triggerArm p) s = .next ((w.lkMessage p core x 2 a).select p))
      ∧ (∀ y, (wordAt 13 ws).toNat % 16 = 0 → (w.resolve p root vahi a = none ∧ y = w
          ∨ ∃ r, w.resolve p root vahi a = some (y, r) ∧ y.runsBlock root vahi (wordAt 0 ws) = false) →
        (∀ z, State.storeDs (y.blockView p root vahi) [8] (a + 0x68) y = .ok z →
          exec (.triggerArm p) s = .next ((z.lkMessage p core x 4 a).select p))
        ∧ ∀ e, State.storeDs (y.blockView p root vahi) [8] (a + 0x68) y = .error e →
          exec (.triggerArm p) s = .next ((y.lkMessage p core x 5 a).select p))
      ∧ (∀ y r, (wordAt 13 ws).toNat % 16 = 0 → w.resolve p root vahi a = some (y, r) →
        y.runsBlock root vahi (wordAt 0 ws) = true →
        exec (.triggerArm p) s = .next ((y.armBlock p a vahi core x root r.deps).select p)))
    ∧ (s.trigger p 2 a vahi core x root rest →
      (∀ q, (u.part p).queues.find? (fun q => q.desc == a && q.vahi == vahi && q.slot == root.slot) = some q →
        exec (.triggerNotify p) s = .next (((u.readDesc p q true).select p).select p))
      ∧ ((u.part p).queues.find? (fun q => q.desc == a && q.vahi == vahi && q.slot == root.slot) = none →
        exec (.triggerNotify p) s = .next ((u.lkMessage p core x 6 a).select p))))
  ∧ (∀ (s : State) (p k t w : Nat), (s.waitTimes p)[k]? = some (t, w) →
    (∀ y ∈ s.waitTimes p, y.1 < t → w + (s.part p).age ≤ y.2) →
    ∃ u, exec (.priorityAging p k) s = .next u
      ∧ u.regions = s.regions.map (fun e =>
          (e.1, if e.2.waits p && e.2.since == t then { e.2 with waited := e.2.waited + (s.part p).age } else e.2))
      ∧ (u.part p).launches = (s.part p).launches.map (fun l =>
          if l.ready && l.since == t then { l with waited := l.waited + (s.part p).age } else l)
      ∧ (u.part p).queues = (s.part p).queues.map (fun q =>
          if q.since = some t then { q with waited := q.waited + (s.part p).age } else q)
      ∧ s.sameMemory u ∧ u.cores = s.cores)
  ∧ (∀ (s : State) (p g : Nat) (r : Region) (cs ds : List Nat), (s.part p).first = some g → Tab.find s.regions g = some r →
    r.st = .waiting → s.fitsBudget r Fields.cores coreClaim r.coreClaim = true →
    placeRegion r.f (s.coreFree p) = some (cs, ds) →
    exec (.regionPlace p) s = .next (((s.placeOn g r cs ds).modPart p (fun v => { v with first := none })).select p))
  ∧ (∀ (c : Core) (g : Nat) (r : Region) (cs : List Nat) (t : Nat) (twin : Bool) (tag : Tag) (scopes : Tab ScopeEntry),
    let k := c.setUp g r cs t twin tag scopes
    (k.ctx 0).pc = r.f.entry ∧ (k.ctx 0).base = 0 ∧ (k.ctx 0).size = windowOf r.f.nctx ∧ (k.ctx 0).rbase = 8064
      ∧ (k.ctx 0).rlim = 8192 ∧ (k.ctx 0).priv = false ∧ k.n = r.f.nctx ∧ k.region = g + 1 ∧ k.task = t
      ∧ (k.reg 0).val = BitVec.ofNat 64 t ∧ (k.reg 1).val = r.block
      ∧ (k.reg 2).val = (if r.argovr = 0 then r.f.arg else r.argovr)
      ∧ (k.reg 3).val = BitVec.ofNat 64 (t % r.f.gx + 2 ^ 16 * (t / r.f.gx))
      ∧ (k.reg 4).val = BitVec.ofNat 64 (r.f.gx + 2 ^ 16 * r.f.gy))
  ∧ (∀ (s : State) (c : Nat), (s.core c).region ≠ 0 → (s.core c).ended = false → (s.thread c 0).st = .idling →
    (s.thread c 0).wake = false → (s.core c).sealed = false → (s.core c).stopped = false →
    (∀ e ∈ (s.core c).ctxs, e.1 = 0 ∨ e.2.st = .free) → s.storesPending c = false →
    ∃ t, exec (.corePartEnd c) s = .next t ∧ t = s.endPart c ∧ (t.core c).ended = true ∧ (t.core c).units = [])
  ∧ (∀ (s : State) (g : Nat) (order : List (Nat × Nat)) (r : Region), Tab.find s.regions g = some r → r.st = .running →
    (∀ n ∈ r.allCores, (s.core n).ended = true) → (∀ o ∈ s.ops, o.region ≠ g + 1) →
    let killed := r.allCores.any (fun n => (s.thread n 0).st == .killed)
    let u := mergeSets (s.redsets.filter (fun q => q.region == g + 1)) order
      { s with redsets := s.redsets.filter (fun q => q.region != g + 1) }
    exec (.regionComplete ⟨g, order⟩) s = .next (((((u.showRegion r (if killed then .killed else .complete)).releaseRegion g r).reportRegion r
      (if killed then 3 else 0) 0)).select r.part))
  ∧ ∀ (s : State) (p : Nat) (k : Packet), (s.part p).packets.find? (fun k => k.code.isSome) = some k →
    exec (.packetCompletion p) s = .next ((s.completePacket p k).select p)

/-- R180, R185: after packet q completes, LOW is the lowest packet not completed and DONE bit i is the state of packet
LOW + 1 + i. -/
def Obligations.CompletionWindow : Prop :=
  (∀ q l d : BitVec 32, q ≠ l → (q - l).toNat ≤ 32 →
    (markDone q l d).1 = l ∧ ∀ i, i < 32 → (markDone q l d).2.getLsbD i = (d.getLsbD i || decide (l + 1 + BitVec.ofNat 32 i = q)))
  ∧ ∀ l d : BitVec 32, ∃ k : Nat, k ≤ 32 ∧ (markDone l l d).1 = l + BitVec.ofNat 32 (k + 1) ∧ (∀ i, i < k → d.getLsbD i = true)
    ∧ d.getLsbD k = false ∧ ∀ i, (markDone l l d).2.getLsbD i = d.getLsbD (k + 1 + i)

/-- R229, R300, R302, R304, R307, R310, R322, R324, R326: a record whose source has none before it enters the ring while
there is room; an image is written when its thread is quiet; the lock-keeper's commands resume, end, stop, wake and copy a
thread, resume or end an engine's operation, unseal a core, and deliver a held barge, or are refused; a region is saved and
resumed; unresolved faults end it; a job is killed; and a key slot is swept. The model's own choices and readings in it: log
entries 5, 33, 34, 35, 36, 37, 38, 78, 79, 80. -/
def Obligations.SaveCommandEvents : Prop :=
  (∀ (s : State) (p k : Nat) (r : FaultRec), (s.part p).recs[k]? = some r →
    (∀ q ∈ (s.part p).recs.take k, q.source ≠ r.source) → (s.ringWrites p - s.ringReads p).toNat ≠ Config.ringRecords →
    ∃ t, exec (.faultRecord p k) s = .next t ∧ (t.part p).recs = removeAt (s.part p).recs k
      ∧ ∃ m, (t.core (s.part p).lk).waitNotice = (s.core (s.part p).lk).waitNotice ++ [m] ∧ m.kind = 4 ∧ m.tag = 0xFFFF)
  ∧ (∀ (s : State) (c x : Nat), (s.thread c x).st = .halted → (s.thread c x).imageDue = true → s.imageReady c x = true →
    ∃ t, exec (.imageWrite c x) s = .next t ∧ (t.thread c x).imageDue = false ∧ (t.thread c x).stopTo = none)
  ∧ (∀ (s u : State) (c : Nat) (q : Cmd), s.commanded u c q →
    let x := sendCtx q.desc
    (sendCmd q.desc = 1 → (u.thread c x).st = .halted → q.imageAt = 0 → u.heldOf c x = [] →
      (∀ p, (u.thread c x).park = some p → p.afterIssue = false) →
      (q.b.extractLsb' 0 2 = 0 → ∃ t, exec (.resumeReissue c) s = .next t ∧ (t.thread c x).st = .runnable
        ∧ (t.thread c x).hcode = 0 ∧ (t.thread c x).pc = (u.thread c x).pc ∧ s.sameMemory t)
      ∧ (q.b.extractLsb' 0 2 = 1 → (u.thread c x).late = false → (u.thread c x).repA = false →
        (let w := u.modThread c x (fun t => { t with reissue := [] }); w.extWords c (w.thread c x) (w.thread c x).pc 2 = 0) →
        (u.thread c x).lpD = 0 →
        ∃ t, exec (.resumeSkip c) s = .next t ∧ (t.thread c x).st = .runnable ∧ (t.thread c x).pc = (u.thread c x).pc + 4
          ∧ s.sameMemory t)
      ∧ (q.b.extractLsb' 0 2 = 2 → ∃ t, exec (.resumeImagePc c) s = .next t ∧ (t.thread c x).st = .runnable
          ∧ (t.thread c x).pc = u.imagePc c x [] ∧ s.sameMemory t))
    ∧ (sendCmd q.desc = 2 → (u.thread c x).st.killable = true → x ≠ 0 → (u.thread c x).bargeCtx = false →
      ∃ t, exec (.kill c) s = .next t ∧ (t.thread c x).st = .killed ∧ s.sameMemory t)
    ∧ (sendCmd q.desc = 3 → ((u.thread c x).st = .runnable ∨ (u.thread c x).st = .parked ∨ (u.thread c x).st = .idling) →
      ∃ t, exec (.stop c) s = .next t ∧ (t.thread c x).st = .halted ∧ (t.thread c x).was = some (u.thread c x).st
        ∧ (t.thread c x).pc = (u.thread c x).pc ∧ (t.thread c x).hcode = 0 ∧ (t.core c).stopped = true ∧ s.sameMemory t)
    ∧ (sendCmd q.desc = 3 → (u.thread c x).st = .killed →
      (u.keeps c q.core = false → exec (.stop c) s = .next (u.refuseCmd q))
      ∧ (u.keeps c q.core = true → exec (.stop c) s = .next ((u.modCore c (fun k => { k with stopped := true })).refuseCmd q)))
    ∧ (sendCmd q.desc = 4 → (u.thread c x).st.holdsThread = true →
      exec (.wake c) s = .next (u.modThread c x (fun t => { t with wake := true })))
    ∧ (sendCmd q.desc = 5 → (u.thread c x).st = .halted →
      exec (.image c) s = .next (u.tryStores (q.view c) ((u.core c).image x) q.imageAt))
    ∧ (sendCmd q.desc = 7 → (u.core c).sealed = true → ∃ t, exec (.unseal c) s = .next t ∧ (t.core c).sealed = false
      ∧ s.sameMemory t)
    ∧ (sendCmd q.desc = 8 → ∀ p l pa i g w ws, u.partOfCore c = some p → (u.core c).bargeRoom = true →
      u.place (q.view c) q.b .load = .ok (l, pa) → u.holdIndex p pa = some i →
      Tab.find (u.part p).holdBarges i = some g → State.loadDs (q.view c) 256 q.b u = .ok (w, ws) →
      ∃ t, exec (.launchBarge c) s = .next t ∧ (t.part p).holdBarges = Tab.erase (w.part p).holdBarges i
        ∧ (t.core c).bargeq = (w.core c).bargeq ++ [g.ofImage ws])
    ∧ (sendCmd q.desc = 2 → (u.thread c x).st.killable = false → exec (.kill c) s = .next (u.refuseCmd q))
    ∧ (sendCmd q.desc = 4 → (u.thread c x).st.holdsThread = false → exec (.wake c) s = .next (u.refuseCmd q))
    ∧ (sendCmd q.desc = 6 → ∀ w ws o, State.loadDs (q.view c) 2 (q.b &&& ~~~(0x7F : Word)) u = .ok (w, ws) →
      w.engineTarget c q ws = some (.op o) →
      (q.b.getLsbD 0 = false → exec (.engineResume c) s
        = .next ((w.modOp o.id (fun o => { o with fault := none, extra := [] })).reviveOp o))
      ∧ (q.b.getLsbD 0 = true → exec (.engineEnd c) s
          = .next (((w.endBuf o).modOp o.id (fun o => { o with fault := none, ended := some o.next, buf := [] })).lastingFault c
              o.fault)))
    ∧ (sendCmd q.desc = 6 → ∀ w ws n b, State.loadDs (q.view c) 2 (q.b &&& ~~~(0x7F : Word)) u = .ok (w, ws) →
      w.engineTarget c q ws = some (.input n b) →
      (q.b.getLsbD 0 = false → exec (.engineResume c) s = .next (w.setBind c n (.input { b with fault := none })))
      ∧ (q.b.getLsbD 0 = true → exec (.engineEnd c) s
          = .next ((w.setBind c n (.input { b with fault := none, ended := true })).lastingFault c b.fault))))
  ∧ (∀ (s : State) (c g k : Nat) (r : Region), (s.core c).region = g + 1 → Tab.find s.regions g = some r →
    r.allCores.findIdx? (fun n => n == c) = some k → r.st = .running → r.f.save ≠ 0 → s.coreStopped c = true →
    Tab.find r.saved k = none →
    ∀ x, s.storeRecord c k r = x → elemWaits x = false → exec (.saveEngineWrite c) s = .next (match x with
      | .error e => s.saveFailed g c (r.saveView c) e
      | .ok w =>
        let r' := { r with saved := Tab.set r.saved k (w.core c) }
        let v := { w with regions := Tab.set w.regions g r', fresh := w.fresh + Config.recordWords }
        if r'.saved.length = r.allCores.length then v.parkRegion g r' else v))
  ∧ (∀ (s : State) (g : Nat) (r : Region), Tab.find s.regions g = some r → r.st = .preempted →
    (s.part r.part).first = some g → (∀ n ∈ r.allCores, s.coreFree r.part n = true) →
    let run := { r with st := .running, saved := [], savedReqs := [], since := 0, waited := 0 }
    let u0 := s.modPart r.part (fun v => { v with first := none })
    let u := { u0 with regions := Tab.set u0.regions g run, reqs := u0.reqs ++ r.savedReqs }
    ∀ x, restoreCores r (u.scopeCache r) r.allCores 0 u = x → restoreWaits x = false →
      exec (.regionResume g) s = .next (match x with
        | .error (n, e) => u0.saveFailed g n (r.saveView n) e
        | .ok w => ((resampleOps g w.ops w).showRegion run .running).select r.part))
  ∧ (∀ (s : State) (g : Nat) (grade : BitVec 2) (r : Region), Tab.find s.regions g = some r → s.openFaults g r ≠ [] →
    highestGrade (s.openFaults g r ++ r.lasting) = grade.toNat →
    (r.f.fdom = 0 → exec (.regionFaulted g grade) s = .next (s.killJob r.slot grade.toNat []))
    ∧ (r.f.fdom ≠ 0 →
      let gs := (s.regions.filter (fun e => e.2.slot == r.slot && e.2.f.fdom == r.f.fdom)).map Prod.fst
      let u := endRegions .faulted 2 grade.toNat gs s
      exec (.regionFaulted g grade) s
        = .next ((faultLaunches r.part r.slot r.f.fdom grade.toNat (u.part r.part).launches u).select r.part)))
  ∧ (∀ (s : State) (slot : BitVec 6) (grade : BitVec 2) (landed : List Nat), (s.slot slot).root.isSome = true →
    exec (.jobKill slot grade landed) s = .next (s.killJob slot grade.toNat landed))
  ∧ ∀ (s : State) (slot : BitVec 6), (s.slot slot).sweeping = true → s.memoryCanonical →
    ∃ t, exec (.keySlotSweep slot) s = .next t ∧ (t.slot slot).sweeping = false ∧ (t.slot slot).gen = (s.slot slot).gen + 1
      ∧ (∀ e ∈ t.l2, e.2.tag.slot ≠ slot)
      ∧ ∀ k tag, Tab.find t.otag k = some tag → paKind (16 * k) = .hbm → tag.slot ≠ slot

/-- R311, R316, R319, R320, R328, R329, R365, R366: an uncorrectable error marks its sector, at rest or in flight, register-
file entry or strip, and is counted; a dead core asks for a spare, with a checkpoint where its region has a valid one, or
its region ends; a corrected error counts for the job whose data it struck, and one in a basin bank is told to the lock-
keeper, which logs it and at the third within the window retires its core; twins that agree are forwarded once, and twins
that differ, or a twin that is late, end their region; and a sweeper takes its next line. The model's own choices and
readings in it: log entries 50, 51, 52, 54, 55. -/
def Obligations.ErrorEvents : Prop :=
  (∀ (s : State) (k : Nat), paKind (16 * k) ≠ .reserved →
    exec (.uncorrectableError (.sector k)) s
      = .next ((s.markPoison (16 * k) 16).countMarked (Tab.find s.otag (unitKey (16 * k))))
    ∧ Tab.find (s.markPoison (16 * k) 16).poison k = some true)
  ∧ (∀ (s : State) (k : Nat), paKind (16 * k) = .reserved →
    exec (.uncorrectableError (.sector k)) s = .fault (.reserved (16 * k)))
  ∧ (∀ (s : State) (c k : Nat) (x : L1Sector), Tab.find (s.core c).l1 k = some x →
    exec (.uncorrectableError (.l1 c k)) s = .next ((s.putL1 c k { x with poison := true }).countMarked (some x.tag)))
  ∧ (∀ (s : State) (k : Nat) (x : L2Sector), Tab.find s.l2 k = some x →
    exec (.uncorrectableError (.l2 k)) s
      = .next ({ s with l2 := Tab.set s.l2 k { x with poison := true } }.countMarked (some x.tag)))
  ∧ (∀ (s : State) (c i : Nat), c < 4608 → i < 2048 →
    exec (.uncorrectableError (.entry c i)) s
      = .next (s.modCore c (fun k => k.setReg i { k.reg i with poison := true })))
  ∧ (∀ (s : State) (chip i : Nat), chip < 576 → i < 4096 →
    let x := Tab.getD (s.chip chip).cim i ⟨0, 0, none, false⟩
    exec (.uncorrectableError (.strip chip i)) s
      = .next ((s.modChip chip (fun h => { h with cim := Tab.set h.cim i { x with poison := true } })).countMarked x.tag))
  ∧ (∀ (s : State) (c x k j : Nat), (s.thread c x).inFlight k j = true →
    exec (.uncorrectableError (.flight c x k j)) s
      = .next ((s.modThread c x (fun t => t.markFlight k j)).countMarked (s.core c).tag))
  ∧ (∀ (s : State) (c spare : Nat), (s.core c).sealed = true → s.updates.any (Update.restarts c) = false →
    let px := spare / 9 / 24
    let py := spare / 9 % 24
    let pc := spare % 9
    let u := s.withdrawCore c
    ((s.core c).region = 0 → s.spareFree px py pc = true →
      exec (.containmentRestart c spare) s
        = .next ((s.loseCore (s.remap.coreEntry c)).queueUpdate (.restart c 0 px py pc none [])))
    ∧ ∀ g r, (s.core c).region = g + 1 → Tab.find s.regions g = some r →
      (r.f.paired = true → exec (.containmentRestart c spare) s = .next (s.faultRegion r 2))
      ∧ (r.f.paired = false → u.checkpoint c r = none →
        exec (.containmentRestart c spare) s = .next ((u.keeperRec r.part 0x24 2 0).faultRegion r 2))
      ∧ (∀ k, r.f.paired = false → u.checkpoint c r = some k → s.spareFree px py pc = true →
        exec (.containmentRestart c spare) s = .next ((u.loseCore (s.remap.coreEntry c)).queueUpdate
          (.restart c (g + 1) px py pc (some k) ((s.core c).accepted c)))))
  ∧ (∀ (s : State) (c : Nat), let t := s.finishRestart c 0 none []
    (t.core c).sealed = false ∧ (∀ x, (t.thread c x).st = .free) ∧ (t.core c).l1 = [])
  ∧ (∀ (s : State) (c chip bank row p : Nat), s.partOfCore c = some p → c < 4608 → chip < 576 → bank < 32 → row < 32768 →
    ∃ t w m, exec (.correctedError c (.bank chip bank) row) s = .next t
      ∧ w = BitVec.ofNat 64 (chip * 2 ^ 21 + bank * 2 ^ 16 + c) ∧ (t.part p).errq = (s.part p).errq ++ [w]
      ∧ (t.core (s.part p).lk).waitNotice = (s.core (s.part p).lk).waitNotice ++ [m] ∧ m.kind = 4 ∧ m.tag = 0xFFFE
      ∧ m.payload = w ∧ s.sameMemory t)
  ∧ (∀ (s : State) (c : Nat) (array : ErrorArray) (i : Nat), (s.struck array i).1 = true → c ≤ 4608 →
    (∀ chip bank, array ≠ .bank chip bank) →
    exec (.correctedError c array i) s = .next (s.count (s.attributed (s.struck array i).2 c) (fun n =>
      if strikesHbm array i then { n with ceHbm := satInc n.ceHbm } else { n with ceSram := satInc n.ceSram })))
  ∧ (∀ (s : State) (p : Nat) (w : Word) (rest : List Word), (s.part p).errq = w :: rest →
    let c := (w.extractLsb' 0 13).toNat
    let l := lastThree (Tab.getD (s.part p).errLog c []) (s.core (s.part p).lk).cycle
    let u := s.modPart p (fun v => { v with errq := rest, errLog := Tab.set v.errLog c l })
    ((tooMany l = false ∨ s.siteSpare c = none) → exec (.correctedErrorNotice p) s = .next u)
    ∧ ∀ pc, tooMany l = true → (s.core c).retiring = false → s.siteSpare c = some pc →
      exec (.correctedErrorNotice p) s = .next (u.startRetire c pc))
  ∧ (∀ (s : State) (k : Nat) (a b : PairMsg), s.pairs[k]? = some a → s.pairs.find? (fun x => x.twins a) = some b →
    let u := { s with pairs := s.pairs.filter (fun y => y != a && y != b) }
    let x := if a.twin then b else a
    let y := if a.twin then a else b
    (x.hash = y.hash → exec (.pairCompare k) s = .next (u.forwardPair x y))
    ∧ (x.hash ≠ y.hash → exec (.pairCompare k) s = .next (u.pairMismatch x x.hash)))
  ∧ (∀ (s : State) (k : Nat) (m : PairMsg), s.pairs[k]? = some m → (∀ x ∈ s.pairs, x.twins m = false) → m.twin = false →
    exec (.pairTimeout k) s = .next (({ s with fresh := s.fresh + 1 } : State).pairMismatch m m.hash))
  ∧ (∀ (s : State) (chip : Nat), chip < 576 → (s.chip chip).sweepCim.pos.toNat + 1 ≠ 557056 →
    ∃ t, exec (.sweepLine chip true) s = .next t ∧ (t.chip chip).sweepCim.pos = (s.chip chip).sweepCim.pos + 1
      ∧ (t.chip chip).sweepCim.passes = (s.chip chip).sweepCim.passes ∧ s.sameMemory t)
  ∧ ∀ (s : State) (chip : Nat), chip < 576 → (s.chip chip).sweepBasin.pos.toNat + 1 = 278528 →
    ∃ t, exec (.sweepLine chip false) s = .next t ∧ (t.chip chip).sweepBasin.pos = 0
      ∧ (t.chip chip).sweepBasin.passes = (s.chip chip).sweepBasin.passes + 1 ∧ s.sameMemory t

/-- R198, R332, R333, R341, R357, R358, R360: a heartbeat that has not changed is counted; 64 of them let a partition's
lock-keeper be replaced or the partition be reset; a drained partition says so; the survey is refreshed into the other
buffer; and the oldest update of the remap table is loaded by the routers, taken by them, in parts, as their active table,
confirmed, where the sites that no entry names any longer are fenced, and ended. The model's own choices and readings in it:
log entries 5, 55, 56, 98. -/
def Obligations.PartitionRemapEvents : Prop :=
  (∀ (s : State) (p : Nat) (v : Part), Tab.find s.parts p = some v →
    let w := s.hbmRead (s.slotTag 0) (s.svc.record + 64 * p)
    (w = v.beat → exec (.heartbeatRead p) s = .next (s.setPart p { v with beatSame := v.beatSame + 1 }))
    ∧ (w ≠ v.beat → exec (.heartbeatRead p) s = .next (s.setPart p { v with beat := w, beatSame := 0 })))
  ∧ (∀ (s : State) (p : Nat) (landed : List Nat) (v : Part), Tab.find s.parts p = some v → 64 ≤ v.beatSame →
    (p = 0 → exec (.partitionReset p landed) s = .next (s.setPart 0 { v with lk := v.standby, standby := v.lk, beatSame := 0 }))
    ∧ (p ≠ 0 →
      let u := ((s.setPartState p .offline).emptyPart p landed).modPart p (fun v => { v with beatSame := 0 })
      exec (.partitionReset p landed) s = .next (((u.replay p).setPartState p v.st).select p)))
  ∧ (∀ (s : State) (p : Nat), (s.part p).st = .draining →
    (∀ e ∈ s.regions, e.2.part = p → e.2.st ≠ .running ∧ e.2.st ≠ .preempted) →
    ∃ t, exec (.partitionDrained p) s = .next t ∧ (t.part p).st = .drained ∧ s.sameMemory t)
  ∧ (∀ s : State, ∃ t, exec .surveyRefresh s = .next t ∧ t.survey.gen = (s.survey.gen + 1) % 2 ^ 64
    ∧ t.survey.cur = !s.survey.cur ∧ t.cores = s.cores ∧ t.regions = s.regions)
  ∧ (∀ (s : State) (failed : List Nat) (u : Update) (rest : List Update), s.updates = u :: rest →
    (s.phase = 0 → s.updateVoid u = true →
      exec (.remapLoad failed) s = .next (({ s with updates := rest } : State).voidUpdate u))
    ∧ (s.phase = 0 → s.updateVoid u = false → s.updateReady u = true →
      ∃ t, exec (.remapLoad failed) s = .next t ∧ t.pending = some ((s.prepareUpdate u).beginUpdate u).readRemap
        ∧ t.flipped = 0 ∧ t.remap = s.remap ∧ t.tg = s.tg ∧ t.updates = s.updates)
    ∧ (s.phase = 1 → s.acks ≠ s.liveSites → exec (.remapLoad failed) s = .next ((s.beginUpdate u).loadTables failed)))
  ∧ (∀ (s : State) (r : Remap) (u : Update) (rest : List Update), s.pending = some r → s.updates = u :: rest →
    ((s.phase = 1 ∧ s.acks = s.liveSites) ∨ s.phase = 2) →
    ∃ t, exec .remapFlip s = .next t ∧ t.remap = r ∧ t.former = some s.remap ∧ t.pending = none ∧ t.tg = s.nextTg ∧ t.flipped = 0)
  ∧ (∀ (s v : State) (routers : BitVec 624) (later : List Move) (r : Remap) (u : Update) (rest : List Update),
    s.thr.pre = [] → s.agenda = .flips routers :: later → v = { s with agenda := later } → v.pending = some r →
    v.updates = u :: rest → ((v.phase = 1 ∧ v.acks = v.liveSites) ∨ v.phase = 2) →
    let live := siteSet (fun p => v.siteOpen p.1 p.2)
    let done := (v.flipped ||| routers) &&& live
    ∃ t, step s = .next t
      ∧ (done = live → t.remap = r ∧ t.former = some v.remap ∧ t.pending = none ∧ t.tg = v.nextTg ∧ t.flipped = 0)
      ∧ (done ≠ live → t.remap = v.remap ∧ t.pending = some r ∧ t.tg = v.tg ∧ t.flipped = done))
  ∧ (∀ (s : State), s.pending = none → (s.phase = 2 ∨ s.phase = 3) → s.released = true →
    ∃ t, exec .remapConfirm s = .next t ∧ t.remap = s.remap ∧ t.tg = s.tg ∧ t.cores = s.cores ∧ t.former = none
      ∧ ∀ old e, s.former = some old → e ∈ changedEntries old s.remap → e.getLsbD 31 = true →
        s.remap.namesSite (entryPx e) (entryPy e) = false → (t.site (entryPx e) (entryPy e)).fenced = true)
  ∧ (∀ (s : State) (u : Update) (rest : List Update), s.updates = u :: rest → s.phase = 3 → s.pending = none →
    s.acks = s.liveSites →
    exec .remapIdle s = .next (((({ s with updates := rest } : State).setControl s.tg 0 0).setLock false).finishUpdate u))
  ∧ (∀ (s : State) (n pc : Nat) (old : BitVec 32), let t := s.finishUpdate (.retire n pc old)
    (t.core n).retiring = false ∧ t.remap = s.remap ∧ t.tg = s.tg)
  ∧ ∀ (s : State) (r : Remap), let t := s.finishUpdate (.boot r)
    (s.trust.accepts s.trust.pyoskeb = true → t.parts = s.plan ∧ t.boot = ⟨7, 624⟩)
    ∧ (s.trust.accepts s.trust.pyoskeb = false → t.parts = s.parts ∧ t.boot = ⟨6, 624⟩)

/-- R334, R336, R337, R339, R340, R346 to R348: a router forwards freight one site towards the site its table names, or
drops it where the table names none, at 64 hops, or at a site that passes nothing; a message at its station is performed and
acknowledged, acknowledged again, or dropped, by its number, and starts a RESYNC after a retirement; an acknowledgement and
a RESYNC act at the source; a stream sends its unacknowledged messages again, at most 64; a dead site is fenced, its cores
are sealed, and an update for its cores and chiplets is queued; and a wharf takes good flits in order, asks for those it
misses, resends with the present LACK and NAK, or fails, where its messages go by the next wharf. The model's own choices
and readings in it: log entries 54, 63, 64, 73, 74, 93, 94, 95, 96, 101, 102. -/
def Obligations.NetworkEvents : Prop :=
  (∀ (s : State) (k : Nat) (dir : Dir) (f : Flight), s.flights[k]? = some f →
    let dropped : State := { s with flights := removeAt s.flights k }
    (s.spotOf f = .nowhere → exec (.routerHop k dir) s = .next dropped)
    ∧ ∀ px py, s.spotOf f = .site px py → ¬ (px = f.px ∧ py = f.py) →
      ((s.siteOpen f.px f.py = false ∨ 64 ≤ f.hops) → exec (.routerHop k dir) s = .next dropped)
      ∧ ∀ x y, s.siteOpen f.px f.py = true → f.hops < 64 → neighbour f.px f.py dir = some (x, y) →
        s.mayStep f dir px py x y = true →
        (s.siteOpen x y = false → exec (.routerHop k dir) s = .next dropped)
        ∧ (s.siteOpen x y = true → exec (.routerHop k dir) s = .next
            { s.fixStep f dir with flights := setAt s.flights k { f with px := x, py := y, hops := f.hops + 1 } }))
  ∧ (∀ (s : State) (k : Nat) (f : Flight), s.flights[k]? = some f → s.reached f = true → s.overtakes k f = false →
    let gone : State := { s with flights := removeAt s.flights k }
    let t := s.stream f.src f.dst f.ordered
    (s.openAt f = false → exec (.streamMessageArrival k) s = .next gone)
    ∧ (s.openAt f = true →
      (∀ q b, f.freight = .message q b → s.performs f.dst = true →
        let ahead := (q - t.expected).toNat
        let taken := keepAnswers (t.answers ++ [q])
        let skip := skipPerformed (t.expected + 1) (t.map >>> 1) 64
        (t.resync = true → exec (.streamMessageArrival k) s = .next (gone.launch t .resync t.dst))
        ∧ (t.resync = false → ahead = 0 → t.ordered = true →
          let t' := { t with expected := t.expected + 1, answers := taken }
          exec (.streamMessageArrival k) s = .next (((gone.setStream t').deliver t.src t.dst b).launch t' (.answer q) t.dst))
        ∧ (t.resync = false → ahead = 0 → t.ordered = false →
          let t' := { t with expected := skip.1, map := skip.2, answers := taken }
          exec (.streamMessageArrival k) s = .next (((gone.setStream t').deliver t.src t.dst b).launch t' (.answer q) t.dst))
        ∧ (t.resync = false → 0 < ahead → ahead < 64 → t.ordered = true → exec (.streamMessageArrival k) s = .next gone)
        ∧ (t.resync = false → 0 < ahead → ahead < 64 → t.ordered = false → t.map.getLsbD ahead = true →
          exec (.streamMessageArrival k) s = .next (gone.launch t (.answer q) t.dst))
        ∧ (t.resync = false → 0 < ahead → ahead < 64 → t.ordered = false → t.map.getLsbD ahead = false →
          let t' := { t with map := t.map ||| (1 <<< ahead), answers := taken }
          exec (.streamMessageArrival k) s = .next (((gone.setStream t').deliver t.src t.dst b).launch t' (.answer q) t.dst))
        ∧ (t.resync = false → 64 ≤ ahead → (t.expected - q).toNat ≤ 64 →
          exec (.streamMessageArrival k) s = .next (gone.launch t (.answer q) t.dst))
        ∧ (t.resync = false → 64 ≤ ahead → 64 < (t.expected - q).toNat → exec (.streamMessageArrival k) s = .next gone))
      ∧ (∀ q b n, f.freight = .message q b → f.dst = .core n → (s.core n).retiring = true →
        exec (.streamMessageArrival k) s = .next gone)
      ∧ (∀ q, f.freight = .answer q → exec (.streamMessageArrival k) s = .next (gone.acknowledge t q))
      ∧ (f.freight = .resync →
        let lowest := (t.unacked.head?.map Prod.fst).getD t.nextSeq
        let t' := { t with resync := false, map := 0, answers := [], expected := lowest }
        exec (.streamMessageArrival k) s = .next ((gone.setStream t').resend t'))))
  ∧ (∀ (s : State) (k : Nat) (t : Stream), s.streams[k]? = some t → t.unacked ≠ [] →
    let place := match s.remap.spot t.src with
      | .site x y => (x, y)
      | _ => (0, 0)
    exec (.retransmitTimeout k) s = .next { s with
      flights := s.flights ++ (t.unacked.take 64).map (fun u =>
        ⟨t.src, t.dst, t.ordered, .message u.1 u.2, place.1, place.2, 0⟩) })
  ∧ (∀ (s : State) (px py : Nat), px < 26 → py < 24 → s.siteOpen px py = true → (s.site px py).state ≠ 2 →
    let ns := (s.heldAt px py).1
    let cs := (s.heldAt px py).2
    ∃ u, exec (.siteDeath px py) s = .next (killSlots ((s.lostTags ns cs).map Tag.slot).eraseDups u)
      ∧ (u.site px py).state = 2 ∧ (u.site px py).powered = false ∧ (u.site px py).fenced = true
      ∧ (∀ n, n < 4608 → entryAtSite px py (s.remap.coreEntry n) = true → (u.core n).sealed = true)
      ∧ (∀ f ∈ u.flights, ¬ (f.px = px ∧ f.py = py)) ∧ u.remap = s.remap ∧ u.tg = s.tg
      ∧ u.updates = (if ns.isEmpty && cs.isEmpty then s.updates else s.updates ++ [.death px py ns cs]))
  ∧ (∀ (s : State) (w : Nat) (fl : Flit), w < 16 → (s.wharf w).live = true →
    let v := s.wharf w
    (flitOk fl = true → fl.lseq = v.got + 1 →
      let v' := v.take fl
      let s0 := s.setWharf w (v'.pump s.panel v'.queue)
      (fl.kind = 0 → exec (.wharfFlitReceive w fl) s = .next s0)
      ∧ ((fl.kind = 1 ∨ fl.kind = 2) →
        let u := s0.inbound w (s0.wharf w).rx
        exec (.wharfFlitReceive w fl) s = .next (u.setWharf w ((u.wharf w).tell v.out.length)))
      ∧ (fl.kind ≠ 0 → fl.kind ≠ 1 → fl.kind ≠ 2 →
        exec (.wharfFlitReceive w fl) s = .next (s0.setWharf w ((s0.wharf w).tell v.out.length))))
    ∧ ((flitOk fl = false ∨ fl.lseq ≠ v.got + 1) →
      exec (.wharfFlitReceive w fl) s = .next (s.setWharf w ({ v with nak := true }.tell v.out.length))))
  ∧ (∀ (v : Wharf) (fl : Flit), (v.take fl).got = fl.lseq
    ∧ (v.take fl).sent = v.sent.filter (fun f => afterLack fl.lack f.lseq))
  ∧ (∀ (s : State) (w : Nat), w < 16 → (s.wharf w).live = true → (s.wharf w).sent ≠ [] →
    let v := s.wharf w
    exec (.wharfResendTimeout w) s = .next (s.setWharf w { v with
      nak := false
      out := v.out ++ v.sent.map (fun f => sealFlit { f with lack := v.got, nak := v.nak }) }))
  ∧ ∀ (s : State) (w : Nat), w < 16 → (s.wharf w).live = true →
    let u := (s.setWharf w { s.wharf w with live := false, queue := [], taken := [], sent := [] }).dropStreams
      (fun t => t == .wharf w)
    exec (.wharfFailure w) s = .next (u.reroute (s.strandedAt w))

/-- R350, R352 to R354, R361, R362: accesses of the host through a range, the ranges, its register writes, attestation, and
the resets: power-on with firmware that the fuses accept brings the sites up one by one, and the last one, or a warm reset,
leaves the first table to be loaded. The model's own choices and readings in it: log entries 3, 57, 58, 59, 61, 62, 75. -/
def Obligations.HostPortEvents : Prop :=
  (∀ (s : State) (f size : Nat) (hp v : Word) (r : Hdm), s.hdmRange f hp.toNat = some r → 0 < size → size ≤ 8 →
    hp.toNat % 16 + size ≤ 16 → paKind (r.pa + (hp.toNat - r.hp)) = .hbm →
    exec (.cxlMemAccess f hp size none) s = .next (s.modFunc f (fun u => { u with readData := s.hdmRead r hp.toNat size }))
    ∧ (s.slotSweeping (s.slotTag r.key) = false → exec (.cxlMemAccess f hp size (some v)) s = .next (s.hdmWrite r hp.toNat size v)))
  ∧ (∀ (s : State) (f : Nat) (l : List Hdm) (rest : List Move), f ≤ 64 → l.length ≤ 8 → (∀ r ∈ l, r.wf = true) →
    s.thr.pre = [] → s.agenda = .ranges f l :: rest →
    ∃ t, step s = .next t ∧ (t.func f).hdm = l ∧ t.agenda = rest ∧ s.sameMemory t)
  ∧ (∀ (s : State) (f : Nat) (v : Word), f ≤ 64 →
    (exec (.nring f v) s = .next (s.modFunc f (fun u => { u with nring := v, nseq := 0 })))
    ∧ ((s.func f).done = false → exec (.registerWrite f 8 8 v) s = .next s)
    ∧ ((s.func f).done = true → 1 ≤ (v.extractLsb' 56 8).toNat → (v.extractLsb' 56 8).toNat ≤ 13 →
      ∃ t, exec (.registerWrite f 8 8 v) s = .next t ∧ t.guast = s.guast ++ [f] ∧ (t.func f).done = false
        ∧ (t.func f).gop = v.extractLsb' 56 8 ∧ (t.func f).garg = v.extractLsb' 0 56)
    ∧ ((s.func f).done = true → (v.extractLsb' 56 8).toNat = 0 ∨ 13 < (v.extractLsb' 56 8).toNat →
      ∃ t, exec (.registerWrite f 8 8 v) s = .next t ∧ t.ended f 2 0 s.guast))
  ∧ (∀ (s : State) (n : Nat),
    exec (.spdmRequest n) s
      = .next { s with doe := s.doe ++ [Config.spdmAnswer n (s.trust.loaded.map (fun i => Config.shake256 i.code))] })
  ∧ (∀ (s : State) (f : Nat), f ≤ 64 → ∃ t, exec (.functionReset f) s = .next t ∧ (t.func f).nring = 0 ∧ (t.func f).nseq = 0
    ∧ (t.func f).done = true ∧ (t.func f).counters = Counters.clear ∧ f ∉ t.guast ∧ s.sameMemory t)
  ∧ (∀ s : State, ∃ t, exec .powerOn s = .next t ∧ t.mem = [] ∧ t.parts = []
    ∧ t.boot = (if s.trust.accepts s.trust.firmware then ⟨3, 0⟩ else ⟨2, 0⟩) ∧ (∀ n, t.remap.coreEntry n = 0)
    ∧ (∀ px py, px < 26 → py < 24 → (t.site px py).powered = false) ∧ ∀ n x, (t.thread n x).st = .free)
  ∧ (∀ (s : State) (dead : BitVec 9), s.boot.step = 3 → s.boot.sites + 1 < 624 →
    ∃ t, exec (.sitePowerOn dead) s = .next t ∧ t.boot = ⟨3, s.boot.sites + 1⟩
      ∧ (t.site (bootPlace s.boot.sites).1 (bootPlace s.boot.sites).2).powered = true
      ∧ (t.site (bootPlace s.boot.sites).1 (bootPlace s.boot.sites).2).cores = 0x1FF &&& ~~~dead)
  ∧ (∀ (s : State) (dead : BitVec 9), s.boot.step = 3 → s.boot.sites + 1 = 624 →
    ∃ t r, exec (.sitePowerOn dead) s = .next t ∧ t.boot = ⟨5, 624⟩ ∧ t.updates = [.boot r] ∧ r.set = true)
  ∧ ∀ s : State, ∃ t, exec .warmReset s = .next t ∧ t.regions = [] ∧ t.reqs = [] ∧ t.ops = [] ∧ (∀ n, t.remap.coreEntry n = 0)
    ∧ (∀ n x, (t.thread n x).st = .free) ∧ (∀ k, (t.slot k).root = none ∧ (t.slot k).gen = (s.slot k).gen)
    ∧ (5 ≤ s.boot.step → t.boot = ⟨5, 624⟩ ∧ ∃ r, t.updates = [.boot r])
    ∧ (s.memoryCanonical → ∀ g pa, pa / 16 ≠ t.remapControl / 16 → pa / 16 ≠ t.svc.remapLock / 16 →
      t.physByte g pa = s.physByte g pa)

/-- R183, R326, R329, R337, R339, R343, R345, R352 to R358, R363: the requests of Guast that the lock-keeper grants, and what it
answers; a request that its function may not make, and one that the state refuses, ends with GST 1. The model's own choices
and readings in it: log entries 58, 59. -/
def Obligations.GuastRequests : Prop :=
  (∀ (s : State) (f : Nat) (rest : List Nat), s.guast = f :: rest → (s.func f).gop.toNat = 0x0A → mayRequest f 0x0A = false →
    ∃ t, exec .setPower s = .next t ∧ t.ended f 1 0 rest ∧ t.power = s.power)
  ∧ (∀ (s : State) (f g p : Nat) (rest : List Nat), (p = if f = 0 then g else f) → (if f = 0 then g ≤ 64 else g = 0) →
    (s.asksFor f 0x01 g rest → s.hasPart p = true →
      ((s.part p).st = .active →
        ∃ t, exec .drain s = .next t ∧ (t.part p).st = .draining ∧ t.ended f 0 0 rest ∧ s.sameMemory t)
      ∧ ((s.part p).st ≠ .active → exec .drain s = .next (s.endRequest 1 0)))
    ∧ (s.asksFor f 0x02 g rest → s.hasPart p = true → ((s.part p).st = .draining ∨ (s.part p).st = .drained) →
      exec .undrain s = .next (((s.setPartState p .active).select p).endRequest 0 0)))
  ∧ (∀ (s : State) (g : Nat) (rest : List Nat), 0 < g → g ≤ 64 → s.hasPart g = true →
    (s.asksFor 0 0x03 g rest → (s.part g).st = .drained →
      ∃ t, exec .offline s = .next t ∧ (t.part g).st = .offline ∧ t.ended 0 0 0 rest
        ∧ (∀ c ∈ (s.part g).chiplets, ∀ b, ((t.chip c).bank b).mode = .cache)
        ∧ ∀ k, (s.slot k).part = g → (t.slot k).root = none)
    ∧ (s.asksFor 0 0x04 g rest → (s.part g).st = .offline →
      exec .online s = .next (((s.setPartState g .active).select g).endRequest 0 0)))
  ∧ (∀ (s : State) (f g : Nat) (rest : List Nat), s.asksFor f 0x05 g rest → g < 64 →
    ((s.slot (BitVec.ofNat 6 g)).root.isSome = true → (f = 0 ∨ (s.slot (BitVec.ofNat 6 g)).part = f) →
      exec .killJob s = .next ((s.killJob (BitVec.ofNat 6 g) 0 []).endRequest 0 0))
    ∧ ((s.slot (BitVec.ofNat 6 g)).root = none → exec .killJob s = .next (s.endRequest 1 0)))
  ∧ (∀ (s : State) (p a : Nat) (rest : List Nat), s.asksFor 0 0x06 (p + 256 * a) rest → p ≤ 64 → 2 ^ 10 ≤ a → a ≤ 2 ^ 32 →
    s.hasPart p = true → ∃ t, exec .setAge s = .next t ∧ (t.part p).age = a ∧ t.ended 0 0 (s.part p).age rest ∧ s.sameMemory t)
  ∧ (∀ (s : State) (c b : Nat) (st : Bool) (rest : List Nat),
    s.asksFor 0 0x07 (c + 2 ^ 10 * b + if st then 2 ^ 16 else 0) rest → c < 576 → b < 32 →
    ∃ t, exec .setStrength s = .next t ∧ ((t.chip c).bank b).strength = st ∧ t.ended 0 0 0 rest ∧ s.sameMemory t)
  ∧ (∀ (s : State) (g : Nat) (rest : List Nat), s.asksFor 0 0x08 g rest → 10000 ≤ g → g ≤ 2 ^ 24 →
    ∃ t, exec .setTout s = .next t ∧ t.tout = g ∧ t.ended 0 0 s.tout rest ∧ s.sameMemory t)
  ∧ (∀ (s : State) (g : Nat) (rest : List Nat), s.asksFor 0 0x09 g rest → g < 4608 → (s.core g).retiring = false →
    (s.siteSpare g = none → exec .retireCore s = .next (s.endRequest 1 0))
    ∧ ∀ pc, s.siteSpare g = some pc →
      ∃ t, exec .retireCore s = .next t ∧ (t.core g).retiring = true ∧ t.guast = s.guast
        ∧ t.updates = s.updates ++ [.retire g pc (s.remap.coreEntry g)])
  ∧ (∀ (s : State) (g : Nat) (rest : List Nat), s.asksFor 0 0x0A g rest → 10000 ≤ g → g ≤ 21000 →
    ∃ t, exec .setPower s = .next t ∧ t.power = g ∧ t.ended 0 0 0 rest ∧ s.sameMemory t)
  ∧ (∀ (s : State) (k : BitVec 6) (panel : BitVec 12) (r : BitVec 6) (gen : BitVec 16) (v : Bool) (rest : List Nat),
    s.asksFor 0 0x0B (k.toNat + 2 ^ 6 * panel.toNat + 2 ^ 18 * r.toNat + 2 ^ 24 * gen.toNat + if v then 2 ^ 40 else 0) rest →
    ∃ t, exec .setFabricSlot s = .next t ∧ (t.slot k).fabric = (if v then some (panel, r, gen) else none)
      ∧ t.ended 0 0 0 rest ∧ s.sameMemory t)
  ∧ (∀ (s : State) (k : BitVec 6) (panel : BitVec 12) (r : BitVec 6) (add : Bool) (rest : List Nat),
    s.asksFor 0 0x0B (k.toNat + 2 ^ 6 * panel.toNat + 2 ^ 18 * r.toNat + (if add then 2 ^ 40 else 0) + 2 ^ 52) rest →
    ∃ t, exec .setFabricAdmission s = .next t ∧ ((panel, r) ∈ (t.slot k).allowed ↔ add = true) ∧ t.ended 0 0 0 rest
      ∧ s.sameMemory t)
  ∧ (∀ (s : State) (p : Nat) (panel : BitVec 12) (add : Bool) (rest : List Nat),
    s.asksFor 0 0x0B (p + 2 ^ 7 * panel.toNat + (if add then 2 ^ 40 else 0) + 2 * 2 ^ 52) rest → p ≤ 64 → s.hasPart p = true →
    ∃ t, exec .setFabricSendAdmission s = .next t ∧ (panel ∈ (t.part p).allowed ↔ add = true) ∧ t.ended 0 0 0 rest
      ∧ s.sameMemory t)
  ∧ (∀ (s : State) (panel : BitVec 12) (mask : BitVec 16) (rest : List Nat),
    s.asksFor 0 0x0B (panel.toNat + 2 ^ 12 * mask.toNat + 3 * 2 ^ 52) rest →
    let u := { s with routes := Tab.put s.routes panel.toNat mask 0 }
    exec .setFabricRoute s = .next ((drainWharves s.wharves (drainAll s.cores u)).endRequest 0 0))
  ∧ (∀ (s : State) (f : Nat) (rest : List Nat), s.asksFor f 0x0C 0 rest →
    ∃ t, exec .surveyNow s = .next t ∧ t.survey.gen = (s.survey.gen + 1) % 2 ^ 64 ∧ t.survey.cur = !s.survey.cur)
  ∧ ∀ (s : State) (f g : Nat) (ws : List Word) (root : Root) (rest : List Nat), s.asksFor f 0x0D g rest → g % 64 = 0 →
    s.regRecord f g = some ws → recordOk ws = true → s.keyJob f ws = some root →
    ((wordAt 0 ws).getLsbD 16 = false → s.hasPart f = true →
      s.descTranslates f root (newQueue f ws).vahi (newQueue f ws).desc = true →
      s.findQueue f f (newQueue f ws).num = none →
      ∃ t, exec .setQueueRegister s = .next t ∧ newQueue f ws ∈ (t.part f).queues ∧ t.ended f 0 0 rest ∧ s.sameMemory t)
    ∧ ∀ q, (wordAt 0 ws).getLsbD 16 = true → s.findQueue f f (fieldAt 0 7 0 ws) = some q → s.queueIdle f q = true →
      ∃ t, exec .setQueueRemove s = .next t ∧ s.sameMemory t ∧ t.ended f 0 0 rest
        ∧ ∀ k ∈ (t.part f).queues, ¬ (k.func = f ∧ k.num = fieldAt 0 7 0 ws)

/-- R68 to R75: the decoder reads every well-formed instruction that has a word back from that word. -/
def Obligations.DecodeOfEncode : Prop :=
  ∀ (i : Instr) (w : IWord), i.wf = true → encode i = some w → decode w = .ok i

/-- R68 to R75, R86: a word that decodes is the word of its instruction, which is well-formed: no other word is accepted. -/
def Obligations.EncodeOfDecode : Prop :=
  ∀ (w : IWord) (i : Instr), decode w = .ok i → i.wf = true ∧ encode i = some w

/-- R69 to R80: words written out from the encodings of the spec decode to the instructions they stand for. -/
def Obligations.DecodeSpecWords : Prop :=
  decode 0x7E012345 = .ok (.ext 0x012345)
  ∧ decode 0x200FCDEF = .ok (.movi false 0x0F 0xCDEF)
  ∧ decode 0x1901012C = .ok (.addi false 1 1 0x2C)
  ∧ decode 0x3C020938 = .ok (.ldD false 2 9 0x38)
  ∧ decode 0x2001FFFF = .ok (.movi false 1 0xFFFF)
  ∧ decode 0x81030201 = .ok (.add true 3 2 1)
  ∧ decode 0x00000000 = .error .reservedOp
  ∧ decode 0x7F000000 = .error .reservedOp

/-- R68, R77, R81 to R83, R86, R109, R149, R150, R312: in an issue slot that chooses a thread, the step runs the instruction that
the fetched word stands for: the decoded word, or inside a frame the adjusted word, to which every check applies; a word that
holds no instruction, and a fault of its fetch, halt the thread; a poisoned word contains the core; the words after an EXT are
read in the same slot; a slot that the agenda names as lost to bank arbitration is forfeited, with no effect of its instruction;
an event is run as it stands. The model's own choices and readings in it: log entries 8, 9, 13, 23, 104. -/
def Obligations.StepRunsDecoded : Prop :=
  (∀ (s t : State) (w : IWord), s.beginsSlot t → t.fetchWord t.cur t.thr t.thr.opw = .ok (w, false) →
    (t.thr.repA = false ∨ arithmeticOp (opOf w) = false →
      (∀ i, decode w = .ok i → step s = exec i t)
      ∧ ∀ e, decode w = .error e → step s = .next (t.faulted { code := 0x01 }))
    ∧ (t.thr.repA = true → t.thr.pre = [] → arithmeticOp (opOf w) = true →
      (∀ v, adjustWord w t.thr.repFrm t.thr.repJ = some v →
        (∀ i, decode v = .ok i → step s = exec i t)
        ∧ ∀ e, decode v = .error e → step s = .next (t.faulted { code := 0x01 }))
      ∧ (adjustWord w t.thr.repFrm t.thr.repJ = none →
        let v := strayWord w t.thr.repFrm t.thr.repJ
        (∀ i, decode v = .ok i → step s = .next (t.faulted { code := 0x02 }))
        ∧ ∀ e, decode v = .error e → step s = .next (t.faulted { code := 0x01 }))))
  ∧ (∀ (s t : State) (w : IWord), s.beginsSlot t → t.fetchWord t.cur t.thr t.thr.opw = .ok (w, true) →
    step s = .next (t.containCore t.cur t.ctx))
  ∧ (∀ (s t : State) (f : WalkFault), s.beginsSlot t → t.fetchWord t.cur t.thr t.thr.opw = .error f →
    step s = .next (t.faulted { code := f.code, va := t.thr.opw, vahi := t.thr.vahi, acc := 3, level := f.level }))
  ∧ (∀ (s : State) (w : IWord), s.thr.pre ≠ [] → (∀ n rest, s.agenda ≠ .lost n :: rest) →
    s.fetchWord s.cur s.thr s.thr.opw = .ok (w, false) →
    (∀ i, decode w = .ok i → step s = exec i s)
    ∧ ∀ e, decode w = .error e → step s = .next (s.faulted { code := 0x01 }))
  ∧ (∀ (s t : State) (n : Nat) (rest : List Move), s.thr.pre = [] → s.agenda = .lost n :: rest →
    ({ s with agenda := rest }).beginSlot n = (t, true) → t.canLose = true →
    ∃ u, step s = .next u ∧ u.thr = { t.thr with pre := [], tries := t.thr.tries + 1 } ∧ t.sameMemory u
      ∧ t.otherCores u ∧ t.otherThreads u ∧ (u.core t.cur).rf = (t.core t.cur).rf ∧ u.reqs = t.reqs)
  ∧ ∀ (s : State) (i : Instr) (rest : List Move), s.thr.pre = [] → s.agenda = .event i :: rest → encode i = none →
    step s = exec i { s with agenda := rest }

/-- R36, R149: each slot counts a cycle; it goes to the first context, in cyclic order after the one that issued most
recently, that is RUNNABLE and has not issued in the three previous slots, and that context waits for the fourth slot after
this one; when no context qualifies the slot is a bubble. The model's own choices and readings in it: log entries 8, 10, 85. -/
def Obligations.SlotChoosesNextContext : Prop :=
  (∀ (s t : State) (n : Nat), s.beginSlot n = (t, true) →
    t.cur = n ∧ (t.core n).cycle = (s.core n).cycle + 1 ∧ (t.core n).last = t.ctx ∧ (s.thread n t.ctx).st = .runnable
    ∧ (s.thread n t.ctx).notBefore ≤ (s.core n).cycle + 1 ∧ (t.thread n t.ctx).notBefore = (s.core n).cycle + 5
    ∧ ∃ k, k < (s.core n).n ∧ t.ctx = ((s.core n).last + 1 + k) % (s.core n).n
      ∧ ∀ j, j < k → let x := ((s.core n).last + 1 + j) % (s.core n).n
        (s.thread n x).st ≠ .runnable ∨ (s.core n).cycle + 1 < (s.thread n x).notBefore)
  ∧ ∀ (s : State), s.thr.pre = [] → s.agenda = [] →
    (∀ x, x < (s.core s.turn).n →
      (s.thread s.turn x).st ≠ .runnable ∨ (s.core s.turn).cycle + 1 < (s.thread s.turn x).notBefore) →
    ∃ t, step s = .next t ∧ (t.core s.turn).cycle = (s.core s.turn).cycle + 1 ∧ t = { s with cores := t.cores }
      ∧ ∀ n x, t.thread n x = s.thread n x

/-- R31, R33, R83: what moving on does: the next word, the loop-end tests of the two levels, and the three ways a captured
instruction of a frame ends. -/
def Obligations.AdvanceResult : Prop :=
  (∀ t : Ctx, t.repA = false → (t.lpD = 0 ∨ (t.lpD = 1 ∧ t.le0 ≠ t.opw) ∨ (t.lpD = 2 ∧ t.le1 ≠ t.opw)) →
    t.advance = { t with pc := t.opw + 4, pre := [], tries := 0 })
  ∧ (∀ t : Ctx, t.repA = false → t.lpD = 1 → t.le0 = t.opw →
    t.advance = if t.lc0.toNat ≤ 1 then { t with pc := t.opw + 4, pre := [], tries := 0, lc0 := 0, lpD := 0 }
      else { t with pc := t.ls0, pre := [], tries := 0, lc0 := t.lc0 - 1 })
  ∧ (∀ t : Ctx, t.repA = false → t.lpD = 2 → t.le1 = t.opw →
    (1 < t.lc1.toNat → t.advance = { t with pc := t.ls1, pre := [], tries := 0, lc1 := t.lc1 - 1 })
    ∧ (t.lc1.toNat ≤ 1 → t.le0 ≠ t.opw → t.advance = { t with pc := t.opw + 4, pre := [], tries := 0, lc1 := 0, lpD := 1 })
    ∧ (t.lc1.toNat ≤ 1 → t.le0 = t.opw → t.advance = if t.lc0.toNat ≤ 1
        then { t with pc := t.opw + 4, pre := [], tries := 0, lc1 := 0, lc0 := 0, lpD := 0 }
        else { t with pc := t.ls0, pre := [], tries := 0, lc1 := 0, lpD := 1, lc0 := t.lc0 - 1 }))
  ∧ ∀ t : Ctx, t.repA = true →
    let len := t.repFrm.extractLsb' 20 4
    let times := t.repFrm.extractLsb' 14 6
    (t.repI ≠ len → t.advance = { t with repI := t.repI + 1, pc := t.pc + 4 })
    ∧ (t.repI = len → t.repJ ≠ times →
      t.advance = { t with repI := 0, repJ := t.repJ + 1, pc := t.pc - BitVec.ofNat 64 (4 * len.toNat) })
    ∧ (t.repI = len → t.repJ = times → t.pre = [] →
      t.advance = ({ t with repA := false, repFrm := 0, repJ := 0, repI := 0 }).advance)

/-- R86, R148, R300 to R302: taking a fault halts the thread with PC at the instruction, makes its image due, and hands one
record to the ring of its partition, with the fault's code, grade and operands, numbered within its source; no register,
message, port or stream, no other thread, and no byte of memory changes. The model's own choices and readings in it: log
entries 11, 52. -/
def Obligations.FaultEntry : Prop :=
  ∀ (s : State) (f : FaultInfo),
    let t := s.faulted f
    t.thr = { s.thr with st := .halted, pre := [], ipc := s.thr.pc, late := false, hcode := f.code, hport := f.port,
                         sampled := none, imageDue := true, recNo := s.thr.recNo + 1 }
    ∧ s.sameMemory t ∧ s.otherCores t ∧ s.otherThreads t ∧ (t.core s.cur).rf = (s.core s.cur).rf
    ∧ (t.core s.cur).cregs = (s.core s.cur).cregs ∧ (t.core s.cur).fifos = (s.core s.cur).fifos
    ∧ (t.core s.cur).strm = (s.core s.cur).strm ∧ (t.core s.cur).mail = (s.core s.cur).mail ∧ t.reqs = s.reqs ∧ t.ops = s.ops
    ∧ ∀ p, s.partOfCore s.cur = some p → ∃ r, (t.part p).recs = (s.part p).recs ++ [r] ∧ r.src = 0 ∧ r.code = f.code
      ∧ r.ctx = s.ctx ∧ r.core = s.cur ∧ r.seq = s.thr.recNo ∧ r.cpc = s.thr.pc ∧ r.ipc = s.thr.pc ∧ r.oprs = f.oprs
      ∧ r.va = f.va ∧ r.arg = f.arg
      ∧ r.grade = (if f.code ∈ [0x0F, 0x20, 0x22, 0x24, 0x28] then 2 else if f.code = 0x26 then 1 else 0)

/-- R41, R72 to R76, R81, R86: the checks of an instruction in their order, with the fault each takes: a prefix it does not
accept, a frame it may not stand in, privilege, context, register names, and the alignment of an access. The model's own
choices and readings in it: log entry 18. -/
def Obligations.ExecutionChecks : Prop :=
  (∀ (s : State) (i : Instr) (w : IWord), encode i = some w → opOf w ≠ 0x7E → takesPrefix (opOf w) = false →
    s.thr.pre ≠ [] → exec i s = .next (s.faulted { code := 0x01 }))
  ∧ (∀ (s : State) (i : Instr) (w : IWord), encode i = some w → opOf w ≠ 0x7E → s.thr.repA = true →
    (arithmeticOp (opOf w) = false ∧ s.thr.pre = [] ∨ takesPrefix (opOf w) = true ∧ s.thr.pre ≠ []) →
    (∀ sw c off, i = .loop sw c off → 0 < (s.thr.imm off).toInt) →
    exec i s = .next (s.faulted { code := 0x05 }))
  ∧ (∀ (s : State) (sw : Bool) (d a : Reg), s.plain →
    (s.thr.priv = false → exec (.repart sw d a) s = .next (s.faulted { code := 0x03 }))
    ∧ (s.thr.priv = true → s.ctx ≠ 0 → exec (.repart sw d a) s = .next (s.faulted { code := 0x04 }))
    ∧ (s.ctx ≠ 0 → exec (.reap sw d a) s = .next (s.faulted { code := 0x04 }))
    ∧ (∀ b, s.ctx ≠ 0 → exec (.spawn sw d a b) s = .next (s.faulted { code := 0x04 }))
    ∧ (s.ctx ≠ 1 → exec (.copy sw d a) s = .next (s.faulted { code := 0x04 })))
  ∧ (∀ (s : State) (sw : Bool) (d : Reg) (k : BitVec 8), s.plain → writable s.thr.size d = true → k.toNat ≤ 9 →
    guarded k.toNat = true → s.thr.priv = false → exec (.rdctl sw d k) s = .next (s.faulted { code := 0x03 }))
  ∧ (∀ (s : State) (i : Instr) (sw : Bool) (d a b : Reg) (f : Word → Word → Word), integerRegister i = some (sw, d, a, b, f) →
    s.thr.pre = [] → (readable s.thr.size a = false ∨ readable s.thr.size b = false ∨ writable s.thr.size d = false) →
    exec i s = .next (s.faulted { code := 0x02 }))
  ∧ (∀ (s : State) (i : Instr) (sw : Bool) (d a : Reg) (k : BitVec 8) (size : Nat) (signed : Bool),
    loadOf i = some (sw, d, a, k, size, signed) → s.thr.repA = false → outWritable s.thr.size d = true → s.canUse [a] [] →
    (s.value a).p = false → (s.address (s.value a).v size k).toNat % size ≠ 0 →
    exec i s = .next (s.faulted { code := 0x06, oprs := [(s.value a).v], va := s.address (s.value a).v size k,
                                  vahi := s.thr.vahi, acc := 0 }))
  ∧ ∀ (s : State) (sw : Bool) (a : Reg), s.plain → s.canUse [a] [] → (s.value a).p = false → (s.value a).v.toNat % 4 ≠ 0 →
    ∃ f : FaultInfo, f.code = 0x06 ∧ exec (.jr sw a) s = .next (s.faulted f)

/-- R311 to R314: a poisoned value used as an address, as store data, as a branch operand or as a word for a port is consumed:
the instruction has no effect, and the core is sealed, with nothing queued, received or bound left, and a POISON_CONSUMED
record of its error logic is handed out. The model's own choices and readings in it: log entries 17, 32. -/
def Obligations.PoisonContained : Prop :=
  (∀ (s : State) (i : Instr) (sw : Bool) (a b : Reg) (off : BitVec 8) (c : Word → Word → Bool),
    branchOf i = some (sw, a, b, off, c) → s.thr.repA = false → s.canUse [a, b] [] →
    ((s.value a).p = true ∨ ((s.afterRead a).value b).p = true) → exec i s = .next (s.containCore s.cur s.ctx))
  ∧ (∀ (s : State) (i : Instr) (sw : Bool) (d a : Reg) (k : BitVec 8) (size : Nat) (signed : Bool),
    loadOf i = some (sw, d, a, k, size, signed) → s.thr.repA = false → outWritable s.thr.size d = true → s.canUse [a] [] →
    (s.value a).p = true → exec i s = .next (s.containCore s.cur s.ctx))
  ∧ (∀ (s : State) (i : Instr) (sw : Bool) (d a : Reg) (k : BitVec 8) (size : Nat),
    storeOf i = some (sw, d, a, k, size) → s.thr.repA = false → s.thr.releases = [] → s.canUse [a, d] [] →
    (s.address (s.value a).v size k).toNat % size = 0 → ((s.value a).p = true ∨ ((s.afterRead a).value d).p = true) →
    exec i s = .next (s.containCore s.cur s.ctx))
  ∧ (∀ (s : State) (i : Instr) (sw : Bool) (d a b : Reg) (f : Word → Word → Word), integerRegister i = some (sw, d, a, b, f) →
    s.thr.pre = [] → s.canUse [a, b] [d] → (outFifo d.toNat).isSome = true →
    ((s.value a).p = true ∨ ((s.afterRead a).value b).p = true) → exec i s = .next (s.containCore s.cur s.ctx))
  ∧ ∀ (s : State) (n x : Nat), let t := s.containCore n x
    (t.core n).sealed = true ∧ (t.core n).mail = [] ∧ (t.core n).sendq = [] ∧ (t.core n).bargeq = [] ∧ (t.core n).mxq = []
    ∧ (t.core n).fifos = [] ∧ (t.core n).strm = [] ∧ (t.core n).btab = [] ∧ (t.core n).rf = (s.core n).rf
    ∧ (∀ y, (t.thread n y).outst = [] ∧ (t.thread n y).reissue = [] ∧ (t.thread n y).pc = (s.thread n y).pc)
    ∧ (∀ o ∈ t.ops, o.core ≠ n) ∧ (∀ r ∈ t.reqs, r.core = n → r.kind.isWrite = true) ∧ s.sameMemory t
    ∧ ∀ p, s.partOfCore n = some p → ∃ r, (t.part p).recs = (s.part p).recs ++ [r] ∧ r.src = 2 ∧ r.code = 0x22 ∧ r.grade = 2
      ∧ r.core = n ∧ r.ctx = x ∧ r.ipc = (s.thread n x).pc

/-- R14 to R19, R99 to R108, R145: an instruction that writes one operand register leaves every other register, every other
thread, the matrix state, the mailbox and all of memory as they are; the integer and mask ones leave the flags, the
floating-point ones only add to them. -/
def Obligations.RegisterFrame : Prop :=
  ∀ (s t : State) (i : Instr) (d : Reg), registerOnly i = some d → exec i s = .next t → (t.core s.cur).sealed = false →
    s.leaves t d ∧ s.sameMemory t ∧ (raisesNoFlag i = true → t.thr.flags = s.thr.flags)
    ∧ t.thr.flags &&& s.thr.flags = s.thr.flags

/-- R40, R116, R117, R140, R143, R202, R228: a scalar or vector store changes, of what the job reads, only the bytes of
core-local memory at the addresses it computes; a load changes none, and a store to any other address is a request that
changes none yet. The model's own choices and readings in it: log entry 26. -/
def Obligations.StoreMemoryFrame : Prop :=
  (∀ (s t : State) (i : Instr) (sw : Bool) (d a : Reg) (k : BitVec 8) (size : Nat), storeOf i = some (sw, d, a, k, size) →
    s.thr.releases = [] → exec i s = .next t →
    ∀ pa, ¬ (let ea := (s.address (s.value a).v size k).toNat
        0xFFFFFFFFFFFF0000 ≤ ea ∧ localPa s.cur ea ≤ pa ∧ pa < localPa s.cur ea + size) →
      t.physByte (s.jobTag s.cur) pa = s.physByte (s.jobTag s.cur) pa)
  ∧ (∀ (s t : State) (i : Instr) (x : VectorAccess), s.vectorStore i = some x → s.thr.releases = [] → exec i s = .next t →
    ∀ pa, (∀ k ∈ s.accessLanes x, ∀ ea, x.target k = .access ea → 0xFFFFFFFFFFFF0000 ≤ ea.toNat →
        ¬ (localPa s.cur ea.toNat ≤ pa ∧ pa < localPa s.cur ea.toNat + x.ty.width / 8)) →
      t.physByte (s.jobTag s.cur) pa = s.physByte (s.jobTag s.cur) pa)
  ∧ (∀ (s t : State) (i : Instr) (sw : Bool) (d a : Reg) (k : BitVec 8) (size : Nat) (signed : Bool),
    loadOf i = some (sw, d, a, k, size, signed) → exec i s = .next t → s.sameMemory t)
  ∧ ∀ (s t : State) (i : Instr) (x : VectorAccess), s.vectorLoad i = some x → exec i s = .next t → s.sameMemory t

/-- R7, R202, R210, R228, R229: storage under owner tags: a write under a current tag is read back under that tag, a read under
any other tag gives zero there, and a write under a tag that is not current changes nothing. R229: retiring a key slot
raises its generation by one, so that no tag of the job is current; at the last generation the slot is swept first, and what
is written under its tags until then is dropped. -/
def Obligations.TaggedStorage : Prop :=
  (
    (∀ (s : State) (g : Tag) (pa n v : Nat), s.memoryCanonical → s.tagCurrent g = true →
      pa / 16 = (pa + n - 1) / 16 → 0 < n →
      (s.physWrite g pa n v).physRead g pa n = v % 256 ^ n
      ∧ (∀ h, h ≠ g → ∀ k, pa ≤ k → k < pa + n → (s.physWrite g pa n v).physByte h k = 0)
      ∧ ∀ k, k < pa ∨ pa + n ≤ k → (s.physWrite g pa n v).physByte g k = s.physByte g k)
    ∧ (∀ (s : State) (g : Tag) (pa n v : Nat), s.tagCurrent g = false → s.physWrite g pa n v = s)
    ∧ ∀ (s : State) (g : Tag) (pa : Nat) (v : Word), s.memoryCanonical → s.tagCurrent g = true → pa % 8 = 0 →
      (s.hbmWrite g pa v).hbmRead g pa = v)
  ∧ (
    ∀ (s : State) (slot : BitVec 6), let t := s.retireSlot slot
      (t.slot slot).root = none
      ∧ ((s.slot slot).gen ≠ 0xFFFF → (t.slot slot).gen = (s.slot slot).gen + 1 ∧ (t.slot slot).key = (s.slot slot).key + 1
        ∧ t.slotTag slot ≠ s.slotTag slot)
      ∧ ((s.slot slot).gen = 0xFFFF → (t.slot slot).sweeping = true
        ∧ ∀ g pa n v, g.slot = slot → t.physWrite g pa n v = t)
      ∧ ∀ k, k ≠ slot → t.slot k = s.slot k)

/-- R35 to R38, R148, R357, R360: after reset no context holds a thread, no region, request or operation stands, the flags,
rounding mode, frame, loop and address-extension fields are zero, every predicate bit is one, the arbitration weight is one,
and the partitions are active. The model's own choices and readings in it: log entries 1, 3, 84, 98. -/
def Obligations.ResetValues : Prop :=
  (∀ n x, let t := State.reset.thread n x
    t.st = .free ∧ t.rm = 0 ∧ t.flags = 0 ∧ t.priv = false ∧ t.barge = false ∧ t.base = 0 ∧ t.size = 0 ∧ t.repA = false
    ∧ t.repFrm = 0 ∧ t.repI = 0 ∧ t.repJ = 0 ∧ t.lpD = 0 ∧ t.rbase = 0 ∧ t.rlim = 0 ∧ t.vahi = 0
    ∧ t.pred = 0xFFFFFFFFFFFFFFFF ∧ t.rasd = 0)
  ∧ (∀ n, (State.reset.core n).mxwt = 1 ∧ (State.reset.core n).cycle = 0 ∧ (State.reset.core n).region = 0
    ∧ (State.reset.core n).sealed = false)
  ∧ State.reset.regions = [] ∧ State.reset.reqs = [] ∧ State.reset.ops = [] ∧ State.reset.tg = 0
  ∧ (∀ f, (State.reset.func f).done = true ∧ (State.reset.func f).nring = 0)
  ∧ ∀ p, (State.reset.part p).st = .active

/-- The memory of the reset state lists nothing: it stands in canonical form. The model's own choices and readings in it: log
entry 2. -/
def Obligations.ResetMemoryCanonical : Prop := State.reset.memoryCanonical

/-- Every step keeps memory, owner tags and poison marks in canonical form: equal memories stay equal data. The model's own
choices and readings in it: log entry 2. -/
def Obligations.StepKeepsMemoryCanonical : Prop := Kept State.memoryCanonical
end

