-- ==== Sys2Proof/Laws/BaseDie.lean ====
section
/-! SUPPORT. What a rebuilt read and a received sector give (R211, R212, R230). -/

namespace Sys2Proof.Machine

/-- One of the bytes taken out of an exclusive or. -/
theorem xorAll_take (f : Nat → Byte) (i : Nat) :
    ∀ l : List Nat, l.Nodup → i ∈ l → xorAll (l.map f) = f i ^^^ xorAll ((l.filter (fun j => j != i)).map f)
  | [], _, h => by simp at h
  | j :: t, hn, h => by
    rw [List.nodup_cons] at hn
    by_cases e : j = i
    · subst e
      have : t.filter (fun k => k != j) = t := List.filter_eq_self.2 (fun k hk => by
        have : k ≠ j := fun e => hn.1 (e ▸ hk)
        simpa using this)
      simp [xorAll, this]
    · have hi : i ∈ t := by
        rcases List.mem_cons.1 h with h | h
        · exact absurd h.symm e
        · exact h
      have e' : (j != i) = true := by simpa using e
      simp only [List.map_cons, xorAll, List.filter_cons, e', if_true, xorAll_take f i t hn.2 hi]
      rw [← BitVec.xor_assoc, ← BitVec.xor_assoc, BitVec.xor_comm (f j)]

/-- A rebuilt read returns the value the bank holds (R211), so a failed bank reads as before (R212). -/
theorem State.rebuiltByte_eq (s : State) (c b o : Nat) : s.rebuiltByte c b o = s.bankByte c b o := by
  have h : 16 * (b / 16) + b % 16 = b := Nat.div_add_mod b 16
  have t := xorAll_take (fun i => s.bankByte c (16 * (b / 16) + i) o) (b % 16) (List.range 16) List.nodup_range
    (List.mem_range.2 (Nat.mod_lt _ (by decide)))
  simp only [h] at t
  simp only [State.rebuiltByte, State.parityByte, t, Nat.mul_comm (b / 16) 16]
  rw [BitVec.xor_assoc, BitVec.xor_self, BitVec.xor_zero]

/-- A receiver takes a sector as it was sent, unmarked, with a check of its own (R230). -/
theorem SectorInFlight.receive_send (d : BitVec 128) (t : Tag) (pa : Nat) :
    (SectorInFlight.send d t pa).receive = (⟨d.toNat, some t, false⟩, some (sectorCheck d t pa)) := by
  simp [SectorInFlight.send, SectorInFlight.receive]

/-- A sector whose check fails is marked poisoned, and the receiver keeps no check (R230). -/
theorem SectorInFlight.receive_bad (x : SectorInFlight) (h : x.check ≠ sectorCheck x.data x.tag x.pa) :
    x.receive = (⟨x.data.toNat, some x.tag, true⟩, none) := by
  simp [SectorInFlight.receive, h]

end Sys2Proof.Machine
end

