-- ==== Sys2Proof/Laws/Decode.lean ====
section
/-! SUPPORT. The fields of packed words, and what the decoder does with them. -/

namespace Sys2Proof

/-! ### Slices of an append -/

theorem append_low {m n : Nat} (x : BitVec m) (y : BitVec n) : (x ++ y).extractLsb' 0 n = y := by
  ext i hi
  simp [BitVec.getLsbD_append, hi]

theorem append_skip {m n : Nat} (x : BitVec m) (y : BitVec n) (lo k : Nat) :
    (x ++ y).extractLsb' (n + lo) k = x.extractLsb' lo k := by
  ext i hi
  simp [BitVec.getLsbD_append, show ¬ n + lo + i < n by omega, show n + lo + i - n = lo + i by omega]

theorem slice_all {m : Nat} (x : BitVec m) : x.extractLsb' 0 m = x := by
  ext i hi
  simp

theorem append_high {m n : Nat} (x : BitVec m) (y : BitVec n) : (x ++ y).extractLsb' n m = x :=
  (append_skip x y 0 m).trans (slice_all x)

theorem append_in {m n : Nat} (x : BitVec m) (y : BitVec n) (lo k : Nat) (h : lo + k ≤ n) :
    (x ++ y).extractLsb' lo k = y.extractLsb' lo k := by
  ext i hi
  simp [BitVec.getLsbD_append, show lo + i < n by omega]

theorem append_bool (y : Bool) {n : Nat} (x : BitVec n) : (x ++ BitVec.ofBool y).getLsbD 0 = y := by
  rw [BitVec.getLsbD_append]
  cases y <;> simp

theorem append_bit {m n : Nat} (x : BitVec m) (y : BitVec n) (i : Nat) : (x ++ y).getLsbD (n + i) = x.getLsbD i := by
  simp [BitVec.getLsbD_append]

/-! ### An instruction word (R68) -/

theorem word_op (sw : Bool) (op : BitVec 7) (l : BitVec 24) : (word sw op l).extractLsb' 24 7 = op :=
  (append_skip (BitVec.ofBool sw ++ op) l 0 7).trans (append_low _ op)

theorem word_low (sw : Bool) (op : BitVec 7) (l : BitVec 24) : (word sw op l).extractLsb' 0 24 = l :=
  append_low (BitVec.ofBool sw ++ op) l

theorem word_mark (sw : Bool) (op : BitVec 7) (l : BitVec 24) : (word sw op l).getLsbD 31 = sw :=
  ((append_bit (BitVec.ofBool sw ++ op) l 7).trans (append_bit (BitVec.ofBool sw) op 0)).trans (by simp)

theorem decode_word (sw : Bool) (op : BitVec 7) (l : BitVec 24) : decode (word sw op l) = decodeOp sw op.toNat l := by
  simp only [decode, word_op, word_low, word_mark]

/-! ### The formats (R69) -/

theorem fD_a3 (d a b : BitVec 8) : fD (a3 d a b) = d := (append_skip (d ++ a) b 8 8).trans (append_high d a)
theorem fA_a3 (d a b : BitVec 8) : fA (a3 d a b) = a := (append_skip (d ++ a) b 0 8).trans (append_low d a)
theorem fB_a3 (d a b : BitVec 8) : fB (a3 d a b) = b := append_low (d ++ a) b

/-- The upper nibble pair of d and a (R145, VV). -/
theorem bits20_a3 (d a b : BitVec 8) : bits (a3 d a b) 20 4 = d.extractLsb' 4 4 :=
  (append_skip (d ++ a) b 12 4).trans (append_skip d a 4 4)
theorem bits16_a3 (d a b : BitVec 8) : bits (a3 d a b) 16 4 = d.extractLsb' 0 4 :=
  (append_skip (d ++ a) b 8 4).trans (append_skip d a 0 4)
theorem bits12_a3 (d a b : BitVec 8) : bits (a3 d a b) 12 4 = a.extractLsb' 4 4 :=
  (append_skip (d ++ a) b 4 4).trans (append_in d a 4 4 (by omega))
theorem bits8_a3 (d a b : BitVec 8) : bits (a3 d a b) 8 4 = a.extractLsb' 0 4 :=
  (append_skip (d ++ a) b 0 4).trans (append_in d a 0 4 (by omega))
theorem bits4_a3 (d a b : BitVec 8) : bits (a3 d a b) 4 4 = b.extractLsb' 4 4 := append_in (d ++ a) b 4 4 (by omega)
theorem bits0_a3 (d a b : BitVec 8) : bits (a3 d a b) 0 4 = b.extractLsb' 0 4 := append_in (d ++ a) b 0 4 (by omega)

theorem f16_a3 (d a b : BitVec 8) : f16 (a3 d a b) = a ++ b :=
  (congrArg (BitVec.extractLsb' 0 16) (BitVec.append_assoc (x₁ := d) (x₂ := a) (x₃ := b))).trans (append_low d (a ++ b))

theorem fD_im16 (d : BitVec 8) (i : BitVec 16) : fD (im16 d i) = d := append_high d i
theorem f16_im16 (d : BitVec 8) (i : BitVec 16) : f16 (im16 d i) = i := append_low d i
theorem bits16_im16 (d : BitVec 8) (i : BitVec 16) (n : Nat) : bits (im16 d i) 16 n = d.extractLsb' 0 n :=
  append_skip d i 0 n
theorem bits22_im16 (d : BitVec 8) (i : BitVec 16) : bits (im16 d i) 22 1 = d.extractLsb' 6 1 := append_skip d i 6 1
theorem flag23_im16 (d : BitVec 8) (i : BitVec 16) : flag (im16 d i) 23 = d.getLsbD 7 := append_bit d i 7

section VV
variable (vd va vb vc : BitVec 4) (t : BitVec 3) (m : BitVec 2) (f : BitVec 3)

theorem vD_vv : vD (vv vd va vb vc t m f) = vd :=
  (append_skip (vd ++ va ++ vb ++ vc ++ t ++ m) f 17 4).trans <| (append_skip (vd ++ va ++ vb ++ vc ++ t) m 15 4).trans <|
    (append_skip (vd ++ va ++ vb ++ vc) t 12 4).trans <| (append_skip (vd ++ va ++ vb) vc 8 4).trans <|
    (append_skip (vd ++ va) vb 4 4).trans (append_high vd va)
theorem vA_vv : vA (vv vd va vb vc t m f) = va :=
  (append_skip (vd ++ va ++ vb ++ vc ++ t ++ m) f 13 4).trans <| (append_skip (vd ++ va ++ vb ++ vc ++ t) m 11 4).trans <|
    (append_skip (vd ++ va ++ vb ++ vc) t 8 4).trans <| (append_skip (vd ++ va ++ vb) vc 4 4).trans <|
    (append_skip (vd ++ va) vb 0 4).trans (append_low vd va)
theorem vB_vv : vB (vv vd va vb vc t m f) = vb :=
  (append_skip (vd ++ va ++ vb ++ vc ++ t ++ m) f 9 4).trans <| (append_skip (vd ++ va ++ vb ++ vc ++ t) m 7 4).trans <|
    (append_skip (vd ++ va ++ vb ++ vc) t 4 4).trans <| (append_skip (vd ++ va ++ vb) vc 0 4).trans (append_low _ vb)
theorem vC_vv : vC (vv vd va vb vc t m f) = vc :=
  (append_skip (vd ++ va ++ vb ++ vc ++ t ++ m) f 5 4).trans <| (append_skip (vd ++ va ++ vb ++ vc ++ t) m 3 4).trans <|
    (append_skip (vd ++ va ++ vb ++ vc) t 0 4).trans (append_low _ vc)
theorem vT_vv : vT (vv vd va vb vc t m f) = t :=
  (append_skip (vd ++ va ++ vb ++ vc ++ t ++ m) f 2 3).trans <| (append_skip (vd ++ va ++ vb ++ vc ++ t) m 0 3).trans
    (append_low _ t)
theorem bits3_vv : bits (vv vd va vb vc t m f) 3 2 = m :=
  (append_skip (vd ++ va ++ vb ++ vc ++ t ++ m) f 0 2).trans (append_low _ m)
theorem bits0_vv : bits (vv vd va vb vc t m f) 0 3 = f := append_low _ f
end VV

section VX
variable (v : BitVec 4) (xa mid : BitVec 8) (t : BitVec 3) (k : Bool)

theorem vD_vx : vD (vx v xa mid t k) = v :=
  (append_skip (v ++ xa ++ mid ++ t) (BitVec.ofBool k) 19 4).trans <| (append_skip (v ++ xa ++ mid) t 16 4).trans <|
    (append_skip (v ++ xa) mid 8 4).trans (append_high v xa)
theorem xA_vx : xA (vx v xa mid t k) = xa :=
  (append_skip (v ++ xa ++ mid ++ t) (BitVec.ofBool k) 11 8).trans <| (append_skip (v ++ xa ++ mid) t 8 8).trans <|
    (append_skip (v ++ xa) mid 0 8).trans (append_low v xa)
theorem xM_vx : xM (vx v xa mid t k) = mid :=
  (append_skip (v ++ xa ++ mid ++ t) (BitVec.ofBool k) 3 8).trans <| (append_skip (v ++ xa ++ mid) t 0 8).trans
    (append_low _ mid)
theorem bits8_vx : bits (vx v xa mid t k) 8 4 = mid.extractLsb' 4 4 :=
  (append_skip (v ++ xa ++ mid ++ t) (BitVec.ofBool k) 7 4).trans <| (append_skip (v ++ xa ++ mid) t 4 4).trans
    (append_in _ mid 4 4 (by omega))
theorem bits4_vx : bits (vx v xa mid t k) 4 4 = mid.extractLsb' 0 4 :=
  (append_skip (v ++ xa ++ mid ++ t) (BitVec.ofBool k) 3 4).trans <| (append_skip (v ++ xa ++ mid) t 0 4).trans
    (append_in _ mid 0 4 (by omega))
theorem bits1_vx : bits (vx v xa mid t k) 1 3 = t :=
  (append_skip (v ++ xa ++ mid ++ t) (BitVec.ofBool k) 0 3).trans (append_low _ t)
theorem flag_vx : flag (vx v xa mid t k) 0 = k := append_bool k _
end VX

section AT
variable (d a : BitVec 8) (fn : BitVec 3) (sc : BitVec 4) (o : Bool)

theorem fD_at : fD (at_ d a fn sc o) = d :=
  (append_skip (d ++ a ++ fn ++ sc) (BitVec.ofBool o) 15 8).trans <| (append_skip (d ++ a ++ fn) sc 11 8).trans <|
    (append_skip (d ++ a) fn 8 8).trans (append_high d a)
theorem fA_at : fA (at_ d a fn sc o) = a :=
  (append_skip (d ++ a ++ fn ++ sc) (BitVec.ofBool o) 7 8).trans <| (append_skip (d ++ a ++ fn) sc 3 8).trans <|
    (append_skip (d ++ a) fn 0 8).trans (append_low d a)
theorem bits5_at : bits (at_ d a fn sc o) 5 3 = fn :=
  (append_skip (d ++ a ++ fn ++ sc) (BitVec.ofBool o) 4 3).trans <| (append_skip (d ++ a ++ fn) sc 0 3).trans (append_low _ fn)
theorem bits1_at : bits (at_ d a fn sc o) 1 4 = sc :=
  (append_skip (d ++ a ++ fn ++ sc) (BitVec.ofBool o) 0 4).trans (append_low _ sc)
theorem flag_at : flag (at_ d a fn sc o) 0 = o := append_bool o _
theorem bits0_at : bits (at_ d a fn sc o) 0 1 = BitVec.ofBool o := append_low _ _
end AT

section MX
variable (acc : BitVec 2) (z : Bool) (sn : BitVec 3) (t : BitVec 4) (mid : BitVec 6) (b : BitVec 8)

theorem bits22_mx : bits (mx acc z sn t mid b) 22 2 = acc :=
  (append_skip (acc ++ BitVec.ofBool z ++ sn ++ t ++ mid) b 14 2).trans <|
    (append_skip (acc ++ BitVec.ofBool z ++ sn ++ t) mid 8 2).trans <|
    (append_skip (acc ++ BitVec.ofBool z ++ sn) t 4 2).trans <| (append_skip (acc ++ BitVec.ofBool z) sn 1 2).trans
    (append_high acc _)
theorem flag21_mx : flag (mx acc z sn t mid b) 21 = z :=
  (append_bit (acc ++ BitVec.ofBool z ++ sn ++ t ++ mid) b 13).trans <|
    (append_bit (acc ++ BitVec.ofBool z ++ sn ++ t) mid 7).trans <|
    (append_bit (acc ++ BitVec.ofBool z ++ sn) t 3).trans <| (append_bit (acc ++ BitVec.ofBool z) sn 0).trans
    (append_bool z acc)
theorem bits18_mx : bits (mx acc z sn t mid b) 18 3 = sn :=
  (append_skip (acc ++ BitVec.ofBool z ++ sn ++ t ++ mid) b 10 3).trans <|
    (append_skip (acc ++ BitVec.ofBool z ++ sn ++ t) mid 4 3).trans <|
    (append_skip (acc ++ BitVec.ofBool z ++ sn) t 0 3).trans (append_low _ sn)
theorem bits14_mx : bits (mx acc z sn t mid b) 14 4 = t :=
  (append_skip (acc ++ BitVec.ofBool z ++ sn ++ t ++ mid) b 6 4).trans <|
    (append_skip (acc ++ BitVec.ofBool z ++ sn ++ t) mid 0 4).trans (append_low _ t)
theorem bits8_mx (n : Nat) (h : n ≤ 6) : bits (mx acc z sn t mid b) 8 n = mid.extractLsb' 0 n :=
  (append_skip (acc ++ BitVec.ofBool z ++ sn ++ t ++ mid) b 0 n).trans (append_in _ mid 0 n (by omega))
theorem bits11_mx : bits (mx acc z sn t mid b) 11 3 = mid.extractLsb' 3 3 :=
  (append_skip (acc ++ BitVec.ofBool z ++ sn ++ t ++ mid) b 3 3).trans (append_in _ mid 3 3 (by omega))
theorem fB_mx : fB (mx acc z sn t mid b) = b := append_low _ b
end MX

section MREAD
variable (vd : BitVec 4) (acc : BitVec 2) (t : BitVec 4) (b : BitVec 8)

theorem vD_mread : vD (vd ++ acc ++ t ++ (0 : BitVec 6) ++ b) = vd :=
  (append_skip (vd ++ acc ++ t ++ (0 : BitVec 6)) b 12 4).trans <| (append_skip (vd ++ acc ++ t) (0 : BitVec 6) 6 4).trans <|
    (append_skip (vd ++ acc) t 2 4).trans (append_high vd acc)
theorem bits18_mread : bits (vd ++ acc ++ t ++ (0 : BitVec 6) ++ b) 18 2 = acc :=
  (append_skip (vd ++ acc ++ t ++ (0 : BitVec 6)) b 10 2).trans <| (append_skip (vd ++ acc ++ t) (0 : BitVec 6) 4 2).trans <|
    (append_skip (vd ++ acc) t 0 2).trans (append_low vd acc)
theorem bits14_mread : bits (vd ++ acc ++ t ++ (0 : BitVec 6) ++ b) 14 4 = t :=
  (append_skip (vd ++ acc ++ t ++ (0 : BitVec 6)) b 6 4).trans <| (append_skip (vd ++ acc ++ t) (0 : BitVec 6) 0 4).trans
    (append_low _ t)
theorem bits8_mread : bits (vd ++ acc ++ t ++ (0 : BitVec 6) ++ b) 8 6 = 0 :=
  (append_skip (vd ++ acc ++ t ++ (0 : BitVec 6)) b 0 6).trans (append_low _ _)
theorem fB_mread : fB (vd ++ acc ++ t ++ (0 : BitVec 6) ++ b) = b := append_low _ b
end MREAD

section REP
variable (n : BitVec 4) (t : BitVec 6) (sd sa sb : BitVec 4)

theorem vD_rep : vD (n ++ t ++ sd ++ sa ++ sb ++ (0 : BitVec 2)) = n :=
  (append_skip (n ++ t ++ sd ++ sa ++ sb) (0 : BitVec 2) 18 4).trans <| (append_skip (n ++ t ++ sd ++ sa) sb 14 4).trans <|
    (append_skip (n ++ t ++ sd) sa 10 4).trans <| (append_skip (n ++ t) sd 6 4).trans (append_high n t)
theorem bits14_rep : bits (n ++ t ++ sd ++ sa ++ sb ++ (0 : BitVec 2)) 14 6 = t :=
  (append_skip (n ++ t ++ sd ++ sa ++ sb) (0 : BitVec 2) 12 6).trans <| (append_skip (n ++ t ++ sd ++ sa) sb 8 6).trans <|
    (append_skip (n ++ t ++ sd) sa 4 6).trans <| (append_skip (n ++ t) sd 0 6).trans (append_low n t)
theorem bits10_rep : bits (n ++ t ++ sd ++ sa ++ sb ++ (0 : BitVec 2)) 10 4 = sd :=
  (append_skip (n ++ t ++ sd ++ sa ++ sb) (0 : BitVec 2) 8 4).trans <| (append_skip (n ++ t ++ sd ++ sa) sb 4 4).trans <|
    (append_skip (n ++ t ++ sd) sa 0 4).trans (append_low _ sd)
theorem bits6_rep : bits (n ++ t ++ sd ++ sa ++ sb ++ (0 : BitVec 2)) 6 4 = sa :=
  (append_skip (n ++ t ++ sd ++ sa ++ sb) (0 : BitVec 2) 4 4).trans <| (append_skip (n ++ t ++ sd ++ sa) sb 0 4).trans
    (append_low _ sa)
theorem bits2_rep : bits (n ++ t ++ sd ++ sa ++ sb ++ (0 : BitVec 2)) 2 4 = sb :=
  (append_skip (n ++ t ++ sd ++ sa ++ sb) (0 : BitVec 2) 0 4).trans (append_low _ sb)
theorem bits0_rep : bits (n ++ t ++ sd ++ sa ++ sb ++ (0 : BitVec 2)) 0 2 = 0 := append_low _ _
end REP

/-! ### P and the selector of BMB and BCR -/

theorem bmb_zero (p : Bool) (i : BitVec 6) : (BitVec.ofBool p ++ (0 : BitVec 1) ++ i).extractLsb' 6 1 = 0 :=
  (append_skip (BitVec.ofBool p ++ (0 : BitVec 1)) i 0 1).trans (append_low _ _)
theorem bmb_index (p : Bool) (i : BitVec 6) : (BitVec.ofBool p ++ (0 : BitVec 1) ++ i).extractLsb' 0 6 = i := append_low _ _
theorem bmb_sense (p : Bool) (i : BitVec 6) : (BitVec.ofBool p ++ (0 : BitVec 1) ++ i).getLsbD 7 = p :=
  ((append_bit (BitVec.ofBool p ++ (0 : BitVec 1)) i 1).trans (append_bit (BitVec.ofBool p) _ 0)).trans (by simp)
theorem bcr_index (p : Bool) (n : BitVec 7) : (BitVec.ofBool p ++ n).extractLsb' 0 7 = n := append_low _ _
theorem bcr_sense (p : Bool) (n : BitVec 7) : (BitVec.ofBool p ++ n).getLsbD 7 = p :=
  (append_bit (BitVec.ofBool p) n 0).trans (by simp)

/-! ### Codes -/

theorem elemType_code (t : ElemType) : ElemType.ofCode t.code = some t := by cases t <;> rfl
theorem maskSel_code (m : MaskSel) : MaskSel.ofCode m.code = m := by cases m <;> rfl
theorem maskReg_code (m : MaskReg) : MaskReg.ofCode m.code = some m := by cases m <;> rfl
theorem fenceKind_code (k : FenceKind) : FenceKind.ofCode k.code = some k := by cases k <;> rfl
theorem cvtType_code (t : CvtType) : CvtType.ofCode t.code = some t := by cases t <;> rfl
theorem matType_code (t : MatType) : MatType.ofCode t.code = some t := by cases t <;> rfl

theorem vM_vv (vd va vb vc : BitVec 4) (t : BitVec 3) (m : MaskSel) (f : BitVec 3) :
    vM (vv vd va vb vc t m.code f) = m := by
  rw [vM, bits3_vv, maskSel_code]

theorem whenZero_zero {n : Nat} (i : Instr) : whenZero (0 : BitVec n) i = .ok i := by simp [whenZero]

theorem vvForm_vv (o : VvOp) (vd va vb vc : BitVec 4) (t : ElemType) (m : MaskSel) (f : BitVec 3)
    (k : ElemType → MaskSel → BitVec 3 → Except Reject Instr) (h : o.ok f t = true) :
    vvForm o (vv vd va vb vc t.code m.code f) k = k t m f := by
  simp only [vvForm, vT_vv, elemType_code, bits0_vv, h, if_true, vM_vv]

theorem vxForm_vx (v : BitVec 4) (xa mid : BitVec 8) (t : ElemType) (b : Bool) (k : ElemType → Except Reject Instr) :
    vxForm (vx v xa mid t.code b) k = k t := by
  simp only [vxForm, bits1_vx, elemType_code]

end Sys2Proof
end

