-- ==== Sys2Proof/Laws/Tab.lean ====
section
/-! SUPPORT. Reading a sparse table after an update, and the order of its keys. -/

namespace Sys2Proof.Machine

variable {α : Type}

@[simp] theorem Tab.find_set_self (t : Tab α) (k : Nat) (v : α) : Tab.find (Tab.set t k v) k = some v := by
  induction t with
  | nil => simp [Tab.set, Tab.find]
  | cons h t ih =>
    obtain ⟨j, w⟩ := h
    simp only [Tab.set]
    split
    · simp [Tab.find]
    · split
      · simp [Tab.find]
      · simp [Tab.find, *]

theorem Tab.find_set_ne (t : Tab α) {k i : Nat} (v : α) (h : i ≠ k) : Tab.find (Tab.set t k v) i = Tab.find t i := by
  induction t with
  | nil => simp [Tab.set, Tab.find, Ne.symm h]
  | cons e t ih =>
    obtain ⟨j, w⟩ := e
    simp only [Tab.set]
    split
    · rename_i hj
      subst hj
      simp [Tab.find, Ne.symm h]
    · split
      · simp [Tab.find, Ne.symm h]
      · simp [Tab.find, ih]

@[simp] theorem Tab.getD_set_self (t : Tab α) (k : Nat) (v d : α) : Tab.getD (Tab.set t k v) k d = v := by
  simp [Tab.getD]

theorem Tab.getD_set_ne (t : Tab α) {k i : Nat} (v d : α) (h : i ≠ k) :
    Tab.getD (Tab.set t k v) i d = Tab.getD t i d := by
  simp [Tab.getD, Tab.find_set_ne t v h]

theorem Tab.getD_set (t : Tab α) (k i : Nat) (v d : α) :
    Tab.getD (Tab.set t k v) i d = if i = k then v else Tab.getD t i d := by
  split
  · rename_i h
    rw [h, Tab.getD_set_self]
  · rename_i h
    exact Tab.getD_set_ne t v d h

theorem Tab.find_erase_ne (t : Tab α) {k i : Nat} (h : i ≠ k) : Tab.find (Tab.erase t k) i = Tab.find t i := by
  induction t with
  | nil => rfl
  | cons e t ih =>
    obtain ⟨j, w⟩ := e
    simp only [Tab.erase]
    split
    · rename_i hj
      subst hj
      simp [Tab.find, Ne.symm h, ih]
    · simp [Tab.find, ih]

/-! ### Order -/

theorem Tab.rising_mono (t : Tab α) {lo hi : Nat} (h : lo ≤ hi) (ht : Tab.risingFrom hi t = true) :
    Tab.risingFrom lo t = true := by
  cases t with
  | nil => rfl
  | cons e t =>
    obtain ⟨j, w⟩ := e
    simp only [Tab.risingFrom, Bool.and_eq_true, decide_eq_true_eq] at ht ⊢
    exact ⟨by omega, ht.2⟩

/-- Below its bound a table in order lists nothing. -/
theorem Tab.find_below (t : Tab α) {lo k : Nat} (ht : Tab.risingFrom lo t = true) (h : k < lo) : Tab.find t k = none := by
  induction t generalizing lo with
  | nil => rfl
  | cons e t ih =>
    obtain ⟨j, w⟩ := e
    simp only [Tab.risingFrom, Bool.and_eq_true, decide_eq_true_eq] at ht
    simp only [Tab.find]
    rw [if_neg (by omega)]
    exact ih ht.2 (by omega)

theorem Tab.rising_set (t : Tab α) {lo k : Nat} (v : α) (ht : Tab.risingFrom lo t = true) (h : lo ≤ k) :
    Tab.risingFrom lo (Tab.set t k v) = true := by
  induction t generalizing lo with
  | nil => simp [Tab.set, Tab.risingFrom, h]
  | cons e t ih =>
    obtain ⟨j, w⟩ := e
    simp only [Tab.risingFrom, Bool.and_eq_true, decide_eq_true_eq] at ht
    simp only [Tab.set]
    split
    · rename_i hj
      subst hj
      simp [Tab.risingFrom, ht.1, ht.2]
    · split
      · simp only [Tab.risingFrom, Bool.and_eq_true, decide_eq_true_eq]
        exact ⟨h, by omega, ht.2⟩
      · simp only [Tab.risingFrom, Bool.and_eq_true, decide_eq_true_eq]
        exact ⟨ht.1, ih ht.2 (by omega)⟩

theorem Tab.rising_erase (t : Tab α) {lo k : Nat} (ht : Tab.risingFrom lo t = true) :
    Tab.risingFrom lo (Tab.erase t k) = true := by
  induction t generalizing lo with
  | nil => rfl
  | cons e t ih =>
    obtain ⟨j, w⟩ := e
    simp only [Tab.risingFrom, Bool.and_eq_true, decide_eq_true_eq] at ht
    simp only [Tab.erase]
    split
    · exact Tab.rising_mono _ (by omega) (ih ht.2)
    · simp only [Tab.risingFrom, Bool.and_eq_true, decide_eq_true_eq]
      exact ⟨ht.1, ih ht.2⟩

theorem Tab.wf_set (t : Tab α) (k : Nat) (v : α) (h : Tab.wf t = true) : Tab.wf (Tab.set t k v) = true :=
  Tab.rising_set t v h (Nat.zero_le k)

theorem Tab.wf_erase (t : Tab α) (k : Nat) (h : Tab.wf t = true) : Tab.wf (Tab.erase t k) = true :=
  Tab.rising_erase t h

/-- Erasing a key leaves nothing there. -/
@[simp] theorem Tab.find_erase_self (t : Tab α) (k : Nat) : Tab.find (Tab.erase t k) k = none := by
  induction t with
  | nil => rfl
  | cons e t ih =>
    obtain ⟨j, w⟩ := e
    simp only [Tab.erase]
    split
    · exact ih
    · rename_i hj
      simp only [Tab.find, if_neg hj]
      exact ih

theorem Tab.rising_filter (p : Nat × α → Bool) (t : Tab α) {lo : Nat} (h : Tab.risingFrom lo t = true) :
    Tab.risingFrom lo (t.filter p) = true := by
  induction t generalizing lo with
  | nil => rfl
  | cons e t ih =>
    obtain ⟨j, w⟩ := e
    simp only [Tab.risingFrom, Bool.and_eq_true, decide_eq_true_eq] at h
    simp only [List.filter_cons]
    split
    · simp only [Tab.risingFrom, Bool.and_eq_true, decide_eq_true_eq]
      exact ⟨h.1, ih h.2⟩
    · exact Tab.rising_mono _ (by omega) (ih h.2)

theorem Tab.mem_set (t : Tab α) (k : Nat) (v : α) {e : Nat × α} (h : e ∈ Tab.set t k v) : e = (k, v) ∨ e ∈ t := by
  induction t with
  | nil => simpa [Tab.set] using h
  | cons f t ih =>
    obtain ⟨j, w⟩ := f
    simp only [Tab.set] at h
    split at h
    · rcases List.mem_cons.1 h with h | h
      · exact .inl h
      · exact .inr (List.mem_cons_of_mem _ h)
    · split at h
      · rcases List.mem_cons.1 h with h | h
        · exact .inl h
        · exact .inr h
      · rcases List.mem_cons.1 h with h | h
        · exact .inr (h ▸ List.mem_cons_self ..)
        · rcases ih h with h | h
          · exact .inl h
          · exact .inr (List.mem_cons_of_mem _ h)

theorem Tab.mem_erase (t : Tab α) (k : Nat) {e : Nat × α} (h : e ∈ Tab.erase t k) : e ∈ t := by
  induction t with
  | nil => exact h
  | cons f t ih =>
    obtain ⟨j, w⟩ := f
    simp only [Tab.erase] at h
    split at h
    · exact List.mem_cons_of_mem _ (ih h)
    · rcases List.mem_cons.1 h with h | h
      · exact h ▸ List.mem_cons_self ..
      · exact List.mem_cons_of_mem _ (ih h)

end Sys2Proof.Machine
end

