-- ==== Sys2Proof/Laws/Memory.lean ====
section
/-! SUPPORT. Memory keeps its canonical form, and a read after a write gives what was written. -/

namespace Sys2Proof.Machine

theorem Memory.wf_iff (m : List Host.Cell) : Memory.wf m = true ↔ Tab.wf m = true ∧ ∀ c ∈ m, c.2 ≠ 0 := by
  simp [Memory.wf, List.all_eq_true]

theorem Memory.wf_nil : Memory.wf [] = true := rfl

/-! ### One byte -/

theorem writeByte_wf (m : List Host.Cell) (a : Nat) (v : Byte) (h : Memory.wf m = true) :
    Memory.wf (writeByte m a v) = true := by
  rw [Memory.wf_iff] at h ⊢
  simp only [writeByte, Tab.put]
  split
  · exact ⟨Tab.wf_erase _ _ h.1, fun c hc => h.2 c (Tab.mem_erase _ _ hc)⟩
  · rename_i hv
    refine ⟨Tab.wf_set _ _ _ h.1, fun c hc => ?_⟩
    rcases Tab.mem_set _ _ _ hc with rfl | hc
    · exact hv
    · exact h.2 c hc

/-- A byte reads as it was written. -/
theorem readByte_writeByte_self (m : List Host.Cell) (a : Nat) (v : Byte) :
    readByte (writeByte m a v) a = v := by
  simp only [readByte, writeByte, Tab.put, Tab.getD]
  split
  · rename_i hv
    rw [Tab.find_erase_self, hv]
    rfl
  · rw [Tab.find_set_self]
    rfl

/-- A write leaves every other byte alone. -/
theorem readByte_writeByte_ne (m : List Host.Cell) {a b : Nat} (v : Byte) (h : b ≠ a) :
    readByte (writeByte m a v) b = readByte m b := by
  simp only [readByte, writeByte, Tab.put, Tab.getD]
  split
  · rw [Tab.find_erase_ne _ h]
  · rw [Tab.find_set_ne _ _ h]

/-! ### Several bytes -/

theorem writeBytes_wf (m : List Host.Cell) (a n v : Nat) (h : Memory.wf m = true) :
    Memory.wf (writeBytes m a n v) = true := by
  induction n generalizing m a v with
  | zero => exact h
  | succ n ih => exact ih _ _ _ (writeByte_wf m a _ h)

theorem zeroBytes_wf (m : List Host.Cell) (a n : Nat) (h : Memory.wf m = true) : Memory.wf (zeroBytes m a n) = true := by
  induction n generalizing m a with
  | zero => exact h
  | succ n ih => exact ih _ _ (writeByte_wf m a _ h)

theorem filter_wf (p : Host.Cell → Bool) (m : List Host.Cell) (h : Memory.wf m = true) : Memory.wf (m.filter p) = true := by
  rw [Memory.wf_iff] at h ⊢
  exact ⟨Tab.rising_filter p m h.1, fun c hc => h.2 c (List.mem_of_mem_filter hc)⟩

theorem readByte_writeBytes_out (m : List Host.Cell) (a n v b : Nat) (h : b < a ∨ a + n ≤ b) :
    readByte (writeBytes m a n v) b = readByte m b := by
  induction n generalizing m a v with
  | zero => rfl
  | succ n ih =>
    rw [writeBytes, ih _ _ _ (by omega), readByte_writeByte_ne _ _ (by omega)]

theorem readByte_zeroBytes_out (m : List Host.Cell) (a n b : Nat) (h : b < a ∨ a + n ≤ b) :
    readByte (zeroBytes m a n) b = readByte m b := by
  induction n generalizing m a with
  | zero => rfl
  | succ n ih =>
    rw [zeroBytes, ih _ _ (by omega), readByte_writeByte_ne _ _ (by omega)]

/-- The bytes a write stored are read back (R7). -/
theorem readBytes_writeBytes (m : List Host.Cell) (a n v : Nat) :
    readBytes (writeBytes m a n v) a n = v % 256 ^ n := by
  induction n generalizing m a v with
  | zero => simp [readBytes, Nat.mod_one]
  | succ n ih =>
    rw [writeBytes, readBytes, readByte_writeBytes_out _ _ _ _ _ (by omega), readByte_writeByte_self,
      ih]
    simp only [BitVec.toNat_ofNat]
    rw [show 256 ^ (n + 1) = 256 * 256 ^ n from Nat.pow_succ', Nat.mod_mul]

end Sys2Proof.Machine
end

