-- ==== Sys2Proof/Laws/State.lean ====
section
/-! SUPPORT. Fields after updates. -/

namespace Sys2Proof.Machine

/-! ### setCore -/

@[simp] theorem State.setCore_cur (s : State) (n : Nat) (c : Core) : (s.setCore n c).cur = s.cur := rfl
@[simp] theorem State.setCore_ctx (s : State) (n : Nat) (c : Core) : (s.setCore n c).ctx = s.ctx := rfl
@[simp] theorem State.setCore_agenda (s : State) (n : Nat) (c : Core) : (s.setCore n c).agenda = s.agenda := rfl
@[simp] theorem State.setCore_turn (s : State) (n : Nat) (c : Core) : (s.setCore n c).turn = s.turn := rfl
@[simp] theorem State.setCore_chips (s : State) (n : Nat) (c : Core) : (s.setCore n c).chips = s.chips := rfl
@[simp] theorem State.setCore_mem (s : State) (n : Nat) (c : Core) : (s.setCore n c).mem = s.mem := rfl
@[simp] theorem State.setCore_otag (s : State) (n : Nat) (c : Core) : (s.setCore n c).otag = s.otag := rfl
@[simp] theorem State.setCore_poison (s : State) (n : Nat) (c : Core) : (s.setCore n c).poison = s.poison := rfl
@[simp] theorem State.setCore_code (s : State) (n : Nat) (c : Core) : (s.setCore n c).code = s.code := rfl
@[simp] theorem State.setCore_l2 (s : State) (n : Nat) (c : Core) : (s.setCore n c).l2 = s.l2 := rfl
@[simp] theorem State.setCore_ub (s : State) (n : Nat) (c : Core) : (s.setCore n c).ub = s.ub := rfl
@[simp] theorem State.setCore_reqs (s : State) (n : Nat) (c : Core) : (s.setCore n c).reqs = s.reqs := rfl
@[simp] theorem State.setCore_fresh (s : State) (n : Nat) (c : Core) : (s.setCore n c).fresh = s.fresh := rfl
@[simp] theorem State.setCore_ops (s : State) (n : Nat) (c : Core) : (s.setCore n c).ops = s.ops := rfl
@[simp] theorem State.setCore_redsets (s : State) (n : Nat) (c : Core) : (s.setCore n c).redsets = s.redsets := rfl
@[simp] theorem State.setCore_slots (s : State) (n : Nat) (c : Core) : (s.setCore n c).slots = s.slots := rfl
@[simp] theorem State.setCore_parts (s : State) (n : Nat) (c : Core) : (s.setCore n c).parts = s.parts := rfl
@[simp] theorem State.setCore_regions (s : State) (n : Nat) (c : Core) : (s.setCore n c).regions = s.regions := rfl
@[simp] theorem State.setCore_streams (s : State) (n : Nat) (c : Core) : (s.setCore n c).streams = s.streams := rfl
@[simp] theorem State.setCore_flights (s : State) (n : Nat) (c : Core) : (s.setCore n c).flights = s.flights := rfl
@[simp] theorem State.setCore_pairs (s : State) (n : Nat) (c : Core) : (s.setCore n c).pairs = s.pairs := rfl
@[simp] theorem State.setCore_mirrors (s : State) (n : Nat) (c : Core) : (s.setCore n c).mirrors = s.mirrors := rfl
@[simp] theorem State.setCore_remap (s : State) (n : Nat) (c : Core) : (s.setCore n c).remap = s.remap := rfl
@[simp] theorem State.setCore_pending (s : State) (n : Nat) (c : Core) : (s.setCore n c).pending = s.pending := rfl
@[simp] theorem State.setCore_tg (s : State) (n : Nat) (c : Core) : (s.setCore n c).tg = s.tg := rfl
@[simp] theorem State.setCore_flipped (s : State) (n : Nat) (c : Core) : (s.setCore n c).flipped = s.flipped := rfl
@[simp] theorem State.setCore_former (s : State) (n : Nat) (c : Core) : (s.setCore n c).former = s.former := rfl
@[simp] theorem State.setCore_updates (s : State) (n : Nat) (c : Core) : (s.setCore n c).updates = s.updates := rfl
@[simp] theorem State.setCore_paths (s : State) (n : Nat) (c : Core) : (s.setCore n c).paths = s.paths := rfl
@[simp] theorem State.setCore_asks (s : State) (n : Nat) (c : Core) : (s.setCore n c).asks = s.asks := rfl
@[simp] theorem State.setCore_sites (s : State) (n : Nat) (c : Core) : (s.setCore n c).sites = s.sites := rfl
@[simp] theorem State.setCore_wharves (s : State) (n : Nat) (c : Core) : (s.setCore n c).wharves = s.wharves := rfl
@[simp] theorem State.setCore_routes (s : State) (n : Nat) (c : Core) : (s.setCore n c).routes = s.routes := rfl
@[simp] theorem State.setCore_tout (s : State) (n : Nat) (c : Core) : (s.setCore n c).tout = s.tout := rfl
@[simp] theorem State.setCore_power (s : State) (n : Nat) (c : Core) : (s.setCore n c).power = s.power := rfl
@[simp] theorem State.setCore_panel (s : State) (n : Nat) (c : Core) : (s.setCore n c).panel = s.panel := rfl
@[simp] theorem State.setCore_funcs (s : State) (n : Nat) (c : Core) : (s.setCore n c).funcs = s.funcs := rfl
@[simp] theorem State.setCore_guast (s : State) (n : Nat) (c : Core) : (s.setCore n c).guast = s.guast := rfl
@[simp] theorem State.setCore_unattributed (s : State) (n : Nat) (c : Core) : (s.setCore n c).unattributed = s.unattributed := rfl
@[simp] theorem State.setCore_survey (s : State) (n : Nat) (c : Core) : (s.setCore n c).survey = s.survey := rfl
@[simp] theorem State.setCore_boot (s : State) (n : Nat) (c : Core) : (s.setCore n c).boot = s.boot := rfl
@[simp] theorem State.setCore_svc (s : State) (n : Nat) (c : Core) : (s.setCore n c).svc = s.svc := rfl
@[simp] theorem State.setCore_plan (s : State) (n : Nat) (c : Core) : (s.setCore n c).plan = s.plan := rfl
@[simp] theorem State.setCore_trust (s : State) (n : Nat) (c : Core) : (s.setCore n c).trust = s.trust := rfl
@[simp] theorem State.setCore_doe (s : State) (n : Nat) (c : Core) : (s.setCore n c).doe = s.doe := rfl
@[simp] theorem State.setCore_parity (s : State) (n : Nat) (c : Core) : (s.setCore n c).parity = s.parity := rfl

/-! ### setChip -/

@[simp] theorem State.setChip_cur (s : State) (n : Nat) (c : Chiplet) : (s.setChip n c).cur = s.cur := rfl
@[simp] theorem State.setChip_ctx (s : State) (n : Nat) (c : Chiplet) : (s.setChip n c).ctx = s.ctx := rfl
@[simp] theorem State.setChip_agenda (s : State) (n : Nat) (c : Chiplet) : (s.setChip n c).agenda = s.agenda := rfl
@[simp] theorem State.setChip_turn (s : State) (n : Nat) (c : Chiplet) : (s.setChip n c).turn = s.turn := rfl
@[simp] theorem State.setChip_cores (s : State) (n : Nat) (c : Chiplet) : (s.setChip n c).cores = s.cores := rfl
@[simp] theorem State.setChip_mem (s : State) (n : Nat) (c : Chiplet) : (s.setChip n c).mem = s.mem := rfl
@[simp] theorem State.setChip_otag (s : State) (n : Nat) (c : Chiplet) : (s.setChip n c).otag = s.otag := rfl
@[simp] theorem State.setChip_poison (s : State) (n : Nat) (c : Chiplet) : (s.setChip n c).poison = s.poison := rfl
@[simp] theorem State.setChip_code (s : State) (n : Nat) (c : Chiplet) : (s.setChip n c).code = s.code := rfl
@[simp] theorem State.setChip_l2 (s : State) (n : Nat) (c : Chiplet) : (s.setChip n c).l2 = s.l2 := rfl
@[simp] theorem State.setChip_ub (s : State) (n : Nat) (c : Chiplet) : (s.setChip n c).ub = s.ub := rfl
@[simp] theorem State.setChip_reqs (s : State) (n : Nat) (c : Chiplet) : (s.setChip n c).reqs = s.reqs := rfl
@[simp] theorem State.setChip_fresh (s : State) (n : Nat) (c : Chiplet) : (s.setChip n c).fresh = s.fresh := rfl
@[simp] theorem State.setChip_ops (s : State) (n : Nat) (c : Chiplet) : (s.setChip n c).ops = s.ops := rfl
@[simp] theorem State.setChip_redsets (s : State) (n : Nat) (c : Chiplet) : (s.setChip n c).redsets = s.redsets := rfl
@[simp] theorem State.setChip_slots (s : State) (n : Nat) (c : Chiplet) : (s.setChip n c).slots = s.slots := rfl
@[simp] theorem State.setChip_parts (s : State) (n : Nat) (c : Chiplet) : (s.setChip n c).parts = s.parts := rfl
@[simp] theorem State.setChip_regions (s : State) (n : Nat) (c : Chiplet) : (s.setChip n c).regions = s.regions := rfl
@[simp] theorem State.setChip_streams (s : State) (n : Nat) (c : Chiplet) : (s.setChip n c).streams = s.streams := rfl
@[simp] theorem State.setChip_flights (s : State) (n : Nat) (c : Chiplet) : (s.setChip n c).flights = s.flights := rfl
@[simp] theorem State.setChip_pairs (s : State) (n : Nat) (c : Chiplet) : (s.setChip n c).pairs = s.pairs := rfl
@[simp] theorem State.setChip_mirrors (s : State) (n : Nat) (c : Chiplet) : (s.setChip n c).mirrors = s.mirrors := rfl
@[simp] theorem State.setChip_remap (s : State) (n : Nat) (c : Chiplet) : (s.setChip n c).remap = s.remap := rfl
@[simp] theorem State.setChip_pending (s : State) (n : Nat) (c : Chiplet) : (s.setChip n c).pending = s.pending := rfl
@[simp] theorem State.setChip_tg (s : State) (n : Nat) (c : Chiplet) : (s.setChip n c).tg = s.tg := rfl
@[simp] theorem State.setChip_flipped (s : State) (n : Nat) (c : Chiplet) : (s.setChip n c).flipped = s.flipped := rfl
@[simp] theorem State.setChip_former (s : State) (n : Nat) (c : Chiplet) : (s.setChip n c).former = s.former := rfl
@[simp] theorem State.setChip_updates (s : State) (n : Nat) (c : Chiplet) : (s.setChip n c).updates = s.updates := rfl
@[simp] theorem State.setChip_paths (s : State) (n : Nat) (c : Chiplet) : (s.setChip n c).paths = s.paths := rfl
@[simp] theorem State.setChip_asks (s : State) (n : Nat) (c : Chiplet) : (s.setChip n c).asks = s.asks := rfl
@[simp] theorem State.setChip_sites (s : State) (n : Nat) (c : Chiplet) : (s.setChip n c).sites = s.sites := rfl
@[simp] theorem State.setChip_wharves (s : State) (n : Nat) (c : Chiplet) : (s.setChip n c).wharves = s.wharves := rfl
@[simp] theorem State.setChip_routes (s : State) (n : Nat) (c : Chiplet) : (s.setChip n c).routes = s.routes := rfl
@[simp] theorem State.setChip_tout (s : State) (n : Nat) (c : Chiplet) : (s.setChip n c).tout = s.tout := rfl
@[simp] theorem State.setChip_power (s : State) (n : Nat) (c : Chiplet) : (s.setChip n c).power = s.power := rfl
@[simp] theorem State.setChip_panel (s : State) (n : Nat) (c : Chiplet) : (s.setChip n c).panel = s.panel := rfl
@[simp] theorem State.setChip_funcs (s : State) (n : Nat) (c : Chiplet) : (s.setChip n c).funcs = s.funcs := rfl
@[simp] theorem State.setChip_guast (s : State) (n : Nat) (c : Chiplet) : (s.setChip n c).guast = s.guast := rfl
@[simp] theorem State.setChip_unattributed (s : State) (n : Nat) (c : Chiplet) : (s.setChip n c).unattributed = s.unattributed := rfl
@[simp] theorem State.setChip_survey (s : State) (n : Nat) (c : Chiplet) : (s.setChip n c).survey = s.survey := rfl
@[simp] theorem State.setChip_boot (s : State) (n : Nat) (c : Chiplet) : (s.setChip n c).boot = s.boot := rfl
@[simp] theorem State.setChip_svc (s : State) (n : Nat) (c : Chiplet) : (s.setChip n c).svc = s.svc := rfl
@[simp] theorem State.setChip_plan (s : State) (n : Nat) (c : Chiplet) : (s.setChip n c).plan = s.plan := rfl
@[simp] theorem State.setChip_trust (s : State) (n : Nat) (c : Chiplet) : (s.setChip n c).trust = s.trust := rfl
@[simp] theorem State.setChip_doe (s : State) (n : Nat) (c : Chiplet) : (s.setChip n c).doe = s.doe := rfl
@[simp] theorem State.setChip_parity (s : State) (n : Nat) (c : Chiplet) : (s.setChip n c).parity = s.parity := rfl

/-! ### setPart -/

@[simp] theorem State.setPart_cur (s : State) (p : Nat) (v : Part) : (s.setPart p v).cur = s.cur := rfl
@[simp] theorem State.setPart_ctx (s : State) (p : Nat) (v : Part) : (s.setPart p v).ctx = s.ctx := rfl
@[simp] theorem State.setPart_agenda (s : State) (p : Nat) (v : Part) : (s.setPart p v).agenda = s.agenda := rfl
@[simp] theorem State.setPart_turn (s : State) (p : Nat) (v : Part) : (s.setPart p v).turn = s.turn := rfl
@[simp] theorem State.setPart_cores (s : State) (p : Nat) (v : Part) : (s.setPart p v).cores = s.cores := rfl
@[simp] theorem State.setPart_chips (s : State) (p : Nat) (v : Part) : (s.setPart p v).chips = s.chips := rfl
@[simp] theorem State.setPart_mem (s : State) (p : Nat) (v : Part) : (s.setPart p v).mem = s.mem := rfl
@[simp] theorem State.setPart_otag (s : State) (p : Nat) (v : Part) : (s.setPart p v).otag = s.otag := rfl
@[simp] theorem State.setPart_poison (s : State) (p : Nat) (v : Part) : (s.setPart p v).poison = s.poison := rfl
@[simp] theorem State.setPart_code (s : State) (p : Nat) (v : Part) : (s.setPart p v).code = s.code := rfl
@[simp] theorem State.setPart_l2 (s : State) (p : Nat) (v : Part) : (s.setPart p v).l2 = s.l2 := rfl
@[simp] theorem State.setPart_ub (s : State) (p : Nat) (v : Part) : (s.setPart p v).ub = s.ub := rfl
@[simp] theorem State.setPart_reqs (s : State) (p : Nat) (v : Part) : (s.setPart p v).reqs = s.reqs := rfl
@[simp] theorem State.setPart_fresh (s : State) (p : Nat) (v : Part) : (s.setPart p v).fresh = s.fresh := rfl
@[simp] theorem State.setPart_ops (s : State) (p : Nat) (v : Part) : (s.setPart p v).ops = s.ops := rfl
@[simp] theorem State.setPart_redsets (s : State) (p : Nat) (v : Part) : (s.setPart p v).redsets = s.redsets := rfl
@[simp] theorem State.setPart_slots (s : State) (p : Nat) (v : Part) : (s.setPart p v).slots = s.slots := rfl
@[simp] theorem State.setPart_regions (s : State) (p : Nat) (v : Part) : (s.setPart p v).regions = s.regions := rfl
@[simp] theorem State.setPart_streams (s : State) (p : Nat) (v : Part) : (s.setPart p v).streams = s.streams := rfl
@[simp] theorem State.setPart_flights (s : State) (p : Nat) (v : Part) : (s.setPart p v).flights = s.flights := rfl
@[simp] theorem State.setPart_pairs (s : State) (p : Nat) (v : Part) : (s.setPart p v).pairs = s.pairs := rfl
@[simp] theorem State.setPart_mirrors (s : State) (p : Nat) (v : Part) : (s.setPart p v).mirrors = s.mirrors := rfl
@[simp] theorem State.setPart_remap (s : State) (p : Nat) (v : Part) : (s.setPart p v).remap = s.remap := rfl
@[simp] theorem State.setPart_pending (s : State) (p : Nat) (v : Part) : (s.setPart p v).pending = s.pending := rfl
@[simp] theorem State.setPart_tg (s : State) (p : Nat) (v : Part) : (s.setPart p v).tg = s.tg := rfl
@[simp] theorem State.setPart_flipped (s : State) (p : Nat) (v : Part) : (s.setPart p v).flipped = s.flipped := rfl
@[simp] theorem State.setPart_former (s : State) (p : Nat) (v : Part) : (s.setPart p v).former = s.former := rfl
@[simp] theorem State.setPart_updates (s : State) (p : Nat) (v : Part) : (s.setPart p v).updates = s.updates := rfl
@[simp] theorem State.setPart_paths (s : State) (p : Nat) (v : Part) : (s.setPart p v).paths = s.paths := rfl
@[simp] theorem State.setPart_asks (s : State) (p : Nat) (v : Part) : (s.setPart p v).asks = s.asks := rfl
@[simp] theorem State.setPart_sites (s : State) (p : Nat) (v : Part) : (s.setPart p v).sites = s.sites := rfl
@[simp] theorem State.setPart_wharves (s : State) (p : Nat) (v : Part) : (s.setPart p v).wharves = s.wharves := rfl
@[simp] theorem State.setPart_routes (s : State) (p : Nat) (v : Part) : (s.setPart p v).routes = s.routes := rfl
@[simp] theorem State.setPart_tout (s : State) (p : Nat) (v : Part) : (s.setPart p v).tout = s.tout := rfl
@[simp] theorem State.setPart_power (s : State) (p : Nat) (v : Part) : (s.setPart p v).power = s.power := rfl
@[simp] theorem State.setPart_panel (s : State) (p : Nat) (v : Part) : (s.setPart p v).panel = s.panel := rfl
@[simp] theorem State.setPart_funcs (s : State) (p : Nat) (v : Part) : (s.setPart p v).funcs = s.funcs := rfl
@[simp] theorem State.setPart_guast (s : State) (p : Nat) (v : Part) : (s.setPart p v).guast = s.guast := rfl
@[simp] theorem State.setPart_unattributed (s : State) (p : Nat) (v : Part) : (s.setPart p v).unattributed = s.unattributed := rfl
@[simp] theorem State.setPart_survey (s : State) (p : Nat) (v : Part) : (s.setPart p v).survey = s.survey := rfl
@[simp] theorem State.setPart_boot (s : State) (p : Nat) (v : Part) : (s.setPart p v).boot = s.boot := rfl
@[simp] theorem State.setPart_svc (s : State) (p : Nat) (v : Part) : (s.setPart p v).svc = s.svc := rfl
@[simp] theorem State.setPart_plan (s : State) (p : Nat) (v : Part) : (s.setPart p v).plan = s.plan := rfl
@[simp] theorem State.setPart_trust (s : State) (p : Nat) (v : Part) : (s.setPart p v).trust = s.trust := rfl
@[simp] theorem State.setPart_doe (s : State) (p : Nat) (v : Part) : (s.setPart p v).doe = s.doe := rfl
@[simp] theorem State.setPart_parity (s : State) (p : Nat) (v : Part) : (s.setPart p v).parity = s.parity := rfl

/-! ### setFunc -/

@[simp] theorem State.setFunc_cur (s : State) (f : Nat) (v : Func) : (s.setFunc f v).cur = s.cur := rfl
@[simp] theorem State.setFunc_ctx (s : State) (f : Nat) (v : Func) : (s.setFunc f v).ctx = s.ctx := rfl
@[simp] theorem State.setFunc_agenda (s : State) (f : Nat) (v : Func) : (s.setFunc f v).agenda = s.agenda := rfl
@[simp] theorem State.setFunc_turn (s : State) (f : Nat) (v : Func) : (s.setFunc f v).turn = s.turn := rfl
@[simp] theorem State.setFunc_cores (s : State) (f : Nat) (v : Func) : (s.setFunc f v).cores = s.cores := rfl
@[simp] theorem State.setFunc_chips (s : State) (f : Nat) (v : Func) : (s.setFunc f v).chips = s.chips := rfl
@[simp] theorem State.setFunc_mem (s : State) (f : Nat) (v : Func) : (s.setFunc f v).mem = s.mem := rfl
@[simp] theorem State.setFunc_otag (s : State) (f : Nat) (v : Func) : (s.setFunc f v).otag = s.otag := rfl
@[simp] theorem State.setFunc_poison (s : State) (f : Nat) (v : Func) : (s.setFunc f v).poison = s.poison := rfl
@[simp] theorem State.setFunc_code (s : State) (f : Nat) (v : Func) : (s.setFunc f v).code = s.code := rfl
@[simp] theorem State.setFunc_l2 (s : State) (f : Nat) (v : Func) : (s.setFunc f v).l2 = s.l2 := rfl
@[simp] theorem State.setFunc_ub (s : State) (f : Nat) (v : Func) : (s.setFunc f v).ub = s.ub := rfl
@[simp] theorem State.setFunc_reqs (s : State) (f : Nat) (v : Func) : (s.setFunc f v).reqs = s.reqs := rfl
@[simp] theorem State.setFunc_fresh (s : State) (f : Nat) (v : Func) : (s.setFunc f v).fresh = s.fresh := rfl
@[simp] theorem State.setFunc_ops (s : State) (f : Nat) (v : Func) : (s.setFunc f v).ops = s.ops := rfl
@[simp] theorem State.setFunc_redsets (s : State) (f : Nat) (v : Func) : (s.setFunc f v).redsets = s.redsets := rfl
@[simp] theorem State.setFunc_slots (s : State) (f : Nat) (v : Func) : (s.setFunc f v).slots = s.slots := rfl
@[simp] theorem State.setFunc_parts (s : State) (f : Nat) (v : Func) : (s.setFunc f v).parts = s.parts := rfl
@[simp] theorem State.setFunc_regions (s : State) (f : Nat) (v : Func) : (s.setFunc f v).regions = s.regions := rfl
@[simp] theorem State.setFunc_streams (s : State) (f : Nat) (v : Func) : (s.setFunc f v).streams = s.streams := rfl
@[simp] theorem State.setFunc_flights (s : State) (f : Nat) (v : Func) : (s.setFunc f v).flights = s.flights := rfl
@[simp] theorem State.setFunc_pairs (s : State) (f : Nat) (v : Func) : (s.setFunc f v).pairs = s.pairs := rfl
@[simp] theorem State.setFunc_mirrors (s : State) (f : Nat) (v : Func) : (s.setFunc f v).mirrors = s.mirrors := rfl
@[simp] theorem State.setFunc_remap (s : State) (f : Nat) (v : Func) : (s.setFunc f v).remap = s.remap := rfl
@[simp] theorem State.setFunc_pending (s : State) (f : Nat) (v : Func) : (s.setFunc f v).pending = s.pending := rfl
@[simp] theorem State.setFunc_tg (s : State) (f : Nat) (v : Func) : (s.setFunc f v).tg = s.tg := rfl
@[simp] theorem State.setFunc_flipped (s : State) (f : Nat) (v : Func) : (s.setFunc f v).flipped = s.flipped := rfl
@[simp] theorem State.setFunc_former (s : State) (f : Nat) (v : Func) : (s.setFunc f v).former = s.former := rfl
@[simp] theorem State.setFunc_updates (s : State) (f : Nat) (v : Func) : (s.setFunc f v).updates = s.updates := rfl
@[simp] theorem State.setFunc_paths (s : State) (f : Nat) (v : Func) : (s.setFunc f v).paths = s.paths := rfl
@[simp] theorem State.setFunc_asks (s : State) (f : Nat) (v : Func) : (s.setFunc f v).asks = s.asks := rfl
@[simp] theorem State.setFunc_sites (s : State) (f : Nat) (v : Func) : (s.setFunc f v).sites = s.sites := rfl
@[simp] theorem State.setFunc_wharves (s : State) (f : Nat) (v : Func) : (s.setFunc f v).wharves = s.wharves := rfl
@[simp] theorem State.setFunc_routes (s : State) (f : Nat) (v : Func) : (s.setFunc f v).routes = s.routes := rfl
@[simp] theorem State.setFunc_tout (s : State) (f : Nat) (v : Func) : (s.setFunc f v).tout = s.tout := rfl
@[simp] theorem State.setFunc_power (s : State) (f : Nat) (v : Func) : (s.setFunc f v).power = s.power := rfl
@[simp] theorem State.setFunc_panel (s : State) (f : Nat) (v : Func) : (s.setFunc f v).panel = s.panel := rfl
@[simp] theorem State.setFunc_guast (s : State) (f : Nat) (v : Func) : (s.setFunc f v).guast = s.guast := rfl
@[simp] theorem State.setFunc_unattributed (s : State) (f : Nat) (v : Func) : (s.setFunc f v).unattributed = s.unattributed := rfl
@[simp] theorem State.setFunc_survey (s : State) (f : Nat) (v : Func) : (s.setFunc f v).survey = s.survey := rfl
@[simp] theorem State.setFunc_boot (s : State) (f : Nat) (v : Func) : (s.setFunc f v).boot = s.boot := rfl
@[simp] theorem State.setFunc_svc (s : State) (f : Nat) (v : Func) : (s.setFunc f v).svc = s.svc := rfl
@[simp] theorem State.setFunc_plan (s : State) (f : Nat) (v : Func) : (s.setFunc f v).plan = s.plan := rfl
@[simp] theorem State.setFunc_trust (s : State) (f : Nat) (v : Func) : (s.setFunc f v).trust = s.trust := rfl
@[simp] theorem State.setFunc_doe (s : State) (f : Nat) (v : Func) : (s.setFunc f v).doe = s.doe := rfl
@[simp] theorem State.setFunc_parity (s : State) (f : Nat) (v : Func) : (s.setFunc f v).parity = s.parity := rfl

/-! ### modSlot -/

@[simp] theorem State.modSlot_cur (s : State) (k : BitVec 6) (f : KeySlot → KeySlot) : (s.modSlot k f).cur = s.cur := rfl
@[simp] theorem State.modSlot_ctx (s : State) (k : BitVec 6) (f : KeySlot → KeySlot) : (s.modSlot k f).ctx = s.ctx := rfl
@[simp] theorem State.modSlot_agenda (s : State) (k : BitVec 6) (f : KeySlot → KeySlot) : (s.modSlot k f).agenda = s.agenda := rfl
@[simp] theorem State.modSlot_turn (s : State) (k : BitVec 6) (f : KeySlot → KeySlot) : (s.modSlot k f).turn = s.turn := rfl
@[simp] theorem State.modSlot_cores (s : State) (k : BitVec 6) (f : KeySlot → KeySlot) : (s.modSlot k f).cores = s.cores := rfl
@[simp] theorem State.modSlot_chips (s : State) (k : BitVec 6) (f : KeySlot → KeySlot) : (s.modSlot k f).chips = s.chips := rfl
@[simp] theorem State.modSlot_mem (s : State) (k : BitVec 6) (f : KeySlot → KeySlot) : (s.modSlot k f).mem = s.mem := rfl
@[simp] theorem State.modSlot_otag (s : State) (k : BitVec 6) (f : KeySlot → KeySlot) : (s.modSlot k f).otag = s.otag := rfl
@[simp] theorem State.modSlot_poison (s : State) (k : BitVec 6) (f : KeySlot → KeySlot) : (s.modSlot k f).poison = s.poison := rfl
@[simp] theorem State.modSlot_code (s : State) (k : BitVec 6) (f : KeySlot → KeySlot) : (s.modSlot k f).code = s.code := rfl
@[simp] theorem State.modSlot_l2 (s : State) (k : BitVec 6) (f : KeySlot → KeySlot) : (s.modSlot k f).l2 = s.l2 := rfl
@[simp] theorem State.modSlot_ub (s : State) (k : BitVec 6) (f : KeySlot → KeySlot) : (s.modSlot k f).ub = s.ub := rfl
@[simp] theorem State.modSlot_reqs (s : State) (k : BitVec 6) (f : KeySlot → KeySlot) : (s.modSlot k f).reqs = s.reqs := rfl
@[simp] theorem State.modSlot_fresh (s : State) (k : BitVec 6) (f : KeySlot → KeySlot) : (s.modSlot k f).fresh = s.fresh := rfl
@[simp] theorem State.modSlot_ops (s : State) (k : BitVec 6) (f : KeySlot → KeySlot) : (s.modSlot k f).ops = s.ops := rfl
@[simp] theorem State.modSlot_redsets (s : State) (k : BitVec 6) (f : KeySlot → KeySlot) : (s.modSlot k f).redsets = s.redsets := rfl
@[simp] theorem State.modSlot_parts (s : State) (k : BitVec 6) (f : KeySlot → KeySlot) : (s.modSlot k f).parts = s.parts := rfl
@[simp] theorem State.modSlot_regions (s : State) (k : BitVec 6) (f : KeySlot → KeySlot) : (s.modSlot k f).regions = s.regions := rfl
@[simp] theorem State.modSlot_streams (s : State) (k : BitVec 6) (f : KeySlot → KeySlot) : (s.modSlot k f).streams = s.streams := rfl
@[simp] theorem State.modSlot_flights (s : State) (k : BitVec 6) (f : KeySlot → KeySlot) : (s.modSlot k f).flights = s.flights := rfl
@[simp] theorem State.modSlot_pairs (s : State) (k : BitVec 6) (f : KeySlot → KeySlot) : (s.modSlot k f).pairs = s.pairs := rfl
@[simp] theorem State.modSlot_mirrors (s : State) (k : BitVec 6) (f : KeySlot → KeySlot) : (s.modSlot k f).mirrors = s.mirrors := rfl
@[simp] theorem State.modSlot_remap (s : State) (k : BitVec 6) (f : KeySlot → KeySlot) : (s.modSlot k f).remap = s.remap := rfl
@[simp] theorem State.modSlot_pending (s : State) (k : BitVec 6) (f : KeySlot → KeySlot) : (s.modSlot k f).pending = s.pending := rfl
@[simp] theorem State.modSlot_tg (s : State) (k : BitVec 6) (f : KeySlot → KeySlot) : (s.modSlot k f).tg = s.tg := rfl
@[simp] theorem State.modSlot_flipped (s : State) (k : BitVec 6) (f : KeySlot → KeySlot) : (s.modSlot k f).flipped = s.flipped := rfl
@[simp] theorem State.modSlot_former (s : State) (k : BitVec 6) (f : KeySlot → KeySlot) : (s.modSlot k f).former = s.former := rfl
@[simp] theorem State.modSlot_updates (s : State) (k : BitVec 6) (f : KeySlot → KeySlot) : (s.modSlot k f).updates = s.updates := rfl
@[simp] theorem State.modSlot_paths (s : State) (k : BitVec 6) (f : KeySlot → KeySlot) : (s.modSlot k f).paths = s.paths := rfl
@[simp] theorem State.modSlot_asks (s : State) (k : BitVec 6) (f : KeySlot → KeySlot) : (s.modSlot k f).asks = s.asks := rfl
@[simp] theorem State.modSlot_sites (s : State) (k : BitVec 6) (f : KeySlot → KeySlot) : (s.modSlot k f).sites = s.sites := rfl
@[simp] theorem State.modSlot_wharves (s : State) (k : BitVec 6) (f : KeySlot → KeySlot) : (s.modSlot k f).wharves = s.wharves := rfl
@[simp] theorem State.modSlot_routes (s : State) (k : BitVec 6) (f : KeySlot → KeySlot) : (s.modSlot k f).routes = s.routes := rfl
@[simp] theorem State.modSlot_tout (s : State) (k : BitVec 6) (f : KeySlot → KeySlot) : (s.modSlot k f).tout = s.tout := rfl
@[simp] theorem State.modSlot_power (s : State) (k : BitVec 6) (f : KeySlot → KeySlot) : (s.modSlot k f).power = s.power := rfl
@[simp] theorem State.modSlot_panel (s : State) (k : BitVec 6) (f : KeySlot → KeySlot) : (s.modSlot k f).panel = s.panel := rfl
@[simp] theorem State.modSlot_funcs (s : State) (k : BitVec 6) (f : KeySlot → KeySlot) : (s.modSlot k f).funcs = s.funcs := rfl
@[simp] theorem State.modSlot_guast (s : State) (k : BitVec 6) (f : KeySlot → KeySlot) : (s.modSlot k f).guast = s.guast := rfl
@[simp] theorem State.modSlot_unattributed (s : State) (k : BitVec 6) (f : KeySlot → KeySlot) : (s.modSlot k f).unattributed = s.unattributed := rfl
@[simp] theorem State.modSlot_survey (s : State) (k : BitVec 6) (f : KeySlot → KeySlot) : (s.modSlot k f).survey = s.survey := rfl
@[simp] theorem State.modSlot_boot (s : State) (k : BitVec 6) (f : KeySlot → KeySlot) : (s.modSlot k f).boot = s.boot := rfl
@[simp] theorem State.modSlot_svc (s : State) (k : BitVec 6) (f : KeySlot → KeySlot) : (s.modSlot k f).svc = s.svc := rfl
@[simp] theorem State.modSlot_plan (s : State) (k : BitVec 6) (f : KeySlot → KeySlot) : (s.modSlot k f).plan = s.plan := rfl
@[simp] theorem State.modSlot_trust (s : State) (k : BitVec 6) (f : KeySlot → KeySlot) : (s.modSlot k f).trust = s.trust := rfl
@[simp] theorem State.modSlot_doe (s : State) (k : BitVec 6) (f : KeySlot → KeySlot) : (s.modSlot k f).doe = s.doe := rfl
@[simp] theorem State.modSlot_parity (s : State) (k : BitVec 6) (f : KeySlot → KeySlot) : (s.modSlot k f).parity = s.parity := rfl

/-! ### modOp -/

@[simp] theorem State.modOp_cur (s : State) (i : Nat) (f : EngineOp → EngineOp) : (s.modOp i f).cur = s.cur := rfl
@[simp] theorem State.modOp_ctx (s : State) (i : Nat) (f : EngineOp → EngineOp) : (s.modOp i f).ctx = s.ctx := rfl
@[simp] theorem State.modOp_agenda (s : State) (i : Nat) (f : EngineOp → EngineOp) : (s.modOp i f).agenda = s.agenda := rfl
@[simp] theorem State.modOp_turn (s : State) (i : Nat) (f : EngineOp → EngineOp) : (s.modOp i f).turn = s.turn := rfl
@[simp] theorem State.modOp_cores (s : State) (i : Nat) (f : EngineOp → EngineOp) : (s.modOp i f).cores = s.cores := rfl
@[simp] theorem State.modOp_chips (s : State) (i : Nat) (f : EngineOp → EngineOp) : (s.modOp i f).chips = s.chips := rfl
@[simp] theorem State.modOp_mem (s : State) (i : Nat) (f : EngineOp → EngineOp) : (s.modOp i f).mem = s.mem := rfl
@[simp] theorem State.modOp_otag (s : State) (i : Nat) (f : EngineOp → EngineOp) : (s.modOp i f).otag = s.otag := rfl
@[simp] theorem State.modOp_poison (s : State) (i : Nat) (f : EngineOp → EngineOp) : (s.modOp i f).poison = s.poison := rfl
@[simp] theorem State.modOp_code (s : State) (i : Nat) (f : EngineOp → EngineOp) : (s.modOp i f).code = s.code := rfl
@[simp] theorem State.modOp_l2 (s : State) (i : Nat) (f : EngineOp → EngineOp) : (s.modOp i f).l2 = s.l2 := rfl
@[simp] theorem State.modOp_ub (s : State) (i : Nat) (f : EngineOp → EngineOp) : (s.modOp i f).ub = s.ub := rfl
@[simp] theorem State.modOp_reqs (s : State) (i : Nat) (f : EngineOp → EngineOp) : (s.modOp i f).reqs = s.reqs := rfl
@[simp] theorem State.modOp_fresh (s : State) (i : Nat) (f : EngineOp → EngineOp) : (s.modOp i f).fresh = s.fresh := rfl
@[simp] theorem State.modOp_redsets (s : State) (i : Nat) (f : EngineOp → EngineOp) : (s.modOp i f).redsets = s.redsets := rfl
@[simp] theorem State.modOp_slots (s : State) (i : Nat) (f : EngineOp → EngineOp) : (s.modOp i f).slots = s.slots := rfl
@[simp] theorem State.modOp_parts (s : State) (i : Nat) (f : EngineOp → EngineOp) : (s.modOp i f).parts = s.parts := rfl
@[simp] theorem State.modOp_regions (s : State) (i : Nat) (f : EngineOp → EngineOp) : (s.modOp i f).regions = s.regions := rfl
@[simp] theorem State.modOp_streams (s : State) (i : Nat) (f : EngineOp → EngineOp) : (s.modOp i f).streams = s.streams := rfl
@[simp] theorem State.modOp_flights (s : State) (i : Nat) (f : EngineOp → EngineOp) : (s.modOp i f).flights = s.flights := rfl
@[simp] theorem State.modOp_pairs (s : State) (i : Nat) (f : EngineOp → EngineOp) : (s.modOp i f).pairs = s.pairs := rfl
@[simp] theorem State.modOp_mirrors (s : State) (i : Nat) (f : EngineOp → EngineOp) : (s.modOp i f).mirrors = s.mirrors := rfl
@[simp] theorem State.modOp_remap (s : State) (i : Nat) (f : EngineOp → EngineOp) : (s.modOp i f).remap = s.remap := rfl
@[simp] theorem State.modOp_pending (s : State) (i : Nat) (f : EngineOp → EngineOp) : (s.modOp i f).pending = s.pending := rfl
@[simp] theorem State.modOp_tg (s : State) (i : Nat) (f : EngineOp → EngineOp) : (s.modOp i f).tg = s.tg := rfl
@[simp] theorem State.modOp_flipped (s : State) (i : Nat) (f : EngineOp → EngineOp) : (s.modOp i f).flipped = s.flipped := rfl
@[simp] theorem State.modOp_former (s : State) (i : Nat) (f : EngineOp → EngineOp) : (s.modOp i f).former = s.former := rfl
@[simp] theorem State.modOp_updates (s : State) (i : Nat) (f : EngineOp → EngineOp) : (s.modOp i f).updates = s.updates := rfl
@[simp] theorem State.modOp_paths (s : State) (i : Nat) (f : EngineOp → EngineOp) : (s.modOp i f).paths = s.paths := rfl
@[simp] theorem State.modOp_asks (s : State) (i : Nat) (f : EngineOp → EngineOp) : (s.modOp i f).asks = s.asks := rfl
@[simp] theorem State.modOp_sites (s : State) (i : Nat) (f : EngineOp → EngineOp) : (s.modOp i f).sites = s.sites := rfl
@[simp] theorem State.modOp_wharves (s : State) (i : Nat) (f : EngineOp → EngineOp) : (s.modOp i f).wharves = s.wharves := rfl
@[simp] theorem State.modOp_routes (s : State) (i : Nat) (f : EngineOp → EngineOp) : (s.modOp i f).routes = s.routes := rfl
@[simp] theorem State.modOp_tout (s : State) (i : Nat) (f : EngineOp → EngineOp) : (s.modOp i f).tout = s.tout := rfl
@[simp] theorem State.modOp_power (s : State) (i : Nat) (f : EngineOp → EngineOp) : (s.modOp i f).power = s.power := rfl
@[simp] theorem State.modOp_panel (s : State) (i : Nat) (f : EngineOp → EngineOp) : (s.modOp i f).panel = s.panel := rfl
@[simp] theorem State.modOp_funcs (s : State) (i : Nat) (f : EngineOp → EngineOp) : (s.modOp i f).funcs = s.funcs := rfl
@[simp] theorem State.modOp_guast (s : State) (i : Nat) (f : EngineOp → EngineOp) : (s.modOp i f).guast = s.guast := rfl
@[simp] theorem State.modOp_unattributed (s : State) (i : Nat) (f : EngineOp → EngineOp) : (s.modOp i f).unattributed = s.unattributed := rfl
@[simp] theorem State.modOp_survey (s : State) (i : Nat) (f : EngineOp → EngineOp) : (s.modOp i f).survey = s.survey := rfl
@[simp] theorem State.modOp_boot (s : State) (i : Nat) (f : EngineOp → EngineOp) : (s.modOp i f).boot = s.boot := rfl
@[simp] theorem State.modOp_svc (s : State) (i : Nat) (f : EngineOp → EngineOp) : (s.modOp i f).svc = s.svc := rfl
@[simp] theorem State.modOp_plan (s : State) (i : Nat) (f : EngineOp → EngineOp) : (s.modOp i f).plan = s.plan := rfl
@[simp] theorem State.modOp_trust (s : State) (i : Nat) (f : EngineOp → EngineOp) : (s.modOp i f).trust = s.trust := rfl
@[simp] theorem State.modOp_doe (s : State) (i : Nat) (f : EngineOp → EngineOp) : (s.modOp i f).doe = s.doe := rfl
@[simp] theorem State.modOp_parity (s : State) (i : Nat) (f : EngineOp → EngineOp) : (s.modOp i f).parity = s.parity := rfl

/-! ### Reading back -/

@[simp] theorem State.setCore_cores (s : State) (n : Nat) (c : Core) : (s.setCore n c).cores = Tab.set s.cores n c := rfl
@[simp] theorem State.core_setCore (s : State) (n : Nat) (c : Core) : (s.setCore n c).core n = c := by simp [State.core]
theorem State.core_setCore_ne (s : State) {n m : Nat} (c : Core) (h : m ≠ n) : (s.setCore n c).core m = s.core m := by
  simp [State.core, Tab.getD_set_ne _ _ _ h]
@[simp] theorem State.chip_setChip (s : State) (n : Nat) (c : Chiplet) : (s.setChip n c).chip n = c := by
  simp [State.chip, State.setChip]
theorem State.chip_setChip_ne (s : State) {n m : Nat} (c : Chiplet) (h : m ≠ n) : (s.setChip n c).chip m = s.chip m := by
  simp [State.chip, State.setChip, Tab.getD_set_ne _ _ _ h]
@[simp] theorem State.part_setPart (s : State) (p : Nat) (v : Part) : (s.setPart p v).part p = v := by
  simp [State.part, State.setPart]
theorem State.part_setPart_ne (s : State) {p q : Nat} (v : Part) (h : q ≠ p) : (s.setPart p v).part q = s.part q := by
  simp [State.part, State.setPart, Tab.getD_set_ne _ _ _ h]
@[simp] theorem State.func_setFunc (s : State) (f : Nat) (v : Func) : (s.setFunc f v).func f = v := by
  simp [State.func, State.setFunc]
theorem State.func_setFunc_ne (s : State) {f g : Nat} (v : Func) (h : g ≠ f) : (s.setFunc f v).func g = s.func g := by
  simp [State.func, State.setFunc, Tab.getD_set_ne _ _ _ h]
@[simp] theorem State.chip_setCore (s : State) (n m : Nat) (c : Core) : (s.setCore n c).chip m = s.chip m := rfl
@[simp] theorem State.part_setCore (s : State) (n p : Nat) (c : Core) : (s.setCore n c).part p = s.part p := rfl
@[simp] theorem State.core_setPart (s : State) (p n : Nat) (v : Part) : (s.setPart p v).core n = s.core n := rfl
@[simp] theorem State.core_setChip (s : State) (c n : Nat) (v : Chiplet) : (s.setChip c v).core n = s.core n := rfl
@[simp] theorem State.core_setFunc (s : State) (f n : Nat) (v : Func) : (s.setFunc f v).core n = s.core n := rfl
@[simp] theorem State.part_setFunc (s : State) (f p : Nat) (v : Func) : (s.setFunc f v).part p = s.part p := rfl

/-! ### Updates by a function, in terms of the plain ones -/

@[simp] theorem State.modCore_eq (s : State) (n : Nat) (f : Core → Core) : s.modCore n f = s.setCore n (f (s.core n)) := rfl
@[simp] theorem State.modChip_eq (s : State) (n : Nat) (f : Chiplet → Chiplet) : s.modChip n f = s.setChip n (f (s.chip n)) :=
  rfl
@[simp] theorem State.modPart_eq (s : State) (p : Nat) (f : Part → Part) : s.modPart p f = s.setPart p (f (s.part p)) := rfl
@[simp] theorem State.modFunc_eq (s : State) (n : Nat) (f : Func → Func) : s.modFunc n f = s.setFunc n (f (s.func n)) := rfl
@[simp] theorem State.modThread_eq (s : State) (n x : Nat) (f : Ctx → Ctx) :
    s.modThread n x f = s.setCore n ((s.core n).setCtx x (f ((s.core n).ctx x))) := rfl
@[simp] theorem State.modThr_eq (s : State) (f : Ctx → Ctx) : s.modThr f = s.modThread s.cur s.ctx f := rfl

/-! ### Contexts and registers of a core -/

@[simp] theorem Core.ctx_setCtx (c : Core) (x : Nat) (t : Ctx) : (c.setCtx x t).ctx x = t := by simp [Core.ctx, Core.setCtx]
theorem Core.ctx_setCtx_ne (c : Core) {x y : Nat} (t : Ctx) (h : y ≠ x) : (c.setCtx x t).ctx y = c.ctx y := by
  simp [Core.ctx, Core.setCtx, Tab.getD_set_ne _ _ _ h]
@[simp] theorem Core.reg_setReg (c : Core) (i : Nat) (r : RegEntry) : (c.setReg i r).reg i = r := by
  simp [Core.reg, Core.setReg]
theorem Core.reg_setReg_ne (c : Core) {i j : Nat} (r : RegEntry) (h : j ≠ i) : (c.setReg i r).reg j = c.reg j := by
  simp [Core.reg, Core.setReg, Tab.getD_set_ne _ _ _ h]
@[simp] theorem Core.reg_setCtx (c : Core) (x i : Nat) (t : Ctx) : (c.setCtx x t).reg i = c.reg i := rfl
@[simp] theorem Core.ctx_setReg (c : Core) (i x : Nat) (r : RegEntry) : (c.setReg i r).ctx x = c.ctx x := rfl

@[simp] theorem Core.setCtx_n (c : Core) (x : Nat) (t : Ctx) : (c.setCtx x t).n = c.n := rfl
@[simp] theorem Core.setCtx_rf (c : Core) (x : Nat) (t : Ctx) : (c.setCtx x t).rf = c.rf := rfl
@[simp] theorem Core.setCtx_cregs (c : Core) (x : Nat) (t : Ctx) : (c.setCtx x t).cregs = c.cregs := rfl
@[simp] theorem Core.setCtx_cpend (c : Core) (x : Nat) (t : Ctx) : (c.setCtx x t).cpend = c.cpend := rfl
@[simp] theorem Core.setCtx_cycle (c : Core) (x : Nat) (t : Ctx) : (c.setCtx x t).cycle = c.cycle := rfl
@[simp] theorem Core.setCtx_last (c : Core) (x : Nat) (t : Ctx) : (c.setCtx x t).last = c.last := rfl
@[simp] theorem Core.setCtx_mxwt (c : Core) (x : Nat) (t : Ctx) : (c.setCtx x t).mxwt = c.mxwt := rfl
@[simp] theorem Core.setCtx_mail (c : Core) (x : Nat) (t : Ctx) : (c.setCtx x t).mail = c.mail := rfl
@[simp] theorem Core.setCtx_reserved (c : Core) (x : Nat) (t : Ctx) : (c.setCtx x t).reserved = c.reserved := rfl
@[simp] theorem Core.setCtx_waitSend (c : Core) (x : Nat) (t : Ctx) : (c.setCtx x t).waitSend = c.waitSend := rfl
@[simp] theorem Core.setCtx_waitRefuse (c : Core) (x : Nat) (t : Ctx) : (c.setCtx x t).waitRefuse = c.waitRefuse := rfl
@[simp] theorem Core.setCtx_waitNotice (c : Core) (x : Nat) (t : Ctx) : (c.setCtx x t).waitNotice = c.waitNotice := rfl
@[simp] theorem Core.setCtx_sendq (c : Core) (x : Nat) (t : Ctx) : (c.setCtx x t).sendq = c.sendq := rfl
@[simp] theorem Core.setCtx_outRefuse (c : Core) (x : Nat) (t : Ctx) : (c.setCtx x t).outRefuse = c.outRefuse := rfl
@[simp] theorem Core.setCtx_inbox (c : Core) (x : Nat) (t : Ctx) : (c.setCtx x t).inbox = c.inbox := rfl
@[simp] theorem Core.setCtx_cmds (c : Core) (x : Nat) (t : Ctx) : (c.setCtx x t).cmds = c.cmds := rfl
@[simp] theorem Core.setCtx_links (c : Core) (x : Nat) (t : Ctx) : (c.setCtx x t).links = c.links := rfl
@[simp] theorem Core.setCtx_fifos (c : Core) (x : Nat) (t : Ctx) : (c.setCtx x t).fifos = c.fifos := rfl
@[simp] theorem Core.setCtx_flying (c : Core) (x : Nat) (t : Ctx) : (c.setCtx x t).flying = c.flying := rfl
@[simp] theorem Core.setCtx_bargeq (c : Core) (x : Nat) (t : Ctx) : (c.setCtx x t).bargeq = c.bargeq := rfl
@[simp] theorem Core.setCtx_bargeWait (c : Core) (x : Nat) (t : Ctx) : (c.setCtx x t).bargeWait = c.bargeWait := rfl
@[simp] theorem Core.setCtx_strm (c : Core) (x : Nat) (t : Ctx) : (c.setCtx x t).strm = c.strm := rfl
@[simp] theorem Core.setCtx_vq (c : Core) (x : Nat) (t : Ctx) : (c.setCtx x t).vq = c.vq := rfl
@[simp] theorem Core.setCtx_mxq (c : Core) (x : Nat) (t : Ctx) : (c.setCtx x t).mxq = c.mxq := rfl
@[simp] theorem Core.setCtx_rowbuf (c : Core) (x : Nat) (t : Ctx) : (c.setCtx x t).rowbuf = c.rowbuf := rfl
@[simp] theorem Core.setCtx_accs (c : Core) (x : Nat) (t : Ctx) : (c.setCtx x t).accs = c.accs := rfl
@[simp] theorem Core.setCtx_btab (c : Core) (x : Nat) (t : Ctx) : (c.setCtx x t).btab = c.btab := rfl
@[simp] theorem Core.setCtx_units (c : Core) (x : Nat) (t : Ctx) : (c.setCtx x t).units = c.units := rfl
@[simp] theorem Core.setCtx_barq (c : Core) (x : Nat) (t : Ctx) : (c.setCtx x t).barq = c.barq := rfl
@[simp] theorem Core.setCtx_straglag (c : Core) (x : Nat) (t : Ctx) : (c.setCtx x t).straglag = c.straglag := rfl
@[simp] theorem Core.setCtx_stragn (c : Core) (x : Nat) (t : Ctx) : (c.setCtx x t).stragn = c.stragn := rfl
@[simp] theorem Core.setCtx_scopes (c : Core) (x : Nat) (t : Ctx) : (c.setCtx x t).scopes = c.scopes := rfl
@[simp] theorem Core.setCtx_installs (c : Core) (x : Nat) (t : Ctx) : (c.setCtx x t).installs = c.installs := rfl
@[simp] theorem Core.setCtx_setNo (c : Core) (x : Nat) (t : Ctx) : (c.setCtx x t).setNo = c.setNo := rfl
@[simp] theorem Core.setCtx_root (c : Core) (x : Nat) (t : Ctx) : (c.setCtx x t).root = c.root := rfl
@[simp] theorem Core.setCtx_tag (c : Core) (x : Nat) (t : Ctx) : (c.setCtx x t).tag = c.tag := rfl
@[simp] theorem Core.setCtx_l1 (c : Core) (x : Nat) (t : Ctx) : (c.setCtx x t).l1 = c.l1 := rfl
@[simp] theorem Core.setCtx_tlb (c : Core) (x : Nat) (t : Ctx) : (c.setCtx x t).tlb = c.tlb := rfl
@[simp] theorem Core.setCtx_opSeq (c : Core) (x : Nat) (t : Ctx) : (c.setCtx x t).opSeq = c.opSeq := rfl
@[simp] theorem Core.setCtx_pairNo (c : Core) (x : Nat) (t : Ctx) : (c.setCtx x t).pairNo = c.pairNo := rfl
@[simp] theorem Core.setCtx_sealed (c : Core) (x : Nat) (t : Ctx) : (c.setCtx x t).sealed = c.sealed := rfl
@[simp] theorem Core.setCtx_stopped (c : Core) (x : Nat) (t : Ctx) : (c.setCtx x t).stopped = c.stopped := rfl
@[simp] theorem Core.setCtx_retiring (c : Core) (x : Nat) (t : Ctx) : (c.setCtx x t).retiring = c.retiring := rfl
@[simp] theorem Core.setCtx_region (c : Core) (x : Nat) (t : Ctx) : (c.setCtx x t).region = c.region := rfl
@[simp] theorem Core.setCtx_task (c : Core) (x : Nat) (t : Ctx) : (c.setCtx x t).task = c.task := rfl
@[simp] theorem Core.setCtx_twin (c : Core) (x : Nat) (t : Ctx) : (c.setCtx x t).twin = c.twin := rfl
@[simp] theorem Core.setCtx_ended (c : Core) (x : Nat) (t : Ctx) : (c.setCtx x t).ended = c.ended := rfl
@[simp] theorem Core.setCtx_recNo (c : Core) (x : Nat) (t : Ctx) : (c.setCtx x t).recNo = c.recNo := rfl

@[simp] theorem Core.setReg_n (c : Core) (i : Nat) (r : RegEntry) : (c.setReg i r).n = c.n := rfl
@[simp] theorem Core.setReg_cregs (c : Core) (i : Nat) (r : RegEntry) : (c.setReg i r).cregs = c.cregs := rfl
@[simp] theorem Core.setReg_cpend (c : Core) (i : Nat) (r : RegEntry) : (c.setReg i r).cpend = c.cpend := rfl
@[simp] theorem Core.setReg_cycle (c : Core) (i : Nat) (r : RegEntry) : (c.setReg i r).cycle = c.cycle := rfl
@[simp] theorem Core.setReg_last (c : Core) (i : Nat) (r : RegEntry) : (c.setReg i r).last = c.last := rfl
@[simp] theorem Core.setReg_mxwt (c : Core) (i : Nat) (r : RegEntry) : (c.setReg i r).mxwt = c.mxwt := rfl
@[simp] theorem Core.setReg_ctxs (c : Core) (i : Nat) (r : RegEntry) : (c.setReg i r).ctxs = c.ctxs := rfl
@[simp] theorem Core.setReg_mail (c : Core) (i : Nat) (r : RegEntry) : (c.setReg i r).mail = c.mail := rfl
@[simp] theorem Core.setReg_reserved (c : Core) (i : Nat) (r : RegEntry) : (c.setReg i r).reserved = c.reserved := rfl
@[simp] theorem Core.setReg_waitSend (c : Core) (i : Nat) (r : RegEntry) : (c.setReg i r).waitSend = c.waitSend := rfl
@[simp] theorem Core.setReg_waitRefuse (c : Core) (i : Nat) (r : RegEntry) : (c.setReg i r).waitRefuse = c.waitRefuse := rfl
@[simp] theorem Core.setReg_waitNotice (c : Core) (i : Nat) (r : RegEntry) : (c.setReg i r).waitNotice = c.waitNotice := rfl
@[simp] theorem Core.setReg_sendq (c : Core) (i : Nat) (r : RegEntry) : (c.setReg i r).sendq = c.sendq := rfl
@[simp] theorem Core.setReg_outRefuse (c : Core) (i : Nat) (r : RegEntry) : (c.setReg i r).outRefuse = c.outRefuse := rfl
@[simp] theorem Core.setReg_inbox (c : Core) (i : Nat) (r : RegEntry) : (c.setReg i r).inbox = c.inbox := rfl
@[simp] theorem Core.setReg_cmds (c : Core) (i : Nat) (r : RegEntry) : (c.setReg i r).cmds = c.cmds := rfl
@[simp] theorem Core.setReg_links (c : Core) (i : Nat) (r : RegEntry) : (c.setReg i r).links = c.links := rfl
@[simp] theorem Core.setReg_fifos (c : Core) (i : Nat) (r : RegEntry) : (c.setReg i r).fifos = c.fifos := rfl
@[simp] theorem Core.setReg_flying (c : Core) (i : Nat) (r : RegEntry) : (c.setReg i r).flying = c.flying := rfl
@[simp] theorem Core.setReg_bargeq (c : Core) (i : Nat) (r : RegEntry) : (c.setReg i r).bargeq = c.bargeq := rfl
@[simp] theorem Core.setReg_bargeWait (c : Core) (i : Nat) (r : RegEntry) : (c.setReg i r).bargeWait = c.bargeWait := rfl
@[simp] theorem Core.setReg_strm (c : Core) (i : Nat) (r : RegEntry) : (c.setReg i r).strm = c.strm := rfl
@[simp] theorem Core.setReg_vq (c : Core) (i : Nat) (r : RegEntry) : (c.setReg i r).vq = c.vq := rfl
@[simp] theorem Core.setReg_mxq (c : Core) (i : Nat) (r : RegEntry) : (c.setReg i r).mxq = c.mxq := rfl
@[simp] theorem Core.setReg_rowbuf (c : Core) (i : Nat) (r : RegEntry) : (c.setReg i r).rowbuf = c.rowbuf := rfl
@[simp] theorem Core.setReg_accs (c : Core) (i : Nat) (r : RegEntry) : (c.setReg i r).accs = c.accs := rfl
@[simp] theorem Core.setReg_btab (c : Core) (i : Nat) (r : RegEntry) : (c.setReg i r).btab = c.btab := rfl
@[simp] theorem Core.setReg_units (c : Core) (i : Nat) (r : RegEntry) : (c.setReg i r).units = c.units := rfl
@[simp] theorem Core.setReg_barq (c : Core) (i : Nat) (r : RegEntry) : (c.setReg i r).barq = c.barq := rfl
@[simp] theorem Core.setReg_straglag (c : Core) (i : Nat) (r : RegEntry) : (c.setReg i r).straglag = c.straglag := rfl
@[simp] theorem Core.setReg_stragn (c : Core) (i : Nat) (r : RegEntry) : (c.setReg i r).stragn = c.stragn := rfl
@[simp] theorem Core.setReg_scopes (c : Core) (i : Nat) (r : RegEntry) : (c.setReg i r).scopes = c.scopes := rfl
@[simp] theorem Core.setReg_installs (c : Core) (i : Nat) (r : RegEntry) : (c.setReg i r).installs = c.installs := rfl
@[simp] theorem Core.setReg_setNo (c : Core) (i : Nat) (r : RegEntry) : (c.setReg i r).setNo = c.setNo := rfl
@[simp] theorem Core.setReg_root (c : Core) (i : Nat) (r : RegEntry) : (c.setReg i r).root = c.root := rfl
@[simp] theorem Core.setReg_tag (c : Core) (i : Nat) (r : RegEntry) : (c.setReg i r).tag = c.tag := rfl
@[simp] theorem Core.setReg_l1 (c : Core) (i : Nat) (r : RegEntry) : (c.setReg i r).l1 = c.l1 := rfl
@[simp] theorem Core.setReg_tlb (c : Core) (i : Nat) (r : RegEntry) : (c.setReg i r).tlb = c.tlb := rfl
@[simp] theorem Core.setReg_opSeq (c : Core) (i : Nat) (r : RegEntry) : (c.setReg i r).opSeq = c.opSeq := rfl
@[simp] theorem Core.setReg_pairNo (c : Core) (i : Nat) (r : RegEntry) : (c.setReg i r).pairNo = c.pairNo := rfl
@[simp] theorem Core.setReg_sealed (c : Core) (i : Nat) (r : RegEntry) : (c.setReg i r).sealed = c.sealed := rfl
@[simp] theorem Core.setReg_stopped (c : Core) (i : Nat) (r : RegEntry) : (c.setReg i r).stopped = c.stopped := rfl
@[simp] theorem Core.setReg_retiring (c : Core) (i : Nat) (r : RegEntry) : (c.setReg i r).retiring = c.retiring := rfl
@[simp] theorem Core.setReg_region (c : Core) (i : Nat) (r : RegEntry) : (c.setReg i r).region = c.region := rfl
@[simp] theorem Core.setReg_task (c : Core) (i : Nat) (r : RegEntry) : (c.setReg i r).task = c.task := rfl
@[simp] theorem Core.setReg_twin (c : Core) (i : Nat) (r : RegEntry) : (c.setReg i r).twin = c.twin := rfl
@[simp] theorem Core.setReg_ended (c : Core) (i : Nat) (r : RegEntry) : (c.setReg i r).ended = c.ended := rfl
@[simp] theorem Core.setReg_recNo (c : Core) (i : Nat) (r : RegEntry) : (c.setReg i r).recNo = c.recNo := rfl

/-! ### The thread that holds the slot -/

theorem State.thr_eq (s : State) : s.thr = (s.core s.cur).ctx s.ctx := rfl
@[simp] theorem State.thr_modThread (s : State) (f : Ctx → Ctx) : (s.modThread s.cur s.ctx f).thr = f s.thr := by
  simp [State.thr, State.thread]

end Sys2Proof.Machine
end

