-- ==== Sys2Proof/Laws/Ops.lean ====
section
/-! SUPPORT. How computations that may stop run, and how they end as a step (R86). -/

namespace Sys2Proof.Machine

/-! ### Running a computation -/

@[simp] theorem act_pure {α : Type} (a : α) (s : State) : (pure a : Act α) s = .ok (a, s) := rfl

/-- The first part of a sequence answers; the rest goes on from the state it leaves. -/
theorem act_bind_ok {α β : Type} {x : Act α} {f : α → Act β} {s s' : State} {a : α} (h : x s = .ok (a, s')) :
    (x >>= f) s = f a s' := by
  simp [bind, StateT.bind, h, Except.bind]

theorem act_bind_error {α β : Type} {x : Act α} {f : α → Act β} {s : State} {e : Stop} (h : x s = .error e) :
    (x >>= f) s = .error e := by
  simp [bind, StateT.bind, h, Except.bind]

/-- A sequence that answers is two parts that answer. -/
theorem act_bind_inv {α β : Type} {x : Act α} {f : α → Act β} {s s' : State} {b : β} (h : (x >>= f) s = .ok (b, s')) :
    ∃ a s1, x s = .ok (a, s1) ∧ f a s1 = .ok (b, s') := by
  cases hx : x s with
  | ok r => exact ⟨r.1, r.2, rfl, by rwa [act_bind_ok hx] at h⟩
  | error e => rw [act_bind_error hx] at h; cases h

@[simp] theorem act_get (s : State) : (get : Act State) s = .ok (s, s) := rfl
@[simp] theorem act_set (s t : State) : (set t : Act Unit) s = .ok ((), t) := rfl
@[simp] theorem act_stop {α : Type} (e : Stop) (s : State) : (stop e : Act α) s = .error e := rfl
@[simp] theorem act_fault {α : Type} (f : FaultInfo) (s : State) : (faultAct f : Act α) s = .error (.fault f) := rfl
@[simp] theorem act_park {α : Type} (p : Park) (s : State) : (parkAct p : Act α) s = .error (.park p) := rfl
@[simp] theorem act_onState (f : State → State) (s : State) : (onState f) s = .ok ((), f s) := rfl

theorem act_get_bind {β : Type} (f : State → Act β) (s : State) : (get >>= f) s = f s s := rfl
theorem act_set_bind {β : Type} (t : State) (f : Unit → Act β) (s : State) : (set t >>= f) s = f () t := rfl
theorem act_onState_bind {β : Type} (g : State → State) (f : Unit → Act β) (s : State) :
    (onState g >>= f) s = f () (g s) := rfl
theorem act_pure_bind {α β : Type} (a : α) (f : α → Act β) (s : State) : (pure a >>= f) s = f a s := rfl

theorem need_true {b : Bool} (h : b = true) (e : Stop) (s : State) : need b e s = .ok ((), s) := by rw [h]; rfl
theorem need_false {b : Bool} (h : b = false) (e : Stop) (s : State) : need b e s = .error e := by rw [h]; rfl
theorem need_bind_true {β : Type} {b : Bool} (h : b = true) (e : Stop) (f : Unit → Act β) (s : State) :
    (need b e >>= f) s = f () s := by rw [h]; rfl
theorem need_bind_false {β : Type} {b : Bool} (h : b = false) (e : Stop) (f : Unit → Act β) (s : State) :
    (need b e >>= f) s = .error e := by rw [h]; rfl

/-- A check that answers held. -/
theorem need_inv {b : Bool} {e : Stop} {s s' : State} {u : Unit} (h : need b e s = .ok (u, s')) : b = true ∧ s' = s := by
  cases b with
  | true => exact ⟨rfl, by cases h; rfl⟩
  | false => cases h

@[simp] theorem retire_run (sw : Bool) (s : State) : retire sw s = .ok ((), s.moved sw) := rfl
@[simp] theorem transfer_run (sw : Bool) (a : Word) (s : State) : transfer sw a s = .ok ((), s.jumped sw a) := rfl

/-! ### The end of an instruction -/

theorem finish_ok {a : Act Unit} {s s' : State} (h : a s = .ok ((), s')) : finish a s = .next s' := by
  simp only [finish, h]

/-- A fault halts the thread: a next state (R86). -/
theorem finish_fault {a : Act Unit} {s : State} {f : FaultInfo} (h : a s = .error (.fault f)) :
    finish a s = .next (s.faulted f) := by
  simp only [finish, h]
  rfl

theorem finish_park {a : Act Unit} {s : State} {p : Park} (h : a s = .error (.park p)) :
    finish a s = .next (s.parkedFor p) := by
  simp only [finish, h]
  rfl

theorem finish_contain {a : Act Unit} {s : State} (h : a s = .error .contain) :
    finish a s = .next (s.containCore s.cur s.ctx) := by
  simp only [finish, h]

/-- The state meets what a form needs (R86 orders 4 to 7). -/
def State.meets (s : State) (f : Form) : Prop :=
  (f.ext = true ∨ s.thr.pre = []) ∧ (f.arith = true ∧ s.thr.pre = [] ∨ s.thr.repA = false) ∧ (f.priv = true → s.thr.priv = true)
  ∧ (∀ x, f.ctx = some x → s.ctx = x)

theorem formGate_ok {f : Form} {s : State} (h : s.meets f) : formGate f s = .ok ((), s) := by
  obtain ⟨h1, h2, h3, h4⟩ := h
  simp only [formGate, act_get_bind]
  rw [need_bind_true (by rcases h1 with h | h <;> simp [h]), need_bind_true (by rcases h2 with ⟨h, h'⟩ | h <;> simp [*]),
    need_bind_true (by cases hp : f.priv <;> simp [*])]
  refine need_true ?_ _ _
  cases hc : f.ctx with
  | none => rfl
  | some x => simpa using h4 x hc

theorem instr_ok {f : Form} {a : Act Unit} {s s' : State} (hf : s.meets f) (h : a s = .ok ((), s')) :
    instr f a s = .next s' :=
  finish_ok ((act_bind_ok (formGate_ok hf)).trans h)

theorem instr_fault {f : Form} {a : Act Unit} {s : State} {x : FaultInfo} (hf : s.meets f) (h : a s = .error (.fault x)) :
    instr f a s = .next (s.faulted x) :=
  finish_fault ((act_bind_ok (formGate_ok hf)).trans h)

theorem instr_park {f : Form} {a : Act Unit} {s : State} {p : Park} (hf : s.meets f) (h : a s = .error (.park p)) :
    instr f a s = .next (s.parkedFor p) :=
  finish_park ((act_bind_ok (formGate_ok hf)).trans h)

theorem instr_contain {f : Form} {a : Act Unit} {s : State} (hf : s.meets f) (h : a s = .error .contain) :
    instr f a s = .next (s.containCore s.cur s.ctx) :=
  finish_contain ((act_bind_ok (formGate_ok hf)).trans h)

end Sys2Proof.Machine
end

