-- ==== Sys2Proof/Laws/Operands.lean ====
section
/-! SUPPORT. Operand fields: when they can be used, a read gives the field's value and a write leaves what the field's
kind says (R15, R96, R168, R266). -/

namespace Sys2Proof.Machine

theorem firstSome_none {α β : Type} (f : α → Option β) (l : List α) (h : ∀ a ∈ l, f a = none) : firstSome f l = none := by
  induction l with
  | nil => rfl
  | cons a t ih =>
    simp only [firstSome, h a (List.mem_cons_self ..)]
    exact ih fun b hb => h b (List.mem_cons_of_mem _ hb)

/-- Fields that can be used pass every check before issue. -/
theorem operands_ok {s : State} {srcs dsts : List Reg} (h : s.canUse srcs dsts) : operands srcs dsts s = .ok ((), s) := by
  obtain ⟨h1, h2, h3, h4, h5, h6⟩ := h
  simp only [operands, act_get_bind]
  rw [need_bind_true (by simpa [List.all_eq_true] using And.intro h1 h2)]
  have h3 : ∀ r ∈ srcs, s.srcStop s.cur r.toNat (countOf r srcs) = none := fun r hr => by
    simp only [State.srcStop, h3 r hr, Option.map_none]
  simp only [firstSome_none _ _ h3, firstSome_none _ _ h4, firstSome_none _ _ h5, firstSome_none _ _ h6, act_pure]

/-! ### Supply -/

/-- Field r can be read k times. -/
def State.has (s : State) (r : Reg) (k : Nat) : Prop :=
  k = 0 ∨ (readable s.thr.size r = true
    ∧ (∀ p, inFifo r.toNat = some p → k ≤ ((s.core s.cur).fifo p).length)
    ∧ (∀ n, inFifo r.toNat = none → streamOf r.toNat = some n →
        ∃ b, (s.core s.cur).binding n = .input b ∧ k ≤ b.total - b.popped ∧ k ≤ b.supply))

theorem canUse_has {s : State} {srcs dsts : List Reg} (h : s.canUse srcs dsts) {r : Reg} (hr : r ∈ srcs) :
    s.has r (countOf r srcs) := by
  obtain ⟨h1, -, h3, -, h5, -⟩ := h
  refine .inr ⟨h1 r hr, fun p hp => ?_, fun n hp hn => ?_⟩
  · have h := h5 r hr
    have hlt : ¬ r.toNat < 0x80 := by
      intro hl
      simp only [inFifo] at hp
      split at hp <;> first | omega | cases hp
    simp only [State.srcPark, hlt, if_false, hp] at h
    split at h
    · cases h
    · omega
  · have h5 := h5 r hr
    have h3 := h3 r hr
    have hlt : ¬ r.toNat < 0x80 := by
      intro hl
      simp only [streamOf] at hn
      split at hn <;> first | omega | cases hn
    simp only [State.srcPark, hlt, if_false, hp, hn] at h5
    simp only [State.srcFault, hp, hn] at h3
    cases hb : (s.core s.cur).binding n with
    | unbound => simp [hb] at h3
    | output id => simp [hb] at h3
    | input b =>
      simp only [hb] at h3 h5
      refine ⟨b, rfl, ?_, ?_⟩
      · split at h3
        · omega
        · cases h3
      · split at h5
        · cases h5
        · omega

/-! ### Reading -/

theorem fifo_def (c : Core) (p : InPort) : c.fifo p = Tab.getD c.fifos (portKey p) [] := rfl

theorem readReg_ok {s : State} {r : Reg} {k : Nat} (h : s.has r (k + 1)) :
    readReg r s = .ok (s.value r, s.afterRead r) := by
  rcases h with h | ⟨hn, hp, hs⟩
  · omega
  simp only [readReg, act_get_bind, State.value, State.afterRead]
  by_cases h80 : r.toNat < 0x80
  · simp [h80, show r.toNat < 0xA0 by omega]
  by_cases hA0 : r.toNat < 0xA0
  · simp [h80, hA0]
  simp only [h80, hA0, if_false]
  cases hf : inFifo r.toNat with
  | some p =>
    have hl := hp p hf
    cases hw : (s.core s.cur).fifo p with
    | nil => simp [hw] at hl
    | cons w rest =>
      simp only [hw]
      rfl
  | none =>
    cases hk : streamOf r.toNat with
    | some n =>
      obtain ⟨b, hb, -, -⟩ := hs n hf hk
      simp [hb, act_set_bind]
    | none =>
      simp only
      have hr : r.toNat = 0xB0 ∨ r.toNat = 0xB1 ∨ r.toNat = 0xB2 ∨ r.toNat = 0xB3 ∨ r.toNat = 0xB4 ∨ r.toNat = 0xB5
          ∨ r.toNat = 0xB6 ∨ r.toNat = 0xB7 := by
        simp only [readable, h80, if_false, Bool.and_eq_true, decide_eq_true_eq, bne_iff_ne] at hn
        simp only [streamOf] at hk
        split at hk
        · cases hk
        simp only [inFifo] at hf
        split at hf <;> first | (cases hf; done) | (simp only [imp_false] at *; omega)
      rcases hr with h | h | h | h | h | h | h | h <;> simp [h]

/-! ### What a read leaves -/

theorem afterRead_frame (s : State) (r : Reg) :
    ∃ c, s.afterRead r = { s with cores := c } ∧ (s.afterRead r).thr = s.thr := by
  simp only [State.afterRead]
  split
  · exact ⟨s.cores, rfl, rfl⟩
  split
  · exact ⟨_, rfl, by simp [State.thr, State.thread, Core.ctx]⟩
  · split
    · exact ⟨_, rfl, by simp [State.thr, State.thread, Core.ctx]⟩
    · exact ⟨s.cores, rfl, rfl⟩
  · exact ⟨s.cores, rfl, rfl⟩

@[simp] theorem afterRead_thr (s : State) (r : Reg) : (s.afterRead r).thr = s.thr := (afterRead_frame s r).choose_spec.2
@[simp] theorem afterRead_cur (s : State) (r : Reg) : (s.afterRead r).cur = s.cur := by
  obtain ⟨c, h, -⟩ := afterRead_frame s r
  rw [h]
@[simp] theorem afterRead_ctx (s : State) (r : Reg) : (s.afterRead r).ctx = s.ctx := by
  obtain ⟨c, h, -⟩ := afterRead_frame s r
  rw [h]

theorem inFifo_key {a b : Nat} {p q : InPort} (ha : inFifo a = some p) (hb : inFifo b = some q) (h : a ≠ b) :
    portKey q ≠ portKey p := by
  simp only [inFifo] at ha hb
  split at ha <;> split at hb <;> simp_all <;> (subst ha; subst hb; simp [portKey])

theorem streamOf_inj {a b n : Nat} (ha : streamOf a = some n) (hb : streamOf b = some n) : a = b := by
  simp only [streamOf] at ha hb
  split at ha <;> split at hb <;> simp at ha hb
  omega

theorem streamOf_inFifo {a n : Nat} (h : streamOf a = some n) : inFifo a = none := by
  simp only [streamOf] at h
  split at h
  · simp only [inFifo]
    split <;> first | omega | rfl
  · cases h

/-- Reading one field takes nothing from another. -/
theorem has_afterRead_ne {s : State} {r a : Reg} {k : Nat} (h : s.has r k) (hne : r ≠ a) : (s.afterRead a).has r k := by
  have hne' : r.toNat ≠ a.toNat := fun h => hne (BitVec.eq_of_toNat_eq h)
  rcases h with h | ⟨hn, hp, hs⟩
  · exact .inl h
  refine .inr ⟨by rwa [afterRead_thr], ?_, ?_⟩
  · intro p hr
    rw [afterRead_cur]
    have h := hp p hr
    simp only [State.afterRead]
    split
    · exact h
    split
    · rename_i q n ha
      simp only [State.core_setCore, fifo_def]
      rw [Tab.getD_set_ne _ _ _ (inFifo_key ha hr (Ne.symm hne'))]
      exact h
    · split
      · simp only [State.core_setCore]
        exact h
      · exact h
    · exact h
  · intro n hf hr
    obtain ⟨b, hb, h1, h2⟩ := hs n hf hr
    refine ⟨b, ?_, h1, h2⟩
    rw [afterRead_cur]
    simp only [State.afterRead]
    split
    · exact hb
    split
    · simp only [State.core_setCore]
      exact hb
    · rename_i m ha1 ha2
      split
      · simp only [State.core_setCore, Core.binding]
        rw [Tab.getD_set_ne _ _ _ (fun e => hne' (streamOf_inj hr (by rw [ha2, e])))]
        exact hb
      · exact hb
    · exact hb

/-- Reading a field leaves one read less of it. -/
theorem has_afterRead_self {s : State} {r : Reg} {k : Nat} (h : s.has r (k + 1)) : (s.afterRead r).has r k := by
  rcases h with h | ⟨hn, hp, hs⟩
  · omega
  by_cases hk : k = 0
  · exact .inl hk
  refine .inr ⟨by rwa [afterRead_thr], ?_, ?_⟩
  · intro p hr
    have h := hp p hr
    rw [afterRead_cur]
    have hA : ¬ r.toNat < 0xA0 := by
      intro hl
      simp only [inFifo] at hr
      split at hr <;> first | omega | cases hr
    simp only [State.afterRead, hA, if_false, hr, State.core_setCore, fifo_def, Tab.getD_set_self, List.length_drop]
    rw [fifo_def] at h
    omega
  · intro n hf hr
    obtain ⟨b, hb, h1, h2⟩ := hs n hf hr
    have hA : ¬ r.toNat < 0xA0 := by
      intro hl
      simp only [streamOf] at hr
      split at hr <;> first | omega | cases hr
    rw [afterRead_cur]
    simp only [State.afterRead, hA, if_false, hf, hr, hb, State.core_setCore]
    simp only [Core.binding, Tab.getD_set_self]
    have hpop : (popStream b).1.popped = b.popped + 1 ∧ (popStream b).1.total = b.total
        ∧ (popStream b).1.ended = b.ended ∧ (popStream b).1.buf = b.buf.tail := by
      simp only [popStream]
      split <;> simp [*]
    obtain ⟨p1, p2, p3, p4⟩ := hpop
    rw [p1, p2, if_neg (by omega)]
    refine ⟨_, rfl, by rw [p1, p2]; omega, ?_⟩
    simp only [InBind.supply, p1, p2, p3, p4] at h2 ⊢
    split at h2
    · simp [*]
      omega
    · simp [*]
      omega

/-! ### Writing -/

/-- Field d takes a write. -/
def State.takes (s : State) (d : Reg) : Prop :=
  writable s.thr.size d = true
  ∧ ∀ n, outFifo d.toNat = none → streamOf d.toNat = some n → ∃ id, (s.core s.cur).binding n = .output id

theorem canUse_takes {s : State} {srcs dsts : List Reg} (h : s.canUse srcs dsts) {d : Reg} (hd : d ∈ dsts) : s.takes d := by
  obtain ⟨-, h2, -, h4, -, -⟩ := h
  refine ⟨h2 d hd, fun n hf hn => ?_⟩
  have h := h4 d hd
  simp only [State.dstFault, hf, hn] at h
  cases hb : (s.core s.cur).binding n with
  | unbound => simp [hb] at h
  | input b => simp [hb] at h
  | output id => exact ⟨id, rfl⟩

theorem takes_afterRead {s : State} {d a : Reg} (h : s.takes d) : (s.afterRead a).takes d := by
  obtain ⟨h1, h2⟩ := h
  refine ⟨by rwa [afterRead_thr], fun n hf hn => ?_⟩
  obtain ⟨id, hb⟩ := h2 n hf hn
  refine ⟨id, ?_⟩
  rw [afterRead_cur]
  simp only [State.afterRead]
  split
  · exact hb
  split
  · simp only [State.core_setCore]
    exact hb
  · rename_i m ha1 ha2
    split
    · rename_i b hm
      simp only [State.core_setCore, Core.binding]
      rw [Tab.getD_set_ne]
      · exact hb
      · rintro rfl
        rw [hb] at hm
        cases hm
    · exact hb
  · exact hb

theorem rasdValue_eq (v : Word) : rasdValue v = min v.toNat 16 := by
  simp only [rasdValue]
  split <;> omega

/-- A write that consumes no mark leaves what the field's kind says. -/
theorem setReg_ok {s : State} {d : Reg} {v : Word} {p : Bool} (h : s.takes d) (hp : unmarked d = true → p = false) :
    setReg d v p s = .ok ((), s.afterWrite d v p) := by
  simp only [setReg, act_get_bind, State.afterWrite]
  by_cases h80 : d.toNat < 0x80
  · simp only [h80, if_true]
    rfl
  by_cases hA0 : d.toNat < 0xA0
  · simp only [h80, hA0, if_true, if_false]
    rfl
  have hp : p = false := hp (by simp [unmarked]; omega)
  subst hp
  simp only [h80, hA0, if_false]
  rw [need_bind_true (by rfl)]
  cases hf : outFifo d.toNat with
  | some q => rfl
  | none =>
    cases hn : streamOf d.toNat with
    | some n =>
      obtain ⟨id, hb⟩ := h.2 n hf hn
      simp only [hb]
      rfl
    | none =>
      simp only [act_set]
      refine congrArg (fun f => Except.ok ((), s.modThr f)) (funext fun t => ?_)
      simp only [wordAligned, raspValue, rasdValue_eq]
      all_goals try (split <;> simp_all only)

/-- A poisoned value for a field without a mark is consumed (R312). -/
theorem setReg_poison {s : State} {d : Reg} {v : Word} (h : unmarked d = true) : setReg d v true s = .error .contain := by
  simp only [unmarked, decide_eq_true_eq] at h
  simp only [setReg, act_get_bind, show ¬ d.toNat < 0x80 by omega, show ¬ d.toNat < 0xA0 by omega, if_false]
  exact need_bind_false (by rfl) _ _ _

/-- A read whose value must not be poisoned. -/
theorem readUse_ok {s : State} {r : Reg} {k : Nat} (h : s.has r (k + 1)) (hp : (s.value r).p = false) :
    readUse r s = .ok ((s.value r).v, s.afterRead r) := by
  simp only [readUse]
  rw [act_bind_ok (readReg_ok h)]
  rw [need_bind_true (by simp [hp])]
  rfl

theorem readUse_poison {s : State} {r : Reg} {k : Nat} (h : s.has r (k + 1)) (hp : (s.value r).p = true) :
    readUse r s = .error .contain := by
  simp only [readUse]
  rw [act_bind_ok (readReg_ok h)]
  exact need_bind_false (by simp [hp]) _ _ _

/-! ### The reads of an instruction of one, two or three sources -/

theorem has_one {s : State} {a : Reg} {ds : List Reg} (h : s.canUse [a] ds) : s.has a 1 := by
  have := canUse_has h (r := a) (by simp)
  simpa [countOf] using this

theorem has_two {s : State} {a b : Reg} {ds : List Reg} (h : s.canUse [a, b] ds) :
    (∃ k, s.has a (k + 1)) ∧ (s.afterRead a).has b 1 := by
  have ha := canUse_has h (r := a) (by simp)
  have hb := canUse_has h (r := b) (by simp)
  by_cases e : b = a
  · subst e
    simp only [countOf, List.filter_cons, beq_self_eq_true, if_true, List.filter_nil, List.length_cons, List.length_nil] at ha
    exact ⟨⟨1, ha⟩, has_afterRead_self ha⟩
  · have e' : (b == a) = false := by simp [e]
    have e2 : (a == b) = false := by simp [Ne.symm e]
    simp only [countOf, List.filter_cons, beq_self_eq_true, if_true, e', e2, List.filter_nil,
      List.length_cons] at ha hb
    exact ⟨⟨0, ha⟩, has_afterRead_ne hb e⟩

theorem has_three {s : State} {a b c : Reg} {ds : List Reg} (h : s.canUse [a, b, c] ds) :
    (∃ k, s.has a (k + 1)) ∧ (∃ k, (s.afterRead a).has b (k + 1)) ∧ ((s.afterRead a).afterRead b).has c 1 := by
  have ha := canUse_has h (r := a) (by simp)
  have hb := canUse_has h (r := b) (by simp)
  have hc := canUse_has h (r := c) (by simp)
  have pos : ∀ r ∈ [a, b, c], ∃ k, countOf r [a, b, c] = k + 1 := fun r hr =>
    have hl : 0 < countOf r [a, b, c] := List.length_pos_of_mem (List.mem_filter.2 ⟨hr, by simp⟩)
    ⟨_, (Nat.succ_pred_eq_of_pos hl).symm⟩
  refine ⟨?_, ?_, ?_⟩
  · obtain ⟨k, hk⟩ := pos a (by simp)
    exact ⟨k, hk ▸ ha⟩
  · by_cases e : b = a
    · subst e
      by_cases e2 : c = b
      · subst e2
        rw [show countOf c [c, c, c] = 3 by simp [countOf]] at ha
        exact ⟨1, has_afterRead_self ha⟩
      · rw [show countOf b [b, b, c] = 2 by simp [countOf, e2]] at ha
        exact ⟨0, has_afterRead_self ha⟩
    · obtain ⟨k, hk⟩ := pos b (by simp)
      exact ⟨k, has_afterRead_ne (hk ▸ hb) e⟩
  · by_cases e : c = b
    · subst e
      by_cases e2 : c = a
      · subst e2
        rw [show countOf c [c, c, c] = 3 by simp [countOf]] at ha
        exact has_afterRead_self (has_afterRead_self ha)
      · rw [show countOf c [a, c, c] = 2 by simp [countOf, Ne.symm e2]] at hb
        exact has_afterRead_self (has_afterRead_ne hb e2)
    · refine has_afterRead_ne ?_ e
      by_cases e2 : c = a
      · subst e2
        rw [show countOf c [c, b, c] = 2 by simp [countOf, Ne.symm e]] at ha
        exact has_afterRead_self ha
      · rw [show countOf c [a, b, c] = 1 by simp [countOf, Ne.symm e2, Ne.symm e]] at hc
        exact has_afterRead_ne hc e2

/-- A field outside ports and streams gives up nothing when it is read. -/
theorem afterRead_plain (s : State) {d : Reg} (hd : ¬ (0xA0 ≤ d.toNat ∧ d.toNat ≤ 0xAF)) :
    s.afterRead d = s := by
  have h1 : ¬ d.toNat < 0xA0 → inFifo d.toNat = none := by
    intro h
    simp only [inFifo]
    split <;> first | rfl | omega
  have h2 : ¬ d.toNat < 0xA0 → streamOf d.toNat = none := by
    intro h
    simp only [streamOf]
    split <;> first | rfl | omega
  simp only [State.afterRead]
  split
  · rfl
  · rename_i h
    simp only [h1 h, h2 h]

end Sys2Proof.Machine
end

