-- ==== Sys2Proof/Laws/Frames.lean ====
section
/-! SUPPORT. What the shared operations change and what they leave: one lemma each, to be cited in place of unfolding. -/

namespace Sys2Proof.Machine

/-! ### Tables and nested updates -/

/-- The later of two writes to one key stands. -/
theorem Tab.set_set {α : Type} (t : Tab α) (k : Nat) (v w : α) : Tab.set (Tab.set t k v) k w = Tab.set t k w := by
  induction t with
  | nil => simp [Tab.set]
  | cons h t ih =>
    obtain ⟨j, x⟩ := h
    simp only [Tab.set]
    split
    · simp [Tab.set]
    · split
      · simp [Tab.set]
      · rename_i h1 h2
        simp [Tab.set, h1, h2, ih]

/-- The later of two writes of one core stands. -/
theorem setCore_setCore (s : State) (n : Nat) (c d : Core) : (s.setCore n c).setCore n d = s.setCore n d := by
  simp [State.setCore, Tab.set_set]

/-- The later of two writes of one context stands. -/
theorem setCtx_setCtx (c : Core) (x : Nat) (t u : Ctx) : (c.setCtx x t).setCtx x u = c.setCtx x u := by
  simp [Core.setCtx, Tab.set_set]

/-- Two changes of the running thread are one. -/
theorem modThr_modThr (s : State) (f g : Ctx → Ctx) : (s.modThr f).modThr g = s.modThr (fun t => g (f t)) := by
  simp [State.modThr, State.modThread, State.modCore, Core.modCtx, setCore_setCore, setCtx_setCtx]

/-- Changes that agree on the running thread agree. -/
theorem modThr_congr {s : State} {f g : Ctx → Ctx} (h : f s.thr = g s.thr) : s.modThr f = s.modThr g := by
  simp only [State.modThr, State.modThread, State.modCore, Core.modCtx]
  rw [show (s.core s.cur).ctx s.ctx = s.thr from rfl, h]

/-- A written core is an entry of the table of cores. -/
theorem State.setCore_eq (s : State) (n : Nat) (c : Core) : s.setCore n c = { s with cores := Tab.set s.cores n c } := rfl

/-- A core after one core was written. -/
theorem core_setCore_if (s : State) (n m : Nat) (c : Core) : (s.setCore n c).core m = if m = n then c else s.core m := by
  by_cases h : m = n
  · subst h; simp
  · simp [h, State.core_setCore_ne s c h]

/-- A core after one core was changed. -/
theorem core_modCore (s : State) (n m : Nat) (f : Core → Core) :
    (s.modCore n f).core m = if m = n then f (s.core n) else s.core m :=
  core_setCore_if _ _ _ _

/-- A context after one context was written. -/
theorem ctx_setCtx_if (c : Core) (x y : Nat) (t : Ctx) : (c.setCtx x t).ctx y = if y = x then t else c.ctx y := by
  by_cases h : y = x
  · subst h; simp
  · simp [h, Core.ctx_setCtx_ne c t h]

/-- A thread after one thread was changed. -/
theorem thread_modThread (s : State) (n x m y : Nat) (f : Ctx → Ctx) :
    (s.modThread n x f).thread m y = if m = n ∧ y = x then f (s.thread n x) else s.thread m y := by
  simp only [State.thread, State.modThread, core_modCore]
  by_cases h : m = n
  · subst h
    simp only [Core.modCtx, if_true, ctx_setCtx_if, true_and]
  · simp [h]

/-- A change of a core that keeps its contexts keeps its threads. -/
theorem thread_modCore (s : State) (n m x : Nat) (f : Core → Core) (h : (f (s.core n)).ctxs = (s.core n).ctxs) :
    (s.modCore n f).thread m x = s.thread m x := by
  simp only [State.thread, core_modCore]
  split
  · subst m; simp [Core.ctx, h]
  · rfl

/-- The same of the running thread. -/
theorem thr_modCore (s : State) (n : Nat) (f : Core → Core) (h : (f (s.core n)).ctxs = (s.core n).ctxs) :
    (s.modCore n f).thr = s.thr :=
  thread_modCore s n _ _ f h

/-- The running thread after a change of it. -/
theorem modThr_thr (s : State) (f : Ctx → Ctx) : (s.modThr f).thr = f s.thr := s.thr_modThread f

/-- Changing a thread changes contexts only. -/
theorem core_modThread (s : State) (n x m : Nat) (f : Ctx → Ctx) :
    ∃ c, (s.modThread n x f).core m = { s.core m with ctxs := c } := by
  simp only [State.modThread, core_modCore]
  split
  · subst m; exact ⟨_, rfl⟩
  · exact ⟨_, rfl⟩

/-! ### Physical memory -/

/-- Claiming units changes memory, tags, poison marks and code only. -/
theorem State.claimUnits_frame (s : State) (t : Tag) (pa n : Nat) : s.claimUnits t pa n = { s with
    mem := (s.claimUnits t pa n).mem, otag := (s.claimUnits t pa n).otag, poison := (s.claimUnits t pa n).poison,
    code := (s.claimUnits t pa n).code } := by
  induction n generalizing s pa with
  | zero => rfl
  | succ n ih =>
    rw [State.claimUnits, ih]
    have : s.claimUnit t pa = { s with mem := (s.claimUnit t pa).mem, otag := (s.claimUnit t pa).otag, poison := (s.claimUnit t pa).poison, code := (s.claimUnit t pa).code } := by
      unfold State.claimUnit; split <;> rfl
    rw [this]

/-- A physical write changes memory, tags, poison marks and code only. -/
theorem State.physWrite_frame (s : State) (t : Tag) (pa n v : Nat) : s.physWrite t pa n v = { s with
    mem := (s.physWrite t pa n v).mem, otag := (s.physWrite t pa n v).otag, poison := (s.physWrite t pa n v).poison,
    code := (s.physWrite t pa n v).code } := by
  unfold State.physWrite
  split
  · rw [State.claimUnits_frame]
  · rfl

@[simp] theorem State.physWrite_cores (s : State) (t : Tag) (pa n v : Nat) : (s.physWrite t pa n v).cores = s.cores := by rw [State.physWrite_frame]

@[simp] theorem State.physWrite_cur (s : State) (t : Tag) (pa n v : Nat) : (s.physWrite t pa n v).cur = s.cur := by rw [State.physWrite_frame]

@[simp] theorem State.physWrite_ctx (s : State) (t : Tag) (pa n v : Nat) : (s.physWrite t pa n v).ctx = s.ctx := by rw [State.physWrite_frame]

@[simp] theorem State.physWrite_core (s : State) (t : Tag) (pa n v k : Nat) : (s.physWrite t pa n v).core k = s.core k := by simp [State.core]

@[simp] theorem State.physWrite_thr (s : State) (t : Tag) (pa n v : Nat) : (s.physWrite t pa n v).thr = s.thr := by simp [State.thr, State.thread]

/-- The codes of sectors do not depend on the cores (R329). -/
theorem State.codeSectors_withCores (s : State) (c : Tab Core) (t : Tab Bool) (k n : Nat) :
    ({ s with cores := c } : State).codeSectors t k n = s.codeSectors t k n := by
  induction n generalizing t k with
  | zero => rfl
  | succ n ih => exact ih _ _

theorem State.codeAfter_withCores (s : State) (c : Tab Core) (pa n : Nat) :
    ({ s with cores := c } : State).codeAfter pa n = s.codeAfter pa n := codeSectors_withCores _ _ _ _ _

/-- Claiming units does not look at the cores. -/
theorem State.claimUnits_withCores (s : State) (c : Tab Core) (t : Tag) (pa n : Nat) :
    ({ s with cores := c } : State).claimUnits t pa n = { s.claimUnits t pa n with cores := c } := by
  induction n generalizing s pa with
  | zero => rfl
  | succ n ih =>
    rw [State.claimUnits, State.claimUnits, ← ih]
    congr 1
    unfold State.claimUnit
    rw [State.codeAfter_withCores]
    show (if Tab.find s.otag (unitKey pa) = some t then _ else _) = _
    split <;> rfl

/-- A physical write does not look at the cores. -/
theorem State.physWrite_withCores (s : State) (c : Tab Core) (t : Tag) (pa n v : Nat) :
    ({ s with cores := c } : State).physWrite t pa n v = { s.physWrite t pa n v with cores := c } := by
  unfold State.physWrite
  show (if s.tagCurrent t = true then _ else _) = _
  split
  · rw [State.claimUnits_withCores]
    simp only []
    rw [State.codeAfter_withCores]
  · rfl

/-- A write to local memory changes memory, tags, poison marks and code only. -/
theorem localWrite_frame (s : State) (n : Nat) (ea : Word) (k v : Nat) : s.localWrite n ea k v = { s with
    mem := (s.localWrite n ea k v).mem, otag := (s.localWrite n ea k v).otag, poison := (s.localWrite n ea k v).poison,
    code := (s.localWrite n ea k v).code } := State.physWrite_frame _ _ _ _ _

/-- A physical read depends on memory and tags only. -/
theorem physRead_congr {s u : State} (h1 : u.mem = s.mem) (h2 : u.otag = s.otag) (t : Tag) (pa n : Nat) :
    u.physRead t pa n = s.physRead t pa n := by
  induction n generalizing pa with
  | zero => rfl
  | succ n ih => simp only [State.physRead, ih, State.physByte, h1, h2]

/-- A poison check depends on poison marks and tags only. -/
theorem physPoison_congr {s u : State} (h1 : u.poison = s.poison) (h2 : u.otag = s.otag) (t : Tag) (pa n : Nat) :
    u.physPoison t pa n = s.physPoison t pa n := by
  induction n generalizing pa with
  | zero => rfl
  | succ n ih => simp only [State.physPoison, ih, h1, h2]

/-- Two states whose stored bytes are the same. -/
structure SameMem (u s : State) : Prop where
  mem : u.mem = s.mem
  otag : u.otag = s.otag
  cur : ∀ t, u.tagCurrent t = s.tagCurrent t
  job : ∀ n, u.jobTag n = s.jobTag n

theorem SameMem.refl (s : State) : SameMem s s := ⟨rfl, rfl, fun _ => rfl, fun _ => rfl⟩

theorem SameMem.trans {u v w : State} (h : SameMem u v) (h' : SameMem v w) : SameMem u w :=
  ⟨h.mem.trans h'.mem, h.otag.trans h'.otag, fun t => (h.cur t).trans (h'.cur t), fun t => (h.job t).trans (h'.job t)⟩

/-- Changing a thread stores nothing. -/
theorem sameMem_modThread (s : State) (n x : Nat) (f : Ctx → Ctx) : SameMem (s.modThread n x f) s := by
  refine ⟨rfl, rfl, fun _ => rfl, fun m => ?_⟩
  obtain ⟨c, h⟩ := core_modThread s n x m f
  simp only [State.jobTag, h]; rfl

/-- Claiming depends on memory and tags only. -/
theorem claimUnits_same (t : Tag) :
    ∀ (k pa : Nat) (u s : State), u.mem = s.mem → u.otag = s.otag → (u.claimUnits t pa k).mem = (s.claimUnits t pa k).mem
      ∧ (u.claimUnits t pa k).otag = (s.claimUnits t pa k).otag := by
  intro k
  induction k with
  | zero => intro pa u s h1 h2; exact ⟨h1, h2⟩
  | succ k ih =>
    intro pa u s h1 h2
    rw [State.claimUnits, State.claimUnits]
    refine ih _ _ _ ?_ ?_
    · unfold State.claimUnit; rw [h2]; split
      · exact h1
      · show zeroBytes u.mem _ _ = zeroBytes s.mem _ _; rw [h1]
    · unfold State.claimUnit; rw [h2]; split
      · exact h2
      · rfl

/-- The same local write keeps two memories the same. -/
theorem SameMem.localWrite {u s : State} (h : SameMem u s) (n : Nat) (ea : Word) (k v : Nat) :
    SameMem (u.localWrite n ea k v) (s.localWrite n ea k v) := by
  have key : (u.localWrite n ea k v).mem = (s.localWrite n ea k v).mem ∧ (u.localWrite n ea k v).otag = (s.localWrite n ea k v).otag := by
    unfold State.localWrite State.physWrite
    rw [h.job, h.cur]
    obtain ⟨h1, h2⟩ := claimUnits_same (s.jobTag n) k (localPa n ea.toNat) u s h.mem h.otag
    split
    · exact ⟨by show writeBytes _ _ _ _ = writeBytes _ _ _ _; rw [h1], h2⟩
    · exact ⟨h.mem, h.otag⟩
  refine ⟨key.1, key.2, ?_, ?_⟩
  · intro t; rw [localWrite_frame u, localWrite_frame s]; exact h.cur t
  · intro m; rw [localWrite_frame u, localWrite_frame s]; exact h.job m

/-! ### Reading operands -/

/-- Reading a field takes from queues of the core only (R96). -/
theorem afterRead_core (s : State) (r : Reg) (n : Nat) :
    ∃ f t, (s.afterRead r).core n = { s.core n with fifos := f, strm := t } := by
  have key : ∀ c : Core, (∃ f t, c = { s.core s.cur with fifos := f, strm := t }) →
      ∃ f t, (s.setCore s.cur c).core n = { s.core n with fifos := f, strm := t } := by
    intro c ⟨f, t, hc⟩
    rw [core_setCore_if]
    split
    · subst n; exact ⟨f, t, hc⟩
    · exact ⟨_, _, rfl⟩
  simp only [State.afterRead]
  split
  · exact ⟨_, _, rfl⟩
  split
  · exact key _ ⟨_, _, rfl⟩
  · split
    · exact key _ ⟨_, _, rfl⟩
    · exact ⟨_, _, rfl⟩
  · exact ⟨_, _, rfl⟩

theorem afterRead_jobTag (s : State) (r : Reg) (n : Nat) : (s.afterRead r).jobTag n = s.jobTag n := by
  obtain ⟨f, t, h⟩ := afterRead_core s r n
  obtain ⟨c, h2, -⟩ := afterRead_frame s r
  simp only [State.jobTag, h]
  rw [h2]; rfl

/-- Reading a field changes no local memory. -/
theorem afterRead_localRead (s : State) (r : Reg) (n : Nat) (ea : Word) (k : Nat) :
    (s.afterRead r).localRead n ea k = s.localRead n ea k := by
  obtain ⟨c, h, -⟩ := afterRead_frame s r
  simp only [State.localRead, afterRead_jobTag]
  rw [h]
  rw [physRead_congr (s := s) (u := { s with cores := c }) rfl rfl, physPoison_congr (s := s) (u := { s with cores := c }) rfl rfl]

@[simp] theorem afterRead_mem (s : State) (r : Reg) : (s.afterRead r).mem = s.mem := by
  obtain ⟨c, h, -⟩ := afterRead_frame s r; rw [h]

@[simp] theorem afterRead_otag (s : State) (r : Reg) : (s.afterRead r).otag = s.otag := by
  obtain ⟨c, h, -⟩ := afterRead_frame s r; rw [h]

@[simp] theorem afterRead_poison (s : State) (r : Reg) : (s.afterRead r).poison = s.poison := by
  obtain ⟨c, h, -⟩ := afterRead_frame s r; rw [h]

@[simp] theorem afterRead_reqs (s : State) (r : Reg) : (s.afterRead r).reqs = s.reqs := by
  obtain ⟨c, h, -⟩ := afterRead_frame s r; rw [h]

@[simp] theorem afterRead_fresh (s : State) (r : Reg) : (s.afterRead r).fresh = s.fresh := by
  obtain ⟨c, h, -⟩ := afterRead_frame s r; rw [h]

@[simp] theorem afterRead_root (s : State) (r : Reg) (n : Nat) : ((s.afterRead r).core n).root = (s.core n).root := by
  obtain ⟨f, t, h⟩ := afterRead_core s r n; rw [h]

/-- A destination field takes a value alike in states that agree on its thread and streams. -/
theorem takes_congr {u s : State} {d : Reg} (h : s.takes d) (h1 : u.thr.size = s.thr.size) (h2 : (u.core u.cur).strm = (s.core s.cur).strm) :
    u.takes d := by
  obtain ⟨a, b⟩ := h
  exact ⟨by rw [h1]; exact a, fun n hf hn => by obtain ⟨id, hb⟩ := b n hf hn; exact ⟨id, by unfold Core.binding at hb ⊢; rw [h2]; exact hb⟩⟩

/-- Two states whose operand fields hold the same. -/
structure SameFields (u s : State) : Prop where
  thr : u.thr = s.thr
  rf : (u.core u.cur).rf = (s.core s.cur).rf
  cregs : (u.core u.cur).cregs = (s.core s.cur).cregs
  fifos : (u.core u.cur).fifos = (s.core s.cur).fifos
  strm : (u.core u.cur).strm = (s.core s.cur).strm

theorem SameFields.value {u s : State} (h : SameFields u s) (r : Reg) : u.value r = s.value r := by
  have hr : ∀ i, (u.core u.cur).reg i = (s.core s.cur).reg i := fun i => by simp only [Core.reg, h.rf]
  have hf : ∀ p, (u.core u.cur).fifo p = (s.core s.cur).fifo p := fun i => by simp only [Core.fifo, h.fifos]
  have hb : ∀ p, (u.core u.cur).binding p = (s.core s.cur).binding p := fun i => by simp only [Core.binding, h.strm]
  simp only [State.value, h.thr, hr, h.cregs, hf, hb]

theorem SameFields.has {u s : State} (h : SameFields u s) {r : Reg} {k : Nat} (hh : s.has r k) : u.has r k := by
  have hf : ∀ p, (u.core u.cur).fifo p = (s.core s.cur).fifo p := fun i => by simp only [Core.fifo, h.fifos]
  have hb : ∀ p, (u.core u.cur).binding p = (s.core s.cur).binding p := fun i => by simp only [Core.binding, h.strm]
  simpa only [State.has, h.thr, hf, hb] using hh

theorem SameFields.afterRead {u s : State} (h : SameFields u s) (r : Reg) : SameFields (u.afterRead r) (s.afterRead r) := by
  have hf : ∀ p, (u.core u.cur).fifo p = (s.core s.cur).fifo p := fun i => by simp only [Core.fifo, h.fifos]
  have hb : ∀ p, (u.core u.cur).binding p = (s.core s.cur).binding p := fun i => by simp only [Core.binding, h.strm]
  refine ⟨by simp [h.thr], ?_, ?_, ?_, ?_⟩ <;> rw [afterRead_cur, afterRead_cur] <;> simp only [State.afterRead]
  all_goals by_cases h1 : r.toNat < 0xA0
  all_goals simp only [h1, if_true, if_false]
  any_goals first | exact h.rf | exact h.cregs | exact h.fifos | exact h.strm
  all_goals cases h2 : inFifo r.toNat <;> try simp only []
  all_goals first
    | (simp only [State.core_setCore, hf, h.fifos, h.rf, h.cregs, h.strm]; done)
    | (cases h3 : streamOf r.toNat <;> simp only []
       · first | exact h.rf | exact h.cregs | exact h.fifos | exact h.strm
       · rename_i k
         simp only [hb]
         cases (s.core s.cur).binding k <;> simp only [State.core_setCore, h.rf, h.cregs, h.fifos, h.strm])

/-! ### The place of a thread -/

/-- Settling changes how the thread stands and what it waits for only. -/
theorem settle_cases (t : Ctx) (sw : Bool) : ∃ x p, t.settle sw = { t with st := x, park := p } := by
  unfold Ctx.settle; split <;> exact ⟨_, _, rfl⟩

/-- The running thread after it moved on. -/
theorem moved_thr (t : State) (sw : Bool) : (t.moved sw).thr = t.thr.advance.settle sw := modThr_thr _ _

/-- The running thread after a transfer. -/
theorem jumped_thr (t : State) (sw : Bool) (a : Word) : (t.jumped sw a).thr = (t.thr.goto a).settle sw := modThr_thr _ _

/-- The test of the inner loop level changes the place only (R31). -/
theorem loopTest0_frame (t : Ctx) (a : Word) : ∃ pc lc0 d, t.loopTest0 a = { t with pc := pc, lc0 := lc0, lpD := d } := by
  unfold Ctx.loopTest0; split
  · split <;> exact ⟨_, _, _, rfl⟩
  · exact ⟨_, _, _, rfl⟩

/-- The test of the loops changes the place and counts only. -/
theorem loopTest_frame (t : Ctx) (a : Word) :
    ∃ pc lc0 lc1 d, t.loopTest a = { t with pc := pc, lc0 := lc0, lc1 := lc1, lpD := d } := by
  unfold Ctx.loopTest; split
  · exact ⟨_, _, _, _, rfl⟩
  · obtain ⟨p, l, d, h⟩ := loopTest0_frame t a; exact ⟨p, l, _, d, h⟩
  · split
    · split
      · obtain ⟨p, l, d, h⟩ := loopTest0_frame { t with lc1 := 0, lpD := 1 } a; exact ⟨p, l, _, d, h⟩
      · exact ⟨_, _, _, _, rfl⟩
    · exact ⟨_, _, _, _, rfl⟩

/-- Advancing changes the place only (R31, R33, R83). -/
theorem advance_frame (t : Ctx) :
    ∃ pc pre a f j i lc0 lc1 d n, t.advance
      = { t with pc := pc, pre := pre, tries := n, repA := a, repFrm := f, repJ := j, repI := i, lc0 := lc0, lc1 := lc1, lpD := d } := by
  unfold Ctx.advance; split
  · split
    · split
      · obtain ⟨p, l, m, d, h⟩ := loopTest_frame { t with repA := false, repFrm := 0, repJ := 0, repI := 0, pc := t.pc + 4, tries := 0 } t.pc; exact ⟨p, _, _, _, _, _, l, m, d, _, h⟩
      · exact ⟨_, _, _, _, _, _, _, _, _, _, rfl⟩
    · exact ⟨_, _, _, _, _, _, _, _, _, _, rfl⟩
  · obtain ⟨p, l, m, d, h⟩ := loopTest_frame { t with pc := t.opw + 4, pre := [], tries := 0 } t.opw; exact ⟨p, _, _, _, _, _, l, m, d, _, h⟩

/-- The test of the loops, as conditions. -/
theorem loopTest_if (t : Ctx) (a : Word) : t.loopTest a = if t.lpD = 0 then t else if t.lpD = 1 then t.loopTest0 a else
    if t.le1 = a then
      (if t.lc1.toNat ≤ 1 then ({ t with lc1 := 0, lpD := 1 } : Ctx).loopTest0 a else { t with lc1 := t.lc1 - 1, pc := t.ls1 })
    else t := by
  unfold Ctx.loopTest
  split
  · rename_i h; rw [if_pos h]
  · rename_i h; rw [if_neg (by omega), if_pos h]
  · rename_i h h'; rw [if_neg h, if_neg h']

/-- Two threads at the same place. -/
structure FlowEq (t u : Ctx) : Prop where
  pc : t.pc = u.pc
  pre : t.pre = u.pre
  repA : t.repA = u.repA
  repFrm : t.repFrm = u.repFrm
  repJ : t.repJ = u.repJ
  repI : t.repI = u.repI
  lpD : t.lpD = u.lpD
  lc0 : t.lc0 = u.lc0
  ls0 : t.ls0 = u.ls0
  le0 : t.le0 = u.le0
  lc1 : t.lc1 = u.lc1
  ls1 : t.ls1 = u.ls1
  le1 : t.le1 = u.le1

theorem FlowEq.loop0 {t u : Ctx} (h : FlowEq t u) (a : Word) : FlowEq (t.loopTest0 a) (u.loopTest0 a) := by
  obtain ⟨h1, h2, h3, h4, h5, h6, h7, h8, h9, h10, h11, h12, h13⟩ := h
  unfold Ctx.loopTest0
  rw [h10, h8, h9]
  split
  · split <;> constructor <;> first | assumption | rfl
  · constructor <;> assumption

theorem FlowEq.loop {t u : Ctx} (h : FlowEq t u) (a : Word) : FlowEq (t.loopTest a) (u.loopTest a) := by
  have h' := h
  obtain ⟨h1, h2, h3, h4, h5, h6, h7, h8, h9, h10, h11, h12, h13⟩ := h
  rw [loopTest_if, loopTest_if, h7, h13, h11]
  split
  · exact h'
  split
  · exact h'.loop0 a
  split
  · split
    · refine FlowEq.loop0 ?_ a
      constructor <;> first | assumption | rfl
    · constructor <;> first | assumption | rfl
  · exact h'

/-- Threads at the same place advance to the same place. -/
theorem FlowEq.advance {t u : Ctx} (h : FlowEq t u) : FlowEq t.advance u.advance := by
  have h' := h
  obtain ⟨h1, h2, h3, h4, h5, h6, h7, h8, h9, h10, h11, h12, h13⟩ := h
  have e1 : t.opw = u.opw := by unfold Ctx.opw; rw [h1, h2]
  have e2 : t.frameLen = u.frameLen := by unfold Ctx.frameLen; rw [h4]
  have e3 : t.frameTimes = u.frameTimes := by unfold Ctx.frameTimes; rw [h4]
  have e4 : t.frameLen = u.frameLen := e2
  unfold Ctx.advance
  rw [h3, e1, e2, e3, h1, h6, h5]
  split
  · split
    · split
      · refine FlowEq.loop ?_ _
        constructor <;> first | assumption | rfl
      · constructor <;> first | assumption | rfl
    · constructor <;> first | assumption | rfl
  · refine FlowEq.loop ?_ _
    constructor <;> first | assumption | rfl

theorem FlowEq.pc_eq {t u : Ctx} (h : FlowEq t u) : t.advance.pc = u.advance.pc := h.advance.pc

/-! ### Outstanding results and requests -/

/-- An outstanding result is added to the thread (R20). -/
theorem addOutst_thr (s : State) (k : OutKind) (ps : List Piece) (f : Flags) (r : Bool) :
    (s.addOutst s.cur s.ctx k ps f r).thr = { s.thr with outst := s.thr.outst ++ [⟨s.fresh, k, ps, f, r⟩] } :=
  modThr_thr s (fun t => { t with outst := t.outst ++ [⟨s.fresh, k, ps, f, r⟩] })

/-- A request is added, and a pair where cores run as twins. -/
theorem addReq_frame (s : State) (k : ReqKind) (lanes : List Lane) (vector : Bool) (sc : Scope) (scIdx : BitVec 4)
    (out : Option Nat) (oprs : List Word) :
    ∃ r ps cs, s.addReq k lanes vector sc scIdx out oprs = { s with reqs := s.reqs ++ [r], fresh := s.fresh + 1, pairs := ps, cores := cs }
      ∧ (cs = s.cores ∨ ∃ n, cs = Tab.set s.cores s.cur { s.core s.cur with pairNo := n })
      ∧ r.id = s.fresh ∧ r.core = s.cur ∧ r.ctx = s.ctx ∧ r.kind = k ∧ r.lanes = lanes ∧ r.out = out ∧ r.held = false
      ∧ r.root = (s.core s.cur).root ∧ r.vahi = s.thr.vahi ∧ r.priv = s.thr.priv ∧ r.ipc = s.thr.pc := by
  unfold State.addReq
  simp only []
  split
  · unfold State.pairUp State.addPair State.bumpPair
    simp only []
    split
    · exact ⟨_, _, _, rfl, .inr ⟨_, rfl⟩, rfl, rfl, rfl, rfl, rfl, rfl, rfl, rfl, rfl, rfl, rfl⟩
    · exact ⟨_, _, _, rfl, .inl rfl, rfl, rfl, rfl, rfl, rfl, rfl, rfl, rfl, rfl, rfl, rfl⟩
  · exact ⟨_, _, _, rfl, .inl rfl, rfl, rfl, rfl, rfl, rfl, rfl, rfl, rfl, rfl, rfl, rfl⟩

/-- A new request leaves the thread as it was. -/
theorem addReq_thr (s : State) (k : ReqKind) (lanes : List Lane) (vector : Bool) (sc : Scope) (scIdx : BitVec 4)
    (out : Option Nat) (oprs : List Word) : (s.addReq k lanes vector sc scIdx out oprs).thr = s.thr := by
  obtain ⟨r, ps, cs, h, hc, -⟩ := addReq_frame s k lanes vector sc scIdx out oprs
  rw [h]
  rcases hc with rfl | ⟨n, rfl⟩
  · rfl
  · exact thr_modCore s s.cur (fun c => { c with pairNo := n }) rfl

/-! ### Stores of vector lanes -/

/-- What the local lanes of a vector store leave. -/
structure LocalStored (u s : State) : Prop where
  cur : u.cur = s.cur
  ctx : u.ctx = s.ctx
  reqs : u.reqs = s.reqs
  fresh : u.fresh = s.fresh
  thr : ∃ sh, u.thr = { s.thr with shadow := sh }
  core : ∃ c, u.core s.cur = { s.core s.cur with ctxs := c }

theorem LocalStored.refl (s : State) : LocalStored s s := ⟨rfl, rfl, rfl, rfl, ⟨_, rfl⟩, ⟨_, rfl⟩⟩

theorem LocalStored.trans {u v w : State} (h : LocalStored u v) (h' : LocalStored v w) : LocalStored u w := by
  obtain ⟨a, b⟩ := h.thr
  obtain ⟨c, d⟩ := h'.thr
  obtain ⟨e, f⟩ := h.core
  obtain ⟨g, i⟩ := h'.core
  refine ⟨h.cur.trans h'.cur, h.ctx.trans h'.ctx, h.reqs.trans h'.reqs, h.fresh.trans h'.fresh, ⟨a, by rw [b, d]⟩, ⟨e, ?_⟩⟩
  rw [h'.cur] at f; rw [f, i]

/-- One local store with its note for a watch. -/
theorem noteWrite_stored (s : State) (ea : Word) (k v : Nat) :
    LocalStored ((s.noteStore s.cur s.ctx ea k).localWrite s.cur ea k v) s := by
  have hc : ((s.noteStore s.cur s.ctx ea k).localWrite s.cur ea k v).cores = (s.noteStore s.cur s.ctx ea k).cores := by rw [localWrite_frame]
  have hcore : ∀ n, ((s.noteStore s.cur s.ctx ea k).localWrite s.cur ea k v).core n = (s.noteStore s.cur s.ctx ea k).core n := by
    intro n; rw [State.core, State.core, hc]
  have h0 : ((s.noteStore s.cur s.ctx ea k).localWrite s.cur ea k v).thr = (s.noteStore s.cur s.ctx ea k).thr := by rw [localWrite_frame]; rfl
  refine ⟨by rw [localWrite_frame]; rfl, by rw [localWrite_frame]; rfl, by rw [localWrite_frame]; rfl, by rw [localWrite_frame]; rfl, ?_, ?_⟩
  · rw [h0, State.noteStore]
    exact ⟨_, modThr_thr s _⟩
  · rw [hcore]; exact core_modThread _ _ _ _ _

/-- The local lanes of a vector store. -/
theorem storeLanes_stored (k : Nat) (data : Nat → Nat) :
    ∀ (ts : List (Nat × LaneTarget)) (s : State), LocalStored (s.storeLanes k data ts) s := by
  intro ts
  induction ts with
  | nil => exact LocalStored.refl
  | cons x ts ih =>
    intro s
    obtain ⟨i, x⟩ := x
    cases x with
    | access ea =>
      rw [State.storeLanes]
      refine (ih _).trans ?_
      split
      · exact noteWrite_stored s ea k (data i)
      · exact LocalStored.refl _
    | out => exact ih s
    | poisoned => exact ih s

/-! ### Streams of the network -/

/-- The stream between two stations is theirs. -/
theorem stream_is (s : State) (a b : Station) (o : Bool) : (s.stream a b o).is a b o = true := by
  unfold State.stream
  cases h : s.streams.find? (fun t => t.is a b o) with
  | some t => exact List.find?_some (p := fun t : Stream => t.is a b o) h
  | none => simp [Stream.is, Stream.fresh]

theorem is_fields {t : Stream} {a b : Station} {o : Bool} (h : t.is a b o = true) : t.src = a ∧ t.dst = b ∧ t.ordered = o := by
  simpa [Stream.is, and_assoc] using h

/-- Replacing a stream finds it. -/
theorem find_map_is (l : List Stream) (t : Stream) (a b : Station) (o : Bool) (ht : t.is a b o = true) (h : l.any (fun u => u.is a b o) = true) :
    (l.map (fun u => if u.is a b o then t else u)).find? (fun u => u.is a b o) = some t := by
  induction l with
  | nil => simp at h
  | cons x l ih =>
    rw [List.map_cons, List.find?_cons]
    by_cases hx : x.is a b o = true
    · simp [hx, ht]
    · simp only [hx, Bool.false_eq_true, if_false]
      refine ih ?_
      simpa [hx] using h

/-- A stream written is read back. -/
theorem stream_setStream (s : State) (t : Stream) (a b : Station) (o : Bool) (ht : t.is a b o = true) :
    (s.setStream t).stream a b o = t := by
  obtain ⟨h1, h2, h3⟩ := is_fields ht
  unfold State.setStream State.stream
  rw [h1, h2, h3]
  by_cases h : s.streams.any (fun u => u.is a b o) = true
  · rw [if_pos h]
    show ((s.streams.map (fun u => if u.is a b o then t else u)).find? _).getD _ = t
    rw [find_map_is _ t a b o ht h]; rfl
  · rw [if_neg h]
    show ((s.streams ++ [t]).find? _).getD _ = t
    rw [List.find?_append, List.find?_eq_none.2]
    · simp [ht]
    · intro x hx hxi
      exact h (List.any_eq_true.2 ⟨x, hx, hxi⟩)

/-- Writing a stream changes streams only. -/
theorem setStream_frame (s : State) (t : Stream) : ∃ st, s.setStream t = { s with streams := st } := by
  unfold State.setStream; split <;> exact ⟨_, rfl⟩

/-- Putting freight into the network changes flights only. -/
theorem launch_frame (s : State) (t : Stream) (f : Freight) (a : Station) : ∃ fl, s.launch t f a = { s with flights := fl } :=
  ⟨_, rfl⟩

/-- Posting changes streams and flights only. -/
theorem post_frame (s : State) (a b : Station) (m : Body) : ∃ st fl, s.post a b m = { s with streams := st, flights := fl } := by
  unfold State.post State.postOn
  obtain ⟨st, h⟩ := setStream_frame s { s.stream a b true with nextSeq := (s.stream a b true).nextSeq + 1, unacked := (s.stream a b true).unacked ++ [((s.stream a b true).nextSeq, m)] }
  simp only [h]
  split
  · exact ⟨_, _, rfl⟩
  · exact ⟨_, _, rfl⟩

/-- A posted message is unacknowledged on its stream. -/
theorem post_stream (s : State) (a b : Station) (m : Body) :
    ((s.post a b m).stream a b true).unacked = (s.stream a b true).unacked ++ [((s.stream a b true).nextSeq, m)] := by
  have h := stream_setStream s { s.stream a b true with nextSeq := (s.stream a b true).nextSeq + 1, unacked := (s.stream a b true).unacked ++ [((s.stream a b true).nextSeq, m)] } a b true (stream_is s a b true)
  unfold State.post State.postOn
  simp only []
  split
  · show (State.stream (State.setStream s _) a b true).unacked = _
    rw [h]
  · rw [h]

/-- Where a SEND goes depends on the routes only. -/
theorem sendStation_congr {s u : State} (h1 : u.panel = s.panel) (h2 : u.routes = s.routes) (h3 : u.wharves = s.wharves) (d : Word) :
    u.sendStation d = s.sendStation d := by
  simp only [State.sendStation, h1, h2, State.lowestWharf, h3]

/-- Counting a compared message changes the count only. -/
theorem bumpPair_frame (s : State) (n : Nat) :
    ∃ cs, s.bumpPair n = { s with cores := cs } ∧ ∀ k, ∃ p, (s.bumpPair n).core k = { s.core k with pairNo := p } := by
  unfold State.bumpPair
  split
  · refine ⟨_, rfl, fun k => ?_⟩
    rw [core_modCore]
    split
    · subst k; exact ⟨_, rfl⟩
    · exact ⟨_, rfl⟩
  · exact ⟨_, rfl, fun k => ⟨_, rfl⟩⟩

/-! ### Caches -/

/-- Storing a sector changes memory, tags, poison marks and codes only. -/
theorem storeSector_frame (s : State) (k : Nat) (x : SectorVal) :
    ∃ m o p cd, s.storeSector k x = { s with mem := m, otag := o, poison := p, code := cd } := by
  unfold State.storeSector
  split
  · exact ⟨_, _, _, _, rfl⟩
  · split <;> exact ⟨_, _, _, _, rfl⟩

/-- Putting a sector at its home changes memory and the home cache only. -/
theorem putHome_frame (s : State) (k : Nat) (pin : Option Nat) (x : SectorVal) :
    ∃ m o p l cd, s.putHome k pin x = { s with mem := m, otag := o, poison := p, l2 := l, code := cd } := by
  obtain ⟨m, o, p, cd, h⟩ := storeSector_frame s k x
  unfold State.putHome
  split
  · exact ⟨m, o, p, _, cd, h⟩
  split
  · exact ⟨_, _, _, _, _, rfl⟩
  split
  · exact ⟨_, _, _, _, _, rfl⟩
  simp only []
  split
  · exact ⟨_, _, _, _, _, rfl⟩
  · exact ⟨m, o, p, _, cd, h⟩

/-- Cleaning copies changes the first-level caches only. -/
theorem cleanCopies_get (k n : Nat) (t : Tab Core) :
    ∃ l, Tab.getD (cleanCopies k t) n Core.clear = { Tab.getD t n Core.clear with l1 := l } := by
  induction t with
  | nil => exact ⟨_, rfl⟩
  | cons e t ih =>
    obtain ⟨m, c⟩ := e
    simp only [Tab.getD, cleanCopies, Tab.find] at ih ⊢
    by_cases h : m = n
    · simp only [h, if_true, Option.getD_some]
      split
      · split <;> exact ⟨_, rfl⟩
      · exact ⟨_, rfl⟩
    · simp only [h, if_false]; exact ih

/-- What writing back caches leaves. -/
structure FlushFrame (u s : State) : Prop where
  cur : u.cur = s.cur
  ctx : u.ctx = s.ctx
  reqs : u.reqs = s.reqs
  fresh : u.fresh = s.fresh
  eq : ∃ m o p l cd c, u = { s with mem := m, otag := o, poison := p, l2 := l, code := cd, cores := c }
  core : ∀ n, ∃ l, u.core n = { s.core n with l1 := l }

theorem FlushFrame.refl (s : State) : FlushFrame s s := ⟨rfl, rfl, rfl, rfl, ⟨_, _, _, _, _, _, rfl⟩, fun _ => ⟨_, rfl⟩⟩

theorem FlushFrame.trans {u v w : State} (h : FlushFrame u v) (h' : FlushFrame v w) : FlushFrame u w := by
  refine ⟨h.cur.trans h'.cur, h.ctx.trans h'.ctx, h.reqs.trans h'.reqs, h.fresh.trans h'.fresh, ?_, fun n => ?_⟩
  · obtain ⟨a, b, c, d, e, f, g⟩ := h.eq
    obtain ⟨a', b', c', d', e', f', g'⟩ := h'.eq
    exact ⟨a, b, c, d, e, f, by rw [g, g']⟩
  · obtain ⟨a, b⟩ := h.core n
    obtain ⟨c, d⟩ := h'.core n
    exact ⟨a, by rw [b, d]⟩

theorem recall_flush (s : State) (k : Nat) : FlushFrame (s.recall k) s := by
  unfold State.recall
  split
  · obtain ⟨m, o, p, l, cd, h⟩ := putHome_frame s k ‹L1Sector›.pin ⟨‹L1Sector›.data.toNat, some ‹L1Sector›.tag, ‹L1Sector›.poison⟩
    rw [h]
    exact ⟨rfl, rfl, rfl, rfl, ⟨_, _, _, _, _, _, rfl⟩, fun n => cleanCopies_get k n s.cores⟩
  · exact FlushFrame.refl s

theorem flushHome_flush (s : State) (k : Nat) : FlushFrame (s.flushHome k) s := by
  unfold State.flushHome
  split
  · split
    · rename_i x _ _
      obtain ⟨m, o, p, cd, h⟩ := storeSector_frame s k ⟨x.data.toNat, some x.tag, x.poison⟩
      rw [h]
      exact ⟨rfl, rfl, rfl, rfl, ⟨_, _, _, _, _, _, rfl⟩, fun n => ⟨_, rfl⟩⟩
    · exact FlushFrame.refl s
  · exact FlushFrame.refl s

theorem recallKeys_flush : ∀ (l : List Nat) (s : State), FlushFrame (recallKeys s l) s := by
  intro l
  induction l with
  | nil => exact FlushFrame.refl
  | cons k l ih => intro s; exact (ih _).trans (recall_flush s k)

theorem flushKeys_flush : ∀ (l : List Nat) (s : State), FlushFrame (flushKeys s l) s := by
  intro l
  induction l with
  | nil => exact FlushFrame.refl
  | cons k l ih => intro s; exact (ih _).trans (flushHome_flush s k)

/-- A release writes back caches and changes nothing else. -/
theorem flushScope_flush (s : State) (sc : Scope) : FlushFrame (s.flushScope sc) s := by
  unfold State.flushScope
  split
  · exact (flushKeys_flush _ _).trans (recallKeys_flush _ _)
  · exact FlushFrame.refl s

theorem FlushFrame.thr {u s : State} (h : FlushFrame u s) : u.thr = s.thr := by
  obtain ⟨l, hl⟩ := h.core s.cur
  rw [State.thr, State.thread, h.cur, h.ctx, hl]; rfl

theorem FlushFrame.takes {u s : State} (h : FlushFrame u s) {d : Reg} (hd : s.takes d) : u.takes d := by
  obtain ⟨l, hl⟩ := h.core s.cur
  exact takes_congr hd (by rw [h.thr]) (by rw [h.cur, hl])

/-! ### Windows of registers -/

/-- Registers after a range was cleared. -/
theorem clearRegs_get (rf : Tab RegEntry) (b k i : Nat) :
    Tab.getD (clearRegs rf b k) i RegEntry.clear = if b ≤ i ∧ i < b + k then RegEntry.clear else Tab.getD rf i RegEntry.clear := by
  induction k generalizing rf b with
  | zero => rw [if_neg (by omega)]; rfl
  | succ k ih =>
    rw [clearRegs, ih]
    split
    · rw [if_pos (by omega)]
    · rw [Tab.getD_set]
      split
      · rw [if_pos (by omega)]
      · rw [if_neg (by omega)]

/-- Registers after a range was filled. -/
theorem fillRegs_frame :
    ∀ (vs : List Word) (c : Core) (i : Nat), ∃ rf, c.fillRegs i vs = { c with rf := rf } ∧ ∀ j, Tab.getD rf j RegEntry.clear
    = if i ≤ j ∧ j < i + vs.length then ⟨vs.getD (j - i) 0, true, false, false⟩ else c.reg j := by
  intro vs
  induction vs with
  | nil => intro c i; exact ⟨c.rf, rfl, fun j => by rw [if_neg (by simp)]; rfl⟩
  | cons v vs ih =>
    intro c i
    obtain ⟨rf, h1, h2⟩ := ih (c.localWrite i v false) (i + 1)
    refine ⟨rf, by rw [Core.fillRegs, h1]; rfl, fun j => ?_⟩
    rw [h2]
    have hr : (c.localWrite i v false).reg j = if j = i then ⟨v, true, false, false⟩ else c.reg j := by
      unfold Core.localWrite Core.setReg Core.reg
      exact Tab.getD_set _ _ _ _ _
    by_cases h : j = i
    · subst h
      rw [if_neg (by omega), hr, if_pos rfl, if_pos (by simp)]
      simp
    · by_cases h2 : i + 1 ≤ j ∧ j < i + 1 + vs.length
      · rw [if_pos h2, if_pos (by simp; omega)]
        rw [show j - i = (j - (i + 1)) + 1 by omega, List.getD_cons_succ]
      · rw [if_neg h2, hr, if_neg h, if_neg (by simp; omega)]

end Sys2Proof.Machine
end

