-- ==== Sys2Proof/Laws/Lanes.lean ====
section
/-! SUPPORT. Lanes of vector registers: a lane written reads back, and the others keep. -/

namespace Sys2Proof.Machine

/-! ### Lanes -/

/-- A lane fits its width. -/
theorem laneOf_lt (d w i : Nat) : laneOf d w i < 2 ^ w := Nat.mod_lt _ (Nat.two_pow_pos w)

theorem laneOf_zero (w i : Nat) : laneOf 0 w i = 0 := by simp [laneOf]

/-- A written lane reads back. -/
theorem setLane_self (d w i v : Nat) : laneOf (setLane d w i v) w i = v % 2 ^ w := by
  unfold laneOf setLane
  have hp := Nat.two_pow_pos (w * i)
  have e : d % 2 ^ (w * i) + v % 2 ^ w * 2 ^ (w * i) + d / 2 ^ (w * i + w) * 2 ^ (w * i + w)
      = d % 2 ^ (w * i) + 2 ^ (w * i) * (v % 2 ^ w + 2 ^ w * (d / 2 ^ (w * i + w))) := by
    rw [Nat.pow_add]; ring
  rw [e, Nat.add_mul_div_left _ _ hp, Nat.div_eq_of_lt (Nat.mod_lt _ hp), Nat.zero_add, Nat.add_mul_mod_self_left, Nat.mod_mod]

/-- A lane not written keeps. -/
theorem setLane_ne (d w i k v : Nat) (h : k ≠ i) : laneOf (setLane d w i v) w k = laneOf d w k := by
  unfold laneOf setLane
  have hpi := Nat.two_pow_pos (w * i)
  rcases Nat.lt_or_ge k i with h | h
  · -- below
    have hle : w * k + w ≤ w * i := by
      calc w * k + w = w * (k + 1) := by ring
        _ ≤ w * i := Nat.mul_le_mul_left _ h
    obtain ⟨c, hc⟩ := Nat.exists_eq_add_of_le hle
    have e : d % 2 ^ (w * i) + v % 2 ^ w * 2 ^ (w * i) + d / 2 ^ (w * i + w) * 2 ^ (w * i + w)
        = d % 2 ^ (w * i) + 2 ^ (w * k) * (2 ^ w * (2 ^ c * (v % 2 ^ w + 2 ^ w * (d / 2 ^ (w * i + w))))) := by
      have : 2 ^ (w * i) = 2 ^ (w * k) * 2 ^ w * 2 ^ c := by rw [hc, Nat.pow_add, Nat.pow_add]
      rw [Nat.pow_add 2 (w * i) w, this]; ring
    rw [e, Nat.add_mul_div_left _ _ (Nat.two_pow_pos _), Nat.add_mul_mod_self_left]
    have : d % 2 ^ (w * i) / 2 ^ (w * k) % 2 ^ w = d / 2 ^ (w * k) % 2 ^ w := by
      have e2 : 2 ^ (w * i) = 2 ^ (w * k) * (2 ^ w * 2 ^ c) := by rw [hc, Nat.pow_add, Nat.pow_add]; ring
      rw [e2, Nat.mod_mul_right_div_self, Nat.mod_mul_right_mod]
    exact this
  · have hle : w * i + w ≤ w * k := by
      have : i + 1 ≤ k := by omega
      calc w * i + w = w * (i + 1) := by ring
        _ ≤ w * k := Nat.mul_le_mul_left _ this
    obtain ⟨c, hc⟩ := Nat.exists_eq_add_of_le hle
    have e : 2 ^ (w * k) = 2 ^ (w * i + w) * 2 ^ c := by rw [hc, Nat.pow_add]
    rw [e, ← Nat.div_div_eq_div_mul, ← Nat.div_div_eq_div_mul]
    have hlt : d % 2 ^ (w * i) + v % 2 ^ w * 2 ^ (w * i) < 2 ^ (w * i + w) := by
      have h1 := Nat.mod_lt d hpi
      have h2 := Nat.mod_lt v (Nat.two_pow_pos w)
      calc d % 2 ^ (w * i) + v % 2 ^ w * 2 ^ (w * i) < 2 ^ (w * i) + v % 2 ^ w * 2 ^ (w * i) := by omega
        _ = (v % 2 ^ w + 1) * 2 ^ (w * i) := by ring
        _ ≤ 2 ^ w * 2 ^ (w * i) := Nat.mul_le_mul_right _ h2
        _ = _ := by rw [Nat.pow_add]; ring
    rw [Nat.add_mul_div_right _ _ (Nat.two_pow_pos _), Nat.div_eq_of_lt hlt, Nat.zero_add]

/-- The lanes after several writes. -/
theorem applyLanes_lane (w old : Nat) (ws : List LaneWrite) (hn : (ws.map Prod.fst).Nodup) (k : Nat) :
    (k ∉ ws.map Prod.fst → laneOf (applyLanes w old ws).1 w k = laneOf old w k)
    ∧ ∀ x ∈ ws, x.1 = k → laneOf (applyLanes w old ws).1 w k = x.2.1 % 2 ^ w := by
  unfold applyLanes
  suffices h : ∀ (f0 : Flags) , (k ∉ ws.map Prod.fst → laneOf (ws.foldl (fun r x => (setLane r.1 w x.1 x.2.1, r.2 ||| x.2.2)) (old, f0)).1 w k = laneOf old w k)
    ∧ ∀ x ∈ ws, x.1 = k → laneOf (ws.foldl (fun r x => (setLane r.1 w x.1 x.2.1, r.2 ||| x.2.2)) (old, f0)).1 w k = x.2.1 % 2 ^ w from h 0
  induction ws generalizing old with
  | nil => intro f0; exact ⟨fun _ => rfl, by simp⟩
  | cons x ws ih =>
    intro f0
    simp only [List.map_cons, List.nodup_cons] at hn
    obtain ⟨h1, h2⟩ := ih (setLane old w x.1 x.2.1) hn.2 (f0 ||| x.2.2)
    simp only [List.foldl_cons, List.map_cons, List.mem_cons, not_or]
    refine ⟨fun h => ?_, ?_⟩
    · rw [h1 h.2, setLane_ne _ _ _ _ _ h.1]
    · rintro y (rfl | hy) hk
      · rw [h1 (by rw [← hk]; exact hn.1), ← hk, setLane_self]
      · exact h2 y hy hk

end Sys2Proof.Machine
end

