-- ==== Sys2Proof/Laws/PerInstr.lean ====
section
/-! SUPPORT. The round trip of every constructor of Instr: a well-formed instruction is decoded from its own word. -/

namespace Sys2Proof.Laws.Encoded

/-- A well-formed instruction that has a word is what the decoder reads from it (R68 to R75). -/
def Statement (i : Instr) : Prop := i.wf = true → ∀ w, encode i = some w → decode w = .ok i

theorem of_word (sw : Bool) (op : BitVec 7) (l : BitVec 24) (i : Instr) (he : encode i = some (word sw op l))
    (hd : i.wf = true → decodeOp sw op.toNat l = .ok i) : Statement i := by
  intro hw w h
  rw [he, Option.some.injEq] at h
  rw [← h, decode_word, hd hw]

theorem of_event (i : Instr) (h : encode i = none) : Statement i := by
  intro _ w hw
  rw [h] at hw
  cases hw

end Sys2Proof.Laws.Encoded

open Sys2Proof Sys2Proof.Laws.Encoded

/-! ### One lemma per constructor -/

theorem Sys2Proof.Laws.Encoded.add (sw : Bool) (d a b : Reg) : Statement (.add sw d a b) :=
  of_word sw 0x01 ((a3 d a b)) _ rfl fun _ => by
    show (fun l : BitVec 24 => (.ok (.add sw (fD l) (fA l) (fB l)) : Except Reject Instr)) ((a3 d a b)) = _
    simp only [fD_a3, fA_a3, fB_a3]
theorem Sys2Proof.Laws.Encoded.sub (sw : Bool) (d a b : Reg) : Statement (.sub sw d a b) :=
  of_word sw 0x02 ((a3 d a b)) _ rfl fun _ => by
    show (fun l : BitVec 24 => (.ok (.sub sw (fD l) (fA l) (fB l)) : Except Reject Instr)) ((a3 d a b)) = _
    simp only [fD_a3, fA_a3, fB_a3]
theorem Sys2Proof.Laws.Encoded.mul (sw : Bool) (d a b : Reg) : Statement (.mul sw d a b) :=
  of_word sw 0x03 ((a3 d a b)) _ rfl fun _ => by
    show (fun l : BitVec 24 => (.ok (.mul sw (fD l) (fA l) (fB l)) : Except Reject Instr)) ((a3 d a b)) = _
    simp only [fD_a3, fA_a3, fB_a3]
theorem Sys2Proof.Laws.Encoded.mulh (sw : Bool) (d a b : Reg) : Statement (.mulh sw d a b) :=
  of_word sw 0x04 ((a3 d a b)) _ rfl fun _ => by
    show (fun l : BitVec 24 => (.ok (.mulh sw (fD l) (fA l) (fB l)) : Except Reject Instr)) ((a3 d a b)) = _
    simp only [fD_a3, fA_a3, fB_a3]
theorem Sys2Proof.Laws.Encoded.mulhu (sw : Bool) (d a b : Reg) : Statement (.mulhu sw d a b) :=
  of_word sw 0x05 ((a3 d a b)) _ rfl fun _ => by
    show (fun l : BitVec 24 => (.ok (.mulhu sw (fD l) (fA l) (fB l)) : Except Reject Instr)) ((a3 d a b)) = _
    simp only [fD_a3, fA_a3, fB_a3]
theorem Sys2Proof.Laws.Encoded.div (sw : Bool) (d a b : Reg) : Statement (.div sw d a b) :=
  of_word sw 0x06 ((a3 d a b)) _ rfl fun _ => by
    show (fun l : BitVec 24 => (.ok (.div sw (fD l) (fA l) (fB l)) : Except Reject Instr)) ((a3 d a b)) = _
    simp only [fD_a3, fA_a3, fB_a3]
theorem Sys2Proof.Laws.Encoded.divu (sw : Bool) (d a b : Reg) : Statement (.divu sw d a b) :=
  of_word sw 0x07 ((a3 d a b)) _ rfl fun _ => by
    show (fun l : BitVec 24 => (.ok (.divu sw (fD l) (fA l) (fB l)) : Except Reject Instr)) ((a3 d a b)) = _
    simp only [fD_a3, fA_a3, fB_a3]
theorem Sys2Proof.Laws.Encoded.rem (sw : Bool) (d a b : Reg) : Statement (.rem sw d a b) :=
  of_word sw 0x08 ((a3 d a b)) _ rfl fun _ => by
    show (fun l : BitVec 24 => (.ok (.rem sw (fD l) (fA l) (fB l)) : Except Reject Instr)) ((a3 d a b)) = _
    simp only [fD_a3, fA_a3, fB_a3]
theorem Sys2Proof.Laws.Encoded.remu (sw : Bool) (d a b : Reg) : Statement (.remu sw d a b) :=
  of_word sw 0x09 ((a3 d a b)) _ rfl fun _ => by
    show (fun l : BitVec 24 => (.ok (.remu sw (fD l) (fA l) (fB l)) : Except Reject Instr)) ((a3 d a b)) = _
    simp only [fD_a3, fA_a3, fB_a3]
theorem Sys2Proof.Laws.Encoded.and (sw : Bool) (d a b : Reg) : Statement (.and sw d a b) :=
  of_word sw 0x0A ((a3 d a b)) _ rfl fun _ => by
    show (fun l : BitVec 24 => (.ok (.and sw (fD l) (fA l) (fB l)) : Except Reject Instr)) ((a3 d a b)) = _
    simp only [fD_a3, fA_a3, fB_a3]
theorem Sys2Proof.Laws.Encoded.or (sw : Bool) (d a b : Reg) : Statement (.or sw d a b) :=
  of_word sw 0x0B ((a3 d a b)) _ rfl fun _ => by
    show (fun l : BitVec 24 => (.ok (.or sw (fD l) (fA l) (fB l)) : Except Reject Instr)) ((a3 d a b)) = _
    simp only [fD_a3, fA_a3, fB_a3]
theorem Sys2Proof.Laws.Encoded.xor (sw : Bool) (d a b : Reg) : Statement (.xor sw d a b) :=
  of_word sw 0x0C ((a3 d a b)) _ rfl fun _ => by
    show (fun l : BitVec 24 => (.ok (.xor sw (fD l) (fA l) (fB l)) : Except Reject Instr)) ((a3 d a b)) = _
    simp only [fD_a3, fA_a3, fB_a3]
theorem Sys2Proof.Laws.Encoded.andn (sw : Bool) (d a b : Reg) : Statement (.andn sw d a b) :=
  of_word sw 0x0D ((a3 d a b)) _ rfl fun _ => by
    show (fun l : BitVec 24 => (.ok (.andn sw (fD l) (fA l) (fB l)) : Except Reject Instr)) ((a3 d a b)) = _
    simp only [fD_a3, fA_a3, fB_a3]
theorem Sys2Proof.Laws.Encoded.shl (sw : Bool) (d a b : Reg) : Statement (.shl sw d a b) :=
  of_word sw 0x0E ((a3 d a b)) _ rfl fun _ => by
    show (fun l : BitVec 24 => (.ok (.shl sw (fD l) (fA l) (fB l)) : Except Reject Instr)) ((a3 d a b)) = _
    simp only [fD_a3, fA_a3, fB_a3]
theorem Sys2Proof.Laws.Encoded.shr (sw : Bool) (d a b : Reg) : Statement (.shr sw d a b) :=
  of_word sw 0x0F ((a3 d a b)) _ rfl fun _ => by
    show (fun l : BitVec 24 => (.ok (.shr sw (fD l) (fA l) (fB l)) : Except Reject Instr)) ((a3 d a b)) = _
    simp only [fD_a3, fA_a3, fB_a3]
theorem Sys2Proof.Laws.Encoded.shra (sw : Bool) (d a b : Reg) : Statement (.shra sw d a b) :=
  of_word sw 0x10 ((a3 d a b)) _ rfl fun _ => by
    show (fun l : BitVec 24 => (.ok (.shra sw (fD l) (fA l) (fB l)) : Except Reject Instr)) ((a3 d a b)) = _
    simp only [fD_a3, fA_a3, fB_a3]
theorem Sys2Proof.Laws.Encoded.min (sw : Bool) (d a b : Reg) : Statement (.min sw d a b) :=
  of_word sw 0x11 ((a3 d a b)) _ rfl fun _ => by
    show (fun l : BitVec 24 => (.ok (.min sw (fD l) (fA l) (fB l)) : Except Reject Instr)) ((a3 d a b)) = _
    simp only [fD_a3, fA_a3, fB_a3]
theorem Sys2Proof.Laws.Encoded.max (sw : Bool) (d a b : Reg) : Statement (.max sw d a b) :=
  of_word sw 0x12 ((a3 d a b)) _ rfl fun _ => by
    show (fun l : BitVec 24 => (.ok (.max sw (fD l) (fA l) (fB l)) : Except Reject Instr)) ((a3 d a b)) = _
    simp only [fD_a3, fA_a3, fB_a3]
theorem Sys2Proof.Laws.Encoded.minu (sw : Bool) (d a b : Reg) : Statement (.minu sw d a b) :=
  of_word sw 0x13 ((a3 d a b)) _ rfl fun _ => by
    show (fun l : BitVec 24 => (.ok (.minu sw (fD l) (fA l) (fB l)) : Except Reject Instr)) ((a3 d a b)) = _
    simp only [fD_a3, fA_a3, fB_a3]
theorem Sys2Proof.Laws.Encoded.maxu (sw : Bool) (d a b : Reg) : Statement (.maxu sw d a b) :=
  of_word sw 0x14 ((a3 d a b)) _ rfl fun _ => by
    show (fun l : BitVec 24 => (.ok (.maxu sw (fD l) (fA l) (fB l)) : Except Reject Instr)) ((a3 d a b)) = _
    simp only [fD_a3, fA_a3, fB_a3]
theorem Sys2Proof.Laws.Encoded.seteq (sw : Bool) (d a b : Reg) : Statement (.seteq sw d a b) :=
  of_word sw 0x15 ((a3 d a b)) _ rfl fun _ => by
    show (fun l : BitVec 24 => (.ok (.seteq sw (fD l) (fA l) (fB l)) : Except Reject Instr)) ((a3 d a b)) = _
    simp only [fD_a3, fA_a3, fB_a3]
theorem Sys2Proof.Laws.Encoded.setlt (sw : Bool) (d a b : Reg) : Statement (.setlt sw d a b) :=
  of_word sw 0x16 ((a3 d a b)) _ rfl fun _ => by
    show (fun l : BitVec 24 => (.ok (.setlt sw (fD l) (fA l) (fB l)) : Except Reject Instr)) ((a3 d a b)) = _
    simp only [fD_a3, fA_a3, fB_a3]
theorem Sys2Proof.Laws.Encoded.setltu (sw : Bool) (d a b : Reg) : Statement (.setltu sw d a b) :=
  of_word sw 0x17 ((a3 d a b)) _ rfl fun _ => by
    show (fun l : BitVec 24 => (.ok (.setltu sw (fD l) (fA l) (fB l)) : Except Reject Instr)) ((a3 d a b)) = _
    simp only [fD_a3, fA_a3, fB_a3]
theorem Sys2Proof.Laws.Encoded.sel (sw : Bool) (d a b : Reg) : Statement (.sel sw d a b) :=
  of_word sw 0x18 ((a3 d a b)) _ rfl fun _ => by
    show (fun l : BitVec 24 => (.ok (.sel sw (fD l) (fA l) (fB l)) : Except Reject Instr)) ((a3 d a b)) = _
    simp only [fD_a3, fA_a3, fB_a3]
theorem Sys2Proof.Laws.Encoded.addi (sw : Bool) (d a imm : BitVec 8) : Statement (.addi sw d a imm) :=
  of_word sw 0x19 ((a3 d a imm)) _ rfl fun _ => by
    show (fun l : BitVec 24 => (.ok (.addi sw (fD l) (fA l) (fB l)) : Except Reject Instr)) ((a3 d a imm)) = _
    simp only [fD_a3, fA_a3, fB_a3]
theorem Sys2Proof.Laws.Encoded.andi (sw : Bool) (d a imm : BitVec 8) : Statement (.andi sw d a imm) :=
  of_word sw 0x1A ((a3 d a imm)) _ rfl fun _ => by
    show (fun l : BitVec 24 => (.ok (.andi sw (fD l) (fA l) (fB l)) : Except Reject Instr)) ((a3 d a imm)) = _
    simp only [fD_a3, fA_a3, fB_a3]
theorem Sys2Proof.Laws.Encoded.ori (sw : Bool) (d a imm : BitVec 8) : Statement (.ori sw d a imm) :=
  of_word sw 0x1B ((a3 d a imm)) _ rfl fun _ => by
    show (fun l : BitVec 24 => (.ok (.ori sw (fD l) (fA l) (fB l)) : Except Reject Instr)) ((a3 d a imm)) = _
    simp only [fD_a3, fA_a3, fB_a3]
theorem Sys2Proof.Laws.Encoded.xori (sw : Bool) (d a imm : BitVec 8) : Statement (.xori sw d a imm) :=
  of_word sw 0x1C ((a3 d a imm)) _ rfl fun _ => by
    show (fun l : BitVec 24 => (.ok (.xori sw (fD l) (fA l) (fB l)) : Except Reject Instr)) ((a3 d a imm)) = _
    simp only [fD_a3, fA_a3, fB_a3]
theorem Sys2Proof.Laws.Encoded.shli (sw : Bool) (d a imm : BitVec 8) : Statement (.shli sw d a imm) :=
  of_word sw 0x1D ((a3 d a imm)) _ rfl fun _ => by
    show (fun l : BitVec 24 => (.ok (.shli sw (fD l) (fA l) (fB l)) : Except Reject Instr)) ((a3 d a imm)) = _
    simp only [fD_a3, fA_a3, fB_a3]
theorem Sys2Proof.Laws.Encoded.shri (sw : Bool) (d a imm : BitVec 8) : Statement (.shri sw d a imm) :=
  of_word sw 0x1E ((a3 d a imm)) _ rfl fun _ => by
    show (fun l : BitVec 24 => (.ok (.shri sw (fD l) (fA l) (fB l)) : Except Reject Instr)) ((a3 d a imm)) = _
    simp only [fD_a3, fA_a3, fB_a3]
theorem Sys2Proof.Laws.Encoded.shrai (sw : Bool) (d a imm : BitVec 8) : Statement (.shrai sw d a imm) :=
  of_word sw 0x1F ((a3 d a imm)) _ rfl fun _ => by
    show (fun l : BitVec 24 => (.ok (.shrai sw (fD l) (fA l) (fB l)) : Except Reject Instr)) ((a3 d a imm)) = _
    simp only [fD_a3, fA_a3, fB_a3]
theorem Sys2Proof.Laws.Encoded.movi (sw : Bool) (d : Reg) (imm : BitVec 16) : Statement (.movi sw d imm) :=
  of_word sw 0x20 ((im16 d imm)) _ rfl fun _ => by
    show (fun l : BitVec 24 => (.ok (.movi sw (fD l) (f16 l)) : Except Reject Instr)) ((im16 d imm)) = _
    simp only [fD_im16, f16_im16]
theorem Sys2Proof.Laws.Encoded.clz (sw : Bool) (d a : Reg) : Statement (.clz sw d a) :=
  of_word sw 0x21 ((a3 d a 0x00)) _ rfl fun _ => by
    show (fun l : BitVec 24 => (decodeIntUnary sw l : Except Reject Instr)) ((a3 d a 0x00)) = _
    simp only [fD_a3, fA_a3, fB_a3, decodeIntUnary]
    rfl
theorem Sys2Proof.Laws.Encoded.ctz (sw : Bool) (d a : Reg) : Statement (.ctz sw d a) :=
  of_word sw 0x21 ((a3 d a 0x01)) _ rfl fun _ => by
    show (fun l : BitVec 24 => (decodeIntUnary sw l : Except Reject Instr)) ((a3 d a 0x01)) = _
    simp only [fD_a3, fA_a3, fB_a3, decodeIntUnary]
    rfl
theorem Sys2Proof.Laws.Encoded.popc (sw : Bool) (d a : Reg) : Statement (.popc sw d a) :=
  of_word sw 0x21 ((a3 d a 0x02)) _ rfl fun _ => by
    show (fun l : BitVec 24 => (decodeIntUnary sw l : Except Reject Instr)) ((a3 d a 0x02)) = _
    simp only [fD_a3, fA_a3, fB_a3, decodeIntUnary]
    rfl
theorem Sys2Proof.Laws.Encoded.sextB (sw : Bool) (d a : Reg) : Statement (.sextB sw d a) :=
  of_word sw 0x21 ((a3 d a 0x03)) _ rfl fun _ => by
    show (fun l : BitVec 24 => (decodeIntUnary sw l : Except Reject Instr)) ((a3 d a 0x03)) = _
    simp only [fD_a3, fA_a3, fB_a3, decodeIntUnary]
    rfl
theorem Sys2Proof.Laws.Encoded.sextH (sw : Bool) (d a : Reg) : Statement (.sextH sw d a) :=
  of_word sw 0x21 ((a3 d a 0x04)) _ rfl fun _ => by
    show (fun l : BitVec 24 => (decodeIntUnary sw l : Except Reject Instr)) ((a3 d a 0x04)) = _
    simp only [fD_a3, fA_a3, fB_a3, decodeIntUnary]
    rfl
theorem Sys2Proof.Laws.Encoded.sextW (sw : Bool) (d a : Reg) : Statement (.sextW sw d a) :=
  of_word sw 0x21 ((a3 d a 0x05)) _ rfl fun _ => by
    show (fun l : BitVec 24 => (decodeIntUnary sw l : Except Reject Instr)) ((a3 d a 0x05)) = _
    simp only [fD_a3, fA_a3, fB_a3, decodeIntUnary]
    rfl
theorem Sys2Proof.Laws.Encoded.zextB (sw : Bool) (d a : Reg) : Statement (.zextB sw d a) :=
  of_word sw 0x21 ((a3 d a 0x06)) _ rfl fun _ => by
    show (fun l : BitVec 24 => (decodeIntUnary sw l : Except Reject Instr)) ((a3 d a 0x06)) = _
    simp only [fD_a3, fA_a3, fB_a3, decodeIntUnary]
    rfl
theorem Sys2Proof.Laws.Encoded.zextH (sw : Bool) (d a : Reg) : Statement (.zextH sw d a) :=
  of_word sw 0x21 ((a3 d a 0x07)) _ rfl fun _ => by
    show (fun l : BitVec 24 => (decodeIntUnary sw l : Except Reject Instr)) ((a3 d a 0x07)) = _
    simp only [fD_a3, fA_a3, fB_a3, decodeIntUnary]
    rfl
theorem Sys2Proof.Laws.Encoded.zextW (sw : Bool) (d a : Reg) : Statement (.zextW sw d a) :=
  of_word sw 0x21 ((a3 d a 0x08)) _ rfl fun _ => by
    show (fun l : BitVec 24 => (decodeIntUnary sw l : Except Reject Instr)) ((a3 d a 0x08)) = _
    simp only [fD_a3, fA_a3, fB_a3, decodeIntUnary]
    rfl
theorem Sys2Proof.Laws.Encoded.bswap (sw : Bool) (d a : Reg) : Statement (.bswap sw d a) :=
  of_word sw 0x21 ((a3 d a 0x09)) _ rfl fun _ => by
    show (fun l : BitVec 24 => (decodeIntUnary sw l : Except Reject Instr)) ((a3 d a 0x09)) = _
    simp only [fD_a3, fA_a3, fB_a3, decodeIntUnary]
    rfl
theorem Sys2Proof.Laws.Encoded.mov (sw : Bool) (d a : Reg) : Statement (.mov sw d a) :=
  of_word sw 0x21 ((a3 d a 0x0A)) _ rfl fun _ => by
    show (fun l : BitVec 24 => (decodeIntUnary sw l : Except Reject Instr)) ((a3 d a 0x0A)) = _
    simp only [fD_a3, fA_a3, fB_a3, decodeIntUnary]
    rfl
theorem Sys2Proof.Laws.Encoded.faddD (sw : Bool) (d a b : Reg) : Statement (.faddD sw d a b) :=
  of_word sw 0x22 ((a3 d a b)) _ rfl fun _ => by
    show (fun l : BitVec 24 => (.ok (.faddD sw (fD l) (fA l) (fB l)) : Except Reject Instr)) ((a3 d a b)) = _
    simp only [fD_a3, fA_a3, fB_a3]
theorem Sys2Proof.Laws.Encoded.faddS (sw : Bool) (d a b : Reg) : Statement (.faddS sw d a b) :=
  of_word sw 0x23 ((a3 d a b)) _ rfl fun _ => by
    show (fun l : BitVec 24 => (.ok (.faddS sw (fD l) (fA l) (fB l)) : Except Reject Instr)) ((a3 d a b)) = _
    simp only [fD_a3, fA_a3, fB_a3]
theorem Sys2Proof.Laws.Encoded.fsubD (sw : Bool) (d a b : Reg) : Statement (.fsubD sw d a b) :=
  of_word sw 0x24 ((a3 d a b)) _ rfl fun _ => by
    show (fun l : BitVec 24 => (.ok (.fsubD sw (fD l) (fA l) (fB l)) : Except Reject Instr)) ((a3 d a b)) = _
    simp only [fD_a3, fA_a3, fB_a3]
theorem Sys2Proof.Laws.Encoded.fmulD (sw : Bool) (d a b : Reg) : Statement (.fmulD sw d a b) :=
  of_word sw 0x25 ((a3 d a b)) _ rfl fun _ => by
    show (fun l : BitVec 24 => (.ok (.fmulD sw (fD l) (fA l) (fB l)) : Except Reject Instr)) ((a3 d a b)) = _
    simp only [fD_a3, fA_a3, fB_a3]
theorem Sys2Proof.Laws.Encoded.fmulS (sw : Bool) (d a b : Reg) : Statement (.fmulS sw d a b) :=
  of_word sw 0x26 ((a3 d a b)) _ rfl fun _ => by
    show (fun l : BitVec 24 => (.ok (.fmulS sw (fD l) (fA l) (fB l)) : Except Reject Instr)) ((a3 d a b)) = _
    simp only [fD_a3, fA_a3, fB_a3]
theorem Sys2Proof.Laws.Encoded.fdivD (sw : Bool) (d a b : Reg) : Statement (.fdivD sw d a b) :=
  of_word sw 0x27 ((a3 d a b)) _ rfl fun _ => by
    show (fun l : BitVec 24 => (.ok (.fdivD sw (fD l) (fA l) (fB l)) : Except Reject Instr)) ((a3 d a b)) = _
    simp only [fD_a3, fA_a3, fB_a3]
theorem Sys2Proof.Laws.Encoded.ffmaD (sw : Bool) (d a b : Reg) : Statement (.ffmaD sw d a b) :=
  of_word sw 0x28 ((a3 d a b)) _ rfl fun _ => by
    show (fun l : BitVec 24 => (.ok (.ffmaD sw (fD l) (fA l) (fB l)) : Except Reject Instr)) ((a3 d a b)) = _
    simp only [fD_a3, fA_a3, fB_a3]
theorem Sys2Proof.Laws.Encoded.ffmaS (sw : Bool) (d a b : Reg) : Statement (.ffmaS sw d a b) :=
  of_word sw 0x29 ((a3 d a b)) _ rfl fun _ => by
    show (fun l : BitVec 24 => (.ok (.ffmaS sw (fD l) (fA l) (fB l)) : Except Reject Instr)) ((a3 d a b)) = _
    simp only [fD_a3, fA_a3, fB_a3]
theorem Sys2Proof.Laws.Encoded.fcmpeqD (sw : Bool) (d a b : Reg) : Statement (.fcmpeqD sw d a b) :=
  of_word sw 0x2A ((a3 d a b)) _ rfl fun _ => by
    show (fun l : BitVec 24 => (.ok (.fcmpeqD sw (fD l) (fA l) (fB l)) : Except Reject Instr)) ((a3 d a b)) = _
    simp only [fD_a3, fA_a3, fB_a3]
theorem Sys2Proof.Laws.Encoded.fcmpltD (sw : Bool) (d a b : Reg) : Statement (.fcmpltD sw d a b) :=
  of_word sw 0x2B ((a3 d a b)) _ rfl fun _ => by
    show (fun l : BitVec 24 => (.ok (.fcmpltD sw (fD l) (fA l) (fB l)) : Except Reject Instr)) ((a3 d a b)) = _
    simp only [fD_a3, fA_a3, fB_a3]
theorem Sys2Proof.Laws.Encoded.fsqrtD (sw : Bool) (d a : Reg) : Statement (.fsqrtD sw d a) :=
  of_word sw 0x2C ((a3 d a 0x00)) _ rfl fun _ => by
    show (fun l : BitVec 24 => (decodeFpUnary sw l : Except Reject Instr)) ((a3 d a 0x00)) = _
    simp only [fD_a3, fA_a3, fB_a3, decodeFpUnary]
    rfl
theorem Sys2Proof.Laws.Encoded.fsqrtS (sw : Bool) (d a : Reg) : Statement (.fsqrtS sw d a) :=
  of_word sw 0x2C ((a3 d a 0x01)) _ rfl fun _ => by
    show (fun l : BitVec 24 => (decodeFpUnary sw l : Except Reject Instr)) ((a3 d a 0x01)) = _
    simp only [fD_a3, fA_a3, fB_a3, decodeFpUnary]
    rfl
theorem Sys2Proof.Laws.Encoded.fabsD (sw : Bool) (d a : Reg) : Statement (.fabsD sw d a) :=
  of_word sw 0x2C ((a3 d a 0x02)) _ rfl fun _ => by
    show (fun l : BitVec 24 => (decodeFpUnary sw l : Except Reject Instr)) ((a3 d a 0x02)) = _
    simp only [fD_a3, fA_a3, fB_a3, decodeFpUnary]
    rfl
theorem Sys2Proof.Laws.Encoded.fnegD (sw : Bool) (d a : Reg) : Statement (.fnegD sw d a) :=
  of_word sw 0x2C ((a3 d a 0x03)) _ rfl fun _ => by
    show (fun l : BitVec 24 => (decodeFpUnary sw l : Except Reject Instr)) ((a3 d a 0x03)) = _
    simp only [fD_a3, fA_a3, fB_a3, decodeFpUnary]
    rfl
theorem Sys2Proof.Laws.Encoded.fclassD (sw : Bool) (d a : Reg) : Statement (.fclassD sw d a) :=
  of_word sw 0x2C ((a3 d a 0x04)) _ rfl fun _ => by
    show (fun l : BitVec 24 => (decodeFpUnary sw l : Except Reject Instr)) ((a3 d a 0x04)) = _
    simp only [fD_a3, fA_a3, fB_a3, decodeFpUnary]
    rfl
theorem Sys2Proof.Laws.Encoded.fcvtDS (sw : Bool) (d a : Reg) : Statement (.fcvtDS sw d a) :=
  of_word sw 0x2C ((a3 d a 0x05)) _ rfl fun _ => by
    show (fun l : BitVec 24 => (decodeFpUnary sw l : Except Reject Instr)) ((a3 d a 0x05)) = _
    simp only [fD_a3, fA_a3, fB_a3, decodeFpUnary]
    rfl
theorem Sys2Proof.Laws.Encoded.fcvtSD (sw : Bool) (d a : Reg) : Statement (.fcvtSD sw d a) :=
  of_word sw 0x2C ((a3 d a 0x06)) _ rfl fun _ => by
    show (fun l : BitVec 24 => (decodeFpUnary sw l : Except Reject Instr)) ((a3 d a 0x06)) = _
    simp only [fD_a3, fA_a3, fB_a3, decodeFpUnary]
    rfl
theorem Sys2Proof.Laws.Encoded.fcvtDL (sw : Bool) (d a : Reg) : Statement (.fcvtDL sw d a) :=
  of_word sw 0x2C ((a3 d a 0x07)) _ rfl fun _ => by
    show (fun l : BitVec 24 => (decodeFpUnary sw l : Except Reject Instr)) ((a3 d a 0x07)) = _
    simp only [fD_a3, fA_a3, fB_a3, decodeFpUnary]
    rfl
theorem Sys2Proof.Laws.Encoded.fcvtLD (sw : Bool) (d a : Reg) : Statement (.fcvtLD sw d a) :=
  of_word sw 0x2C ((a3 d a 0x08)) _ rfl fun _ => by
    show (fun l : BitVec 24 => (decodeFpUnary sw l : Except Reject Instr)) ((a3 d a 0x08)) = _
    simp only [fD_a3, fA_a3, fB_a3, decodeFpUnary]
    rfl
theorem Sys2Proof.Laws.Encoded.fcvtSH (sw : Bool) (d a : Reg) : Statement (.fcvtSH sw d a) :=
  of_word sw 0x2C ((a3 d a 0x09)) _ rfl fun _ => by
    show (fun l : BitVec 24 => (decodeFpUnary sw l : Except Reject Instr)) ((a3 d a 0x09)) = _
    simp only [fD_a3, fA_a3, fB_a3, decodeFpUnary]
    rfl
theorem Sys2Proof.Laws.Encoded.fcvtHS (sw : Bool) (d a : Reg) : Statement (.fcvtHS sw d a) :=
  of_word sw 0x2C ((a3 d a 0x0A)) _ rfl fun _ => by
    show (fun l : BitVec 24 => (decodeFpUnary sw l : Except Reject Instr)) ((a3 d a 0x0A)) = _
    simp only [fD_a3, fA_a3, fB_a3, decodeFpUnary]
    rfl
theorem Sys2Proof.Laws.Encoded.fcvtSBf (sw : Bool) (d a : Reg) : Statement (.fcvtSBf sw d a) :=
  of_word sw 0x2C ((a3 d a 0x0B)) _ rfl fun _ => by
    show (fun l : BitVec 24 => (decodeFpUnary sw l : Except Reject Instr)) ((a3 d a 0x0B)) = _
    simp only [fD_a3, fA_a3, fB_a3, decodeFpUnary]
    rfl
theorem Sys2Proof.Laws.Encoded.fcvtBfS (sw : Bool) (d a : Reg) : Statement (.fcvtBfS sw d a) :=
  of_word sw 0x2C ((a3 d a 0x0C)) _ rfl fun _ => by
    show (fun l : BitVec 24 => (decodeFpUnary sw l : Except Reject Instr)) ((a3 d a 0x0C)) = _
    simp only [fD_a3, fA_a3, fB_a3, decodeFpUnary]
    rfl
theorem Sys2Proof.Laws.Encoded.beq (sw : Bool) (a b : Reg) (off : BitVec 8) : Statement (.beq sw a b off) :=
  of_word sw 0x2D ((a3 a b off)) _ rfl fun _ => by
    show (fun l : BitVec 24 => (.ok (.beq sw (fD l) (fA l) (fB l)) : Except Reject Instr)) ((a3 a b off)) = _
    simp only [fD_a3, fA_a3, fB_a3]
theorem Sys2Proof.Laws.Encoded.bne (sw : Bool) (a b : Reg) (off : BitVec 8) : Statement (.bne sw a b off) :=
  of_word sw 0x2E ((a3 a b off)) _ rfl fun _ => by
    show (fun l : BitVec 24 => (.ok (.bne sw (fD l) (fA l) (fB l)) : Except Reject Instr)) ((a3 a b off)) = _
    simp only [fD_a3, fA_a3, fB_a3]
theorem Sys2Proof.Laws.Encoded.blt (sw : Bool) (a b : Reg) (off : BitVec 8) : Statement (.blt sw a b off) :=
  of_word sw 0x2F ((a3 a b off)) _ rfl fun _ => by
    show (fun l : BitVec 24 => (.ok (.blt sw (fD l) (fA l) (fB l)) : Except Reject Instr)) ((a3 a b off)) = _
    simp only [fD_a3, fA_a3, fB_a3]
theorem Sys2Proof.Laws.Encoded.bge (sw : Bool) (a b : Reg) (off : BitVec 8) : Statement (.bge sw a b off) :=
  of_word sw 0x30 ((a3 a b off)) _ rfl fun _ => by
    show (fun l : BitVec 24 => (.ok (.bge sw (fD l) (fA l) (fB l)) : Except Reject Instr)) ((a3 a b off)) = _
    simp only [fD_a3, fA_a3, fB_a3]
theorem Sys2Proof.Laws.Encoded.bltu (sw : Bool) (a b : Reg) (off : BitVec 8) : Statement (.bltu sw a b off) :=
  of_word sw 0x31 ((a3 a b off)) _ rfl fun _ => by
    show (fun l : BitVec 24 => (.ok (.bltu sw (fD l) (fA l) (fB l)) : Except Reject Instr)) ((a3 a b off)) = _
    simp only [fD_a3, fA_a3, fB_a3]
theorem Sys2Proof.Laws.Encoded.bgeu (sw : Bool) (a b : Reg) (off : BitVec 8) : Statement (.bgeu sw a b off) :=
  of_word sw 0x32 ((a3 a b off)) _ rfl fun _ => by
    show (fun l : BitVec 24 => (.ok (.bgeu sw (fD l) (fA l) (fB l)) : Except Reject Instr)) ((a3 a b off)) = _
    simp only [fD_a3, fA_a3, fB_a3]
theorem Sys2Proof.Laws.Encoded.bmb (sw : Bool) (p : Bool) (i : BitVec 6) (off : BitVec 16) : Statement (.bmb sw p i off) :=
  of_word sw 0x33 ((im16 (BitVec.ofBool p ++ (0 : BitVec 1) ++ i) off)) _ rfl fun _ => by
    show (fun l : BitVec 24 => (whenZero (bits l 22 1) (.bmb sw (flag l 23) (bits l 16 6) (f16 l)) : Except Reject Instr)) ((im16 (BitVec.ofBool p ++ (0 : BitVec 1) ++ i) off)) = _
    simp only [f16_im16, bits16_im16, bits22_im16, flag23_im16, f16_im16, whenZero, bmb_zero, bmb_index, bmb_sense]
    rfl
theorem Sys2Proof.Laws.Encoded.bcr (sw : Bool) (p : Bool) (n : BitVec 7) (off : BitVec 16) : Statement (.bcr sw p n off) :=
  of_word sw 0x34 ((im16 (BitVec.ofBool p ++ n) off)) _ rfl fun _ => by
    show (fun l : BitVec 24 => (.ok (.bcr sw (flag l 23) (bits l 16 7) (f16 l)) : Except Reject Instr)) ((im16 (BitVec.ofBool p ++ n) off)) = _
    simp only [f16_im16, bits16_im16, flag23_im16, f16_im16, bcr_index, bcr_sense]
theorem Sys2Proof.Laws.Encoded.jmp (sw : Bool) (off : BitVec 24) : Statement (.jmp sw off) :=
  of_word sw 0x35 (off) _ rfl fun _ => rfl
theorem Sys2Proof.Laws.Encoded.call (sw : Bool) (off : BitVec 24) : Statement (.call sw off) :=
  of_word sw 0x36 (off) _ rfl fun _ => rfl
theorem Sys2Proof.Laws.Encoded.jr (sw : Bool) (a : Reg) : Statement (.jr sw a) :=
  of_word sw 0x37 ((a3 0 a 0x00)) _ rfl fun _ => by
    show (fun l : BitVec 24 => (decodeControl sw l : Except Reject Instr)) ((a3 0 a 0x00)) = _
    simp only [fD_a3, fA_a3, fB_a3, decodeControl, whenZero]
    rfl
theorem Sys2Proof.Laws.Encoded.callr (sw : Bool) (a : Reg) : Statement (.callr sw a) :=
  of_word sw 0x37 ((a3 0 a 0x01)) _ rfl fun _ => by
    show (fun l : BitVec 24 => (decodeControl sw l : Except Reject Instr)) ((a3 0 a 0x01)) = _
    simp only [fD_a3, fA_a3, fB_a3, decodeControl, whenZero]
    rfl
theorem Sys2Proof.Laws.Encoded.ret (sw : Bool) : Statement (.ret sw) :=
  of_word sw 0x37 ((a3 0 0 0x02)) _ rfl fun _ => by
    show (fun l : BitVec 24 => (decodeControl sw l : Except Reject Instr)) ((a3 0 0 0x02)) = _
    simp only [fD_a3, fA_a3, fB_a3, decodeControl, whenZero]
    rfl
theorem Sys2Proof.Laws.Encoded.loop (sw : Bool) (c : Reg) (off : BitVec 16) : Statement (.loop sw c off) :=
  of_word sw 0x38 ((im16 c off)) _ rfl fun _ => by
    show (fun l : BitVec 24 => (.ok (.loop sw (fD l) (f16 l)) : Except Reject Instr)) ((im16 c off)) = _
    simp only [fD_im16, f16_im16]
theorem Sys2Proof.Laws.Encoded.ldB (sw : Bool) (d a imm : BitVec 8) : Statement (.ldB sw d a imm) :=
  of_word sw 0x39 ((a3 d a imm)) _ rfl fun _ => by
    show (fun l : BitVec 24 => (.ok (.ldB sw (fD l) (fA l) (fB l)) : Except Reject Instr)) ((a3 d a imm)) = _
    simp only [fD_a3, fA_a3, fB_a3]
theorem Sys2Proof.Laws.Encoded.ldH (sw : Bool) (d a imm : BitVec 8) : Statement (.ldH sw d a imm) :=
  of_word sw 0x3A ((a3 d a imm)) _ rfl fun _ => by
    show (fun l : BitVec 24 => (.ok (.ldH sw (fD l) (fA l) (fB l)) : Except Reject Instr)) ((a3 d a imm)) = _
    simp only [fD_a3, fA_a3, fB_a3]
theorem Sys2Proof.Laws.Encoded.ldW (sw : Bool) (d a imm : BitVec 8) : Statement (.ldW sw d a imm) :=
  of_word sw 0x3B ((a3 d a imm)) _ rfl fun _ => by
    show (fun l : BitVec 24 => (.ok (.ldW sw (fD l) (fA l) (fB l)) : Except Reject Instr)) ((a3 d a imm)) = _
    simp only [fD_a3, fA_a3, fB_a3]
theorem Sys2Proof.Laws.Encoded.ldD (sw : Bool) (d a imm : BitVec 8) : Statement (.ldD sw d a imm) :=
  of_word sw 0x3C ((a3 d a imm)) _ rfl fun _ => by
    show (fun l : BitVec 24 => (.ok (.ldD sw (fD l) (fA l) (fB l)) : Except Reject Instr)) ((a3 d a imm)) = _
    simp only [fD_a3, fA_a3, fB_a3]
theorem Sys2Proof.Laws.Encoded.lduB (sw : Bool) (d a imm : BitVec 8) : Statement (.lduB sw d a imm) :=
  of_word sw 0x3D ((a3 d a imm)) _ rfl fun _ => by
    show (fun l : BitVec 24 => (.ok (.lduB sw (fD l) (fA l) (fB l)) : Except Reject Instr)) ((a3 d a imm)) = _
    simp only [fD_a3, fA_a3, fB_a3]
theorem Sys2Proof.Laws.Encoded.lduH (sw : Bool) (d a imm : BitVec 8) : Statement (.lduH sw d a imm) :=
  of_word sw 0x3E ((a3 d a imm)) _ rfl fun _ => by
    show (fun l : BitVec 24 => (.ok (.lduH sw (fD l) (fA l) (fB l)) : Except Reject Instr)) ((a3 d a imm)) = _
    simp only [fD_a3, fA_a3, fB_a3]
theorem Sys2Proof.Laws.Encoded.lduW (sw : Bool) (d a imm : BitVec 8) : Statement (.lduW sw d a imm) :=
  of_word sw 0x3F ((a3 d a imm)) _ rfl fun _ => by
    show (fun l : BitVec 24 => (.ok (.lduW sw (fD l) (fA l) (fB l)) : Except Reject Instr)) ((a3 d a imm)) = _
    simp only [fD_a3, fA_a3, fB_a3]
theorem Sys2Proof.Laws.Encoded.stB (sw : Bool) (d a imm : BitVec 8) : Statement (.stB sw d a imm) :=
  of_word sw 0x40 ((a3 d a imm)) _ rfl fun _ => by
    show (fun l : BitVec 24 => (.ok (.stB sw (fD l) (fA l) (fB l)) : Except Reject Instr)) ((a3 d a imm)) = _
    simp only [fD_a3, fA_a3, fB_a3]
theorem Sys2Proof.Laws.Encoded.stH (sw : Bool) (d a imm : BitVec 8) : Statement (.stH sw d a imm) :=
  of_word sw 0x41 ((a3 d a imm)) _ rfl fun _ => by
    show (fun l : BitVec 24 => (.ok (.stH sw (fD l) (fA l) (fB l)) : Except Reject Instr)) ((a3 d a imm)) = _
    simp only [fD_a3, fA_a3, fB_a3]
theorem Sys2Proof.Laws.Encoded.stW (sw : Bool) (d a imm : BitVec 8) : Statement (.stW sw d a imm) :=
  of_word sw 0x42 ((a3 d a imm)) _ rfl fun _ => by
    show (fun l : BitVec 24 => (.ok (.stW sw (fD l) (fA l) (fB l)) : Except Reject Instr)) ((a3 d a imm)) = _
    simp only [fD_a3, fA_a3, fB_a3]
theorem Sys2Proof.Laws.Encoded.stD (sw : Bool) (d a imm : BitVec 8) : Statement (.stD sw d a imm) :=
  of_word sw 0x43 ((a3 d a imm)) _ rfl fun _ => by
    show (fun l : BitVec 24 => (.ok (.stD sw (fD l) (fA l) (fB l)) : Except Reject Instr)) ((a3 d a imm)) = _
    simp only [fD_a3, fA_a3, fB_a3]
theorem Sys2Proof.Laws.Encoded.pref (sw : Bool) (a imm : BitVec 8) : Statement (.pref sw a imm) :=
  of_word sw 0x44 ((a3 0 a imm)) _ rfl fun _ => by
    show (fun l : BitVec 24 => (whenZero (fD l) (.pref sw (fA l) (fB l)) : Except Reject Instr)) ((a3 0 a imm)) = _
    simp only [fD_a3, fA_a3, fB_a3, whenZero]
    rfl
theorem Sys2Proof.Laws.Encoded.vadd (sw : Bool) (vd va vb : VReg) (t : ElemType) (m : MaskSel) (f : BitVec 3) : Statement (.vadd sw vd va vb t m f) :=
  of_word sw 0x45 ((vv vd va vb 0 t.code m.code f)) _ rfl fun hw => by
    show (fun l : BitVec 24 => (vvForm .addSub l fun t m f => whenZero (vC l) (.vadd sw (vD l) (vA l) (vB l) t m f) : Except Reject Instr)) ((vv vd va vb 0 t.code m.code f)) = _
    simp only [vD_vv, vA_vv, vB_vv, vC_vv, vvForm_vv _ _ _ _ _ _ _ _ _ (show VvOp.ok .addSub f t = true from hw), whenZero_zero]
theorem Sys2Proof.Laws.Encoded.vsub (sw : Bool) (vd va vb : VReg) (t : ElemType) (m : MaskSel) (f : BitVec 3) : Statement (.vsub sw vd va vb t m f) :=
  of_word sw 0x46 ((vv vd va vb 0 t.code m.code f)) _ rfl fun hw => by
    show (fun l : BitVec 24 => (vvForm .addSub l fun t m f => whenZero (vC l) (.vsub sw (vD l) (vA l) (vB l) t m f) : Except Reject Instr)) ((vv vd va vb 0 t.code m.code f)) = _
    simp only [vD_vv, vA_vv, vB_vv, vC_vv, vvForm_vv _ _ _ _ _ _ _ _ _ (show VvOp.ok .addSub f t = true from hw), whenZero_zero]
theorem Sys2Proof.Laws.Encoded.vmul (sw : Bool) (vd va vb : VReg) (t : ElemType) (m : MaskSel) (f : BitVec 3) : Statement (.vmul sw vd va vb t m f) :=
  of_word sw 0x47 ((vv vd va vb 0 t.code m.code f)) _ rfl fun hw => by
    show (fun l : BitVec 24 => (vvForm .mul l fun t m f => whenZero (vC l) (.vmul sw (vD l) (vA l) (vB l) t m f) : Except Reject Instr)) ((vv vd va vb 0 t.code m.code f)) = _
    simp only [vD_vv, vA_vv, vB_vv, vC_vv, vvForm_vv _ _ _ _ _ _ _ _ _ (show VvOp.ok .mul f t = true from hw), whenZero_zero]
theorem Sys2Proof.Laws.Encoded.vfma (sw : Bool) (vd va vb vc : VReg) (t : ElemType) (m : MaskSel) (f : BitVec 3) : Statement (.vfma sw vd va vb vc t m f) :=
  of_word sw 0x48 ((vv vd va vb vc t.code m.code f)) _ rfl fun hw => by
    show (fun l : BitVec 24 => (vvForm .fma l fun t m f => .ok (.vfma sw (vD l) (vA l) (vB l) (vC l) t m f) : Except Reject Instr)) ((vv vd va vb vc t.code m.code f)) = _
    simp only [vD_vv, vA_vv, vB_vv, vC_vv, vvForm_vv _ _ _ _ _ _ _ _ _ (show VvOp.ok .fma f t = true from hw)]
theorem Sys2Proof.Laws.Encoded.vmin (sw : Bool) (vd va vb : VReg) (t : ElemType) (m : MaskSel) (f : BitVec 3) : Statement (.vmin sw vd va vb t m f) :=
  of_word sw 0x49 ((vv vd va vb 0 t.code m.code f)) _ rfl fun hw => by
    show (fun l : BitVec 24 => (vvForm .minMax l fun t m f => whenZero (vC l) (.vmin sw (vD l) (vA l) (vB l) t m f) : Except Reject Instr)) ((vv vd va vb 0 t.code m.code f)) = _
    simp only [vD_vv, vA_vv, vB_vv, vC_vv, vvForm_vv _ _ _ _ _ _ _ _ _ (show VvOp.ok .minMax f t = true from hw), whenZero_zero]
theorem Sys2Proof.Laws.Encoded.vmax (sw : Bool) (vd va vb : VReg) (t : ElemType) (m : MaskSel) (f : BitVec 3) : Statement (.vmax sw vd va vb t m f) :=
  of_word sw 0x4A ((vv vd va vb 0 t.code m.code f)) _ rfl fun hw => by
    show (fun l : BitVec 24 => (vvForm .minMax l fun t m f => whenZero (vC l) (.vmax sw (vD l) (vA l) (vB l) t m f) : Except Reject Instr)) ((vv vd va vb 0 t.code m.code f)) = _
    simp only [vD_vv, vA_vv, vB_vv, vC_vv, vvForm_vv _ _ _ _ _ _ _ _ _ (show VvOp.ok .minMax f t = true from hw), whenZero_zero]
theorem Sys2Proof.Laws.Encoded.vlogic (sw : Bool) (vd va vb : VReg) (t : ElemType) (m : MaskSel) (f : BitVec 3) : Statement (.vlogic sw vd va vb t m f) :=
  of_word sw 0x4B ((vv vd va vb 0 t.code m.code f)) _ rfl fun hw => by
    show (fun l : BitVec 24 => (vvForm .logic l fun t m f => whenZero (vC l) (.vlogic sw (vD l) (vA l) (vB l) t m f) : Except Reject Instr)) ((vv vd va vb 0 t.code m.code f)) = _
    simp only [vD_vv, vA_vv, vB_vv, vC_vv, vvForm_vv _ _ _ _ _ _ _ _ _ (show VvOp.ok .logic f t = true from hw), whenZero_zero]
theorem Sys2Proof.Laws.Encoded.vshift (sw : Bool) (vd va vb : VReg) (t : ElemType) (m : MaskSel) (f : BitVec 3) : Statement (.vshift sw vd va vb t m f) :=
  of_word sw 0x4C ((vv vd va vb 0 t.code m.code f)) _ rfl fun hw => by
    show (fun l : BitVec 24 => (vvForm .shift l fun t m f => whenZero (vC l) (.vshift sw (vD l) (vA l) (vB l) t m f) : Except Reject Instr)) ((vv vd va vb 0 t.code m.code f)) = _
    simp only [vD_vv, vA_vv, vB_vv, vC_vv, vvForm_vv _ _ _ _ _ _ _ _ _ (show VvOp.ok .shift f t = true from hw), whenZero_zero]
theorem Sys2Proof.Laws.Encoded.vcmp (sw : Bool) (md : MaskReg) (va vb : VReg) (t : ElemType) (m : MaskSel) (f : BitVec 3) : Statement (.vcmp sw md va vb t m f) :=
  of_word sw 0x4D ((vv md.code va vb 0 t.code m.code f)) _ rfl fun hw => by
    show (fun l : BitVec 24 => (vvForm .cmp l fun t m f =>
      match MaskReg.ofCode (vD l) with
      | none => .error .field
      | some md => whenZero (vC l) (.vcmp sw md (vA l) (vB l) t m f) : Except Reject Instr)) ((vv md.code va vb 0 t.code m.code f)) = _
    simp only [vD_vv, vA_vv, vB_vv, vC_vv, vvForm_vv _ _ _ _ _ _ _ _ _ (show VvOp.ok .cmp f t = true from hw), whenZero_zero, maskReg_code]
theorem Sys2Proof.Laws.Encoded.vsel (sw : Bool) (vd va vb : VReg) (t : ElemType) (m : MaskSel) : Statement (.vsel sw vd va vb t m) :=
  of_word sw 0x4E ((vv vd va vb 0 t.code m.code 0)) _ rfl fun _ => by
    show (fun l : BitVec 24 => (match ElemType.ofCode (vT l), bits l 0 3 with
      | some t, 0 => whenZero (vC l) (.vsel sw (vD l) (vA l) (vB l) t (vM l))
      | _, _ => .error .field : Except Reject Instr)) ((vv vd va vb 0 t.code m.code 0)) = _
    simp only [vD_vv, vA_vv, vB_vv, vC_vv, vT_vv, bits0_vv, vM_vv, elemType_code, whenZero_zero]
    rfl
theorem Sys2Proof.Laws.Encoded.vcvt (sw : Bool) (vd va : VReg) (src dst : CvtType) (m : MaskSel) (p : BitVec 3) : Statement (.vcvt sw vd va src dst m p) :=
  of_word sw 0x4F ((vv vd va src.code dst.code 0 m.code p)) _ rfl fun hw => by
    show (fun l : BitVec 24 => (match CvtType.ofCode (vB l), CvtType.ofCode (vC l), vT l with
      | some src, some dst, 0 =>
        if cvtOk src dst (bits l 0 3) then .ok (.vcvt sw (vD l) (vA l) src dst (vM l) (bits l 0 3)) else .error .field
      | _, _, _ => .error .field : Except Reject Instr)) ((vv vd va src.code dst.code 0 m.code p)) = _
    simp only [vD_vv, vA_vv, vB_vv, vC_vv, vT_vv, bits0_vv, vM_vv, cvtType_code]
    exact if_pos hw
theorem Sys2Proof.Laws.Encoded.vunary (sw : Bool) (vd va vb : VReg) (t : ElemType) (m : MaskSel) (f : BitVec 3) : Statement (.vunary sw vd va vb t m f) :=
  of_word sw 0x50 ((vv vd va vb 0 t.code m.code f)) _ rfl fun hw => by
    show (fun l : BitVec 24 => (vvForm .unary l fun t m f => whenZero (vC l) (.vunary sw (vD l) (vA l) (vB l) t m f) : Except Reject Instr)) ((vv vd va vb 0 t.code m.code f)) = _
    simp only [vD_vv, vA_vv, vB_vv, vC_vv, vvForm_vv _ _ _ _ _ _ _ _ _ (show VvOp.ok .unary f t = true from hw), whenZero_zero]
theorem Sys2Proof.Laws.Encoded.vred (sw : Bool) (vd va vb : VReg) (t : ElemType) (m : MaskSel) (f : BitVec 3) : Statement (.vred sw vd va vb t m f) :=
  of_word sw 0x51 ((vv vd va vb 0 t.code m.code f)) _ rfl fun hw => by
    show (fun l : BitVec 24 => (vvForm .redScan l fun t m f => whenZero (vC l) (.vred sw (vD l) (vA l) (vB l) t m f) : Except Reject Instr)) ((vv vd va vb 0 t.code m.code f)) = _
    simp only [vD_vv, vA_vv, vB_vv, vC_vv, vvForm_vv _ _ _ _ _ _ _ _ _ (show VvOp.ok .redScan f t = true from hw), whenZero_zero]
theorem Sys2Proof.Laws.Encoded.vscan (sw : Bool) (vd va vb : VReg) (t : ElemType) (m : MaskSel) (f : BitVec 3) : Statement (.vscan sw vd va vb t m f) :=
  of_word sw 0x52 ((vv vd va vb 0 t.code m.code f)) _ rfl fun hw => by
    show (fun l : BitVec 24 => (vvForm .redScan l fun t m f => whenZero (vC l) (.vscan sw (vD l) (vA l) (vB l) t m f) : Except Reject Instr)) ((vv vd va vb 0 t.code m.code f)) = _
    simp only [vD_vv, vA_vv, vB_vv, vC_vv, vvForm_vv _ _ _ _ _ _ _ _ _ (show VvOp.ok .redScan f t = true from hw), whenZero_zero]
theorem Sys2Proof.Laws.Encoded.vbcast (sw : Bool) (v : VReg) (xa : Reg) (t : ElemType) (k : Bool) : Statement (.vbcast sw v xa t k) :=
  of_word sw 0x53 ((vx v xa 0 t.code k)) _ rfl fun _ => by
    show (fun l : BitVec 24 => (vxForm l fun t => whenZero (xM l) (.vbcast sw (vD l) (xA l) t (flag l 0)) : Except Reject Instr)) ((vx v xa 0 t.code k)) = _
    simp only [vD_vx, xA_vx, xM_vx, flag_vx, vxForm_vx, whenZero_zero]
theorem Sys2Proof.Laws.Encoded.vext (sw : Bool) (v : VReg) (xa : Reg) (lane : BitVec 8) (t : ElemType) : Statement (.vext sw v xa lane t) :=
  of_word sw 0x54 ((vx v xa lane t.code false)) _ rfl fun _ => by
    show (fun l : BitVec 24 => (vxForm l fun t => if flag l 0 then .error .field else .ok (.vext sw (vD l) (xA l) (xM l) t) : Except Reject Instr)) ((vx v xa lane t.code false)) = _
    simp only [vD_vx, xA_vx, xM_vx, flag_vx, vxForm_vx]
    rfl
theorem Sys2Proof.Laws.Encoded.vins (sw : Bool) (v : VReg) (xa : Reg) (lane : BitVec 8) (t : ElemType) (k : Bool) : Statement (.vins sw v xa lane t k) :=
  of_word sw 0x55 ((vx v xa lane t.code k)) _ rfl fun _ => by
    show (fun l : BitVec 24 => (vxForm l fun t => .ok (.vins sw (vD l) (xA l) (xM l) t (flag l 0)) : Except Reject Instr)) ((vx v xa lane t.code k)) = _
    simp only [vD_vx, xA_vx, xM_vx, flag_vx, vxForm_vx]
theorem Sys2Proof.Laws.Encoded.vperm (sw : Bool) (vd va vb vc : VReg) (t : ElemType) (m : MaskSel) : Statement (.vperm sw vd va vb vc t m) :=
  of_word sw 0x56 ((vv vd va vb vc t.code m.code 0)) _ rfl fun _ => by
    show (fun l : BitVec 24 => (match ElemType.ofCode (vT l), bits l 0 3 with
      | some t, 0 => .ok (.vperm sw (vD l) (vA l) (vB l) (vC l) t (vM l))
      | _, _ => .error .field : Except Reject Instr)) ((vv vd va vb vc t.code m.code 0)) = _
    simp only [vD_vv, vA_vv, vB_vv, vC_vv, vT_vv, bits0_vv, vM_vv, elemType_code]
    rfl
theorem Sys2Proof.Laws.Encoded.vld (sw : Bool) (v : VReg) (xa : Reg) (imm : BitVec 8) (t : ElemType) (k : Bool) : Statement (.vld sw v xa imm t k) :=
  of_word sw 0x57 ((vx v xa imm t.code k)) _ rfl fun _ => by
    show (fun l : BitVec 24 => (vxForm l fun t => .ok (.vld sw (vD l) (xA l) (xM l) t (flag l 0)) : Except Reject Instr)) ((vx v xa imm t.code k)) = _
    simp only [vD_vx, xA_vx, xM_vx, flag_vx, vxForm_vx]
theorem Sys2Proof.Laws.Encoded.vst (sw : Bool) (v : VReg) (xa : Reg) (imm : BitVec 8) (t : ElemType) (k : Bool) : Statement (.vst sw v xa imm t k) :=
  of_word sw 0x58 ((vx v xa imm t.code k)) _ rfl fun _ => by
    show (fun l : BitVec 24 => (vxForm l fun t => .ok (.vst sw (vD l) (xA l) (xM l) t (flag l 0)) : Except Reject Instr)) ((vx v xa imm t.code k)) = _
    simp only [vD_vx, xA_vx, xM_vx, flag_vx, vxForm_vx]
theorem Sys2Proof.Laws.Encoded.vlds (sw : Bool) (v : VReg) (xa xb : Reg) (t : ElemType) (k : Bool) : Statement (.vlds sw v xa xb t k) :=
  of_word sw 0x59 ((vx v xa xb t.code k)) _ rfl fun _ => by
    show (fun l : BitVec 24 => (vxForm l fun t => .ok (.vlds sw (vD l) (xA l) (xM l) t (flag l 0)) : Except Reject Instr)) ((vx v xa xb t.code k)) = _
    simp only [vD_vx, xA_vx, xM_vx, flag_vx, vxForm_vx]
theorem Sys2Proof.Laws.Encoded.vsts (sw : Bool) (v : VReg) (xa xb : Reg) (t : ElemType) (k : Bool) : Statement (.vsts sw v xa xb t k) :=
  of_word sw 0x5A ((vx v xa xb t.code k)) _ rfl fun _ => by
    show (fun l : BitVec 24 => (vxForm l fun t => .ok (.vsts sw (vD l) (xA l) (xM l) t (flag l 0)) : Except Reject Instr)) ((vx v xa xb t.code k)) = _
    simp only [vD_vx, xA_vx, xM_vx, flag_vx, vxForm_vx]
theorem Sys2Proof.Laws.Encoded.vgath (sw : Bool) (v : VReg) (xa : Reg) (vi : VReg) (t : ElemType) (k : Bool) : Statement (.vgath sw v xa vi t k) :=
  of_word sw 0x5B ((vx v xa (vi ++ (0 : BitVec 4)) t.code k)) _ rfl fun _ => by
    show (fun l : BitVec 24 => (vxForm l fun t => whenZero (bits l 4 4) (.vgath sw (vD l) (xA l) (bits l 8 4) t (flag l 0)) : Except Reject Instr)) ((vx v xa (vi ++ (0 : BitVec 4)) t.code k)) = _
    simp only [vD_vx, xA_vx, flag_vx, vxForm_vx, whenZero_zero, bits8_vx, bits4_vx, append_high, append_low]
theorem Sys2Proof.Laws.Encoded.vscat (sw : Bool) (v : VReg) (xa : Reg) (vi : VReg) (t : ElemType) (k : Bool) : Statement (.vscat sw v xa vi t k) :=
  of_word sw 0x5C ((vx v xa (vi ++ (0 : BitVec 4)) t.code k)) _ rfl fun _ => by
    show (fun l : BitVec 24 => (vxForm l fun t => whenZero (bits l 4 4) (.vscat sw (vD l) (xA l) (bits l 8 4) t (flag l 0)) : Except Reject Instr)) ((vx v xa (vi ++ (0 : BitVec 4)) t.code k)) = _
    simp only [vD_vx, xA_vx, flag_vx, vxForm_vx, whenZero_zero, bits8_vx, bits4_vx, append_high, append_low]
theorem Sys2Proof.Laws.Encoded.mand (sw : Bool) (md ma mb : MaskReg) : Statement (.mand sw md ma mb) :=
  of_word sw 0x5D ((a3 ((0 : BitVec 4) ++ md.code) (ma.code ++ mb.code) 0x00)) _ rfl fun _ => by
    show (fun l : BitVec 24 => (decodeMask sw l : Except Reject Instr)) ((a3 ((0 : BitVec 4) ++ md.code) (ma.code ++ mb.code) 0x00)) = _
    simp only [fD_a3, fA_a3, fB_a3, decodeMask, bits20_a3, bits16_a3, bits12_a3, bits8_a3, append_high, append_low, selectors, selector2, selector1, maskReg_code]
    rfl
theorem Sys2Proof.Laws.Encoded.mor (sw : Bool) (md ma mb : MaskReg) : Statement (.mor sw md ma mb) :=
  of_word sw 0x5D ((a3 ((0 : BitVec 4) ++ md.code) (ma.code ++ mb.code) 0x01)) _ rfl fun _ => by
    show (fun l : BitVec 24 => (decodeMask sw l : Except Reject Instr)) ((a3 ((0 : BitVec 4) ++ md.code) (ma.code ++ mb.code) 0x01)) = _
    simp only [fD_a3, fA_a3, fB_a3, decodeMask, bits20_a3, bits16_a3, bits12_a3, bits8_a3, append_high, append_low, selectors, selector2, selector1, maskReg_code]
    rfl
theorem Sys2Proof.Laws.Encoded.mxor (sw : Bool) (md ma mb : MaskReg) : Statement (.mxor sw md ma mb) :=
  of_word sw 0x5D ((a3 ((0 : BitVec 4) ++ md.code) (ma.code ++ mb.code) 0x02)) _ rfl fun _ => by
    show (fun l : BitVec 24 => (decodeMask sw l : Except Reject Instr)) ((a3 ((0 : BitVec 4) ++ md.code) (ma.code ++ mb.code) 0x02)) = _
    simp only [fD_a3, fA_a3, fB_a3, decodeMask, bits20_a3, bits16_a3, bits12_a3, bits8_a3, append_high, append_low, selectors, selector2, selector1, maskReg_code]
    rfl
theorem Sys2Proof.Laws.Encoded.mandn (sw : Bool) (md ma mb : MaskReg) : Statement (.mandn sw md ma mb) :=
  of_word sw 0x5D ((a3 ((0 : BitVec 4) ++ md.code) (ma.code ++ mb.code) 0x03)) _ rfl fun _ => by
    show (fun l : BitVec 24 => (decodeMask sw l : Except Reject Instr)) ((a3 ((0 : BitVec 4) ++ md.code) (ma.code ++ mb.code) 0x03)) = _
    simp only [fD_a3, fA_a3, fB_a3, decodeMask, bits20_a3, bits16_a3, bits12_a3, bits8_a3, append_high, append_low, selectors, selector2, selector1, maskReg_code]
    rfl
theorem Sys2Proof.Laws.Encoded.mnot (sw : Bool) (md ma : MaskReg) : Statement (.mnot sw md ma) :=
  of_word sw 0x5D ((a3 ((0 : BitVec 4) ++ md.code) (ma.code ++ (0 : BitVec 4)) 0x04)) _ rfl fun _ => by
    show (fun l : BitVec 24 => (decodeMask sw l : Except Reject Instr)) ((a3 ((0 : BitVec 4) ++ md.code) (ma.code ++ (0 : BitVec 4)) 0x04)) = _
    simp only [fD_a3, fA_a3, fB_a3, decodeMask, bits20_a3, bits16_a3, bits12_a3, bits8_a3, append_high, append_low, selectors, selector2, selector1, maskReg_code]
    rfl
theorem Sys2Proof.Laws.Encoded.mpopc (sw : Bool) (d : Reg) (ma : MaskReg) : Statement (.mpopc sw d ma) :=
  of_word sw 0x5D ((a3 d (ma.code ++ (0 : BitVec 4)) 0x05)) _ rfl fun _ => by
    show (fun l : BitVec 24 => (decodeMask sw l : Except Reject Instr)) ((a3 d (ma.code ++ (0 : BitVec 4)) 0x05)) = _
    simp only [fD_a3, fA_a3, fB_a3, decodeMask, bits20_a3, bits16_a3, bits12_a3, bits8_a3, append_high, append_low, selectors, selector2, selector1, maskReg_code]
    rfl
theorem Sys2Proof.Laws.Encoded.mfirst (sw : Bool) (d : Reg) (ma : MaskReg) : Statement (.mfirst sw d ma) :=
  of_word sw 0x5D ((a3 d (ma.code ++ (0 : BitVec 4)) 0x06)) _ rfl fun _ => by
    show (fun l : BitVec 24 => (decodeMask sw l : Except Reject Instr)) ((a3 d (ma.code ++ (0 : BitVec 4)) 0x06)) = _
    simp only [fD_a3, fA_a3, fB_a3, decodeMask, bits20_a3, bits16_a3, bits12_a3, bits8_a3, append_high, append_low, selectors, selector2, selector1, maskReg_code]
    rfl
theorem Sys2Proof.Laws.Encoded.mset (sw : Bool) (md : MaskReg) (a : Reg) : Statement (.mset sw md a) :=
  of_word sw 0x5D ((a3 ((0 : BitVec 4) ++ md.code) a 0x07)) _ rfl fun _ => by
    show (fun l : BitVec 24 => (decodeMask sw l : Except Reject Instr)) ((a3 ((0 : BitVec 4) ++ md.code) a 0x07)) = _
    simp only [fD_a3, fA_a3, fB_a3, decodeMask, bits20_a3, bits16_a3, bits12_a3, bits8_a3, append_high, append_low, selectors, selector2, selector1, maskReg_code]
    rfl
theorem Sys2Proof.Laws.Encoded.mget (sw : Bool) (d : Reg) (ma : MaskReg) : Statement (.mget sw d ma) :=
  of_word sw 0x5D ((a3 d (ma.code ++ (0 : BitVec 4)) 0x08)) _ rfl fun _ => by
    show (fun l : BitVec 24 => (decodeMask sw l : Except Reject Instr)) ((a3 d (ma.code ++ (0 : BitVec 4)) 0x08)) = _
    simp only [fD_a3, fA_a3, fB_a3, decodeMask, bits20_a3, bits16_a3, bits12_a3, bits8_a3, append_high, append_low, selectors, selector2, selector1, maskReg_code]
    rfl
theorem Sys2Proof.Laws.Encoded.spawn (sw : Bool) (d a b : Reg) : Statement (.spawn sw d a b) :=
  of_word sw 0x5E ((a3 d a b)) _ rfl fun _ => by
    show (fun l : BitVec 24 => (.ok (.spawn sw (fD l) (fA l) (fB l)) : Except Reject Instr)) ((a3 d a b)) = _
    simp only [fD_a3, fA_a3, fB_a3]
theorem Sys2Proof.Laws.Encoded.reap (sw : Bool) (d a : Reg) : Statement (.reap sw d a) :=
  of_word sw 0x5F ((a3 d a 0)) _ rfl fun _ => by
    show (fun l : BitVec 24 => (whenZero (fB l) (.reap sw (fD l) (fA l)) : Except Reject Instr)) ((a3 d a 0)) = _
    simp only [fD_a3, fA_a3, fB_a3, whenZero]
    rfl
theorem Sys2Proof.Laws.Encoded.repart (sw : Bool) (d a : Reg) : Statement (.repart sw d a) :=
  of_word sw 0x60 ((a3 d a 0)) _ rfl fun _ => by
    show (fun l : BitVec 24 => (whenZero (fB l) (.repart sw (fD l) (fA l)) : Except Reject Instr)) ((a3 d a 0)) = _
    simp only [fD_a3, fA_a3, fB_a3, whenZero]
    rfl
theorem Sys2Proof.Laws.Encoded.send (sw : Bool) (a b : Reg) : Statement (.send sw a b) :=
  of_word sw 0x61 ((a3 0 a b)) _ rfl fun _ => by
    show (fun l : BitVec 24 => (whenZero (fD l) (.send sw (fA l) (fB l)) : Except Reject Instr)) ((a3 0 a b)) = _
    simp only [fD_a3, fA_a3, fB_a3, whenZero]
    rfl
theorem Sys2Proof.Laws.Encoded.waitm (sw : Bool) : Statement (.waitm sw) :=
  of_word sw 0x62 ((a3 0 0 0)) _ rfl fun _ => by
    show (fun l : BitVec 24 => (whenZero l (.waitm sw) : Except Reject Instr)) ((a3 0 0 0)) = _
    simp only [whenZero]
    rfl
theorem Sys2Proof.Laws.Encoded.recvm (sw : Bool) (d : Reg) : Statement (.recvm sw d) :=
  of_word sw 0x63 ((a3 d 0 0)) _ rfl fun _ => by
    show (fun l : BitVec 24 => (whenZero (f16 l) (.recvm sw (fD l)) : Except Reject Instr)) ((a3 d 0 0)) = _
    simp only [fD_a3, whenZero, f16_a3]
    rfl
theorem Sys2Proof.Laws.Encoded.clrf (sw : Bool) (d : Reg) : Statement (.clrf sw d) :=
  of_word sw 0x64 ((a3 d 0 0)) _ rfl fun _ => by
    show (fun l : BitVec 24 => (whenZero (f16 l) (.clrf sw (fD l)) : Except Reject Instr)) ((a3 d 0 0)) = _
    simp only [fD_a3, whenZero, f16_a3]
    rfl
theorem Sys2Proof.Laws.Encoded.migrate (sw : Bool) (a : Reg) : Statement (.migrate sw a) :=
  of_word sw 0x65 ((a3 0 a 0)) _ rfl fun _ => by
    show (fun l : BitVec 24 => (whenZero (fD l ||| fB l) (.migrate sw (fA l)) : Except Reject Instr)) ((a3 0 a 0)) = _
    simp only [fD_a3, fA_a3, fB_a3, whenZero]
    rfl
theorem Sys2Proof.Laws.Encoded.trigger (sw : Bool) (a b : Reg) : Statement (.trigger sw a b) :=
  of_word sw 0x66 ((a3 0 a b)) _ rfl fun _ => by
    show (fun l : BitVec 24 => (whenZero (fD l) (.trigger sw (fA l) (fB l)) : Except Reject Instr)) ((a3 0 a b)) = _
    simp only [fD_a3, fA_a3, fB_a3, whenZero]
    rfl
theorem Sys2Proof.Laws.Encoded.bar (sw : Bool) (d a : Reg) : Statement (.bar sw d a) :=
  of_word sw 0x67 ((a3 d a 0)) _ rfl fun _ => by
    show (fun l : BitVec 24 => (whenZero (fB l) (.bar sw (fD l) (fA l)) : Except Reject Instr)) ((a3 d a 0)) = _
    simp only [fD_a3, fA_a3, fB_a3, whenZero]
    rfl
theorem Sys2Proof.Laws.Encoded.fence (sw : Bool) (kind : FenceKind) (scope : BitVec 4) : Statement (.fence sw kind scope) :=
  of_word sw 0x68 ((at_ 0 0 kind.code scope false)) _ rfl fun _ => by
    show (fun l : BitVec 24 => (match FenceKind.ofCode (bits l 5 3) with
      | none => .error .field
      | some k => whenZero ((fD l ++ fA l) ++ bits l 0 1) (.fence sw k (bits l 1 4)) : Except Reject Instr)) ((at_ 0 0 kind.code scope false)) = _
    simp only [fD_at, fA_at, bits5_at, bits1_at, bits0_at, fenceKind_code, whenZero]
    rfl
theorem Sys2Proof.Laws.Encoded.amoAdd (sw : Bool) (d a : Reg) (scope : BitVec 4) (ord : Bool) : Statement (.amoAdd sw d a scope ord) :=
  of_word sw 0x69 ((at_ d a 0 scope ord)) _ rfl fun _ => by
    show (fun l : BitVec 24 => (decodeAmo sw l : Except Reject Instr)) ((at_ d a 0 scope ord)) = _
    simp only [fD_at, fA_at, bits5_at, bits1_at, flag_at, decodeAmo]
    rfl
theorem Sys2Proof.Laws.Encoded.amoMin (sw : Bool) (d a : Reg) (scope : BitVec 4) (ord : Bool) : Statement (.amoMin sw d a scope ord) :=
  of_word sw 0x69 ((at_ d a 1 scope ord)) _ rfl fun _ => by
    show (fun l : BitVec 24 => (decodeAmo sw l : Except Reject Instr)) ((at_ d a 1 scope ord)) = _
    simp only [fD_at, fA_at, bits5_at, bits1_at, flag_at, decodeAmo]
    rfl
theorem Sys2Proof.Laws.Encoded.amoMax (sw : Bool) (d a : Reg) (scope : BitVec 4) (ord : Bool) : Statement (.amoMax sw d a scope ord) :=
  of_word sw 0x69 ((at_ d a 2 scope ord)) _ rfl fun _ => by
    show (fun l : BitVec 24 => (decodeAmo sw l : Except Reject Instr)) ((at_ d a 2 scope ord)) = _
    simp only [fD_at, fA_at, bits5_at, bits1_at, flag_at, decodeAmo]
    rfl
theorem Sys2Proof.Laws.Encoded.amoMinu (sw : Bool) (d a : Reg) (scope : BitVec 4) (ord : Bool) : Statement (.amoMinu sw d a scope ord) :=
  of_word sw 0x69 ((at_ d a 3 scope ord)) _ rfl fun _ => by
    show (fun l : BitVec 24 => (decodeAmo sw l : Except Reject Instr)) ((at_ d a 3 scope ord)) = _
    simp only [fD_at, fA_at, bits5_at, bits1_at, flag_at, decodeAmo]
    rfl
theorem Sys2Proof.Laws.Encoded.amoMaxu (sw : Bool) (d a : Reg) (scope : BitVec 4) (ord : Bool) : Statement (.amoMaxu sw d a scope ord) :=
  of_word sw 0x69 ((at_ d a 4 scope ord)) _ rfl fun _ => by
    show (fun l : BitVec 24 => (decodeAmo sw l : Except Reject Instr)) ((at_ d a 4 scope ord)) = _
    simp only [fD_at, fA_at, bits5_at, bits1_at, flag_at, decodeAmo]
    rfl
theorem Sys2Proof.Laws.Encoded.amoAnd (sw : Bool) (d a : Reg) (scope : BitVec 4) (ord : Bool) : Statement (.amoAnd sw d a scope ord) :=
  of_word sw 0x69 ((at_ d a 5 scope ord)) _ rfl fun _ => by
    show (fun l : BitVec 24 => (decodeAmo sw l : Except Reject Instr)) ((at_ d a 5 scope ord)) = _
    simp only [fD_at, fA_at, bits5_at, bits1_at, flag_at, decodeAmo]
    rfl
theorem Sys2Proof.Laws.Encoded.amoOr (sw : Bool) (d a : Reg) (scope : BitVec 4) (ord : Bool) : Statement (.amoOr sw d a scope ord) :=
  of_word sw 0x69 ((at_ d a 6 scope ord)) _ rfl fun _ => by
    show (fun l : BitVec 24 => (decodeAmo sw l : Except Reject Instr)) ((at_ d a 6 scope ord)) = _
    simp only [fD_at, fA_at, bits5_at, bits1_at, flag_at, decodeAmo]
    rfl
theorem Sys2Proof.Laws.Encoded.amoXchg (sw : Bool) (d a : Reg) (scope : BitVec 4) (ord : Bool) : Statement (.amoXchg sw d a scope ord) :=
  of_word sw 0x69 ((at_ d a 7 scope ord)) _ rfl fun _ => by
    show (fun l : BitVec 24 => (decodeAmo sw l : Except Reject Instr)) ((at_ d a 7 scope ord)) = _
    simp only [fD_at, fA_at, bits5_at, bits1_at, flag_at, decodeAmo]
    rfl
theorem Sys2Proof.Laws.Encoded.cas (sw : Bool) (d a : Reg) (b scope : BitVec 4) : Statement (.cas sw d a b scope) :=
  of_word sw 0x6A ((a3 d a (b ++ scope))) _ rfl fun _ => by
    show (fun l : BitVec 24 => (.ok (.cas sw (fD l) (fA l) (bits l 4 4) (bits l 0 4)) : Except Reject Instr)) ((a3 d a (b ++ scope))) = _
    simp only [fD_a3, fA_a3, bits4_a3, bits0_a3, append_high, append_low]
theorem Sys2Proof.Laws.Encoded.redFaddOrd (sw : Bool) (a b : Reg) (scope : BitVec 4) (ord : Bool) : Statement (.redFaddOrd sw a b scope ord) :=
  of_word sw 0x6B ((at_ a b 0 scope ord)) _ rfl fun _ => by
    show (fun l : BitVec 24 => (decodeRed sw l : Except Reject Instr)) ((at_ a b 0 scope ord)) = _
    simp only [fD_at, fA_at, bits5_at, bits1_at, flag_at, decodeRed]
    rfl
theorem Sys2Proof.Laws.Encoded.redFaddFast (sw : Bool) (a b : Reg) (scope : BitVec 4) (ord : Bool) : Statement (.redFaddFast sw a b scope ord) :=
  of_word sw 0x6B ((at_ a b 1 scope ord)) _ rfl fun _ => by
    show (fun l : BitVec 24 => (decodeRed sw l : Except Reject Instr)) ((at_ a b 1 scope ord)) = _
    simp only [fD_at, fA_at, bits5_at, bits1_at, flag_at, decodeRed]
    rfl
theorem Sys2Proof.Laws.Encoded.redIadd (sw : Bool) (a b : Reg) (scope : BitVec 4) (ord : Bool) : Statement (.redIadd sw a b scope ord) :=
  of_word sw 0x6B ((at_ a b 2 scope ord)) _ rfl fun _ => by
    show (fun l : BitVec 24 => (decodeRed sw l : Except Reject Instr)) ((at_ a b 2 scope ord)) = _
    simp only [fD_at, fA_at, bits5_at, bits1_at, flag_at, decodeRed]
    rfl
theorem Sys2Proof.Laws.Encoded.redMin (sw : Bool) (a b : Reg) (scope : BitVec 4) (ord : Bool) : Statement (.redMin sw a b scope ord) :=
  of_word sw 0x6B ((at_ a b 3 scope ord)) _ rfl fun _ => by
    show (fun l : BitVec 24 => (decodeRed sw l : Except Reject Instr)) ((at_ a b 3 scope ord)) = _
    simp only [fD_at, fA_at, bits5_at, bits1_at, flag_at, decodeRed]
    rfl
theorem Sys2Proof.Laws.Encoded.redMax (sw : Bool) (a b : Reg) (scope : BitVec 4) (ord : Bool) : Statement (.redMax sw a b scope ord) :=
  of_word sw 0x6B ((at_ a b 4 scope ord)) _ rfl fun _ => by
    show (fun l : BitVec 24 => (decodeRed sw l : Except Reject Instr)) ((at_ a b 4 scope ord)) = _
    simp only [fD_at, fA_at, bits5_at, bits1_at, flag_at, decodeRed]
    rfl
theorem Sys2Proof.Laws.Encoded.scopew (sw : Bool) (a : Reg) (scope : BitVec 4) : Statement (.scopew sw a scope) :=
  of_word sw 0x6C ((at_ 0 a 0 scope false)) _ rfl fun hw => by
    show (fun l : BitVec 24 => (if (bits l 1 4).toNat < 4 then .error .field
      else whenZero ((fD l ++ bits l 5 3) ++ bits l 0 1) (.scopew sw (fA l) (bits l 1 4)) : Except Reject Instr)) ((at_ 0 a 0 scope false)) = _
    simp only [fD_at, fA_at, bits5_at, bits1_at, bits0_at, whenZero, show ¬ scope.toNat < 4 from Nat.not_lt.2 (of_decide_eq_true hw), if_false]
    rfl
theorem Sys2Proof.Laws.Encoded.clean (sw : Bool) (d a : Reg) (scope : BitVec 4) : Statement (.clean sw d a scope) :=
  of_word sw 0x6D ((at_ d a 0 scope false)) _ rfl fun _ => by
    show (fun l : BitVec 24 => (decodeLineOp sw l : Except Reject Instr)) ((at_ d a 0 scope false)) = _
    simp only [fD_at, fA_at, bits5_at, bits1_at, bits0_at, decodeLineOp, whenZero]
    rfl
theorem Sys2Proof.Laws.Encoded.inval (sw : Bool) (d a : Reg) (scope : BitVec 4) : Statement (.inval sw d a scope) :=
  of_word sw 0x6D ((at_ d a 1 scope false)) _ rfl fun _ => by
    show (fun l : BitVec 24 => (decodeLineOp sw l : Except Reject Instr)) ((at_ d a 1 scope false)) = _
    simp only [fD_at, fA_at, bits5_at, bits1_at, bits0_at, decodeLineOp, whenZero]
    rfl
theorem Sys2Proof.Laws.Encoded.discard (sw : Bool) (d a : Reg) (scope : BitVec 4) : Statement (.discard sw d a scope) :=
  of_word sw 0x6D ((at_ d a 2 scope false)) _ rfl fun _ => by
    show (fun l : BitVec 24 => (decodeLineOp sw l : Except Reject Instr)) ((at_ d a 2 scope false)) = _
    simp only [fD_at, fA_at, bits5_at, bits1_at, bits0_at, decodeLineOp, whenZero]
    rfl
theorem Sys2Proof.Laws.Encoded.zero (sw : Bool) (d a : Reg) (scope : BitVec 4) : Statement (.zero sw d a scope) :=
  of_word sw 0x6D ((at_ d a 3 scope false)) _ rfl fun _ => by
    show (fun l : BitVec 24 => (decodeLineOp sw l : Except Reject Instr)) ((at_ d a 3 scope false)) = _
    simp only [fD_at, fA_at, bits5_at, bits1_at, bits0_at, decodeLineOp, whenZero]
    rfl
theorem Sys2Proof.Laws.Encoded.reserve (sw : Bool) (d a : Reg) : Statement (.reserve sw d a) :=
  of_word sw 0x6E ((a3 d a 0)) _ rfl fun _ => by
    show (fun l : BitVec 24 => (whenZero (fB l) (.reserve sw (fD l) (fA l)) : Except Reject Instr)) ((a3 d a 0)) = _
    simp only [fD_a3, fA_a3, fB_a3, whenZero]
    rfl
theorem Sys2Proof.Laws.Encoded.bankmode (sw : Bool) (d a b : Reg) : Statement (.bankmode sw d a b) :=
  of_word sw 0x6F ((a3 d a b)) _ rfl fun _ => by
    show (fun l : BitVec 24 => (.ok (.bankmode sw (fD l) (fA l) (fB l)) : Except Reject Instr)) ((a3 d a b)) = _
    simp only [fD_a3, fA_a3, fB_a3]
theorem Sys2Proof.Laws.Encoded.copy (sw : Bool) (a b : Reg) : Statement (.copy sw a b) :=
  of_word sw 0x70 ((a3 0 a b)) _ rfl fun _ => by
    show (fun l : BitVec 24 => (whenZero (fD l) (.copy sw (fA l) (fB l)) : Except Reject Instr)) ((a3 0 a b)) = _
    simp only [fD_a3, fA_a3, fB_a3, whenZero]
    rfl
theorem Sys2Proof.Laws.Encoded.sbind (sw : Bool) (d a : Reg) : Statement (.sbind sw d a) :=
  of_word sw 0x71 ((a3 d a 0)) _ rfl fun _ => by
    show (fun l : BitVec 24 => (whenZero (fB l) (.sbind sw (fD l) (fA l)) : Except Reject Instr)) ((a3 d a 0)) = _
    simp only [fD_a3, fA_a3, fB_a3, whenZero]
    rfl
theorem Sys2Proof.Laws.Encoded.bufinit (sw : Bool) (a b : Reg) : Statement (.bufinit sw a b) :=
  of_word sw 0x72 ((a3 0 a b)) _ rfl fun _ => by
    show (fun l : BitVec 24 => (whenZero (fD l) (.bufinit sw (fA l) (fB l)) : Except Reject Instr)) ((a3 0 a b)) = _
    simp only [fD_a3, fA_a3, fB_a3, whenZero]
    rfl
theorem Sys2Proof.Laws.Encoded.bufacq (sw : Bool) (d a : Reg) : Statement (.bufacq sw d a) :=
  of_word sw 0x73 ((a3 d a 0)) _ rfl fun _ => by
    show (fun l : BitVec 24 => (whenZero (fB l) (.bufacq sw (fD l) (fA l)) : Except Reject Instr)) ((a3 d a 0)) = _
    simp only [fD_a3, fA_a3, fB_a3, whenZero]
    rfl
theorem Sys2Proof.Laws.Encoded.bufrel (sw : Bool) (a b : Reg) : Statement (.bufrel sw a b) :=
  of_word sw 0x74 ((a3 0 a b)) _ rfl fun _ => by
    show (fun l : BitVec 24 => (whenZero (fD l) (.bufrel sw (fA l) (fB l)) : Except Reject Instr)) ((a3 0 a b)) = _
    simp only [fD_a3, fA_a3, fB_a3, whenZero]
    rfl
theorem Sys2Proof.Laws.Encoded.qpush (sw : Bool) (d a b : Reg) : Statement (.qpush sw d a b) :=
  of_word sw 0x75 ((a3 d a b)) _ rfl fun _ => by
    show (fun l : BitVec 24 => (.ok (.qpush sw (fD l) (fA l) (fB l)) : Except Reject Instr)) ((a3 d a b)) = _
    simp only [fD_a3, fA_a3, fB_a3]
theorem Sys2Proof.Laws.Encoded.qpop (sw : Bool) (d a : Reg) : Statement (.qpop sw d a) :=
  of_word sw 0x76 ((a3 d a 0)) _ rfl fun _ => by
    show (fun l : BitVec 24 => (whenZero (fB l) (.qpop sw (fD l) (fA l)) : Except Reject Instr)) ((a3 d a 0)) = _
    simp only [fD_a3, fA_a3, fB_a3, whenZero]
    rfl
theorem Sys2Proof.Laws.Encoded.qsteal (sw : Bool) (d a b : Reg) : Statement (.qsteal sw d a b) :=
  of_word sw 0x77 ((a3 d a b)) _ rfl fun _ => by
    show (fun l : BitVec 24 => (.ok (.qsteal sw (fD l) (fA l) (fB l)) : Except Reject Instr)) ((a3 d a b)) = _
    simp only [fD_a3, fA_a3, fB_a3]
theorem Sys2Proof.Laws.Encoded.mloadb (sw : Bool) (d a : Reg) : Statement (.mloadb sw d a) :=
  of_word sw 0x78 ((a3 d a 0)) _ rfl fun _ => by
    show (fun l : BitVec 24 => (whenZero (fB l) (.mloadb sw (fD l) (fA l)) : Except Reject Instr)) ((a3 d a 0)) = _
    simp only [fD_a3, fA_a3, fB_a3, whenZero]
    rfl
theorem Sys2Proof.Laws.Encoded.mma (sw : Bool) (acc : BitVec 2) (z : Bool) (sn : BitVec 3) (t : MatType) (b : Reg) : Statement (.mma sw acc z sn t b) :=
  of_word sw 0x79 ((mx acc z sn t.code 0 b)) _ rfl fun _ => by
    show (fun l : BitVec 24 => (match MatType.ofCode (bits l 14 4) with
      | none => .error .field
      | some t => whenZero (bits l 8 6) (.mma sw (bits l 22 2) (flag l 21) (bits l 18 3) t (fB l)) : Except Reject Instr)) ((mx acc z sn t.code 0 b)) = _
    simp only [bits22_mx, flag21_mx, bits18_mx, bits14_mx, fB_mx, matType_code, bits8_mx _ _ _ _ _ _ 6 (by omega), slice_all, whenZero_zero]
theorem Sys2Proof.Laws.Encoded.mmas (sw : Bool) (acc : BitVec 2) (z : Bool) (sn sk : BitVec 3) (t : MatType) (b : Reg) : Statement (.mmas sw acc z sn sk t b) :=
  of_word sw 0x7A ((mx acc z sn t.code (sk ++ (0 : BitVec 3)) b)) _ rfl fun _ => by
    show (fun l : BitVec 24 => (match MatType.ofCode (bits l 14 4) with
      | none => .error .field
      | some t => whenZero (bits l 8 3) (.mmas sw (bits l 22 2) (flag l 21) (bits l 18 3) (bits l 11 3) t (fB l)) : Except Reject Instr)) ((mx acc z sn t.code (sk ++ (0 : BitVec 3)) b)) = _
    simp only [bits22_mx, flag21_mx, bits18_mx, bits14_mx, fB_mx, matType_code, bits8_mx _ _ _ _ _ _ 3 (by omega), bits11_mx, append_high, append_low, whenZero_zero]
theorem Sys2Proof.Laws.Encoded.mread (sw : Bool) (vd : VReg) (acc : BitVec 2) (t : CvtType) (b : Reg) : Statement (.mread sw vd acc t b) :=
  of_word sw 0x7B ((vd ++ acc ++ t.code ++ (0 : BitVec 6) ++ b)) _ rfl fun hw => by
    show (fun l : BitVec 24 => (match CvtType.ofCode (bits l 14 4) with
      | none => .error .field
      | some t =>
        if mreadOk t then whenZero (bits l 8 6) (.mread sw (vD l) (bits l 18 2) t (fB l)) else .error .field : Except Reject Instr)) ((vd ++ acc ++ t.code ++ (0 : BitVec 6) ++ b)) = _
    simp only [vD_mread, bits18_mread, bits14_mread, bits8_mread, fB_mread, cvtType_code, whenZero_zero, show mreadOk t = true from hw, if_true]
theorem Sys2Proof.Laws.Encoded.nop (sw : Bool) : Statement (.nop sw) :=
  of_word sw 0x7C ((a3 0 0 0x00)) _ rfl fun _ => by
    show (fun l : BitVec 24 => (decodeSystem sw l : Except Reject Instr)) ((a3 0 0 0x00)) = _
    simp only [fD_a3, fA_a3, fB_a3, decodeSystem, whenZero]
    rfl
theorem Sys2Proof.Laws.Encoded.brk (sw : Bool) : Statement (.brk sw) :=
  of_word sw 0x7C ((a3 0 0 0x01)) _ rfl fun _ => by
    show (fun l : BitVec 24 => (decodeSystem sw l : Except Reject Instr)) ((a3 0 0 0x01)) = _
    simp only [fD_a3, fA_a3, fB_a3, decodeSystem, whenZero]
    rfl
theorem Sys2Proof.Laws.Encoded.trap (sw : Bool) (a : Reg) : Statement (.trap sw a) :=
  of_word sw 0x7C ((a3 0 a 0x02)) _ rfl fun _ => by
    show (fun l : BitVec 24 => (decodeSystem sw l : Except Reject Instr)) ((a3 0 a 0x02)) = _
    simp only [fD_a3, fA_a3, fB_a3, decodeSystem, whenZero]
    rfl
theorem Sys2Proof.Laws.Encoded.idle (sw : Bool) : Statement (.idle sw) :=
  of_word sw 0x7C ((a3 0 0 0x03)) _ rfl fun _ => by
    show (fun l : BitVec 24 => (decodeSystem sw l : Except Reject Instr)) ((a3 0 0 0x03)) = _
    simp only [fD_a3, fA_a3, fB_a3, decodeSystem, whenZero]
    rfl
theorem Sys2Proof.Laws.Encoded.rdctl (sw : Bool) (d : Reg) (ctl : BitVec 8) : Statement (.rdctl sw d ctl) :=
  of_word sw 0x7C ((a3 d ctl 0x04)) _ rfl fun _ => by
    show (fun l : BitVec 24 => (decodeSystem sw l : Except Reject Instr)) ((a3 d ctl 0x04)) = _
    simp only [fD_a3, fA_a3, fB_a3, decodeSystem, whenZero]
    rfl
theorem Sys2Proof.Laws.Encoded.wrctl (sw : Bool) (ctl : BitVec 8) (a : Reg) : Statement (.wrctl sw ctl a) :=
  of_word sw 0x7C ((a3 ctl a 0x05)) _ rfl fun _ => by
    show (fun l : BitVec 24 => (decodeSystem sw l : Except Reject Instr)) ((a3 ctl a 0x05)) = _
    simp only [fD_a3, fA_a3, fB_a3, decodeSystem, whenZero]
    rfl
theorem Sys2Proof.Laws.Encoded.rep (sw : Bool) (len : BitVec 4) (times : BitVec 6) (sd sa sb : BitVec 4) : Statement (.rep sw len times sd sa sb) :=
  of_word sw 0x7D ((len ++ times ++ sd ++ sa ++ sb ++ (0 : BitVec 2))) _ rfl fun _ => by
    show (fun l : BitVec 24 => (whenZero (bits l 0 2) (.rep sw (vD l) (bits l 14 6) (bits l 10 4) (bits l 6 4) (bits l 2 4)) : Except Reject Instr)) ((len ++ times ++ sd ++ sa ++ sb ++ (0 : BitVec 2))) = _
    simp only [vD_rep, bits14_rep, bits10_rep, bits6_rep, bits2_rep, bits0_rep, whenZero_zero]
theorem Sys2Proof.Laws.Encoded.ext (payload : BitVec 24) : Statement (.ext payload) :=
  of_word false 0x7E (payload) _ rfl fun _ => rfl
theorem Sys2Proof.Laws.Encoded.outstandingResultWrite (c x k j : Nat) (bits : Word) : Statement (.outstandingResultWrite c x k j bits) := of_event _ rfl
theorem Sys2Proof.Laws.Encoded.parkConditionHolds (c x : Nat) : Statement (.parkConditionHolds c x) := of_event _ rfl
theorem Sys2Proof.Laws.Encoded.vectorGrant (chip unit : Nat) : Statement (.vectorGrant chip unit) := of_event _ rfl
theorem Sys2Proof.Laws.Encoded.sendArrival (c : Nat) : Statement (.sendArrival c) := of_event _ rfl
theorem Sys2Proof.Laws.Encoded.refusalDelivery (c : Nat) : Statement (.refusalDelivery c) := of_event _ rfl
theorem Sys2Proof.Laws.Encoded.mailboxMessageArrival (c : Nat) : Statement (.mailboxMessageArrival c) := of_event _ rfl
theorem Sys2Proof.Laws.Encoded.noticeDelivery (c : Nat) : Statement (.noticeDelivery c) := of_event _ rfl
theorem Sys2Proof.Laws.Encoded.portWordArrival (c : Nat) (port : InPort) : Statement (.portWordArrival c port) := of_event _ rfl
theorem Sys2Proof.Laws.Encoded.errorToken (c : Nat) (port : InPort) : Statement (.errorToken c port) := of_event _ rfl
theorem Sys2Proof.Laws.Encoded.bargeArrival (c : Nat) : Statement (.bargeArrival c) := of_event _ rfl
theorem Sys2Proof.Laws.Encoded.bargeHold (c : Nat) : Statement (.bargeHold c) := of_event _ rfl
theorem Sys2Proof.Laws.Encoded.bargeTake (c x : Nat) : Statement (.bargeTake c x) := of_event _ rfl
theorem Sys2Proof.Laws.Encoded.bargeEnd (c x : Nat) : Statement (.bargeEnd c x) := of_event _ rfl
theorem Sys2Proof.Laws.Encoded.memoryAccess (r lane : Nat) (fill : Bool) (victim : Option Nat) : Statement (.memoryAccess r lane fill victim) := of_event _ rfl
theorem Sys2Proof.Laws.Encoded.acknowledgement (c x i : Nat) : Statement (.acknowledgement c x i) := of_event _ rfl
theorem Sys2Proof.Laws.Encoded.atomicPerform (r : Nat) : Statement (.atomicPerform r) := of_event _ rfl
theorem Sys2Proof.Laws.Encoded.lineopPerform (r : Nat) : Statement (.lineopPerform r) := of_event _ rfl
theorem Sys2Proof.Laws.Encoded.redContribution (r : Nat) : Statement (.redContribution r) := of_event _ rfl
theorem Sys2Proof.Laws.Encoded.reductionSetComplete (k : Nat) (order : List (Nat × Nat)) : Statement (.reductionSetComplete k order) := of_event _ rfl
theorem Sys2Proof.Laws.Encoded.pageWalk (c : Nat) (vahi : BitVec 8) (va : Word) : Statement (.pageWalk c vahi va) := of_event _ rfl
theorem Sys2Proof.Laws.Encoded.l1Eviction (c line : Nat) : Statement (.l1Eviction c line) := of_event _ rfl
theorem Sys2Proof.Laws.Encoded.bankAccess (r lane : Nat) : Statement (.bankAccess r lane) := of_event _ rfl
theorem Sys2Proof.Laws.Encoded.bankmodeRequest (chip : Nat) : Statement (.bankmodeRequest chip) := of_event _ rfl
theorem Sys2Proof.Laws.Encoded.bankSwitchComplete (chip bank : Nat) : Statement (.bankSwitchComplete chip bank) := of_event _ rfl
theorem Sys2Proof.Laws.Encoded.bankFailure (chip bank : Nat) : Statement (.bankFailure chip bank) := of_event _ rfl
theorem Sys2Proof.Laws.Encoded.heldLineResolve (line : Nat) (how : HeldChoice) : Statement (.heldLineResolve line how) := of_event _ rfl
theorem Sys2Proof.Laws.Encoded.unbackedAllocationResume (r lane : Nat) : Statement (.unbackedAllocationResume r lane) := of_event _ rfl
theorem Sys2Proof.Laws.Encoded.unbackedLineMove (line : Nat) : Statement (.unbackedLineMove line) := of_event _ rfl
theorem Sys2Proof.Laws.Encoded.scopewHandle (p : Nat) : Statement (.scopewHandle p) := of_event _ rfl
theorem Sys2Proof.Laws.Encoded.scopeInstall (c : Nat) : Statement (.scopeInstall c) := of_event _ rfl
theorem Sys2Proof.Laws.Encoded.scopewAnswer (p : Nat) : Statement (.scopewAnswer p) := of_event _ rfl
theorem Sys2Proof.Laws.Encoded.reserveRequest (p : Nat) : Statement (.reserveRequest p) := of_event _ rfl
theorem Sys2Proof.Laws.Encoded.barrierArrival (c : Nat) : Statement (.barrierArrival c) := of_event _ rfl
theorem Sys2Proof.Laws.Encoded.barrierResult (c unit : Nat) : Statement (.barrierResult c unit) := of_event _ rfl
theorem Sys2Proof.Laws.Encoded.qpushCommand (r : Nat) : Statement (.qpushCommand r) := of_event _ rfl
theorem Sys2Proof.Laws.Encoded.qpopCommand (r : Nat) : Statement (.qpopCommand r) := of_event _ rfl
theorem Sys2Proof.Laws.Encoded.qstealCommand (r : Nat) : Statement (.qstealCommand r) := of_event _ rfl
theorem Sys2Proof.Laws.Encoded.bufinitRequest (r : Nat) : Statement (.bufinitRequest r) := of_event _ rfl
theorem Sys2Proof.Laws.Encoded.bufacqRequest (r : Nat) : Statement (.bufacqRequest r) := of_event _ rfl
theorem Sys2Proof.Laws.Encoded.bufacqGrant (chip bank base : Nat) (produce : Bool) : Statement (.bufacqGrant chip bank base produce) := of_event _ rfl
theorem Sys2Proof.Laws.Encoded.bufrelRequest (r : Nat) : Statement (.bufrelRequest r) := of_event _ rfl
theorem Sys2Proof.Laws.Encoded.bufferSectorCounted (o : Nat) : Statement (.bufferSectorCounted o) := of_event _ rfl
theorem Sys2Proof.Laws.Encoded.copyElement (o l : Nat) : Statement (.copyElement o l) := of_event _ rfl
theorem Sys2Proof.Laws.Encoded.copyCompletion (o : Nat) : Statement (.copyCompletion o) := of_event _ rfl
theorem Sys2Proof.Laws.Encoded.streamFill (c n : Nat) : Statement (.streamFill c n) := of_event _ rfl
theorem Sys2Proof.Laws.Encoded.streamDrain (c n : Nat) : Statement (.streamDrain c n) := of_event _ rfl
theorem Sys2Proof.Laws.Encoded.outputBindingCompletion (o : Nat) : Statement (.outputBindingCompletion o) := of_event _ rfl
theorem Sys2Proof.Laws.Encoded.rowPop (c : Nat) : Statement (.rowPop c) := of_event _ rfl
theorem Sys2Proof.Laws.Encoded.matrixGrant (chip : Nat) : Statement (.matrixGrant chip) := of_event _ rfl
theorem Sys2Proof.Laws.Encoded.mloadbStep (chip : Nat) : Statement (.mloadbStep chip) := of_event _ rfl
theorem Sys2Proof.Laws.Encoded.mmaStep (chip : Nat) : Statement (.mmaStep chip) := of_event _ rfl
theorem Sys2Proof.Laws.Encoded.mmasStep (chip : Nat) : Statement (.mmasStep chip) := of_event _ rfl
theorem Sys2Proof.Laws.Encoded.mreadStep (chip : Nat) : Statement (.mreadStep chip) := of_event _ rfl
theorem Sys2Proof.Laws.Encoded.matrixIdle (chip : Nat) : Statement (.matrixIdle chip) := of_event _ rfl
theorem Sys2Proof.Laws.Encoded.columnUnitRelease (chip u : Nat) : Statement (.columnUnitRelease chip u) := of_event _ rfl
theorem Sys2Proof.Laws.Encoded.notify (f : Nat) (q : BitVec 8) : Statement (.notify f q) := of_event _ rfl
theorem Sys2Proof.Laws.Encoded.triggerDec (p : Nat) : Statement (.triggerDec p) := of_event _ rfl
theorem Sys2Proof.Laws.Encoded.triggerArm (p : Nat) : Statement (.triggerArm p) := of_event _ rfl
theorem Sys2Proof.Laws.Encoded.triggerNotify (p : Nat) : Statement (.triggerNotify p) := of_event _ rfl
theorem Sys2Proof.Laws.Encoded.priorityAging (p k : Nat) : Statement (.priorityAging p k) := of_event _ rfl
theorem Sys2Proof.Laws.Encoded.regionPlace (p : Nat) : Statement (.regionPlace p) := of_event _ rfl
theorem Sys2Proof.Laws.Encoded.corePartEnd (c : Nat) : Statement (.corePartEnd c) := of_event _ rfl
theorem Sys2Proof.Laws.Encoded.regionComplete (e : RegionEnd) : Statement (.regionComplete e) := of_event _ rfl
theorem Sys2Proof.Laws.Encoded.packetCompletion (p : Nat) : Statement (.packetCompletion p) := of_event _ rfl
theorem Sys2Proof.Laws.Encoded.saveEngineWrite (c : Nat) : Statement (.saveEngineWrite c) := of_event _ rfl
theorem Sys2Proof.Laws.Encoded.regionResume (g : Nat) : Statement (.regionResume g) := of_event _ rfl
theorem Sys2Proof.Laws.Encoded.imageWrite (c x : Nat) : Statement (.imageWrite c x) := of_event _ rfl
theorem Sys2Proof.Laws.Encoded.faultRecord (p k : Nat) : Statement (.faultRecord p k) := of_event _ rfl
theorem Sys2Proof.Laws.Encoded.resumeReissue (c : Nat) : Statement (.resumeReissue c) := of_event _ rfl
theorem Sys2Proof.Laws.Encoded.resumeSkip (c : Nat) : Statement (.resumeSkip c) := of_event _ rfl
theorem Sys2Proof.Laws.Encoded.resumeImagePc (c : Nat) : Statement (.resumeImagePc c) := of_event _ rfl
theorem Sys2Proof.Laws.Encoded.kill (c : Nat) : Statement (.kill c) := of_event _ rfl
theorem Sys2Proof.Laws.Encoded.stop (c : Nat) : Statement (.stop c) := of_event _ rfl
theorem Sys2Proof.Laws.Encoded.wake (c : Nat) : Statement (.wake c) := of_event _ rfl
theorem Sys2Proof.Laws.Encoded.image (c : Nat) : Statement (.image c) := of_event _ rfl
theorem Sys2Proof.Laws.Encoded.engineResume (c : Nat) : Statement (.engineResume c) := of_event _ rfl
theorem Sys2Proof.Laws.Encoded.engineEnd (c : Nat) : Statement (.engineEnd c) := of_event _ rfl
theorem Sys2Proof.Laws.Encoded.unseal (c : Nat) : Statement (.unseal c) := of_event _ rfl
theorem Sys2Proof.Laws.Encoded.launchBarge (c : Nat) : Statement (.launchBarge c) := of_event _ rfl
theorem Sys2Proof.Laws.Encoded.regionFaulted (g : Nat) (grade : BitVec 2) : Statement (.regionFaulted g grade) := of_event _ rfl
theorem Sys2Proof.Laws.Encoded.jobKill (slot : BitVec 6) (grade : BitVec 2) (landed : List Nat) : Statement (.jobKill slot grade landed) := of_event _ rfl
theorem Sys2Proof.Laws.Encoded.keySlotSweep (slot : BitVec 6) : Statement (.keySlotSweep slot) := of_event _ rfl
theorem Sys2Proof.Laws.Encoded.uncorrectableError (place : ErrorPlace) : Statement (.uncorrectableError place) := of_event _ rfl
theorem Sys2Proof.Laws.Encoded.containmentRestart (c spare : Nat) : Statement (.containmentRestart c spare) := of_event _ rfl
theorem Sys2Proof.Laws.Encoded.correctedError (c : Nat) (array : ErrorArray) (i : Nat) : Statement (.correctedError c array i) := of_event _ rfl
theorem Sys2Proof.Laws.Encoded.correctedErrorNotice (p : Nat) : Statement (.correctedErrorNotice p) := of_event _ rfl
theorem Sys2Proof.Laws.Encoded.pairCompare (k : Nat) : Statement (.pairCompare k) := of_event _ rfl
theorem Sys2Proof.Laws.Encoded.pairTimeout (k : Nat) : Statement (.pairTimeout k) := of_event _ rfl
theorem Sys2Proof.Laws.Encoded.heartbeatRead (p : Nat) : Statement (.heartbeatRead p) := of_event _ rfl
theorem Sys2Proof.Laws.Encoded.partitionReset (p : Nat) (landed : List Nat) : Statement (.partitionReset p landed) := of_event _ rfl
theorem Sys2Proof.Laws.Encoded.surveyRefresh : Statement (.surveyRefresh) := of_event _ rfl
theorem Sys2Proof.Laws.Encoded.partitionDrained (p : Nat) : Statement (.partitionDrained p) := of_event _ rfl
theorem Sys2Proof.Laws.Encoded.sweepLine (chip : Nat) (cim : Bool) : Statement (.sweepLine chip cim) := of_event _ rfl
theorem Sys2Proof.Laws.Encoded.remapLoad (failed : List Nat) : Statement (.remapLoad failed) := of_event _ rfl
theorem Sys2Proof.Laws.Encoded.remapFlip : Statement .remapFlip := of_event _ rfl
theorem Sys2Proof.Laws.Encoded.remapConfirm : Statement (.remapConfirm) := of_event _ rfl
theorem Sys2Proof.Laws.Encoded.remapIdle : Statement (.remapIdle) := of_event _ rfl
theorem Sys2Proof.Laws.Encoded.routerHop (k : Nat) (dir : Dir) : Statement (.routerHop k dir) := of_event _ rfl
theorem Sys2Proof.Laws.Encoded.streamMessageArrival (k : Nat) : Statement (.streamMessageArrival k) := of_event _ rfl
theorem Sys2Proof.Laws.Encoded.retransmitTimeout (k : Nat) : Statement (.retransmitTimeout k) := of_event _ rfl
theorem Sys2Proof.Laws.Encoded.rehome (l : LaneRef) : Statement (.rehome l) := of_event _ rfl
theorem Sys2Proof.Laws.Encoded.lineRelease (line : Nat) : Statement (.lineRelease line) := of_event _ rfl
theorem Sys2Proof.Laws.Encoded.siteDeath (px py : Nat) : Statement (.siteDeath px py) := of_event _ rfl
theorem Sys2Proof.Laws.Encoded.wharfFlitReceive (w : Nat) (flit : Flit) : Statement (.wharfFlitReceive w flit) := of_event _ rfl
theorem Sys2Proof.Laws.Encoded.wharfResendTimeout (w : Nat) : Statement (.wharfResendTimeout w) := of_event _ rfl
theorem Sys2Proof.Laws.Encoded.wharfFailure (w : Nat) : Statement (.wharfFailure w) := of_event _ rfl
theorem Sys2Proof.Laws.Encoded.cxlMemAccess (f : Nat) (hp : Word) (size : Nat) (write : Option Word) : Statement (.cxlMemAccess f hp size write) := of_event _ rfl
theorem Sys2Proof.Laws.Encoded.spdmRequest (req : Nat) : Statement (.spdmRequest req) := of_event _ rfl
theorem Sys2Proof.Laws.Encoded.powerOn : Statement (.powerOn) := of_event _ rfl
theorem Sys2Proof.Laws.Encoded.sitePowerOn (deadCores : BitVec 9) : Statement (.sitePowerOn deadCores) := of_event _ rfl
theorem Sys2Proof.Laws.Encoded.warmReset : Statement (.warmReset) := of_event _ rfl
theorem Sys2Proof.Laws.Encoded.functionReset (f : Nat) : Statement (.functionReset f) := of_event _ rfl
theorem Sys2Proof.Laws.Encoded.drain : Statement (.drain) := of_event _ rfl
theorem Sys2Proof.Laws.Encoded.undrain : Statement (.undrain) := of_event _ rfl
theorem Sys2Proof.Laws.Encoded.offline : Statement (.offline) := of_event _ rfl
theorem Sys2Proof.Laws.Encoded.online : Statement (.online) := of_event _ rfl
theorem Sys2Proof.Laws.Encoded.killJob : Statement (.killJob) := of_event _ rfl
theorem Sys2Proof.Laws.Encoded.setAge : Statement (.setAge) := of_event _ rfl
theorem Sys2Proof.Laws.Encoded.setStrength : Statement (.setStrength) := of_event _ rfl
theorem Sys2Proof.Laws.Encoded.setTout : Statement (.setTout) := of_event _ rfl
theorem Sys2Proof.Laws.Encoded.retireCore : Statement (.retireCore) := of_event _ rfl
theorem Sys2Proof.Laws.Encoded.setPower : Statement (.setPower) := of_event _ rfl
theorem Sys2Proof.Laws.Encoded.setFabricSlot : Statement (.setFabricSlot) := of_event _ rfl
theorem Sys2Proof.Laws.Encoded.setFabricAdmission : Statement (.setFabricAdmission) := of_event _ rfl
theorem Sys2Proof.Laws.Encoded.setFabricSendAdmission : Statement (.setFabricSendAdmission) := of_event _ rfl
theorem Sys2Proof.Laws.Encoded.setFabricRoute : Statement (.setFabricRoute) := of_event _ rfl
theorem Sys2Proof.Laws.Encoded.surveyNow : Statement (.surveyNow) := of_event _ rfl
theorem Sys2Proof.Laws.Encoded.setQueueRegister : Statement (.setQueueRegister) := of_event _ rfl
theorem Sys2Proof.Laws.Encoded.setQueueRemove : Statement (.setQueueRemove) := of_event _ rfl
theorem Sys2Proof.Laws.Encoded.nring (f : Nat) (v : Word) : Statement (.nring f v) := of_event _ rfl
theorem Sys2Proof.Laws.Encoded.registerWrite (f off size : Nat) (v : Word) : Statement (.registerWrite f off size v) := of_event _ rfl
end

