-- ==== Sys2Proof/Machine/EdasExpr.lean ====
section
/-! DEFINITION. The edas assembler: the parts of a source line, numbers and expressions (R88, R89). -/

namespace Sys2Proof.Edas

/-- Source text. -/
abbrev Text := List Char

/-- Why edas refuses a source: safe, since no words come of it. -/
inductive AsmError where
  /-- A label that is malformed, or that equals a mnemonic, a register name or the name of a defined body (R88). -/
  | badName
  /-- A number or an expression that R89 does not form. -/
  | badExpression
  /-- A symbol, scope or file that nothing binds, or symbols bound in a circle. -/
  | undefined
  /-- Division by zero (R89). -/
  | divisionByZero
  /-- A negative shift count (R89). -/
  | negativeShift
  /-- A word that is no mnemonic, directive or defined name. -/
  | unknown
  /-- A suffix the instruction does not take, a repeated one, one out of order, or a missing one (R91). -/
  | badSuffix
  /-- Operands of another number or kind than R90 gives. -/
  | badOperand
  /-- A value outside the range of its field or datum (R90 to R93). -/
  | outOfRange
  /-- A window register at or above the window (R93). -/
  | outsideWindow
  /-- A target that is no multiple of 4 (R90). -/
  | badTarget
  /-- An instruction at a location that is no multiple of 4 (R93). -/
  | misplaced
  /-- A name bound twice (R93). -/
  | rebound
  /-- A directive where R93 or R178 does not allow it: a second entry, a region outside .data or left unfinished. -/
  | badDirective
  /-- Definitions or included files nested too deep, or a definition without its end (R93). -/
  | nesting
deriving DecidableEq, Repr

/-! ### Characters -/

def isSpace (c : Char) : Bool := c == ' ' || c == '\t' || c == '\r'
def isDigit (c : Char) : Bool := decide ('0' ≤ c) && decide (c ≤ '9')
def isLetter (c : Char) : Bool := (decide ('a' ≤ c) && decide (c ≤ 'z')) || (decide ('A' ≤ c) && decide (c ≤ 'Z'))
/-- Whether a character may start a label (R88). -/
def startsName (c : Char) : Bool := isLetter c || c == '_'
/-- Whether a character may stand in a label (R88). -/
def inName (c : Char) : Bool := startsName c || isDigit c || c == '.'
/-- The double quote of `.include`. -/
def quoteChar : Char := Char.ofNat 34

/-- Whether a text has the form of a label (R88). -/
def isName : Text → Bool
  | [] => false
  | c :: t => startsName c && t.all inName

def trimLeft (t : Text) : Text := t.dropWhile isSpace
def trim (t : Text) : Text := (trimLeft (trimLeft t).reverse).reverse

/-- A text without its comment; a semicolon between quotes opens none (R88). -/
def uncomment : Bool → Text → Text
  | _, [] => []
  | q, c :: t => if c == ';' && !q then [] else c :: uncomment (q != (c == quoteChar)) t

/-- The pieces of a text between separators outside quotes. -/
def splitOn (sep : Char) : Bool → Text → Text → List Text
  | _, acc, [] => [acc.reverse]
  | q, acc, c :: t =>
    if c == sep && !q then acc.reverse :: splitOn sep q [] t
    else splitOn sep (q != (c == quoteChar)) (c :: acc) t

/-! ### Lines (R88) -/

/-- The parts of a source line. -/
structure SrcLine where
  label : Option Text
  /-- Mnemonic, directive or defined name; empty when the line has none. -/
  op : Text
  args : List Text
deriving DecidableEq, Repr

/-- The mnemonic and the operands of a line without label and comment. -/
def splitOperands (l : Option Text) (t : Text) : SrcLine :=
  let rest := trim (t.dropWhile (fun c => !isSpace c))
  ⟨l, t.takeWhile (fun c => !isSpace c), if rest.isEmpty then [] else (splitOn ',' false [] rest).map trim⟩

/-- The parts of a line (R88). -/
def parseLine (t : Text) : Except AsmError SrcLine :=
  let t := trim (uncomment false t)
  let w := t.takeWhile inName
  match t.dropWhile inName with
  | ':' :: rest => if isName w then .ok (splitOperands (some w) (trim rest)) else .error .badName
  | _ => .ok (splitOperands none t)

/-! ### Numbers (R89) -/

/-- Value of a digit of the base. -/
def digitOf (base : Nat) (c : Char) : Option Nat :=
  let v :=
    if isDigit c then some (c.toNat - '0'.toNat)
    else if decide ('a' ≤ c) && decide (c ≤ 'f') then some (c.toNat - 'a'.toNat + 10)
    else if decide ('A' ≤ c) && decide (c ≤ 'F') then some (c.toNat - 'A'.toNat + 10)
    else none
  v.bind (fun d => if d < base then some d else none)

/-- Digits with underscores between them; `gap` says that the character before is no digit. -/
def digitsFrom (base : Nat) : Bool → Nat → Text → Option Nat
  | gap, n, [] => if gap then none else some n
  | _, n, '_' :: t => digitsFrom base true n t
  | _, n, c :: t => (digitOf base c).bind (fun d => digitsFrom base false (n * base + d) t)

/-- Digits: an underscore stands between two of them (R89). -/
def digits (base : Nat) : Text → Option Nat
  | '_' :: _ => none
  | t => digitsFrom base true 0 t

/-- A number without sign (R89). -/
def number : Text → Option Nat
  | '0' :: 'x' :: t => digits 16 t
  | '0' :: 'b' :: t => digits 2 t
  | t => digits 10 t

/-! ### Expressions (R89) -/

/-- The operators of two operands. -/
inductive BinOp where
  | mul | div | rem | add | sub | shl | shr | and | xor | or
deriving DecidableEq, Repr

/-- Precedence: a greater one binds first. DEDUCED: operators listed side by side with one meaning between them, such as
+ and −, share a precedence and group from the left. -/
def BinOp.prec : BinOp → Nat
  | .mul | .div | .rem => 6
  | .add | .sub => 5
  | .shl | .shr => 4
  | .and => 3
  | .xor => 2
  | .or => 1

inductive Expr where
  | num (v : Word)
  | sym (name : Text)
  | neg (e : Expr)
  | not (e : Expr)
  | bin (o : BinOp) (a b : Expr)
deriving DecidableEq, Repr

inductive Tok where
  | num (v : Word)
  | sym (name : Text)
  | bin (o : BinOp)
  | tilde
  | lpar
  | rpar
deriving DecidableEq, Repr

/-- The token a run of name characters stands for. -/
def wordTok (t : Text) : Option Tok :=
  if isName t then some (.sym t) else (number t).map (fun n => .num (BitVec.ofNat 64 n))

/-- The token of one character. -/
def charTok (c : Char) : Option Tok :=
  if c == '*' then some (.bin .mul)
  else if c == '/' then some (.bin .div)
  else if c == '%' then some (.bin .rem)
  else if c == '+' then some (.bin .add)
  else if c == '-' then some (.bin .sub)
  else if c == '&' then some (.bin .and)
  else if c == '^' then some (.bin .xor)
  else if c == '|' then some (.bin .or)
  else if c == '~' then some .tilde
  else if c == '(' then some .lpar
  else if c == ')' then some .rpar
  else none

/-- The tokens, with the word read so far (reversed) put before them. -/
def flush (acc : Text) (r : Option (List Tok)) : Option (List Tok) :=
  if acc.isEmpty then r else (wordTok acc.reverse).bind (fun t => r.map (fun l => t :: l))

/-- The tokens of a text; `acc` is the word read so far, reversed. -/
def lexFrom : Text → Text → Option (List Tok)
  | acc, [] => flush acc (some [])
  | acc, '<' :: '<' :: t => flush acc ((lexFrom [] t).map (fun l => .bin .shl :: l))
  | acc, '>' :: '>' :: t => flush acc ((lexFrom [] t).map (fun l => .bin .shr :: l))
  | acc, c :: t =>
    if inName c then lexFrom (c :: acc) t
    else if isSpace c then flush acc (lexFrom [] t)
    else flush acc ((charTok c).bind (fun k => (lexFrom [] t).map (fun l => k :: l)))

/-- What waits for its operands. -/
inductive Pending where
  | neg
  | not
  | bin (o : BinOp)
  | lpar
deriving DecidableEq, Repr

/-- Gives the operands read so far to the waiting operators of at least that precedence. -/
def reduce (p : Nat) : List Pending → List Expr → Option (List Pending × List Expr)
  | .neg :: ops, e :: out => reduce p ops (.neg e :: out)
  | .not :: ops, e :: out => reduce p ops (.not e :: out)
  | .bin o :: ops, out =>
    if p ≤ o.prec then
      match out with
      | b :: a :: out => reduce p ops (.bin o a b :: out)
      | _ => none
    else some (.bin o :: ops, out)
  | .lpar :: ops, out => some (.lpar :: ops, out)
  | [], out => some ([], out)
  | _ :: _, [] => none

/-- Parses tokens; `want` says that an operand comes next. -/
def parseFrom : Bool → List Pending → List Expr → List Tok → Option Expr
  | true, ops, out, .num v :: t => parseFrom false ops (.num v :: out) t
  | true, ops, out, .sym n :: t => parseFrom false ops (.sym n :: out) t
  | true, ops, out, .bin .sub :: t => parseFrom true (.neg :: ops) out t
  | true, ops, out, .tilde :: t => parseFrom true (.not :: ops) out t
  | true, ops, out, .lpar :: t => parseFrom true (.lpar :: ops) out t
  | false, ops, out, .bin o :: t =>
    match reduce o.prec ops out with
    | some (ops, out) => parseFrom true (.bin o :: ops) out t
    | none => none
  | false, ops, out, .rpar :: t =>
    match reduce 0 ops out with
    | some (.lpar :: ops, out) => parseFrom false ops out t
    | _ => none
  | false, ops, out, [] =>
    match reduce 0 ops out with
    | some ([], [e]) => some e
    | _ => none
  | _, _, _, _ => none

/-- The expression a text writes (R89). -/
def parseExpr (t : Text) : Except AsmError Expr :=
  match (lexFrom [] t).bind (parseFrom true [] []) with
  | some e => .ok e
  | none => .error .badExpression

/-- An operator on two values (R89). -/
def BinOp.apply (o : BinOp) (a b : Word) : Except AsmError Word :=
  match o with
  | .mul => .ok (a * b)
  | .div => if b = 0 then .error .divisionByZero else .ok (BitVec.ofInt 64 (a.toInt.tdiv b.toInt))
  | .rem => if b = 0 then .error .divisionByZero else .ok (BitVec.ofInt 64 (a.toInt.tmod b.toInt))
  | .add => .ok (a + b)
  | .sub => .ok (a - b)
  | .shl => if b.toInt < 0 then .error .negativeShift else .ok (if 64 ≤ b.toNat then 0 else a <<< b.toNat)
  | .shr => if b.toInt < 0 then .error .negativeShift else .ok (BitVec.ofInt 64 (a.toInt / 2 ^ min b.toNat 64))
  | .and => .ok (a &&& b)
  | .xor => .ok (a ^^^ b)
  | .or => .ok (a ||| b)

/-- The value of an expression, names taken from `env` (R89). -/
def Expr.eval (env : Text → Except AsmError Word) : Expr → Except AsmError Word
  | .num v => .ok v
  | .sym n => env n
  | .neg e => do return -(← e.eval env)
  | .not e => do return ~~~(← e.eval env)
  | .bin o a b => do o.apply (← a.eval env) (← b.eval env)

/-- The value of an expression's text. -/
def valueOf (env : Text → Except AsmError Word) (t : Text) : Except AsmError Word := do (← parseExpr t).eval env

/-- Names bound to values. -/
abbrev Names := List (Text × Word)

def Names.find (l : Names) (n : Text) : Option Word := (l.find? (fun e => e.1 == n)).map Prod.snd

end Sys2Proof.Edas
end

