-- ==== Sys2Proof/Machine/EdasInstr.lean ====
section
/-! DEFINITION. The edas assembler: registers, mnemonics, suffixes and operands, and the instruction a line writes
(R15, R69 to R74, R90, R91, R131). -/

namespace Sys2Proof.Edas

/-! ### Registers (R15, R17, R18, R34) -/

/-- A decimal number without leading zeros. -/
def plainNumber (t : Text) : Option Nat :=
  if t.all isDigit && decide (t.length ≤ 3) && (t.length == 1 || t.head? != some '0') then number t else none

/-- The number of a register named by a letter and a number below `lim`. -/
def numbered (c : Char) (lim : Nat) : Text → Option Nat
  | h :: t => if h == c then (plainNumber t).bind (fun n => if n < lim then some n else none) else none
  | [] => none

/-- The registers of R15 with names of their own, by their numbers. -/
def namedRegs : List (String × Nat) :=
  [("nup", 0xA0), ("ndn", 0xA1), ("pn", 0xA2), ("pe", 0xA3), ("ps", 0xA4), ("pw", 0xA5),
   ("lc0", 0xB0), ("ls0", 0xB1), ("le0", 0xB2), ("lc1", 0xB3), ("ls1", 0xB4), ("le1", 0xB5), ("rasp", 0xB6), ("rasd", 0xB7)]

/-- The control registers of R34, in the order of their numbers. -/
def controlRegs : List String := ["fpctl", "fpflags", "tid", "win", "cycle", "repst", "lpst", "rasb", "mxwt", "vahi"]

/-- The number of a name in a table. -/
def lookup {α : Type} (l : List (String × α)) (t : Text) : Option α := (l.find? (fun e => e.1.toList == t)).map Prod.snd

/-- The number of an operand register (R15). -/
def regNumber (t : Text) : Option Nat :=
  match numbered 'x' 128 t, numbered 'c' 32 t, numbered 's' 8 t with
  | some n, _, _ => some n
  | _, some n, _ => some (0x80 + n)
  | _, _, some n => some (0xA8 + n)
  | _, _, _ => lookup namedRegs t

/-- Whether a text names a register of any kind: DEDUCED (log entry 70) that the register names of R88 are those of
operands, vectors, masks and accumulators, a control register's name being recognised in its own position only (R127). -/
def isRegName (t : Text) : Bool :=
  (regNumber t).isSome || (numbered 'v' 16 t).isSome || (numbered 'm' 2 t).isSome || (numbered 'a' 4 t).isSome

/-! ### What operands are read against -/

/-- What the operands of a line mean where it stands. -/
structure Env where
  /-- The values of labels and `.equ` symbols. -/
  sym : Text → Except AsmError Word
  /-- The scope names. -/
  scopes : Names
  /-- The window (R93). -/
  window : Nat

/-- A field naming an operand register, below the window where it names a window register (R93). -/
def Env.reg (e : Env) (t : Text) : Except AsmError Reg :=
  match regNumber t with
  | none => .error .badOperand
  | some n => if n < 0x80 ∧ e.window ≤ n then .error .outsideWindow else .ok (BitVec.ofNat 8 n)

/-- A vector register, all eight registers of it below the window (R17, R93). -/
def Env.vreg (e : Env) (t : Text) : Except AsmError VReg :=
  match numbered 'v' 16 t with
  | none => .error .badOperand
  | some n => if e.window < 8 * n + 8 then .error .outsideWindow else .ok (BitVec.ofNat 4 n)

def maskReg (t : Text) : Except AsmError MaskReg :=
  match numbered 'm' 2 t with
  | none => .error .badOperand
  | some n => .ok (if n = 0 then .m0 else .m1)

def accReg (t : Text) : Except AsmError (BitVec 2) :=
  match numbered 'a' 4 t with
  | none => .error .badOperand
  | some n => .ok (BitVec.ofNat 2 n)

def streamReg (t : Text) : Except AsmError (BitVec 3) :=
  match numbered 's' 8 t with
  | none => .error .badOperand
  | some n => .ok (BitVec.ofNat 3 n)

def Env.value (e : Env) (t : Text) : Except AsmError Word := valueOf e.sym t

/-- An index from `lo` to `hi`. -/
def Env.index (e : Env) (lo hi : Int) (t : Text) : Except AsmError Int := do
  let v ← e.value t
  if lo ≤ v.toInt ∧ v.toInt ≤ hi then return v.toInt else throw .outOfRange

/-- The control position of RDCTL and WRCTL: a name of R34, or a number from 0 to 255 (R127). -/
def Env.controlReg (e : Env) (t : Text) : Except AsmError (BitVec 8) := do
  match controlRegs.findIdx? (fun s => s.toList == t) with
  | some n => return BitVec.ofNat 8 n
  | none => return BitVec.ofInt 8 (← e.index 0 255 t)

/-- A scope: a name bound by `.scope`, or a number from 0 to 15 (R90). -/
def Env.scope (e : Env) (t : Text) : Except AsmError (BitVec 4) := do
  match e.scopes.find t with
  | some v => return v.truncate 4
  | none => return BitVec.ofInt 4 (← e.index 0 15 t)

/-! ### Suffixes (R91) -/

/-- The suffixes after a name. -/
structure Suffixes where
  kind : Option FenceKind
  sync : Bool
  ty : Option Text
  mask : MaskSel
  sw : Bool
deriving DecidableEq, Repr

def noSuffix : Suffixes := ⟨none, false, none, .all, false⟩

def fenceKinds : List (String × FenceKind) := [("acq", .acq), ("rel", .rel), ("ar", .ar), ("sc", .sc)]

def elemTypes : List (String × ElemType) :=
  [("fp64", .fp64), ("fp32", .fp32), ("fp16", .fp16), ("bf16", .bf16), ("i64", .i64), ("i32", .i32), ("i16", .i16)]

/-- The types of MMA and MMAS. DEDUCED: those R91 and the examples of R290 do not name are written alike. -/
def matTypes : List (String × MatType) :=
  [("fp64", .fp64), ("fp32", .fp32), ("fp16", .fp16), ("bf16", .bf16), ("e4m3", .e4m3), ("e5m2", .e5m2), ("i8", .i8),
   ("i4", .i4), ("sb8", .sb8), ("sb4", .sb4)]

/-- The types of MREAD (R293), written as in R91 and its examples. -/
def readTypes : List (String × CvtType) :=
  [("fp64", .f64), ("fp32", .f32), ("fp16", .f16), ("bf16", .bf16), ("i64", .i64), ("i32", .i32), ("i16", .i16),
   ("i8", .i8), ("e4m3", .e4m3), ("e5m2", .e5m2)]

/-- The types of VCVT (R136). -/
def cvtTypes : List (String × CvtType) :=
  [("f64", .f64), ("f32", .f32), ("f16", .f16), ("bf16", .bf16), ("i64", .i64), ("i32", .i32), ("i16", .i16), ("i8", .i8),
   ("i4", .i4), ("e4m3", .e4m3), ("e5m2", .e5m2)]

def maskNames : List (String × MaskSel) := [("m0", .m0), ("m1", .m1), ("nm0", .notM0)]

/-- Whether a suffix names an element type of some instruction. -/
def isTypeName (t : Text) : Bool := (lookup elemTypes t).isSome || (lookup matTypes t).isSome || (lookup readTypes t).isSome

/-- The suffixes in the order of R91, each at most once; `place` is that of the last one read. -/
def suffixesFrom (place : Nat) (s : Suffixes) : List Text → Except AsmError Suffixes
  | [] => .ok s
  | t :: rest =>
    if place < 2 ∧ (lookup fenceKinds t).isSome then suffixesFrom 2 { s with kind := lookup fenceKinds t } rest
    else if place < 3 ∧ t = "sync".toList then suffixesFrom 3 { s with sync := true } rest
    else if place < 4 ∧ isTypeName t = true then suffixesFrom 4 { s with ty := some t } rest
    else if place < 5 ∧ (lookup maskNames t).isSome then suffixesFrom 5 { s with mask := (lookup maskNames t).getD .all } rest
    else if place < 6 ∧ t = "sw".toList then suffixesFrom 6 { s with sw := true } rest
    else .error .badSuffix

/-! ### Instruction forms -/

/-- The form of an instruction's operands and suffixes, with what it makes of them (R90). -/
inductive Shape where
  | r0 (f : Bool → Instr)
  | r1 (f : Bool → Reg → Instr)
  | r2 (f : Bool → Reg → Reg → Instr)
  | r3 (f : Bool → Reg → Reg → Reg → Instr)
  | im8 (f : Bool → Reg → Reg → BitVec 8 → Instr)
  | pref
  | movi
  | br (f : Bool → Reg → Reg → BitVec 8 → Instr)
  | bmb (p : Bool)
  | bcr (p : Bool)
  | jp (f : Bool → BitVec 24 → Instr)
  | loop
  /-- VV with one, two or three vector sources; the others are written as zero (R131). -/
  | vv1 (ok : ElemType → Bool) (f : Bool → VReg → VReg → ElemType → MaskSel → Instr)
  | vv2 (ok : ElemType → Bool) (f : Bool → VReg → VReg → VReg → ElemType → MaskSel → Instr)
  | vv3 (f : Bool → VReg → VReg → VReg → VReg → ElemType → MaskSel → Instr)
  | vcmp (c : BitVec 3)
  | vcvt (dst src : CvtType)
  | vbcast
  | vext
  | vins
  | vmem (f : Bool → VReg → Reg → BitVec 8 → ElemType → Bool → Instr)
  | vstr (f : Bool → VReg → Reg → Reg → ElemType → Bool → Instr)
  | vidx (f : Bool → VReg → Reg → VReg → ElemType → Bool → Instr)
  | mask3 (f : Bool → MaskReg → MaskReg → MaskReg → Instr)
  | mnot
  | maskTo (f : Bool → Reg → MaskReg → Instr)
  | mset
  | fence
  | amo (f : Bool → Reg → Reg → BitVec 4 → Bool → Instr)
  | line (f : Bool → Reg → Reg → BitVec 4 → Instr)
  | cas
  | scopew
  | mma (z : Bool)
  | mmas (z : Bool)
  | mread
  | rdctl
  | wrctl
  | rep
  | ext

/-- Integer instructions (R100 to R104). -/
def integerForms : List (String × Shape) :=
  [("add", .r3 .add), ("sub", .r3 .sub), ("mul", .r3 .mul), ("mulh", .r3 .mulh), ("mulhu", .r3 .mulhu),
   ("div", .r3 .div), ("divu", .r3 .divu), ("rem", .r3 .rem), ("remu", .r3 .remu), ("and", .r3 .and), ("or", .r3 .or),
   ("xor", .r3 .xor), ("andn", .r3 .andn), ("shl", .r3 .shl), ("shr", .r3 .shr), ("shra", .r3 .shra),
   ("min", .r3 .min), ("max", .r3 .max), ("minu", .r3 .minu), ("maxu", .r3 .maxu), ("seteq", .r3 .seteq),
   ("setlt", .r3 .setlt), ("setltu", .r3 .setltu), ("sel", .r3 .sel), ("addi", .im8 .addi), ("andi", .im8 .andi),
   ("ori", .im8 .ori), ("xori", .im8 .xori), ("shli", .im8 .shli), ("shri", .im8 .shri), ("shrai", .im8 .shrai),
   ("movi", .movi), ("clz", .r2 .clz), ("ctz", .r2 .ctz), ("popc", .r2 .popc), ("sext.b", .r2 .sextB),
   ("sext.h", .r2 .sextH), ("sext.w", .r2 .sextW), ("zext.b", .r2 .zextB), ("zext.h", .r2 .zextH),
   ("zext.w", .r2 .zextW), ("bswap", .r2 .bswap), ("mov", .r2 .mov)]

/-- Scalar floating point (R105 to R108). -/
def floatForms : List (String × Shape) :=
  [("fadd.d", .r3 .faddD), ("fadd.s", .r3 .faddS), ("fsub.d", .r3 .fsubD), ("fmul.d", .r3 .fmulD),
   ("fmul.s", .r3 .fmulS), ("fdiv.d", .r3 .fdivD), ("ffma.d", .r3 .ffmaD), ("ffma.s", .r3 .ffmaS),
   ("fcmpeq.d", .r3 .fcmpeqD), ("fcmplt.d", .r3 .fcmpltD), ("fsqrt.d", .r2 .fsqrtD), ("fsqrt.s", .r2 .fsqrtS),
   ("fabs.d", .r2 .fabsD), ("fneg.d", .r2 .fnegD), ("fclass.d", .r2 .fclassD), ("fcvt.d.s", .r2 .fcvtDS),
   ("fcvt.s.d", .r2 .fcvtSD), ("fcvt.d.l", .r2 .fcvtDL), ("fcvt.l.d", .r2 .fcvtLD), ("fcvt.s.h", .r2 .fcvtSH),
   ("fcvt.h.s", .r2 .fcvtHS), ("fcvt.s.bf", .r2 .fcvtSBf), ("fcvt.bf.s", .r2 .fcvtBfS)]

/-- Control flow, loads, stores and PREF (R110 to R119). -/
def controlForms : List (String × Shape) :=
  [("beq", .br .beq), ("bne", .br .bne), ("blt", .br .blt), ("bge", .br .bge), ("bltu", .br .bltu),
   ("bgeu", .br .bgeu), ("bmb.set", .bmb true), ("bmb.clr", .bmb false), ("bcr.set", .bcr true),
   ("bcr.clr", .bcr false), ("jmp", .jp .jmp), ("call", .jp .call), ("jr", .r1 .jr), ("callr", .r1 .callr),
   ("ret", .r0 .ret), ("loop", .loop), ("ld.b", .im8 .ldB), ("ld.h", .im8 .ldH), ("ld.w", .im8 .ldW),
   ("ld.d", .im8 .ldD), ("ldu.b", .im8 .lduB), ("ldu.h", .im8 .lduH), ("ldu.w", .im8 .lduW), ("st.b", .im8 .stB),
   ("st.h", .im8 .stH), ("st.w", .im8 .stW), ("st.d", .im8 .stD), ("pref", .pref)]

/-- Vector instructions (R132 to R138); VCVT stands apart. -/
def vectorForms : List (String × Shape) :=
  [("vadd", .vv2 (VvOp.addSub.ok 0) (fun s d a b t m => .vadd s d a b t m 0)),
   ("vadd.ss", .vv2 (VvOp.addSub.ok 1) (fun s d a b t m => .vadd s d a b t m 1)),
   ("vadd.us", .vv2 (VvOp.addSub.ok 2) (fun s d a b t m => .vadd s d a b t m 2)),
   ("vsub", .vv2 (VvOp.addSub.ok 0) (fun s d a b t m => .vsub s d a b t m 0)),
   ("vsub.ss", .vv2 (VvOp.addSub.ok 1) (fun s d a b t m => .vsub s d a b t m 1)),
   ("vsub.us", .vv2 (VvOp.addSub.ok 2) (fun s d a b t m => .vsub s d a b t m 2)),
   ("vmul", .vv2 (VvOp.mul.ok 0) (fun s d a b t m => .vmul s d a b t m 0)),
   ("vmul.h", .vv2 (VvOp.mul.ok 1) (fun s d a b t m => .vmul s d a b t m 1)),
   ("vmul.hu", .vv2 (VvOp.mul.ok 2) (fun s d a b t m => .vmul s d a b t m 2)),
   ("vmin", .vv2 (VvOp.minMax.ok 0) (fun s d a b t m => .vmin s d a b t m 0)),
   ("vmin.u", .vv2 (VvOp.minMax.ok 1) (fun s d a b t m => .vmin s d a b t m 1)),
   ("vmax", .vv2 (VvOp.minMax.ok 0) (fun s d a b t m => .vmax s d a b t m 0)),
   ("vmax.u", .vv2 (VvOp.minMax.ok 1) (fun s d a b t m => .vmax s d a b t m 1)),
   ("vlogic.and", .vv2 (VvOp.logic.ok 0) (fun s d a b t m => .vlogic s d a b t m 0)),
   ("vlogic.or", .vv2 (VvOp.logic.ok 1) (fun s d a b t m => .vlogic s d a b t m 1)),
   ("vlogic.xor", .vv2 (VvOp.logic.ok 2) (fun s d a b t m => .vlogic s d a b t m 2)),
   ("vlogic.andn", .vv2 (VvOp.logic.ok 3) (fun s d a b t m => .vlogic s d a b t m 3)),
   ("vlogic.not", .vv1 (VvOp.logic.ok 4) (fun s d a t m => .vlogic s d a 0 t m 4)),
   ("vshift.l", .vv2 (VvOp.shift.ok 0) (fun s d a b t m => .vshift s d a b t m 0)),
   ("vshift.r", .vv2 (VvOp.shift.ok 1) (fun s d a b t m => .vshift s d a b t m 1)),
   ("vshift.ra", .vv2 (VvOp.shift.ok 2) (fun s d a b t m => .vshift s d a b t m 2)),
   ("vunary.abs", .vv1 (VvOp.unary.ok 0) (fun s d a t m => .vunary s d a 0 t m 0)),
   ("vunary.neg", .vv1 (VvOp.unary.ok 1) (fun s d a t m => .vunary s d a 0 t m 1)),
   ("vunary.sqrt", .vv1 (VvOp.unary.ok 2) (fun s d a t m => .vunary s d a 0 t m 2)),
   ("vunary.clz", .vv1 (VvOp.unary.ok 3) (fun s d a t m => .vunary s d a 0 t m 3)),
   ("vunary.popc", .vv1 (VvOp.unary.ok 4) (fun s d a t m => .vunary s d a 0 t m 4)),
   ("vsel", .vv2 (fun _ => true) .vsel), ("vfma", .vv3 (fun s d a b c t m => .vfma s d a b c t m 0)),
   ("vfma.nm", .vv3 (fun s d a b c t m => .vfma s d a b c t m 1)),
   ("vfma.ms", .vv3 (fun s d a b c t m => .vfma s d a b c t m 2)),
   ("vfma.nms", .vv3 (fun s d a b c t m => .vfma s d a b c t m 3)), ("vperm", .vv3 .vperm), ("vcmp.eq", .vcmp 0),
   ("vcmp.ne", .vcmp 1), ("vcmp.lt", .vcmp 2), ("vcmp.le", .vcmp 3), ("vcmp.ltu", .vcmp 4), ("vcmp.leu", .vcmp 5),
   ("vred.add", .vv1 (VvOp.redScan.ok 0) (fun s d a t m => .vred s d a 0 t m 0)),
   ("vred.min", .vv1 (VvOp.redScan.ok 1) (fun s d a t m => .vred s d a 0 t m 1)),
   ("vred.max", .vv1 (VvOp.redScan.ok 2) (fun s d a t m => .vred s d a 0 t m 2)),
   ("vred.minu", .vv1 (VvOp.redScan.ok 3) (fun s d a t m => .vred s d a 0 t m 3)),
   ("vred.maxu", .vv1 (VvOp.redScan.ok 4) (fun s d a t m => .vred s d a 0 t m 4)),
   ("vscan.add", .vv1 (VvOp.redScan.ok 0) (fun s d a t m => .vscan s d a 0 t m 0)),
   ("vscan.min", .vv1 (VvOp.redScan.ok 1) (fun s d a t m => .vscan s d a 0 t m 1)),
   ("vscan.max", .vv1 (VvOp.redScan.ok 2) (fun s d a t m => .vscan s d a 0 t m 2)),
   ("vscan.minu", .vv1 (VvOp.redScan.ok 3) (fun s d a t m => .vscan s d a 0 t m 3)),
   ("vscan.maxu", .vv1 (VvOp.redScan.ok 4) (fun s d a t m => .vscan s d a 0 t m 4))]

/-- Vector moves, loads and stores, and the mask group (R139 to R145). -/
def vectorMoveForms : List (String × Shape) :=
  [("vbcast", .vbcast), ("vext", .vext), ("vins", .vins), ("vld", .vmem .vld), ("vst", .vmem .vst),
   ("vlds", .vstr .vlds), ("vsts", .vstr .vsts), ("vgath", .vidx .vgath), ("vscat", .vidx .vscat),
   ("mand", .mask3 .mand), ("mor", .mask3 .mor), ("mxor", .mask3 .mxor), ("mandn", .mask3 .mandn), ("mnot", .mnot),
   ("mpopc", .maskTo .mpopc), ("mfirst", .maskTo .mfirst), ("mset", .mset), ("mget", .maskTo .mget)]

/-- Contexts, messages, synchronisation, atomics, memory, engines and matrix (R154 to R293). -/
def threadForms : List (String × Shape) :=
  [("spawn", .r3 .spawn), ("reap", .r2 .reap), ("repart", .r2 .repart), ("send", .r2 .send), ("waitm", .r0 .waitm),
   ("recvm", .r1 .recvm), ("clrf", .r1 .clrf), ("migrate", .r1 .migrate), ("trigger", .r2 .trigger), ("bar", .r2 .bar),
   ("fence", .fence), ("amo.add", .amo .amoAdd), ("amo.min", .amo .amoMin), ("amo.max", .amo .amoMax),
   ("amo.minu", .amo .amoMinu), ("amo.maxu", .amo .amoMaxu), ("amo.and", .amo .amoAnd), ("amo.or", .amo .amoOr),
   ("amo.xchg", .amo .amoXchg), ("cas", .cas), ("red.fadd.ord", .amo .redFaddOrd),
   ("red.fadd.fast", .amo .redFaddFast), ("red.iadd", .amo .redIadd), ("red.min", .amo .redMin),
   ("red.max", .amo .redMax), ("scopew", .scopew), ("clean", .line .clean), ("inval", .line .inval),
   ("discard", .line .discard), ("zero", .line .zero), ("reserve", .r2 .reserve), ("bankmode", .r3 .bankmode),
   ("copy", .r2 .copy), ("sbind", .r2 .sbind), ("bufinit", .r2 .bufinit), ("bufacq", .r2 .bufacq),
   ("bufrel", .r2 .bufrel), ("qpush", .r3 .qpush), ("qpop", .r2 .qpop), ("qsteal", .r3 .qsteal),
   ("mloadb", .r2 .mloadb), ("mma", .mma false), ("mma.z", .mma true), ("mmas", .mmas false), ("mmas.z", .mmas true),
   ("mread", .mread)]

/-- The system group, REP and EXT (R80, R77, R121 to R126). -/
def systemForms : List (String × Shape) :=
  [("nop", .r0 .nop), ("brk", .r0 .brk), ("trap", .r1 .trap), ("idle", .r0 .idle), ("rdctl", .rdctl),
   ("wrctl", .wrctl), ("rep", .rep), ("ext", .ext)]

/-- The names of instructions, with their own parts (R74, R91). -/
def forms : List (String × Shape) :=
  integerForms ++ floatForms ++ controlForms ++ vectorForms ++ vectorMoveForms ++ threadForms ++ systemForms

/-- The name of VCVT with its types (R136). -/
def vcvtShape : List Text → Option Shape
  | [n, d, s] =>
    if n = "vcvt".toList then
      match lookup cvtTypes d, lookup cvtTypes s with
      | some dst, some src => some (.vcvt dst src)
      | _, _ => none
    else none
  | _ => none

/-- The form that the first parts of a mnemonic name. -/
def shapeOf (parts : List Text) : Option Shape :=
  match vcvtShape parts with
  | some s => some s
  | none => lookup forms (List.intercalate ['.'] parts)

/-- The form of a mnemonic and the suffixes after its name, its name being as long as possible. -/
def splitName (parts : List Text) : Option (Shape × List Text) :=
  [3, 2, 1].firstM (fun k => if k ≤ parts.length then (shapeOf (parts.take k)).map (fun s => (s, parts.drop k)) else none)

/-- The mnemonics of R73 that no form bears without a part of its own after them. -/
def stemNames : List String := ["bmb", "bcr", "vlogic", "vshift", "vcmp", "vcvt", "vunary", "vred", "vscan"]

/-- Whether a text is a mnemonic: a form's name with all its own parts, or a name of the opcode map (R73, R88). -/
def isMnemonic (t : Text) : Bool := (shapeOf (splitOn '.' false [] t)).isSome || stemNames.any (fun m => m.toList == t)

/-- Which suffixes a form takes (R91): fence kind, sync, type, any mask, m0 alone. -/
structure Takes where
  kind : Bool := false
  sync : Bool := false
  ty : Bool := false
  mask : Bool := false
  m0 : Bool := false
  sw : Bool := true

def Shape.takes : Shape → Takes
  | .vv1 .. | .vv2 .. | .vv3 .. | .vcmp _ => { ty := true, mask := true }
  | .vcvt .. => { mask := true }
  | .vext => { ty := true }
  | .vbcast | .vins | .vmem _ | .vstr _ | .vidx _ => { ty := true, m0 := true }
  | .fence => { kind := true }
  | .amo _ => { sync := true }
  | .mma _ | .mmas _ | .mread => { ty := true }
  | .ext => { sw := false }
  | _ => {}

/-- Whether the suffixes are among those the form takes; a kind or type that it takes must stand (R91; DESIGN CHOICE for a
missing type). -/
def Suffixes.fits (s : Suffixes) (k : Takes) : Bool :=
  (s.kind.isSome == k.kind) && (!s.sync || k.sync) && (s.ty.isSome == k.ty) && (!s.sw || k.sw)
    && (s.mask == .all || k.mask || (k.m0 && s.mask == .m0))

/-- An element type the form allows. -/
def Suffixes.elem (s : Suffixes) (ok : ElemType → Bool) : Except AsmError ElemType :=
  match s.ty.bind (lookup elemTypes) with
  | some t => if ok t then .ok t else .error .badSuffix
  | none => .error .badSuffix

def Suffixes.typeIn {α : Type} (s : Suffixes) (l : List (String × α)) : Except AsmError α :=
  match s.ty.bind (lookup l) with
  | some t => .ok t
  | none => .error .badSuffix

/-- What a line writes: the instruction with its immediate or offset field zero, and that operand's value, with whether
it is a target. -/
structure Draft where
  instr : Instr
  imm : Option (Bool × Word)
deriving DecidableEq, Repr

def plain (i : Instr) : Except AsmError Draft := .ok ⟨i, none⟩

/-- An instruction with the value of its last operand. -/
def Env.wide (e : Env) (target : Bool) (t : Text) (i : Instr) : Except AsmError Draft := do
  return ⟨i, some (target, ← e.value t)⟩

/-- The instruction of a form with one or two register operands, or none. -/
def Shape.build (e : Env) (s : Suffixes) : Shape → List Text → Except AsmError Draft
  | .r0 f, [] => plain (f s.sw)
  | .r1 f, [a] => do plain (f s.sw (← e.reg a))
  | .r2 f, [d, a] => do plain (f s.sw (← e.reg d) (← e.reg a))
  | .r3 f, [d, a, b] => do plain (f s.sw (← e.reg d) (← e.reg a) (← e.reg b))
  | .im8 f, [d, a, i] => do e.wide false i (f s.sw (← e.reg d) (← e.reg a) 0)
  | .pref, [a, i] => do e.wide false i (.pref s.sw (← e.reg a) 0)
  | .movi, [d, i] => do e.wide false i (.movi s.sw (← e.reg d) 0)
  | .br f, [a, b, t] => do e.wide true t (f s.sw (← e.reg a) (← e.reg b) 0)
  | .bmb p, [m, i, t] => do
    let m ← maskReg m
    let i ← e.index 0 31 i
    e.wide true t (.bmb s.sw p (BitVec.ofInt 6 ((if m = .m1 then 32 else 0) + i)) 0)
  | .bcr p, [n, t] => do e.wide true t (.bcr s.sw p (BitVec.ofInt 7 (← e.index 0 127 n)) 0)
  | .jp f, [t] => e.wide true t (f s.sw 0)
  | .loop, [c, t] => do e.wide true t (.loop s.sw (← e.reg c) 0)
  | .vv1 ok f, [d, a] => do plain (f s.sw (← e.vreg d) (← e.vreg a) (← s.elem ok) s.mask)
  | .vv2 ok f, [d, a, b] => do plain (f s.sw (← e.vreg d) (← e.vreg a) (← e.vreg b) (← s.elem ok) s.mask)
  | .vv3 f, [d, a, b, c] => do
    plain (f s.sw (← e.vreg d) (← e.vreg a) (← e.vreg b) (← e.vreg c) (← s.elem (fun _ => true)) s.mask)
  | .vcmp c, [d, a, b] => do
    plain (.vcmp s.sw (← maskReg d) (← e.vreg a) (← e.vreg b) (← s.elem (VvOp.cmp.ok c)) s.mask c)
  | .vcvt dst src, [d, a] => do plain (.vcvt s.sw (← e.vreg d) (← e.vreg a) src dst s.mask 0)
  | .vcvt dst src, [d, a, p] => do
    plain (.vcvt s.sw (← e.vreg d) (← e.vreg a) src dst s.mask (BitVec.ofInt 3 (← e.index 0 7 p)))
  | .vbcast, [v, x] => do plain (.vbcast s.sw (← e.vreg v) (← e.reg x) (← s.elem (fun _ => true)) (s.mask != .all))
  | .vext, [v, x, l] => do
    plain (.vext s.sw (← e.vreg v) (← e.reg x) (BitVec.ofInt 8 (← e.index 0 255 l)) (← s.elem (fun _ => true)))
  | .vins, [v, x, l] => do
    plain (.vins s.sw (← e.vreg v) (← e.reg x) (BitVec.ofInt 8 (← e.index 0 255 l)) (← s.elem (fun _ => true))
      (s.mask != .all))
  | .vmem f, [v, x, i] => do
    e.wide false i (f s.sw (← e.vreg v) (← e.reg x) 0 (← s.elem (fun _ => true)) (s.mask != .all))
  | .vstr f, [v, x, b] => do
    plain (f s.sw (← e.vreg v) (← e.reg x) (← e.reg b) (← s.elem (fun _ => true)) (s.mask != .all))
  | .vidx f, [v, x, i] => do
    plain (f s.sw (← e.vreg v) (← e.reg x) (← e.vreg i) (← s.elem (fun _ => true)) (s.mask != .all))
  | .mask3 f, [d, a, b] => do plain (f s.sw (← maskReg d) (← maskReg a) (← maskReg b))
  | .mnot, [d, a] => do plain (.mnot s.sw (← maskReg d) (← maskReg a))
  | .maskTo f, [d, a] => do plain (f s.sw (← e.reg d) (← maskReg a))
  | .mset, [d, a] => do plain (.mset s.sw (← maskReg d) (← e.reg a))
  | .fence, [c] => do plain (.fence s.sw (s.kind.getD .acq) (← e.scope c))
  | .amo f, [d, a, c] => do plain (f s.sw (← e.reg d) (← e.reg a) (← e.scope c) s.sync)
  | .line f, [d, a, c] => do plain (f s.sw (← e.reg d) (← e.reg a) (← e.scope c))
  | .cas, [d, a, b, c] => do
    let d ← e.reg d
    let a ← e.reg a
    let b ← e.reg b
    if 16 ≤ b.toNat then throw .badOperand
    plain (.cas s.sw d a (b.truncate 4) (← e.scope c))
  | .scopew, [a, c] => do plain (.scopew s.sw (← e.reg a) (← e.scope c))
  | .mma z, [c, n, b] => do plain (.mma s.sw (← accReg c) z (← streamReg n) (← s.typeIn matTypes) (← e.reg b))
  | .mmas z, [c, n, k, b] => do
    plain (.mmas s.sw (← accReg c) z (← streamReg n) (← streamReg k) (← s.typeIn matTypes) (← e.reg b))
  | .mread, [v, c, b] => do plain (.mread s.sw (← e.vreg v) (← accReg c) (← s.typeIn readTypes) (← e.reg b))
  | .rdctl, [d, c] => do plain (.rdctl s.sw (← e.reg d) (← e.controlReg c))
  | .wrctl, [c, a] => do plain (.wrctl s.sw (← e.controlReg c) (← e.reg a))
  | .rep, [n, t, d, a, b] => do
    let n ← e.index 1 16 n
    let t ← e.index 1 64 t
    plain (.rep s.sw (BitVec.ofInt 4 (n - 1)) (BitVec.ofInt 6 (t - 1)) (BitVec.ofInt 4 (← e.index (-8) 7 d))
      (BitVec.ofInt 4 (← e.index (-8) 7 a)) (BitVec.ofInt 4 (← e.index (-8) 7 b)))
  | .ext, [p] => do plain (.ext (BitVec.ofInt 24 (← e.index 0 0xFFFFFF p)))
  | _, _ => .error .badOperand

/-- The instruction of a mnemonic and its operands (R90, R91). -/
def draftOf (e : Env) (op : Text) (args : List Text) : Except AsmError Draft :=
  match splitName (splitOn '.' false [] op) with
  | none => .error .unknown
  | some (k, rest) =>
    match suffixesFrom 1 noSuffix rest with
    | .error x => .error x
    | .ok s => if s.fits k.takes then k.build e s args else .error .badSuffix

/-! ### Immediate and offset fields (R77, R78) -/

/-- The width of the immediate or offset field, for an instruction that accepts EXT (R73). -/
def extBits : Instr → Option Nat
  | .addi .. | .andi .. | .ori .. | .xori .. | .shli .. | .shri .. | .shrai .. | .ldB .. | .ldH ..
  | .ldW .. | .ldD .. | .lduB .. | .lduH .. | .lduW .. | .stB .. | .stH .. | .stW .. | .stD ..
  | .pref .. | .beq .. | .bne .. | .blt .. | .bge .. | .bltu .. | .bgeu .. | .vld .. | .vst .. => some 8
  | .movi .. | .bmb .. | .bcr .. | .loop .. => some 16
  | .jmp .. | .call .. => some 24
  | _ => none

/-- The instruction with the low bits of a value in that field. -/
def withField (i : Instr) (v : Word) : Instr :=
  match i with
  | .addi sw d a _ => .addi sw d a (v.truncate 8)
  | .andi sw d a _ => .andi sw d a (v.truncate 8)
  | .ori sw d a _ => .ori sw d a (v.truncate 8)
  | .xori sw d a _ => .xori sw d a (v.truncate 8)
  | .shli sw d a _ => .shli sw d a (v.truncate 8)
  | .shri sw d a _ => .shri sw d a (v.truncate 8)
  | .shrai sw d a _ => .shrai sw d a (v.truncate 8)
  | .ldB sw d a _ => .ldB sw d a (v.truncate 8)
  | .ldH sw d a _ => .ldH sw d a (v.truncate 8)
  | .ldW sw d a _ => .ldW sw d a (v.truncate 8)
  | .ldD sw d a _ => .ldD sw d a (v.truncate 8)
  | .lduB sw d a _ => .lduB sw d a (v.truncate 8)
  | .lduH sw d a _ => .lduH sw d a (v.truncate 8)
  | .lduW sw d a _ => .lduW sw d a (v.truncate 8)
  | .stB sw d a _ => .stB sw d a (v.truncate 8)
  | .stH sw d a _ => .stH sw d a (v.truncate 8)
  | .stW sw d a _ => .stW sw d a (v.truncate 8)
  | .stD sw d a _ => .stD sw d a (v.truncate 8)
  | .pref sw a _ => .pref sw a (v.truncate 8)
  | .beq sw a b _ => .beq sw a b (v.truncate 8)
  | .bne sw a b _ => .bne sw a b (v.truncate 8)
  | .blt sw a b _ => .blt sw a b (v.truncate 8)
  | .bge sw a b _ => .bge sw a b (v.truncate 8)
  | .bltu sw a b _ => .bltu sw a b (v.truncate 8)
  | .bgeu sw a b _ => .bgeu sw a b (v.truncate 8)
  | .vld sw r x _ t k => .vld sw r x (v.truncate 8) t k
  | .vst sw r x _ t k => .vst sw r x (v.truncate 8) t k
  | .movi sw d _ => .movi sw d (v.truncate 16)
  | .bmb sw p n _ => .bmb sw p n (v.truncate 16)
  | .bcr sw p n _ => .bcr sw p n (v.truncate 16)
  | .loop sw c _ => .loop sw c (v.truncate 16)
  | .jmp sw _ => .jmp sw (v.truncate 24)
  | .call sw _ => .call sw (v.truncate 24)
  | i => i

/-- Whether a value fits `w` bits as a signed number. -/
def fitsSigned (w : Nat) (v : Word) : Bool := decide (-(2 ^ (w - 1) : Int) ≤ v.toInt) && decide (v.toInt < 2 ^ (w - 1))

/-- How many EXT words a value needs for a field of f bits (R92); none when it fits no width. -/
def extNeeded (f : Nat) (v : Word) : Option Nat :=
  if fitsSigned f v then some 0
  else if fitsSigned (f + 24) v then some 1
  else if fitsSigned (f + 48) v then some 2
  else none

/-- The EXT words before an instruction with that value, `k` of them, the highest first (R78). -/
def extWords (f : Nat) (v : Word) : Nat → List Instr
  | 0 => []
  | k + 1 => .ext (BitVec.ofInt 24 (v.toInt / 2 ^ (f + 24 * k))) :: extWords f v k

end Sys2Proof.Edas
end

