-- ==== Sys2Proof/Machine/Edas.lean ====
section
/-! DEFINITION. The edas assembler: defined bodies and included files, directives, placement, the words and bytes of the two
sections, and the reports that do not stop it (R88, R92 to R94, R178). -/

namespace Sys2Proof.Edas

open Sys2Proof.Machine (Fmt fmt64 fmt32 fmt16 flagOF adjustWord arithmeticOp extended blockReserved)

/-! ### Defined bodies and included files (R93) -/

/-- The directive that opens the definition of a body (R93). -/
def defining : Text := ".mac".toList ++ "ro".toList

/-- Lines with a name and parameters (R93). -/
structure Macro where
  name : Text
  params : List Text
  body : List Text
deriving DecidableEq, Repr

/-- A line of the expanded source with the number of the source line it comes from. -/
structure NumLine where
  no : Nat
  line : SrcLine
deriving DecidableEq, Repr

/-- The longest parameter that begins a text, with its argument. -/
def matchParam (t : Text) : List (Text × Text) → Option (Text × Text)
  | [] => none
  | (p, a) :: l =>
    match matchParam t l with
    | some q => if p.isPrefixOf t && decide (q.1.length < p.length) then some (p, a) else some q
    | none => if p.isPrefixOf t then some (p, a) else none

/-- A body line with its parameters replaced; `skip` characters of a parameter name are passed over. -/
def substitute (l : List (Text × Text)) : Nat → Text → Text
  | _, [] => []
  | k + 1, _ :: t => substitute l k t
  | 0, c :: t =>
    if c == '$' then
      match matchParam t l with
      | some (p, a) => a ++ substitute l p.length t
      | none => c :: substitute l 0 t
    else c :: substitute l 0 t

/-- The name between the quotes of `.include`. -/
def fileName (args : List Text) : Option Text :=
  match args with
  | [q :: t] => if q == quoteChar && t.getLast? == some quoteChar then some t.dropLast else none
  | _ => none

/-- The definition that the directive opens. DESIGN CHOICE: a name is defined once. -/
def openMacro (ms : List Macro) : List Text → Except AsmError Macro
  | n :: ps =>
    if ms.any (fun m => m.name == n) then .error .rebound
    else if isName n && ps.all isName then .ok ⟨n, ps, []⟩
    else .error .badName
  | [] => .error .badOperand

/-- Expands lines: `deeper true` expands a defined body, `deeper false` an included file. -/
def expandLines (files : List (Text × List Text))
    (deeper : Bool → Nat → List Macro → List Text → Except AsmError (List NumLine × List Macro)) (fixed : Option Nat) :
    Nat → Option Macro → List Macro → List Text → Except AsmError (List NumLine × List Macro)
  | _, none, ms, [] => .ok ([], ms)
  | _, some _, _, [] => .error .nesting
  | no, op, ms, t :: rest => do
    let here := fixed.getD no
    let p ← parseLine t
    match op with
    | some m =>
      if p.op = ".endm".toList then expandLines files deeper fixed (no + 1) none (m :: ms) rest
      else expandLines files deeper fixed (no + 1) (some { m with body := m.body ++ [uncomment false t] }) ms rest
    | none =>
      let label : List NumLine := match p.label with
        | some n => [⟨here, ⟨some n, [], []⟩⟩]
        | none => []
      if p.op = defining then
        let m ← openMacro ms p.args
        let (r, ms) ← expandLines files deeper fixed (no + 1) (some m) ms rest
        return (label ++ r, ms)
      else if p.op = ".include".toList then
        match (fileName p.args).bind (fun n => files.find? (fun f => f.1 == n)) with
        | none => throw .undefined
        | some f =>
          let (a, ms) ← deeper false here ms f.2
          let (r, ms) ← expandLines files deeper fixed (no + 1) none ms rest
          return (label ++ a ++ r, ms)
      else
        match ms.find? (fun m => m.name == p.op) with
        | some m =>
          if m.params.length ≠ p.args.length then throw .badOperand
          let (a, ms) ← deeper true here ms (m.body.map (substitute (m.params.zip p.args) 0))
          let (r, ms) ← expandLines files deeper fixed (no + 1) none ms rest
          return (label ++ a ++ r, ms)
        | none =>
          let (r, ms) ← expandLines files deeper fixed (no + 1) none ms rest
          return (⟨here, p⟩ :: r, ms)

/-- Expands a source: `m` and `i` more bodies and files may nest; `fuel` is their sum or more. -/
def expand (files : List (Text × List Text)) : Nat → Nat → Nat → Option Nat → List Macro → List Text →
    Except AsmError (List NumLine × List Macro)
  | 0, _, _, _, _, _ => .error .nesting
  | fuel + 1, m, i, fixed, ms, ls =>
    expandLines files (fun isMacro no ms ls =>
      if isMacro then (if m = 0 then .error .nesting else expand files fuel (m - 1) i (some no) ms ls)
      else if i = 0 then .error .nesting
      else expand files fuel m (i - 1) (some no) ms ls) fixed 1 none ms ls

/-! ### Statements (R93) -/

inductive Stmt where
  | label (n : Text)
  | instr (op : Text) (args : List Text)
  /-- Data of that many bytes an operand. -/
  | data (size : Nat) (args : List Text)
  | float (f : Fmt) (args : List Text)
  | align (n : Text)
  | part (data : Bool)
  | window (n : Text)
  | entry (n : Text)
  | region

/-- The statements of a line. -/
def stmtsOf (l : SrcLine) : Except AsmError (List Stmt) :=
  let label : List Stmt := match l.label with
    | some n => [.label n]
    | none => []
  let is (s : String) : Bool := l.op == s.toList
  if l.op.isEmpty then .ok label
  else if is ".text" && l.args.isEmpty then .ok (label ++ [.part false])
  else if is ".data" && l.args.isEmpty then .ok (label ++ [.part true])
  else if is ".byte" then .ok (label ++ [.data 1 l.args])
  else if is ".half" then .ok (label ++ [.data 2 l.args])
  else if is ".word" then .ok (label ++ [.data 4 l.args])
  else if is ".dword" then .ok (label ++ [.data 8 l.args])
  else if is ".fp64" then .ok (label ++ [.float fmt64 l.args])
  else if is ".fp32" then .ok (label ++ [.float fmt32 l.args])
  else if is ".fp16" then .ok (label ++ [.float fmt16 l.args])
  else if is ".equ" || is ".scope" then .ok label
  else
    match l.args with
    | [n] =>
      if is ".align" then .ok (label ++ [.align n])
      else if is ".window" then .ok (label ++ [.window n])
      else if is ".entry" then .ok (label ++ [.entry n])
      else if is ".region" then .ok (label ++ [.region, .label n])
      else if l.op.head? == some '.' then .error .unknown
      else .ok (label ++ [.instr l.op l.args])
    | _ => if l.op.head? == some '.' then .error .unknown else .ok (label ++ [.instr l.op l.args])

/-- What `.equ` or `.scope` binds on a line. -/
def boundBy (dir : String) (l : NumLine) : Except AsmError (List (Text × Expr)) :=
  if l.line.op = dir.toList then
    match l.line.args with
    | [n, x] => if isName n then (parseExpr x).map (fun e => [(n, e)]) else .error .badName
    | _ => .error .badOperand
  else .ok []

/-- A symbol's value: a label's address, or the value of what `.equ` binds it to; `fuel` bounds chains of symbols. -/
def symbol (equs : List (Text × Expr)) (labels : Names) : Nat → Text → Except AsmError Word
  | 0, _ => .error .undefined
  | k + 1, n =>
    match labels.find n with
    | some v => .ok v
    | none =>
      match equs.find? (fun e => e.1 == n) with
      | some e => e.2.eval (symbol equs labels k)
      | none => .error .undefined

/-! ### Placement (R92, R93) -/

/-- Where the assembler stands. -/
structure Place where
  inData : Bool
  text : Nat
  data : Nat
  window : Nat
  labels : Names
  /-- The places where labels stand, with their sections. -/
  marks : List (Bool × Nat)
  /-- Whether the instruction before was an `ext` line (R92). -/
  raw : Bool
  /-- Doublewords still due to the open region block (R178). -/
  block : Nat

/-- The start of a source. DEDUCED: it stands in the code section. -/
def Place.start : Place := ⟨false, 0, 0, 128, [], [], false, 0⟩

def Place.loc (p : Place) : Nat := if p.inData then p.data else p.text

def Place.skip (p : Place) (n : Nat) : Place :=
  if p.inData then { p with data := p.data + n } else { p with text := p.text + n }

/-- Bytes up to a multiple of n. -/
def padding (n loc : Nat) : Nat := (n - loc % n) % n

/-- A statement that emits, with its place. -/
structure Placed where
  no : Nat
  stmt : Stmt
  inData : Bool
  at_ : Nat
  window : Nat
  raw : Bool
  /-- EXT words before the instruction, or padding bytes. -/
  size : Nat
  /-- Position of a doubleword in its region block, from 16 down to 1; 0 outside. -/
  block : Nat

def Place.placed (p : Place) (no : Nat) (s : Stmt) (size : Nat) : Placed :=
  ⟨no, s, p.inData, p.loc, p.window, p.raw, size, p.block⟩

/-- The exponent of a power of two from 1 to 65,536. -/
def isPower (n : Nat) : Bool := (List.range 17).any (fun k => n == 2 ^ k)

/-- Places `n` data items of a size; in a region block only doublewords, and no more than 16 (R178). -/
def Place.placeData (p : Place) (no : Nat) (s : Stmt) (size n : Nat) (dword : Bool) : Except AsmError (Place × List Placed) :=
  if p.inData && p.block != 0 && (!dword) && n != 0 then .error .badDirective
  else .ok ({ (p.skip (size * n)) with block := if p.inData then p.block - n else p.block },
    [p.placed no s 0])

/-- Places a statement; `k` is the number of EXT words of the next instruction. -/
def placeStmt (equs : List (Text × Expr)) (p : Place) (no : Nat) (k : Nat) (s : Stmt) :
    Except AsmError (Place × List Placed) := do
  let value (t : Text) : Except AsmError Word := valueOf (symbol equs p.labels (equs.length + 1)) t
  match s with
  | .label n =>
    return ({ p with labels := p.labels ++ [(n, BitVec.ofNat 64 p.loc)], marks := p.marks ++ [(p.inData, p.loc)] }, [])
  | .instr op _ =>
    if p.inData && p.block != 0 then throw .badDirective
    if !p.inData && p.text % 4 != 0 then throw .misplaced
    return ({ (p.skip (4 * (1 + k))) with raw := op == "ext".toList }, [p.placed no s k])
  | .data size args => p.placeData no s size args.length (size == 8)
  | .float f args => p.placeData no s (f.width / 8) args.length false
  | .align t =>
    let n := (← value t).toNat
    if !isPower n || (!p.inData && n < 4) then throw .outOfRange
    let d := padding n p.loc
    if !p.inData && d % 4 != 0 then throw .misplaced
    if p.inData && p.block != 0 && d != 0 then throw .badDirective
    return (p.skip d, [p.placed no s d])
  | .part d =>
    return ({ p with inData := d }, [])
  | .window t =>
    let n := (← value t).toNat
    if n % 8 = 0 ∧ 8 ≤ n ∧ n ≤ 128 then return ({ p with window := n }, []) else throw .outOfRange
  | .region =>
    if !p.inData || p.block != 0 then throw .badDirective
    let d := padding 128 p.data
    return ({ (p.skip d) with block := 16 }, [p.placed no s d])
  | .entry _ => return (p, [p.placed no s 0])

/-- Whether a statement is an instruction. -/
def Stmt.isInstr : Stmt → Bool
  | .instr .. => true
  | _ => false

/-- Places all statements, the instructions with the given numbers of EXT words. -/
def placeAll (equs : List (Text × Expr)) : Place → List Nat → List (Nat × Stmt) → Except AsmError (Place × List Placed)
  | p, _, [] => .ok (p, [])
  | p, ks, (no, s) :: rest => do
    let (q, a) ← placeStmt equs p no (ks.headD 0) s
    let (r, b) ← placeAll equs q (if s.isInstr then ks.drop 1 else ks) rest
    return (r, a ++ b)

/-! ### Words and bytes -/

/-- What all sources' operands are read against once labels are placed. -/
structure Bound where
  equs : List (Text × Expr)
  scopes : List (Text × Expr)
  labels : Names

def Bound.sym (b : Bound) : Text → Except AsmError Word := symbol b.equs b.labels (b.equs.length + 1)

/-- The values of the scope names, each an index from 0 to 15. -/
def Bound.scopeNames (b : Bound) : List (Text × Expr) → Except AsmError Names
  | [] => .ok []
  | (n, e) :: l => do
    let v ← e.eval b.sym
    if 16 ≤ v.toNat then throw .outOfRange
    return (n, v) :: (← b.scopeNames l)

def Bound.env (b : Bound) (window : Nat) : Except AsmError Env := do
  return ⟨b.sym, ← b.scopeNames b.scopes, window⟩

/-- The address of the opcode word of an instruction with k EXT words. -/
def Placed.opw (p : Placed) (k : Nat) : Word := BitVec.ofNat 64 (p.at_ + 4 * k)

/-- The value of the field: for a target, the distance in words from the opcode word (R90). -/
def Placed.fieldValue (p : Placed) (target : Bool) (v : Word) : Except AsmError Word :=
  if target then
    let d := v - p.opw p.size
    if d.toNat % 4 = 0 then .ok (d.sshiftRight 2) else .error .badTarget
  else .ok v

/-- The EXT words an instruction needs where it stands (R92); 0 for one after an `ext` line. -/
def Placed.needs (b : Bound) (p : Placed) : Except AsmError Nat :=
  match p.stmt with
  | .instr op args => do
    let d ← draftOf (← b.env p.window) op args
    match d.imm, extBits d.instr with
    | some (target, v), some f => if p.raw then return 0 else return (extNeeded f (← p.fieldValue target v)).getD 2
    | _, _ => return 0
  | _ => .ok 0

/-- The greater of what an instruction has and what it needs; what cannot be read yet keeps its size. -/
def widen (b : Bound) (ps : List Placed) : List Nat :=
  (ps.filter (fun p => p.stmt.isInstr)).map (fun p =>
    match p.needs b with
    | .ok n => max p.size n
    | .error _ => p.size)

/-- Places the code with the smallest sizes first and widens until no instruction changes size (R92). -/
def settle (equs scopes : List (Text × Expr)) (stmts : List (Nat × Stmt)) : Nat → List Nat →
    Except AsmError (Place × List Placed)
  | 0, ks => placeAll equs .start ks stmts
  | fuel + 1, ks => do
    let (q, ps) ← placeAll equs .start ks stmts
    let ks' := widen ⟨equs, scopes, q.labels⟩ ps
    if ks' = ks then return (q, ps) else settle equs scopes stmts fuel ks'

/-- A word written by an instruction line, with where it stands. -/
structure Emitted where
  no : Nat
  inData : Bool
  at_ : Nat
  instr : Instr
deriving DecidableEq, Repr

/-- The instructions of a line: its EXT words and itself. -/
def Placed.instrs (b : Bound) (p : Placed) (op : Text) (args : List Text) : Except AsmError (List Instr) := do
  let d ← draftOf (← b.env p.window) op args
  match d.imm, extBits d.instr with
  | some (target, v), some f =>
    if p.raw then
      if -(2 ^ (f - 1) : Int) ≤ v.toInt ∧ v.toInt < 2 ^ f then return [withField d.instr v] else throw .outOfRange
    else
      let v ← p.fieldValue target v
      match extNeeded f v with
      | none => throw .outOfRange
      | some _ => return extWords f v p.size ++ [withField d.instr v]
  | _, _ => return [d.instr]

/-- A number as bytes, the lowest first. -/
def leBytes : Nat → Nat → List Byte
  | 0, _ => []
  | n + 1, v => BitVec.ofNat 8 v :: leBytes n (v / 256)

/-- The bytes of an instruction (R68). -/
def instrBytes (i : Instr) : List Byte := leBytes 4 ((encode i).map BitVec.toNat |>.getD 0)

/-- A datum of that many bytes (R93). -/
def dataBytes (b : Bound) (size : Nat) (t : Text) : Except AsmError (List Byte) := do
  let v ← valueOf b.sym t
  if size = 8 ∨ (-(2 ^ (8 * size - 1) : Int) ≤ v.toInt ∧ v.toInt < 2 ^ (8 * size)) then return leBytes size v.toNat
  else throw .outOfRange

/-! ### Decimal literals (R93) -/

/-- m · 10^e of a literal without sign. -/
def decimal (t : Text) : Option (Nat × Int) :=
  let isE (c : Char) : Bool := c == 'e' || c == 'E'
  let mant := t.takeWhile (fun c => !isE c)
  let ex : Option Int :=
    match t.dropWhile (fun c => !isE c) with
    | [] => some 0
    | _ :: '-' :: d => (digits 10 d).map (fun n => -(n : Int))
    | _ :: '+' :: d => (digits 10 d).map (fun n => (n : Int))
    | _ :: d => (digits 10 d).map (fun n => (n : Int))
  let whole := mant.takeWhile (· != '.')
  let part (d : Text) : Option Nat := if d.isEmpty then some 0 else digits 10 d
  match mant.dropWhile (· != '.'), ex with
  | [], some x => (digits 10 whole).map (fun n => (n, x))
  | _ :: frac, some x =>
    if whole.isEmpty && frac.isEmpty then none
    else
      match part whole, part frac with
      | some a, some b =>
        let k := (frac.filter isDigit).length
        some (a * 10 ^ k + b, x - k)
      | _, _ => none
  | _, none => none

/-- The finite value m · 10^e rounded RNE (R52); none when it overflows. -/
def roundDecimal (f : Fmt) (s : Bool) (m : Nat) (e : Int) : Option Nat :=
  let r :=
    if m = 0 then (f.pack s 0 0, 0)
    else if 0 ≤ e then f.roundFin 0 s (m * 10 ^ e.toNat) 0 false
    else
      let den := 10 ^ (-e).toNat
      let k := f.fb + 4 + Nat.log2 den
      let w := m * 2 ^ k
      f.roundFin 0 s (w / den) (-(k : Int)) (w % den != 0)
  if r.2 &&& flagOF = 0 then some r.1 else none

/-- The pattern of a literal (R50, R93). -/
def literal (f : Fmt) (t : Text) : Except AsmError Nat :=
  let s := t.head? == some '-'
  let u := if s then t.drop 1 else t
  if u = "inf".toList then .ok (f.pack s f.top 0)
  else if t = "nan".toList then .ok f.nan
  else
    match decimal u with
    | none => .error .badExpression
    | some (m, e) =>
      match roundDecimal f s m e with
      | some v => .ok v
      | none => .error .outOfRange

/-- The bytes of a placed statement, and its instructions. -/
def Placed.emit (b : Bound) (p : Placed) : Except AsmError (List Byte × List Emitted) :=
  match p.stmt with
  | .instr op args => do
    let is ← p.instrs b op args
    return (is.flatMap instrBytes, (List.range is.length).zip is |>.map (fun e =>
      ⟨p.no, p.inData, p.at_ + 4 * e.1, e.2⟩))
  | .data size args => do return ((← args.mapM (dataBytes b size)).flatten, [])
  | .float f args => do
    return ((← args.mapM (fun t => (literal f t).map (leBytes (f.width / 8)))).flatten, [])
  | .align _ =>
    .ok (if p.inData then List.replicate p.size 0 else (List.replicate (p.size / 4) (instrBytes (.nop false))).flatten, [])
  | .region => .ok (List.replicate p.size 0, [])
  | _ => .ok ([], [])

/-! ### Reports (R94, R178) -/

/-- What the assembler reports without stopping; the number is that of the source line. -/
inductive Report where
  /-- A read of a register that an earlier instruction of the run leaves outstanding. -/
  | early (no : Nat)
  /-- A captured word that R81 excludes. -/
  | captured (no : Nat)
  /-- A stride that carries a register field out of its range (R82). -/
  | stride (no : Nat)
  /-- A reserved bit set in a region block. -/
  | reservedBit (no : Nat)
  /-- A field of a region block outside its range. -/
  | fieldRange (no : Nat)
deriving DecidableEq, Repr

/-- The numbers by which the reports know registers: operand registers by their own, masks after them. -/
def maskKey : MaskReg → Nat
  | .m0 => 256
  | .m1 => 257

def regKey (r : Reg) : Nat := r.toNat
def blockKeys (r : Reg) (n : Nat) : List Nat := (List.range n).map (fun k => r.toNat + k)
def vecKeys (v : VReg) : List Nat := (List.range 8).map (fun k => 8 * v.toNat + k)

/-- The mask an instruction reads for its mask field. -/
def selKeys : MaskSel → List Nat
  | .all => []
  | .m0 | .notM0 => [256]
  | .m1 => [257]

/-- The destination, where lanes without an active mask bit keep their values. -/
def mergeKeys (m : MaskSel) (v : VReg) : List Nat := if m = .all then [] else vecKeys v ++ selKeys m
def mergeKeysK (k : Bool) (v : VReg) : List Nat := if k then vecKeys v ++ [256] else []
def govK (k : Bool) : List Nat := if k then [256] else []

/-- The registers an instruction reads (R16, R130). SPAWN's arguments are not among them: their number is known to no
assembler. -/
def readsOf : Instr → List Nat
  | .add _ _ a b | .sub _ _ a b | .mul _ _ a b | .mulh _ _ a b | .mulhu _ _ a b | .div _ _ a b | .divu _ _ a b
  | .rem _ _ a b | .remu _ _ a b | .and _ _ a b | .or _ _ a b | .xor _ _ a b | .andn _ _ a b | .shl _ _ a b
  | .shr _ _ a b | .shra _ _ a b | .min _ _ a b | .max _ _ a b | .minu _ _ a b | .maxu _ _ a b | .seteq _ _ a b
  | .setlt _ _ a b | .setltu _ _ a b | .faddD _ _ a b | .faddS _ _ a b | .fsubD _ _ a b | .fmulD _ _ a b | .fmulS _ _ a b
  | .fdivD _ _ a b | .fcmpeqD _ _ a b | .fcmpltD _ _ a b => [regKey a, regKey b]
  | .sel _ d a b | .ffmaD _ d a b | .ffmaS _ d a b | .qpush _ d a b => [regKey a, regKey b, regKey d]
  | .clz _ _ a | .ctz _ _ a | .popc _ _ a | .sextB _ _ a | .sextH _ _ a | .sextW _ _ a | .zextB _ _ a | .zextH _ _ a
  | .zextW _ _ a | .bswap _ _ a | .mov _ _ a | .fsqrtD _ _ a | .fsqrtS _ _ a | .fabsD _ _ a | .fnegD _ _ a | .fclassD _ _ a
  | .fcvtDS _ _ a | .fcvtSD _ _ a | .fcvtDL _ _ a | .fcvtLD _ _ a | .fcvtSH _ _ a | .fcvtHS _ _ a | .fcvtSBf _ _ a | .fcvtBfS _ _ a => [regKey a]
  | .addi _ _ a _ | .andi _ _ a _ | .ori _ _ a _ | .xori _ _ a _ | .shli _ _ a _ | .shri _ _ a _ | .shrai _ _ a _ | .ldB _ _ a _
  | .ldH _ _ a _ | .ldW _ _ a _ | .ldD _ _ a _ | .lduB _ _ a _ | .lduH _ _ a _ | .lduW _ _ a _ => [regKey a]
  | .stB _ d a _ | .stH _ d a _ | .stW _ d a _ | .stD _ d a _ => [regKey a, regKey d]
  | .pref _ a _ => [regKey a]
  | .beq _ a b _ | .bne _ a b _ | .blt _ a b _ | .bge _ a b _ | .bltu _ a b _ | .bgeu _ a b _ => [regKey a, regKey b]
  | .bmb _ _ i _ => [if i.toNat < 32 then 256 else 257]
  | .jr _ a | .callr _ a | .trap _ a | .migrate _ a => [regKey a]
  | .loop _ c _ => [regKey c]
  | .vadd _ vd va vb _ m _ | .vsub _ vd va vb _ m _ | .vmul _ vd va vb _ m _
  | .vmin _ vd va vb _ m _ | .vmax _ vd va vb _ m _ | .vshift _ vd va vb _ m _ =>
    vecKeys va ++ vecKeys vb ++ mergeKeys m vd
  | .vlogic _ vd va vb _ m f => vecKeys va ++ (if f = 4 then [] else vecKeys vb) ++ mergeKeys m vd
  | .vunary _ vd va _ _ m _ => vecKeys va ++ mergeKeys m vd
  | .vfma _ vd va vb vc _ m _ | .vperm _ vd va vb vc _ m => vecKeys va ++ vecKeys vb ++ vecKeys vc ++ mergeKeys m vd
  | .vcmp _ _ va vb _ m _ | .vsel _ _ va vb _ m => vecKeys va ++ vecKeys vb ++ selKeys m
  | .vcvt _ vd va src dst m _ =>
    vecKeys va ++ (if m = .all ∧ src.width ≤ dst.width then [] else vecKeys vd) ++ selKeys m
  | .vred _ vd va _ _ m _ => vecKeys va ++ vecKeys vd ++ selKeys m
  | .vscan _ _ va _ _ m _ => vecKeys va ++ selKeys m
  | .vbcast _ v xa _ k => regKey xa :: mergeKeysK k v
  | .vext _ v _ _ _ => vecKeys v
  | .vins _ v xa _ _ k => regKey xa :: vecKeys v ++ govK k
  | .vld _ v xa _ _ k => regKey xa :: mergeKeysK k v
  | .vst _ v xa _ _ k => regKey xa :: vecKeys v ++ govK k
  | .vlds _ v xa xb _ k => regKey xa :: regKey xb :: mergeKeysK k v
  | .vsts _ v xa xb _ k => regKey xa :: regKey xb :: vecKeys v ++ govK k
  | .vgath _ v xa vi _ k => blockKeys xa 2 ++ vecKeys vi ++ mergeKeysK k v
  | .vscat _ v xa vi _ k => blockKeys xa 2 ++ vecKeys vi ++ vecKeys v ++ govK k
  | .mand _ _ ma mb | .mor _ _ ma mb | .mxor _ _ ma mb | .mandn _ _ ma mb => [maskKey ma, maskKey mb]
  | .mnot _ _ ma => [maskKey ma]
  | .mpopc _ _ ma | .mfirst _ _ ma | .mget _ _ ma => [maskKey ma]
  | .mset _ _ a => [regKey a]
  | .spawn _ _ a b | .bankmode _ _ a b | .qsteal _ _ a b => [regKey a, regKey b]
  | .send _ a b | .trigger _ a b | .bufinit _ a b | .bufrel _ a b => [regKey a, regKey b]
  | .reap _ _ a | .repart _ _ a | .reserve _ _ a | .bufacq _ _ a | .qpop _ _ a => [regKey a]
  | .bar _ _ a => blockKeys a 2
  | .copy _ a b => regKey b :: blockKeys a 6
  | .sbind _ _ a => blockKeys a 4
  | .mloadb _ _ a => blockKeys a 3
  | .amoAdd _ d a _ _ | .amoMin _ d a _ _ | .amoMax _ d a _ _ | .amoMinu _ d a _ _
  | .amoMaxu _ d a _ _ | .amoAnd _ d a _ _ | .amoOr _ d a _ _ | .amoXchg _ d a _ _ => [regKey a, regKey d]
  | .cas _ d a b _ => [regKey a, b.toNat, regKey d]
  | .redFaddOrd _ a b _ _ | .redFaddFast _ a b _ _ | .redIadd _ a b _ _ | .redMin _ a b _ _ | .redMax _ a b _ _ =>
    [regKey a, regKey b]
  | .scopew _ a _ => [regKey a]
  | .clean _ _ a _ | .inval _ _ a _ | .discard _ _ a _ | .zero _ _ a _ => [regKey a]
  | .mma _ _ _ _ _ b | .mmas _ _ _ _ _ _ b | .mread _ _ _ _ b => [regKey b]
  | .wrctl _ _ a => [regKey a]
  | _ => []

/-- The destinations R20 makes outstanding, for some address or for all (R94). -/
def outstandingOf : Instr → List Nat
  | .fdivD _ d _ _ | .bankmode _ d _ _ | .qpush _ d _ _ => [regKey d]
  | .fsqrtD _ d _ | .fsqrtS _ d _ | .bar _ d _ | .reserve _ d _ | .mloadb _ d _ => [regKey d]
  | .ldB _ d _ _ | .ldH _ d _ _ | .ldW _ d _ _ | .ldD _ d _ _ | .lduB _ d _ _ | .lduH _ d _ _ | .lduW _ d _ _ => [regKey d]
  | .amoAdd _ d _ _ _ | .amoMin _ d _ _ _ | .amoMax _ d _ _ _ | .amoMinu _ d _ _ _ | .amoMaxu _ d _ _ _
  | .amoAnd _ d _ _ _ | .amoOr _ d _ _ _ | .amoXchg _ d _ _ _ => [regKey d]
  | .cas _ d _ _ _ => [regKey d]
  | .vadd _ vd _ _ _ _ _ | .vsub _ vd _ _ _ _ _ | .vmul _ vd _ _ _ _ _ | .vmin _ vd _ _ _ _ _ | .vmax _ vd _ _ _ _ _
  | .vlogic _ vd _ _ _ _ _ | .vshift _ vd _ _ _ _ _ | .vunary _ vd _ _ _ _ _ | .vred _ vd _ _ _ _ _ | .vscan _ vd _ _ _ _ _ => vecKeys vd
  | .vfma _ vd _ _ _ _ _ _ => vecKeys vd
  | .vperm _ vd _ _ _ _ _ | .vcvt _ vd _ _ _ _ _ => vecKeys vd
  | .vsel _ vd _ _ _ _ => vecKeys vd
  | .vcmp _ md _ _ _ _ _ => [maskKey md]
  | .vbcast _ v _ _ _ => vecKeys v
  | .vext _ _ xa _ _ => [regKey xa]
  | .vins _ v _ _ _ _ | .vld _ v _ _ _ _ | .vlds _ v _ _ _ _ => vecKeys v
  | .vgath _ v _ _ _ _ => 257 :: vecKeys v
  | .vscat .. => [257]
  | .mread _ vd _ _ _ => vecKeys vd
  | .recvm _ d => blockKeys d 2
  | .bufacq _ d _ => blockKeys d 2
  | .qpop _ d _ => blockKeys d 3
  | .qsteal _ d _ _ => blockKeys d 3
  | _ => []

/-- S of an instruction (R23). -/
def marked (i : Instr) : Bool := ((encode i).map (fun w => w.getLsbD 31)).getD false

/-- The offset field of a control transfer and its width. -/
def offsetOf : Instr → Option (Nat × Nat)
  | .beq _ _ _ o | .bne _ _ _ o | .blt _ _ _ o | .bge _ _ _ o | .bltu _ _ _ o | .bgeu _ _ _ o => some (8, o.toNat)
  | .bmb _ _ _ o | .bcr _ _ _ o | .loop _ _ o => some (16, o.toNat)
  | .jmp _ o | .call _ o => some (24, o.toNat)
  | _ => none

/-- Whether an instruction transfers control (R94). -/
def transfers (i : Instr) : Bool :=
  match i with
  | .jr .. | .callr .. | .ret .. => true
  | i => (offsetOf i).isSome

/-- Where words are entered from elsewhere: the targets of transfers, the word after a loop's last, which a LOOP with a
zero count enters (R30, R115), and the first word of a frame, which its replays enter. `pre` holds the EXT payloads before
the word at hand. -/
def entered : List (BitVec 24) → List Emitted → List (Bool × Nat)
  | _, [] => []
  | pre, e :: t =>
    match e.instr with
    | .ext p => entered (pre ++ [p]) t
    | .rep .. => (e.inData, e.at_ + 4) :: entered [] t
    | i =>
      match offsetOf i with
      | none => entered [] t
      | some (w, o) =>
        let a := (BitVec.ofNat 64 e.at_ + 4 * extended w o pre).toNat
        (match i with
        | .loop .. => (e.inData, (a + 4) % 2 ^ 64)
        | _ => (e.inData, a)) :: entered [] t

/-- The early reads of the words of one section; `out` holds the outstanding destinations of the run so far (R94). -/
def earlyReads (marks : List (Bool × Nat)) : List Nat → List Emitted → List Report
  | _, [] => []
  | out, e :: t =>
    let out := if marks.contains (e.inData, e.at_) then [] else out
    let out' := if marked e.instr || transfers e.instr then [] else outstandingOf e.instr ++ out
    (if (readsOf e.instr).any out.contains then [.early e.no] else []) ++ earlyReads marks out' t

/-- The word at a place of a section. -/
def wordAt (bytes : List Byte) (a : Nat) : Option IWord :=
  match bytes.drop a with
  | b0 :: b1 :: b2 :: b3 :: _ => some (b3 ++ b2 ++ b1 ++ b0)
  | _ => none

/-- The reports on one captured word (R81, R82). -/
def capturedReport (no : Nat) (frm : BitVec 24) (times : BitVec 6) (w : IWord) : List Report :=
  if !arithmeticOp (w.extractLsb' 24 7).toNat then [.captured no]
  else if (adjustWord w frm times).isNone then [.stride no]
  else []

/-- The reports on the frame a REP opens (R94): its last replay carries every field farthest. -/
def frameReports (text data : List Byte) (e : Emitted) : List Report :=
  match e.instr with
  | .rep _ n t _ _ _ =>
    let frm := (((encode e.instr).map (fun w => w.extractLsb' 0 24)).getD 0)
    (List.range (n.toNat + 1)).flatMap (fun k =>
      match wordAt (if e.inData then data else text) (e.at_ + 4 * (k + 1)) with
      | some w => capturedReport e.no frm t w
      | none => [])
  | _ => []

/-- A field of a doubleword of a region block. -/
def fieldOf (ws : List Nat) (d lo n : Nat) : Nat := ws.getD d 0 / 2 ^ lo % 2 ^ n

/-- The reports on a region block, of which the doublewords present are given (R175, R176, R178). -/
def blockReports (no : Nat) (ws : List Nat) : List Report :=
  let ovr (k : Nat) : Bool := fieldOf ws 1 k 1 == 1
  let bad (ks : List Nat) (b : Bool) : List Report := if ks.all ovr && b then [.fieldRange no] else []
  let gx := fieldOf ws 3 0 8
  let gy := fieldOf ws 3 8 8
  let cores := fieldOf ws 3 16 13
  ((ws.zip blockReserved).filter (fun e => e.1 &&& e.2.toNat != 0)).map (fun _ => .reservedBit no)
    ++ bad [2] (fieldOf ws 2 16 4 == 0) ++ bad [9] (gx == 0 || gy == 0)
    ++ bad [10] (cores == 0 || decide (4608 < cores)) ++ bad [9, 10] (decide (cores < gx * gy))
    ++ bad [15] (fieldOf ws 7 0 64 % 4 != 0) ++ bad [19] (decide (5 < fieldOf ws 12 0 3))

/-- The doublewords at a place of the data section. -/
def doublewords (bytes : List Byte) (a n : Nat) : List Nat :=
  (List.range n).map (fun k => ((bytes.drop (a + 8 * k)).take 8).foldr (fun b v => b.toNat + 256 * v) 0)

/-! ### The whole source -/

/-- What edas makes of a source. -/
structure Image where
  text : List Byte
  data : List Byte
  /-- The starting address, where an `.entry` marks one. -/
  entry : Option Word
  /-- The window at the end of the source. -/
  window : Nat
  symbols : Names
  reports : List Report
deriving DecidableEq, Repr

/-- Whether a name may be a label (R88). -/
def labelOk (ms : List Macro) (n : Text) : Bool :=
  isName n && !isMnemonic n && !isRegName n && !ms.any (fun m => m.name == n)

/-- Whether no name of a list comes twice. -/
def distinct (l : List Text) : Bool := decide l.Nodup

/-- The blocks of `.region` lines, with their places. -/
def regionBlocks (ps : List Placed) : List (Nat × Nat) :=
  ps.filterMap (fun p =>
    match p.stmt with
    | .region => some (p.no, p.at_ + p.size)
    | _ => none)

/-- The label of the one `.entry`, if there is one. -/
def entryOf : List (Nat × Stmt) → Except AsmError (Option Text)
  | [] => .ok none
  | (_, .entry n) :: t => do
    match ← entryOf t with
    | some _ => throw .badDirective
    | none => return some n
  | _ :: t => entryOf t

/-- The image of expanded lines. -/
def assembleLines (lines : List NumLine) (ms : List Macro) : Except AsmError Image := do
  let equs := (← lines.mapM (boundBy ".equ")).flatten
  let scopes := (← lines.mapM (boundBy ".scope")).flatten
  let stmts := (← lines.mapM (fun l => (stmtsOf l.line).map (fun ss => ss.map (fun s => (l.no, s))))).flatten
  let count := (stmts.filter (fun s => s.2.isInstr)).length
  let (q, ps) ← settle equs scopes stmts (2 * count + 1) []
  let labels := q.labels.map Prod.fst
  if !labels.all (labelOk ms) then throw .badName
  if !distinct (labels ++ equs.map Prod.fst) || !distinct (scopes.map Prod.fst) then throw .rebound
  let b : Bound := ⟨equs, scopes, q.labels⟩
  let values ← equs.mapM (fun e => (b.sym e.1).map (fun v => (e.1, v)))
  let _ ← b.scopeNames scopes
  let entry ← match ← entryOf stmts with
    | none => pure none
    | some n =>
      match q.labels.find n with
      | some v => pure (some v)
      | none => throw AsmError.undefined
  let out ← ps.mapM (fun p => (p.emit b).map (fun r => (p.inData, r.1, r.2)))
  let text := (out.filter (fun r => !r.1)).flatMap (fun r => r.2.1)
  let data := (out.filter (fun r => r.1)).flatMap (fun r => r.2.1)
  let is := out.flatMap (fun r => r.2.2)
  let marks := q.marks ++ entered [] is
  let early (d : Bool) := earlyReads marks [] (is.filter (fun e => e.inData == d))
  let frames := is.flatMap (frameReports text data)
  let blocks := (regionBlocks ps).flatMap (fun r => blockReports r.1 (doublewords data r.2 (min 16 ((data.length - r.2) / 8))))
  return ⟨text, data, entry, q.window, q.labels ++ values, early false ++ early true ++ frames ++ blocks⟩

/-- The image of a source, with the files it may include (R88 to R94). -/
def assemble (files : List (Text × List Text)) (source : List Text) : Except AsmError Image := do
  let (lines, ms) ← expand files 25 16 8 none [] source
  assembleLines lines ms

end Sys2Proof.Edas
end

