-- ==== Sys2Proof/Tests/Slice0.lean ====
section
/-! SUPPORT. Tests: the well-formedness checks refuse, words written out from the encodings of spec/03 decode, single steps
give the values that the spec's rules and worked examples give, and the hypotheses of each statement can be met. -/

namespace Sys2Proof.Tests

open Sys2Proof.Machine

set_option Elab.async false

/-! ### Well-formedness (R75, R133, R137, R241, R293) -/

theorem test_wf_refuses_arithmetic :
    (Instr.vadd false 1 2 3 .fp32 .all 1).wf = false ∧ (Instr.vsub false 1 2 3 .i32 .all 3).wf = false
    ∧ (Instr.vmul false 1 2 3 .fp64 .all 2).wf = false ∧ (Instr.vfma false 1 2 3 4 .i32 .all 4).wf = false
    ∧ (Instr.vmin false 1 2 3 .fp16 .all 1).wf = false ∧ (Instr.vmax false 1 2 3 .i16 .all 2).wf = false := by decide

theorem test_wf_refuses_bits :
    (Instr.vlogic false 1 2 3 .i32 .all 5).wf = false ∧ (Instr.vshift false 1 2 3 .fp32 .all 0).wf = false
    ∧ (Instr.vcmp false .m0 2 3 .fp32 .all 4).wf = false ∧ (Instr.vunary false 1 2 0 .i32 .all 2).wf = false
    ∧ (Instr.vred false 1 2 0 .fp32 .all 3).wf = false ∧ (Instr.vscan false 1 2 0 .i32 .all 5).wf = false := by decide

theorem test_wf_refuses_conversions :
    (Instr.vcvt false 1 2 .f32 .f32 .all 0).wf = false ∧ (Instr.vcvt false 1 2 .i8 .i4 .all 0).wf = false
    ∧ (Instr.vcvt false 1 2 .f64 .i4 .all 0).wf = false ∧ (Instr.vcvt false 1 2 .f64 .f32 .all 2).wf = false
    ∧ (Instr.mread false 1 0 .i4 2).wf = false := by decide

theorem test_wf_refuses_fixed_scope : (Instr.scopew false 1 3).wf = false ∧ (Instr.scopew false 1 4).wf = true := by decide

/-! ### Words of every instruction (R69 to R75) -/

theorem test_words_integer_one :
    decode 0x81234567 = .ok (.add true 0x23 0x45 0x67)
    ∧ decode 0x02234567 = .ok (.sub false 0x23 0x45 0x67)
    ∧ decode 0x83234567 = .ok (.mul true 0x23 0x45 0x67)
    ∧ decode 0x04234567 = .ok (.mulh false 0x23 0x45 0x67)
    ∧ decode 0x85234567 = .ok (.mulhu true 0x23 0x45 0x67)
    ∧ decode 0x06234567 = .ok (.div false 0x23 0x45 0x67)
    ∧ decode 0x87234567 = .ok (.divu true 0x23 0x45 0x67)
    ∧ decode 0x08234567 = .ok (.rem false 0x23 0x45 0x67)
    ∧ decode 0x89234567 = .ok (.remu true 0x23 0x45 0x67)
    ∧ decode 0x0A234567 = .ok (.and false 0x23 0x45 0x67)
    ∧ decode 0x8B234567 = .ok (.or true 0x23 0x45 0x67)
    ∧ decode 0x0C234567 = .ok (.xor false 0x23 0x45 0x67)
    ∧ decode 0x8D234567 = .ok (.andn true 0x23 0x45 0x67)
    ∧ decode 0x0E234567 = .ok (.shl false 0x23 0x45 0x67)
    ∧ decode 0x8F234567 = .ok (.shr true 0x23 0x45 0x67)
    ∧ decode 0x10234567 = .ok (.shra false 0x23 0x45 0x67) := by decide +kernel

theorem test_words_integer_two :
    decode 0x91234567 = .ok (.min true 0x23 0x45 0x67)
    ∧ decode 0x12234567 = .ok (.max false 0x23 0x45 0x67)
    ∧ decode 0x93234567 = .ok (.minu true 0x23 0x45 0x67)
    ∧ decode 0x14234567 = .ok (.maxu false 0x23 0x45 0x67)
    ∧ decode 0x95234567 = .ok (.seteq true 0x23 0x45 0x67)
    ∧ decode 0x16234567 = .ok (.setlt false 0x23 0x45 0x67)
    ∧ decode 0x97234567 = .ok (.setltu true 0x23 0x45 0x67)
    ∧ decode 0x18234567 = .ok (.sel false 0x23 0x45 0x67)
    ∧ decode 0xDE234567 = .ok (.spawn true 0x23 0x45 0x67)
    ∧ decode 0x6F234567 = .ok (.bankmode false 0x23 0x45 0x67)
    ∧ decode 0xF5234567 = .ok (.qpush true 0x23 0x45 0x67)
    ∧ decode 0x77234567 = .ok (.qsteal false 0x23 0x45 0x67) := by decide +kernel

theorem test_words_float_three :
    decode 0xA2234567 = .ok (.faddD true 0x23 0x45 0x67)
    ∧ decode 0x23234567 = .ok (.faddS false 0x23 0x45 0x67)
    ∧ decode 0xA4234567 = .ok (.fsubD true 0x23 0x45 0x67)
    ∧ decode 0x25234567 = .ok (.fmulD false 0x23 0x45 0x67)
    ∧ decode 0xA6234567 = .ok (.fmulS true 0x23 0x45 0x67)
    ∧ decode 0x27234567 = .ok (.fdivD false 0x23 0x45 0x67)
    ∧ decode 0xA8234567 = .ok (.ffmaD true 0x23 0x45 0x67)
    ∧ decode 0x29234567 = .ok (.ffmaS false 0x23 0x45 0x67)
    ∧ decode 0xAA234567 = .ok (.fcmpeqD true 0x23 0x45 0x67)
    ∧ decode 0x2B234567 = .ok (.fcmpltD false 0x23 0x45 0x67) := by decide +kernel

theorem test_words_immediate :
    decode 0x99234589 = .ok (.addi true 0x23 0x45 0x89)
    ∧ decode 0x1A234589 = .ok (.andi false 0x23 0x45 0x89)
    ∧ decode 0x9B234589 = .ok (.ori true 0x23 0x45 0x89)
    ∧ decode 0x1C234589 = .ok (.xori false 0x23 0x45 0x89)
    ∧ decode 0x9D234589 = .ok (.shli true 0x23 0x45 0x89)
    ∧ decode 0x1E234589 = .ok (.shri false 0x23 0x45 0x89)
    ∧ decode 0x9F234589 = .ok (.shrai true 0x23 0x45 0x89)
    ∧ decode 0x39234589 = .ok (.ldB false 0x23 0x45 0x89)
    ∧ decode 0xBA234589 = .ok (.ldH true 0x23 0x45 0x89)
    ∧ decode 0x3B234589 = .ok (.ldW false 0x23 0x45 0x89)
    ∧ decode 0xBC234589 = .ok (.ldD true 0x23 0x45 0x89)
    ∧ decode 0x3D234589 = .ok (.lduB false 0x23 0x45 0x89)
    ∧ decode 0xBE234589 = .ok (.lduH true 0x23 0x45 0x89)
    ∧ decode 0x3F234589 = .ok (.lduW false 0x23 0x45 0x89)
    ∧ decode 0xC0234589 = .ok (.stB true 0x23 0x45 0x89)
    ∧ decode 0x41234589 = .ok (.stH false 0x23 0x45 0x89)
    ∧ decode 0xC2234589 = .ok (.stW true 0x23 0x45 0x89)
    ∧ decode 0x43234589 = .ok (.stD false 0x23 0x45 0x89) := by decide +kernel

theorem test_words_unary :
    decode 0xA1234500 = .ok (.clz true 0x23 0x45)
    ∧ decode 0x21234501 = .ok (.ctz false 0x23 0x45)
    ∧ decode 0xA1234502 = .ok (.popc true 0x23 0x45)
    ∧ decode 0x21234503 = .ok (.sextB false 0x23 0x45)
    ∧ decode 0xA1234504 = .ok (.sextH true 0x23 0x45)
    ∧ decode 0x21234505 = .ok (.sextW false 0x23 0x45)
    ∧ decode 0xA1234506 = .ok (.zextB true 0x23 0x45)
    ∧ decode 0x21234507 = .ok (.zextH false 0x23 0x45)
    ∧ decode 0xA1234508 = .ok (.zextW true 0x23 0x45)
    ∧ decode 0x21234509 = .ok (.bswap false 0x23 0x45)
    ∧ decode 0xA123450A = .ok (.mov true 0x23 0x45) := by decide +kernel

theorem test_words_float_one :
    decode 0x2C234500 = .ok (.fsqrtD false 0x23 0x45)
    ∧ decode 0xAC234501 = .ok (.fsqrtS true 0x23 0x45)
    ∧ decode 0x2C234502 = .ok (.fabsD false 0x23 0x45)
    ∧ decode 0xAC234503 = .ok (.fnegD true 0x23 0x45)
    ∧ decode 0x2C234504 = .ok (.fclassD false 0x23 0x45)
    ∧ decode 0xAC234505 = .ok (.fcvtDS true 0x23 0x45)
    ∧ decode 0x2C234506 = .ok (.fcvtSD false 0x23 0x45)
    ∧ decode 0xAC234507 = .ok (.fcvtDL true 0x23 0x45)
    ∧ decode 0x2C234508 = .ok (.fcvtLD false 0x23 0x45)
    ∧ decode 0xAC234509 = .ok (.fcvtSH true 0x23 0x45)
    ∧ decode 0x2C23450A = .ok (.fcvtHS false 0x23 0x45)
    ∧ decode 0xAC23450B = .ok (.fcvtSBf true 0x23 0x45)
    ∧ decode 0x2C23450C = .ok (.fcvtBfS false 0x23 0x45) := by decide +kernel

theorem test_words_two_fields :
    decode 0xDF234500 = .ok (.reap true 0x23 0x45)
    ∧ decode 0x60234500 = .ok (.repart false 0x23 0x45)
    ∧ decode 0xE7234500 = .ok (.bar true 0x23 0x45)
    ∧ decode 0x6E234500 = .ok (.reserve false 0x23 0x45)
    ∧ decode 0xF1234500 = .ok (.sbind true 0x23 0x45)
    ∧ decode 0x73234500 = .ok (.bufacq false 0x23 0x45)
    ∧ decode 0xF6234500 = .ok (.qpop true 0x23 0x45)
    ∧ decode 0x78234500 = .ok (.mloadb false 0x23 0x45) := by decide +kernel

theorem test_words_control :
    decode 0xAD234589 = .ok (.beq true 0x23 0x45 0x89)
    ∧ decode 0x2E234589 = .ok (.bne false 0x23 0x45 0x89)
    ∧ decode 0xAF234589 = .ok (.blt true 0x23 0x45 0x89)
    ∧ decode 0x30234589 = .ok (.bge false 0x23 0x45 0x89)
    ∧ decode 0xB1234589 = .ok (.bltu true 0x23 0x45 0x89)
    ∧ decode 0x32234589 = .ok (.bgeu false 0x23 0x45 0x89)
    ∧ decode 0xB3A5ABCD = .ok (.bmb true true 0x25 0xABCD)
    ∧ decode 0x3445ABCD = .ok (.bcr false false 0x45 0xABCD)
    ∧ decode 0x35ABCDEF = .ok (.jmp false 0xABCDEF)
    ∧ decode 0xB6ABCDEF = .ok (.call true 0xABCDEF)
    ∧ decode 0xB7004500 = .ok (.jr true 0x45)
    ∧ decode 0x37004501 = .ok (.callr false 0x45)
    ∧ decode 0xE5004500 = .ok (.migrate true 0x45)
    ∧ decode 0x7C004502 = .ok (.trap false 0x45)
    ∧ decode 0xB7000002 = .ok (.ret true)
    ∧ decode 0x62000000 = .ok (.waitm false)
    ∧ decode 0xFC000000 = .ok (.nop true)
    ∧ decode 0x7C000001 = .ok (.brk false)
    ∧ decode 0xFC000003 = .ok (.idle true)
    ∧ decode 0xB823ABCD = .ok (.loop true 0x23 0xABCD)
    ∧ decode 0xA023ABCD = .ok (.movi true 0x23 0xABCD)
    ∧ decode 0xC4004589 = .ok (.pref true 0x45 0x89) := by decide +kernel

theorem test_words_vector :
    decode 0x451230A9 = .ok (.vadd false 1 2 3 .i32 .m0 1)
    ∧ decode 0xC6123092 = .ok (.vsub true 1 2 3 .i64 .m1 2)
    ∧ decode 0x471230DA = .ok (.vmul false 1 2 3 .i16 .notM0 2)
    ∧ decode 0xC9123020 = .ok (.vmin true 1 2 3 .fp32 .all 0)
    ∧ decode 0x4A1230A9 = .ok (.vmax false 1 2 3 .i32 .m0 1)
    ∧ decode 0xCB123093 = .ok (.vlogic true 1 2 3 .i64 .m1 3)
    ∧ decode 0x4C1230BA = .ok (.vshift false 1 2 3 .i32 .notM0 2)
    ∧ decode 0xD0120002 = .ok (.vunary true 1 2 0 .fp64 .all 2)
    ∧ decode 0x51120028 = .ok (.vred false 1 2 0 .fp32 .m0 0)
    ∧ decode 0xD21200D0 = .ok (.vscan true 1 2 0 .i16 .m1 0)
    ∧ decode 0x48123473 = .ok (.vfma false 1 2 3 4 .bf16 .m1 3)
    ∧ decode 0xCD12305B = .ok (.vcmp true .m1 2 3 .fp16 .notM0 3)
    ∧ decode 0x4E1230A8 = .ok (.vsel false 1 2 3 .i32 .m0)
    ∧ decode 0xD6123490 = .ok (.vperm true 1 2 3 4 .i64 .m1)
    ∧ decode 0xCF121209 = .ok (.vcvt true 1 2 .f32 .f16 .m0 1) := by decide +kernel

theorem test_words_vector_moves :
    decode 0xD3145003 = .ok (.vbcast true 1 0x45 .fp32 true)
    ∧ decode 0x541450EC = .ok (.vext false 1 0x45 0x0E .i16)
    ∧ decode 0xD51450EB = .ok (.vins true 1 0x45 0x0E .i32 true)
    ∧ decode 0x57145894 = .ok (.vld false 1 0x45 0x89 .fp16 false)
    ∧ decode 0xD8145895 = .ok (.vst true 1 0x45 0x89 .fp16 true)
    ∧ decode 0x59145678 = .ok (.vlds false 1 0x45 0x67 .i64 false)
    ∧ decode 0xDA145679 = .ok (.vsts true 1 0x45 0x67 .i64 true)
    ∧ decode 0x5B145606 = .ok (.vgath false 1 0x45 6 .bf16 false)
    ∧ decode 0xDC145607 = .ok (.vscat true 1 0x45 6 .bf16 true) := by decide +kernel

theorem test_words_masks :
    decode 0x5D010100 = .ok (.mand false .m1 .m0 .m1)
    ∧ decode 0xDD010101 = .ok (.mor true .m1 .m0 .m1)
    ∧ decode 0x5D010102 = .ok (.mxor false .m1 .m0 .m1)
    ∧ decode 0xDD010103 = .ok (.mandn true .m1 .m0 .m1)
    ∧ decode 0xDD001004 = .ok (.mnot true .m0 .m1)
    ∧ decode 0x5D231005 = .ok (.mpopc false 0x23 .m1)
    ∧ decode 0xDD231006 = .ok (.mfirst true 0x23 .m1)
    ∧ decode 0x5D231008 = .ok (.mget false 0x23 .m1)
    ∧ decode 0x5D014507 = .ok (.mset false .m1 0x45) := by decide +kernel

theorem test_words_queues_and_matrix :
    decode 0xE1004567 = .ok (.send true 0x45 0x67)
    ∧ decode 0x66004567 = .ok (.trigger false 0x45 0x67)
    ∧ decode 0xF0004567 = .ok (.copy true 0x45 0x67)
    ∧ decode 0x72004567 = .ok (.bufinit false 0x45 0x67)
    ∧ decode 0xF4004567 = .ok (.bufrel true 0x45 0x67)
    ∧ decode 0x63230000 = .ok (.recvm false 0x23)
    ∧ decode 0xE4230000 = .ok (.clrf true 0x23)
    ∧ decode 0xFC230904 = .ok (.rdctl true 0x23 9)
    ∧ decode 0x7C094505 = .ok (.wrctl false 9 0x45)
    ∧ decode 0xFD584DE4 = .ok (.rep true 5 0x21 3 7 9)
    ∧ decode 0x7EABCDEF = .ok (.ext 0xABCDEF)
    ∧ decode 0xF9B54067 = .ok (.mma true 2 true 5 .e5m2 0x67)
    ∧ decode 0x7AD1B067 = .ok (.mmas false 3 false 4 6 .i8 0x67)
    ∧ decode 0xFB18C067 = .ok (.mread true 1 2 .bf16 0x67) := by decide +kernel

theorem test_words_synchronisation :
    decode 0x6800000A = .ok (.fence false .acq 5)
    ∧ decode 0xE800002A = .ok (.fence true .rel 5)
    ∧ decode 0x6800004A = .ok (.fence false .ar 5)
    ∧ decode 0xE800006A = .ok (.fence true .sc 5)
    ∧ decode 0x6923450A = .ok (.amoAdd false 0x23 0x45 5 false)
    ∧ decode 0xE923452B = .ok (.amoMin true 0x23 0x45 5 true)
    ∧ decode 0x6923454A = .ok (.amoMax false 0x23 0x45 5 false)
    ∧ decode 0xE923456B = .ok (.amoMinu true 0x23 0x45 5 true)
    ∧ decode 0x6923458A = .ok (.amoMaxu false 0x23 0x45 5 false)
    ∧ decode 0xE92345AB = .ok (.amoAnd true 0x23 0x45 5 true)
    ∧ decode 0x692345CA = .ok (.amoOr false 0x23 0x45 5 false)
    ∧ decode 0xE92345EB = .ok (.amoXchg true 0x23 0x45 5 true)
    ∧ decode 0x6A234565 = .ok (.cas false 0x23 0x45 6 5)
    ∧ decode 0x6B45670A = .ok (.redFaddOrd false 0x45 0x67 5 false)
    ∧ decode 0xEB45672B = .ok (.redFaddFast true 0x45 0x67 5 true)
    ∧ decode 0x6B45674A = .ok (.redIadd false 0x45 0x67 5 false)
    ∧ decode 0xEB45676B = .ok (.redMin true 0x45 0x67 5 true)
    ∧ decode 0x6B45678A = .ok (.redMax false 0x45 0x67 5 false)
    ∧ decode 0xEC00451E = .ok (.scopew true 0x45 15)
    ∧ decode 0xED23450A = .ok (.clean true 0x23 0x45 5)
    ∧ decode 0x6D23452A = .ok (.inval false 0x23 0x45 5)
    ∧ decode 0xED23454A = .ok (.discard true 0x23 0x45 5)
    ∧ decode 0x6D23456A = .ok (.zero false 0x23 0x45 5) := by decide +kernel
/-! ### Words that stand for nothing (R72, R74, R75, R86) -/

theorem test_words_refused :
    decode 0x00000000 = .error .reservedOp ∧ decode 0x7F000000 = .error .reservedOp
    ∧ (decode 0x2101020B).toOption = none ∧ (decode 0x69010280 ).toOption = some (.amoMaxu false 1 2 0 false)
    ∧ (decode 0x37010100).toOption = none ∧ (decode 0x334012FF).toOption = none ∧ (decode 0x451230E0).toOption = none
    ∧ (decode 0x44010203).toOption = none := by decide +kernel

/-! ### States to test on -/

/-- Context 0 of core 0 at the bottom of its local window, privileged, with a window of 128 registers. -/
def base : State := State.reset.loadWord 0x7C000000

/-- `base` with window registers set. -/
def withRegs (l : List (Nat × Word)) : State :=
  l.foldl (fun s e => s.modCore 0 (fun c => c.setReg e.1 ⟨e.2, true, false, false⟩)) base

/-- `base` with some of its thread changed. -/
def withThread (f : Ctx → Ctx) : State := base.modThr f

/-- What is seen of a next state. -/
def after {α : Type} (o : Out) (f : State → α) : Option α :=
  match o with
  | .next t => some (f t)
  | _ => none

/-- Register d after instruction i from registers l. -/
def result (i : Instr) (l : List (Nat × Word)) (d : Nat) : Option Word :=
  after (exec i (withRegs l)) (fun t => ((t.core 0).reg d).val)

/-- The fault an instruction takes, by its code. -/
def fault (i : Instr) (s : State) : Option (BitVec 8) :=
  after (exec i s) (fun t => if t.thr.st = .halted then t.thr.hcode else 0)

/-! ### Integer instructions (R100 to R104) -/

theorem test_add_wraps : result (.add false 3 1 2) [(1, 0xFFFFFFFFFFFFFFFF), (2, 2)] 3 = some 1 := by decide +kernel
theorem test_sub_wraps : result (.sub false 3 1 2) [(1, 1), (2, 2)] 3 = some 0xFFFFFFFFFFFFFFFF := by decide +kernel
theorem test_mul_low : result (.mul false 3 1 2) [(1, 0x100000001), (2, 0x100000001)] 3 = some 0x200000001 := by decide +kernel
theorem test_mulh_signed : result (.mulh false 3 1 2) [(1, 0xFFFFFFFFFFFFFFFF), (2, 3)] 3 = some 0xFFFFFFFFFFFFFFFF := by
  decide +kernel
theorem test_mulhu_unsigned : result (.mulhu false 3 1 2) [(1, 0xFFFFFFFFFFFFFFFF), (2, 3)] 3 = some 2 := by decide +kernel
theorem test_div_by_zero : result (.div false 1 2 0) [(0, 0), (2, 7)] 1 = some 0xFFFFFFFFFFFFFFFF := by decide +kernel
theorem test_div_overflow :
    result (.div false 3 1 2) [(1, 0x8000000000000000), (2, 0xFFFFFFFFFFFFFFFF)] 3 = some 0x8000000000000000 := by
  decide +kernel
theorem test_divu : result (.divu false 3 1 2) [(1, 0xFFFFFFFFFFFFFFFF), (2, 2)] 3 = some 0x7FFFFFFFFFFFFFFF := by
  decide +kernel
theorem test_rem_sign : result (.rem false 3 1 2) [(1, 0xFFFFFFFFFFFFFFF9), (2, 2)] 3 = some 0xFFFFFFFFFFFFFFFF := by
  decide +kernel
theorem test_remu_by_zero : result (.remu false 3 1 2) [(1, 9), (2, 0)] 3 = some 9 := by decide +kernel
theorem test_logic :
    result (.and false 3 1 2) [(1, 0xC), (2, 0xA)] 3 = some 8 ∧ result (.or false 3 1 2) [(1, 0xC), (2, 0xA)] 3 = some 0xE
    ∧ result (.xor false 3 1 2) [(1, 0xC), (2, 0xA)] 3 = some 6 ∧ result (.andn false 3 1 2) [(1, 0xC), (2, 0xA)] 3 = some 4 := by
  decide +kernel
theorem test_shl_takes_six_bits : result (.shl false 3 1 2) [(1, 3), (2, 0x7F)] 3 = some 0x8000000000000000 := by decide +kernel
theorem test_shr : result (.shr false 3 1 2) [(1, 0x8000000000000000), (2, 63)] 3 = some 1 := by decide +kernel
theorem test_shra : result (.shra false 3 1 2) [(1, 0x8000000000000000), (2, 63)] 3 = some 0xFFFFFFFFFFFFFFFF := by
  decide +kernel
theorem test_min_max :
    result (.min false 3 1 2) [(1, 0xFFFFFFFFFFFFFFFF), (2, 1)] 3 = some 0xFFFFFFFFFFFFFFFF
    ∧ result (.max false 3 1 2) [(1, 0xFFFFFFFFFFFFFFFF), (2, 1)] 3 = some 1
    ∧ result (.minu false 3 1 2) [(1, 0xFFFFFFFFFFFFFFFF), (2, 1)] 3 = some 1
    ∧ result (.maxu false 3 1 2) [(1, 0xFFFFFFFFFFFFFFFF), (2, 1)] 3 = some 0xFFFFFFFFFFFFFFFF := by decide +kernel
theorem test_set :
    result (.seteq false 3 1 2) [(1, 5), (2, 5)] 3 = some 1
    ∧ result (.setlt false 3 1 2) [(1, 0xFFFFFFFFFFFFFFFF), (2, 1)] 3 = some 1
    ∧ result (.setltu false 3 1 2) [(1, 0xFFFFFFFFFFFFFFFF), (2, 1)] 3 = some 0 := by decide +kernel
theorem test_sel : result (.sel false 3 1 2) [(1, 5), (2, 6), (3, 0)] 3 = some 6
    ∧ result (.sel false 3 1 2) [(1, 5), (2, 6), (3, 9)] 3 = some 5 := by decide +kernel
theorem test_immediates :
    result (.addi false 3 1 0xFF) [(1, 1)] 3 = some 0 ∧ result (.andi false 3 1 0xF0) [(1, 0x1FF)] 3 = some 0x1F0
    ∧ result (.ori false 3 1 0x80) [(1, 0)] 3 = some 0xFFFFFFFFFFFFFF80 ∧ result (.xori false 3 1 0x01) [(1, 3)] 3 = some 2 := by
  decide +kernel
theorem test_shift_immediates :
    result (.shli false 3 1 0x44) [(1, 1)] 3 = some 0x10 ∧ result (.shri false 3 1 4) [(1, 0x100)] 3 = some 0x10
    ∧ result (.shrai false 3 1 4) [(1, 0xFFFFFFFFFFFFFF00)] 3 = some 0xFFFFFFFFFFFFFFF0 := by decide +kernel
theorem test_movi_signed : result (.movi false 3 0xFFFF) [] 3 = some 0xFFFFFFFFFFFFFFFF := by decide +kernel
theorem test_movi_prefixed :
    after (exec (.movi false 3 0x5555) (withThread (fun t => { t with pre := [0x000001] }))) (fun t => ((t.core 0).reg 3).val)
      = some 0x15555 := by decide +kernel
theorem test_counts :
    result (.clz false 3 1) [(1, 1)] 3 = some 63 ∧ result (.clz false 3 1) [(1, 0)] 3 = some 64
    ∧ result (.ctz false 3 1) [(1, 8)] 3 = some 3 ∧ result (.ctz false 3 1) [(1, 0)] 3 = some 64
    ∧ result (.popc false 3 1) [(1, 0xF0F)] 3 = some 8 := by decide +kernel
theorem test_extensions :
    result (.sextB false 3 1) [(1, 0x180)] 3 = some 0xFFFFFFFFFFFFFF80
    ∧ result (.sextH false 3 1) [(1, 0x18000)] 3 = some 0xFFFFFFFFFFFF8000
    ∧ result (.sextW false 3 1) [(1, 0x180000000)] 3 = some 0xFFFFFFFF80000000
    ∧ result (.zextB false 3 1) [(1, 0x180)] 3 = some 0x80 ∧ result (.zextH false 3 1) [(1, 0x18000)] 3 = some 0x8000
    ∧ result (.zextW false 3 1) [(1, 0x180000000)] 3 = some 0x80000000 := by decide +kernel
theorem test_bswap_mov :
    result (.bswap false 3 1) [(1, 0x0102030405060708)] 3 = some 0x0807060504030201
    ∧ result (.mov false 3 1) [(1, 7)] 3 = some 7 := by decide +kernel

/-! ### Scalar floating point (R105 to R108): 1.0, 2.0 and 3.0 in FP64 are 0x3FF0…, 0x4000… and 0x4008… -/

theorem test_fadd : result (.faddD false 3 1 2) [(1, 0x3FF0000000000000), (2, 0x3FF0000000000000)] 3 = some 0x4000000000000000
    ∧ result (.faddS false 3 1 2) [(1, 0xFFFFFFFF3F800000), (2, 0x3F800000)] 3 = some 0x40000000 := by decide +kernel
theorem test_fsub : result (.fsubD false 3 1 2) [(1, 0x3FF0000000000000), (2, 0x3FF0000000000000)] 3 = some 0 := by
  decide +kernel
theorem test_fmul : result (.fmulD false 3 1 2) [(1, 0x4000000000000000), (2, 0xC008000000000000)] 3 = some 0xC018000000000000
    ∧ result (.fmulS false 3 1 2) [(1, 0x40000000), (2, 0x40400000)] 3 = some 0x40C00000 := by decide +kernel
theorem test_ffma :
    result (.ffmaD false 3 1 2) [(1, 0x4000000000000000), (2, 0x4008000000000000), (3, 0x3FF0000000000000)] 3
      = some 0x401C000000000000
    ∧ result (.ffmaS false 3 1 2) [(1, 0x40000000), (2, 0x40400000), (3, 0x3F800000)] 3 = some 0x40E00000 := by decide +kernel
theorem test_fcmp : result (.fcmpeqD false 3 1 2) [(1, 0x8000000000000000), (2, 0)] 3 = some 1
    ∧ result (.fcmpltD false 3 1 2) [(1, 0x7FF8000000000000), (2, 0)] 3 = some 0 := by decide +kernel
/-- A quiet NaN in an ordered compare sets NV (R58). -/
theorem test_fcmplt_nan_flag : after (exec (.fcmpltD false 3 1 2) (withRegs [(1, 0x7FF8000000000000)])) (fun t => t.thr.flags)
    = some 0x10 := by decide +kernel
theorem test_fsign : result (.fabsD false 3 1) [(1, 0xBFF0000000000000)] 3 = some 0x3FF0000000000000
    ∧ result (.fnegD false 3 1) [(1, 0x3FF0000000000000)] 3 = some 0xBFF0000000000000 := by decide +kernel
theorem test_fcvt :
    result (.fcvtDS false 3 1) [(1, 0x3F800000)] 3 = some 0x3FF0000000000000
    ∧ result (.fcvtSD false 3 1) [(1, 0x3FF0000000000000)] 3 = some 0x3F800000
    ∧ result (.fcvtDL false 3 1) [(1, 0xFFFFFFFFFFFFFFFF)] 3 = some 0xBFF0000000000000
    ∧ result (.fcvtLD false 3 1) [(1, 0xC000000000000000)] 3 = some 0xFFFFFFFFFFFFFFFE := by decide +kernel
theorem test_fcvt_half :
    result (.fcvtSH false 3 1) [(1, 0x3C00)] 3 = some 0x3F800000 ∧ result (.fcvtHS false 3 1) [(1, 0x3F800000)] 3 = some 0x3C00
    ∧ result (.fcvtSBf false 3 1) [(1, 0x3F80)] 3 = some 0x3F800000
    ∧ result (.fcvtBfS false 3 1) [(1, 0x3F800000)] 3 = some 0x3F80 := by decide +kernel
/-- What an outstanding result will write. -/
def owed (o : Out) : Option (List (List Piece)) := after o (fun t => t.thr.outst.map Outst.pieces)
theorem test_fdiv : owed (exec (.fdivD false 3 1 2) (withRegs [(1, 0x3FF0000000000000), (2, 0x4000000000000000)]))
    = some [[.reg 3 0x3FE0000000000000 false]] := by decide +kernel
theorem test_fsqrt : owed (exec (.fsqrtD false 3 1) (withRegs [(1, 0x4010000000000000)]))
      = some [[.reg 3 0x4000000000000000 false]]
    ∧ owed (exec (.fsqrtS false 3 1) (withRegs [(1, 0x40800000)])) = some [[.reg 3 0x40000000 false]] := by decide +kernel
theorem test_fclass_signalling : result (.fclassD false 6 7) [(7, 0x7FF0000000000001)] 6 = some 0x100 := by decide +kernel
/-- −2.5 under RNE and RDN, from the example of R108. -/
theorem test_fcvt_rounding :
    result (.fcvtLD false 6 7) [(7, 0xC004000000000000)] 6 = some 0xFFFFFFFFFFFFFFFE
    ∧ after (exec (.fcvtLD false 6 7) ((withRegs [(7, 0xC004000000000000)]).modThr (fun t => { t with rm := 3 })))
      (fun t => (((t.core 0).reg 6).val, t.thr.flags)) = some (0xFFFFFFFFFFFFFFFD, 1) := by decide +kernel

/-! ### Control transfers and loops (R109 to R115) -/

/-- Where the thread goes. -/
def goes (i : Instr) (s : State) : Option Word := after (exec i s) (fun t => t.thr.pc)
/-- The address of `base`'s instruction. -/
def home : Word := 0xFFFFFFFFFFFF0000
theorem test_branches :
    goes (.beq false 1 2 2) (withRegs [(1, 5), (2, 5)]) = some (home + 8)
    ∧ goes (.bne false 1 2 2) (withRegs [(1, 5), (2, 5)]) = some (home + 4)
    ∧ goes (.blt false 1 2 2) (withRegs [(1, 0xFFFFFFFFFFFFFFFF), (2, 5)]) = some (home + 8)
    ∧ goes (.bge false 1 2 2) (withRegs [(1, 0xFFFFFFFFFFFFFFFF), (2, 5)]) = some (home + 4)
    ∧ goes (.bltu false 1 2 2) (withRegs [(1, 0xFFFFFFFFFFFFFFFF), (2, 5)]) = some (home + 4)
    ∧ goes (.bgeu false 1 2 0xFF) (withRegs [(1, 0xFFFFFFFFFFFFFFFF), (2, 5)]) = some (home - 4) := by decide +kernel
theorem test_mask_and_condition_branches :
    goes (.bmb false true 0 2) base = some (home + 8) ∧ goes (.bmb false false 0 2) base = some (home + 4)
    ∧ goes (.bcr false false 0x40 2) base = some (home + 8) ∧ goes (.bcr false true 0x40 2) base = some (home + 4) := by
  decide +kernel
theorem test_jumps :
    goes (.jmp false 0xFFFFFF) base = some (home - 4) ∧ goes (.jr false 1) (withRegs [(1, home + 0x100)]) = some (home + 0x100)
    ∧ fault (.jr false 1) (withRegs [(1, home + 2)]) = some 0x06 := by decide +kernel
theorem test_calls_return :
    after (exec (.call false 4) base) (fun t => (t.thr.pc, t.thr.rasd, Tab.getD t.thr.ras 0 0)) = some (home + 16, 1, home + 4)
    ∧ after (exec (.callr false 1) (withRegs [(1, home + 0x40)])) (fun t => (t.thr.pc, t.thr.rasd)) = some (home + 0x40, 1)
    ∧ goes (.ret false) (withThread (fun t => { t with rasd := 1, ras := [(0, home + 0x20)] })) = some (home + 0x20)
    ∧ fault (.ret false) base = some 0x07 := by decide +kernel
theorem test_loop_level :
    after (exec (.loop false 1 3) (withRegs [(1, 2)])) (fun t => (t.thr.lpD, t.thr.lc0, t.thr.ls0, t.thr.le0, t.thr.pc))
      = some (1, 2, home + 4, home + 12, home + 4)
    ∧ goes (.loop false 1 3) (withRegs [(1, 0)]) = some (home + 16) := by decide +kernel
/-- The last instruction of a body goes back while more than one pass is left (R31). -/
theorem test_loop_end : goes (.nop false) (withThread (fun t => { t with lpD := 1, lc0 := 2, ls0 := home - 8, le0 := home }))
    = some (home - 8) := by decide +kernel
theorem test_frame_replay :
    after (exec (.rep false 0 1 1 0 0) base) (fun t => (t.thr.repA, t.thr.repFrm, t.thr.pc)) = some (true, 0x004400, home + 4)
    ∧ after (exec (.add false 3 1 2) (withThread (fun t => { t with repA := true, repFrm := 0x004400 })))
      (fun t => (t.thr.repA, t.thr.repJ, t.thr.pc)) = some (true, 1, home) := by decide +kernel
theorem test_prefix_kept : after (exec (.ext 0x123456) base) (fun t => (t.thr.pre, t.thr.pc)) = some ([0x123456], home) := by
  decide +kernel

/-! ### Loads and stores in the local window (R116, R117) -/

theorem test_store_load :
    after (exec (.stH false 2 1 1) (withRegs [(1, home + 0x100), (2, 0x12348001)])) (fun t =>
      after (exec (.ldH false 3 1 1) t) (fun u => ((u.core 0).reg 3).val)) = some (some 0xFFFFFFFFFFFF8001)
    ∧ after (exec (.stB false 2 1 1) (withRegs [(1, home + 0x100), (2, 0x1280)])) (fun t =>
      after (exec (.lduB false 3 1 1) t) (fun u => ((u.core 0).reg 3).val)) = some (some 0x80)
    ∧ after (exec (.stD false 2 1 1) (withRegs [(1, home + 0x100), (2, 0x8877665544332211)])) (fun t =>
      after (exec (.lduW false 3 1 3) t) (fun u => ((u.core 0).reg 3).val)) = some (some 0x88776655) := by decide +kernel
/-- The lowest address holds the low byte (R7). -/
theorem test_little_endian :
    after (exec (.stW false 2 1 0) (withRegs [(1, home + 0x100), (2, 0x44332211)])) (fun t =>
      (after (exec (.ldB false 3 1 0) t) (fun u => ((u.core 0).reg 3).val),
       after (exec (.lduH false 3 1 1) t) (fun u => ((u.core 0).reg 3).val),
       after (exec (.ldW false 3 1 0) t) (fun u => ((u.core 0).reg 3).val),
       after (exec (.ldD false 3 1 0) t) (fun u => ((u.core 0).reg 3).val)))
      = some (some 0x11, some 0x4433, some 0x44332211, some 0x44332211) := by decide +kernel
theorem test_load_alignment : fault (.ldD false 3 1 0) (withRegs [(1, home + 4)]) = some 0x06 := by decide +kernel
theorem test_pref : goes (.pref false 1 0) (withRegs [(1, 0)]) = some (home + 4) := by decide +kernel

/-! ### Vectors and masks: the worked example of spec/05 -/

/-- Sixteen FP32 lanes, lane 0 lowest. -/
def lanes32 (l : List Nat) : List (Nat × Word) :=
  (List.range 8).map (fun j => (j, BitVec.ofNat 64 (l.getD (2 * j) 0 + 2 ^ 32 * l.getD (2 * j + 1) 0)))
/-- What an outstanding result will write to a register. -/
def pending (o : Out) (d : Reg) : Option (Option Word) :=
  after o (fun t => firstSome (fun (p : Piece) => match p with
    | .reg r v _ => if r = d then some v else none
    | .mask _ _ _ => none) (t.thr.outst.flatMap Outst.pieces))
theorem test_vmul_masked : pending (exec (.vmul false 1 0 0 .fp32 .all 0) (withRegs (lanes32 [0x3F800000, 0x40000000]))) 8
    = some (some 0x408000003F800000) := by decide +kernel
/-- The even lanes of the squares of 1.0 to 16.0 sum to 680.0. -/
theorem test_vred_tree :
    pending (exec (.vred false 2 0 0 .fp32 .m0 0) ((withRegs (lanes32
        [0x3F800000, 0x40800000, 0x41100000, 0x41800000, 0x41C80000, 0x42100000, 0x42440000, 0x42800000,
         0x42A20000, 0x42C80000, 0x42F20000, 0x43100000, 0x43290000, 0x43440000, 0x43610000, 0x43800000])).modThr
      (fun t => { t with pred := 0xFFFFFFFF00005555 }))) 16 = some (some 0x442A0000) := by decide +kernel
theorem test_vadd_saturates : pending (exec (.vadd false 1 0 0 .i16 .all 1) (withRegs [(0, 0x7FFF)])) 8 = some (some 0x7FFF) := by
  decide +kernel
theorem test_vsub_saturates : pending (exec (.vsub false 2 1 0 .i16 .all 2) (withRegs [(0, 5), (8, 3)])) 16 = some (some 0) := by
  decide +kernel
theorem test_vfma : pending (exec (.vfma false 3 0 1 2 .i32 .all 2) (withRegs [(0, 3), (8, 5), (16, 1)])) 24
    = some (some 14) := by decide +kernel
theorem test_vmin_vmax : pending (exec (.vmin false 2 0 1 .i32 .all 0) (withRegs [(0, 0xFFFFFFFF), (8, 1)])) 16
      = some (some 0xFFFFFFFF)
    ∧ pending (exec (.vmax false 2 0 1 .i32 .all 0) (withRegs [(0, 0xFFFFFFFF), (8, 1)])) 16 = some (some 1) := by decide +kernel
theorem test_vlogic_vshift : pending (exec (.vlogic false 2 0 1 .i64 .all 3) (withRegs [(0, 0xC), (8, 0xA)])) 16 = some (some 4)
    ∧ pending (exec (.vshift false 2 0 1 .i32 .all 2) (withRegs [(0, 0x80000000), (8, 33)])) 16 = some (some 0xC0000000) := by
  decide +kernel
theorem test_vunary : pending (exec (.vunary false 1 0 0 .i16 .all 4) (withRegs [(0, 0xF0F)])) 8 = some (some 8)
    ∧ pending (exec (.vunary false 1 0 0 .i32 .all 3) (withRegs [(0, 1)])) 8 = some (some 0x200000001F) := by decide +kernel
theorem test_vscan : pending (exec (.vscan false 1 0 0 .i32 .all 0) (withRegs [(0, 0x200000001)])) 8 = some (some 0x300000001) := by
  decide +kernel
theorem test_vsel_vperm :
    pending (exec (.vsel false 2 0 1 .i32 .m0) ((withRegs [(0, 0x100000001), (8, 0x200000002)]).modThr (fun t =>
      { t with pred := 1 }))) 16 = some (some 0x200000001)
    ∧ pending (exec (.vperm false 3 0 1 2 .i32 .all) (withRegs [(0, 0x700000006), (16, 0x2000000001)])) 24 = some (some 7) := by
  decide +kernel
theorem test_vcvt : pending (exec (.vcvt false 1 0 .f16 .f32 .all 0) (withRegs [(0, 0x40003C00)])) 8
    = some (some 0x400000003F800000) := by decide +kernel
theorem test_vector_moves :
    pending (exec (.vbcast false 1 40 .i32 false) (withRegs [(40, 7)])) 8 = some (some 0x700000007)
    ∧ pending (exec (.vins false 1 40 1 .i32 false) (withRegs [(40, 7)])) 8 = some (some 0x700000000)
    ∧ pending (exec (.vext false 0 40 1 .i16) (withRegs [(0, 0x80000000)])) 40 = some (some 0xFFFFFFFFFFFF8000) := by
  decide +kernel
/-- Bits an outstanding result will write to the predicate word. -/
def pendingMask (o : Out) : Option (List (Word × Word)) :=
  after o (fun t => (t.thr.outst.flatMap Outst.pieces).filterMap (fun (p : Piece) => match p with
    | .reg _ _ _ => none
    | .mask b v _ => some (b, v)))
theorem test_vcmp : pendingMask (exec (.vcmp false .m1 0 1 .i32 .m0 2) ((withRegs [(0, 0xFFFFFFFF), (8, 1)]).modThr (fun t =>
    { t with pred := 3 }))) = some [(0x300000000, 0x100000000)] := by decide +kernel
theorem test_masks :
    after (exec (.mand false .m0 .m0 .m1) (withThread (fun t => { t with pred := 0xF0000005C })))
      (fun t => t.thr.pred) = some 0xF0000000C
    ∧ after (exec (.mor false .m0 .m0 .m1) (withThread (fun t => { t with pred := 0x300000005 }))) (fun t => t.thr.pred)
      = some 0x300000007
    ∧ after (exec (.mxor false .m1 .m0 .m1) (withThread (fun t => { t with pred := 0x300000005 }))) (fun t => t.thr.pred)
      = some 0x600000005
    ∧ after (exec (.mandn false .m0 .m0 .m1) (withThread (fun t => { t with pred := 0x300000005 }))) (fun t => t.thr.pred)
      = some 0x300000004
    ∧ after (exec (.mnot false .m0 .m1) (withThread (fun t => { t with pred := 0xFFFFFFFF00000000 }))) (fun t => t.thr.pred)
      = some 0xFFFFFFFF00000000 := by decide +kernel
theorem test_mask_registers :
    after (exec (.mset false .m0 1) (withRegs [(1, 0x900005555)])) (fun t => t.thr.pred) = some 0xFFFFFFFF00005555
    ∧ after (exec (.mpopc false 3 .m0) (withThread (fun t => { t with pred := 0x5555 }))) (fun t => ((t.core 0).reg 3).val)
      = some 8
    ∧ after (exec (.mfirst false 3 .m0) (withThread (fun t => { t with pred := 0 }))) (fun t => ((t.core 0).reg 3).val)
      = some 32
    ∧ after (exec (.mget false 3 .m1) (withThread (fun t => { t with pred := 0x700000000 }))) (fun t => ((t.core 0).reg 3).val)
      = some 7 := by decide +kernel

/-! ### Witnesses: the hypotheses of the statements can be met -/

theorem witness_integer_register :
    (∃ f, integerRegister (.add false 3 1 2) = some (false, 3, 1, 2, f)) ∧ base.thr.pre = [] ∧ base.canUse [1, 2] [3]
    ∧ base.canUse [1, 2] [0xB0] ∧ unmarked 0xB0 = true ∧ (base.value 1).p = false ∧ ((base.afterRead 1).value 2).p = false
    ∧ base.canUse [1, 2, 3] [3] ∧ unmarked 3 = false ∧ base.canUse [0xB0, 127] [0x9F]
    ∧ ¬ (0xA0 ≤ (3 : Reg).toNat ∧ (3 : Reg).toNat ≤ 0xAF) ∧ 0xA0 ≤ (0xA5 : Reg).toNat ∧ (0xA5 : Reg).toNat ≤ 0xAF := by
  refine ⟨⟨_, rfl⟩, rfl, ?_⟩
  and_intros <;> decide +kernel

theorem witness_integer_immediate_unary :
    (∃ f, integerImmediate (.addi false 3 1 5) = some (false, 3, 1, 5, f)) ∧ base.canUse [1] [3] ∧ base.canUse [] [3]
    ∧ (∃ f, integerUnary (.clz false 3 1) = some (false, 3, 1, f)) ∧ base.thr.pre = [] ∧ (base.value 1).p = false := by
  refine ⟨⟨_, rfl⟩, ?_, ?_, ⟨_, rfl⟩, rfl, ?_⟩ <;> (try unfold State.canUse) <;> decide +kernel

theorem witness_scalar_float :
    (∃ f, floatTwo (.faddD false 3 1 2) = some (false, 3, 1, 2, f)) ∧ (∃ f, floatOne (.fabsD false 3 1) = some (false, 3, 1, f))
    ∧ floatFma (.ffmaD false 3 1 2) = some (false, 3, 1, 2, 64, fmt64) ∧ base.canUse [1, 2, 3] [3]
    ∧ outWritable base.thr.size 3 = true ∧ base.thr.pre = [] ∧ base.canUse [1, 2] [3] ∧ base.canUse [1] [3]
    ∧ unmarked 3 = false := by
  refine ⟨⟨_, rfl⟩, ⟨_, rfl⟩, rfl, ?_, ?_, rfl, ?_, ?_, ?_⟩ <;> (try unfold State.canUse) <;> decide +kernel

theorem witness_mask_group :
    (∃ f, maskFunction (.mand false .m0 .m0 .m1) = some (false, .m0, .m0, .m1, f))
    ∧ (∃ f, maskToRegister (.mpopc false 3 .m0) = some (false, 3, .m0, f)) ∧ base.canUse [] [3] ∧ base.canUse [1] []
    ∧ base.thr.maskPoison .m0 = false ∧ base.thr.pre = [] := by
  refine ⟨⟨_, rfl⟩, ⟨_, rfl⟩, ?_, ?_, ?_, ?_⟩ <;> (try unfold State.canUse) <;> decide +kernel

theorem witness_branch :
    (∃ c, branchOf (.beq false 1 2 4) = some (false, 1, 2, 4, c)) ∧ base.thr.repA = false ∧ base.canUse [1, 2] []
    ∧ (base.value 1).p = false ∧ ((base.afterRead 1).value 2).p = false ∧ base.thr.poison0 = false ∧ base.thr.poison1 = false
    ∧ base.condition base.cur base.ctx 0x40 = some false ∧ base.condition base.cur base.ctx 0x3F = some true := by
  refine ⟨⟨_, rfl⟩, ?_, ?_, ?_⟩ <;> (try unfold State.canUse) <;> decide +kernel

/-- Sixteen return addresses held, with room below the limit. -/
def fullReturns : State := withThread (fun t => { t with rasd := 16, rbase := 0, rlim := 1, rasp := 0 })
/-- One held, the address 64. -/
def oneReturn : State := withThread (fun t => { t with rasd := 1, ras := [(0, 64)] })
/-- None held, one in memory. -/
def spilledReturn : State := withThread (fun t => { t with rasd := 0, rbase := 0, rlim := 1, rasp := 8 })

theorem witness_jump_call_return :
    base.thr.repA = false ∧ base.thr.pre = [] ∧ base.thr.rasd < 16 ∧ ¬ fullReturns.thr.rasd < 16
    ∧ fullReturns.thr.rbase * 8 ≤ fullReturns.thr.rasp.toNat ∧ fullReturns.thr.rasp.toNat + 8 ≤ fullReturns.thr.rlim * 8
    ∧ fullReturns.thr.pre = [] ∧ fullReturns.thr.repA = false ∧ (fullReturns.value 1).p = false
    ∧ (fullReturns.value 1).v.toNat % 4 = 0 ∧ (base.value 1).p = false
    ∧ base.canUse [1] [] ∧ fullReturns.canUse [1] [] ∧ (base.value 1).v.toNat % 4 = 0
    ∧ spilledReturn.thr.pre = [] ∧ spilledReturn.thr.repA = false ∧ spilledReturn.thr.rasd = 0
    ∧ spilledReturn.thr.rbase * 8 < spilledReturn.thr.rasp.toNat ∧ spilledReturn.thr.rasp.toNat ≤ spilledReturn.thr.rlim * 8
    ∧ (spilledReturn.localRead spilledReturn.cur (localEa (spilledReturn.thr.rasp - 8)) 8).2 = false
    ∧ (spilledReturn.localRead spilledReturn.cur (localEa (spilledReturn.thr.rasp - 8)) 8).1 % 4 = 0
    ∧ oneReturn.thr.pre = [] ∧ oneReturn.thr.repA = false ∧ 0 < oneReturn.thr.rasd
    ∧ (Tab.getD oneReturn.thr.ras (oneReturn.thr.rasd - 1) 0).toNat % 4 = 0 := by
  and_intros <;> decide +kernel

/-- A count of one, at a loop level. -/
def atLevel (d : Nat) : State := (withRegs [(1, 1)]).modThr (fun t => { t with lpD := d })

theorem witness_loop :
    0 < (base.thr.imm (1 : BitVec 16)).toInt ∧ base.thr.repA = false ∧ base.canUse [1] [] ∧ (base.value 1).p = false
    ∧ (base.value 1).v = 0
    ∧ ∀ d, d < 3 → 0 < ((atLevel d).thr.imm (1 : BitVec 16)).toInt ∧ (atLevel d).thr.repA = false ∧ (atLevel d).canUse [1] []
      ∧ ((atLevel d).value 1).p = false ∧ ((atLevel d).value 1).v ≠ 0 ∧ (atLevel d).thr.lpD = d := by
  refine ⟨by decide +kernel, by decide +kernel, ?_, by decide +kernel, by decide +kernel, fun d hd => ?_⟩
  · unfold State.canUse; decide +kernel
  · interval_cases d <;> (unfold State.canUse; decide +kernel)

theorem witness_load_store :
    loadOf (.ldD false 3 1 0) = some (false, 3, 1, 0, 8, true) ∧ storeOf (.stD false 3 1 0) = some (false, 3, 1, 0, 8)
    ∧ base.thr.repA = false ∧ base.thr.releases = [] ∧ outWritable base.thr.size 3 = true ∧ base.canUse [1] [] ∧ base.canUse [1, 3] []
    ∧ (base.value 1).p = false ∧ ((base.afterRead 1).value 3).p = false
    ∧ ((withRegs [(1, home)]).value 1).p = false ∧ (((withRegs [(1, home)]).afterRead 1).value 3).p = false
    ∧ (withRegs [(1, home)]).thr.repA = false ∧ (withRegs [(1, home)]).thr.releases = []
    ∧ outWritable (withRegs [(1, home)]).thr.size 3 = true ∧ (withRegs [(1, home)]).canUse [1] []
    ∧ ((withRegs [(1, home)]).address ((withRegs [(1, home)]).value 1).v 8 0).toNat % 8 = 0
    ∧ (base.address (base.value 1).v 8 0).toNat % 8 = 0 ∧ (base.address (base.value 1).v 8 0).toNat < 0xFFFFFFFFFFFF0000
    ∧ 0xFFFFFFFFFFFF0000 ≤ ((withRegs [(1, home)]).address ((withRegs [(1, home)]).value 1).v 8 0).toNat
    ∧ (withRegs [(1, home)]).canUse [1, 3] [] := by
  and_intros <;> decide +kernel

theorem witness_nop_prefetch_frame_prefix :
    base.thr.pre = [] ∧ base.thr.repA = false ∧ base.canUse [1] [] ∧ (base.value 1).p = false ∧ base.thr.pre.length < 2
    ∧ 2 ≤ (withThread (fun t => { t with pre := [0, 1] })).thr.pre.length := by
  and_intros <;> decide +kernel

theorem witness_vector_lanes :
    (∃ f, laneFunction (.vadd false 1 2 3 .i32 .m0 0) = some (false, 1, [2, 3], .i32, .m0, f))
    ∧ (Instr.vadd false 1 2 3 .i32 .m0 0).wf = true ∧ base.thr.pre = [] ∧ (base.core base.cur).vq.length < Config.vectorQueueEntries
    ∧ base.canUseVectors [2, 3] [1] [] [] ∧ (base.lanes .m0 16).length = 16 := by
  refine ⟨⟨_, rfl⟩, ?_⟩
  and_intros <;> decide +kernel

theorem witness_vector_others :
    (base.core base.cur).vq.length < Config.vectorQueueEntries ∧ base.canUseVectors [2, 3] [1] [] [] ∧ base.canUseVectors [2, 3, 4] [1] [] []
    ∧ (Instr.vcvt false 1 2 .f32 .f16 .all 1).wf = true ∧ base.canUseVectors [2, 1] [1] [] []
    ∧ base.canUseVectors [2] [1] [] [] ∧ base.canUseVectors [2, 3] [] [] [] ∧ base.canUseVectors [] [1] [40] []
    ∧ base.canUseVectors [1] [] [] [40] ∧ base.canUseVectors [1] [1] [40] [] ∧ base.thr.pre = [] ∧ outWritable base.thr.size 40 = true ∧ (7 : BitVec 8).toNat < ElemType.i64.lanes := by
  and_intros <;> decide +kernel

/-- Registers 40 and 41 give a base in the local window and a bound. -/
def nearBase : State := withRegs [(40, home), (41, 4)]

theorem witness_vector_load_store_unit :
    ∃ x y, nearBase.vectorLoad (.vld false 1 40 0 .i32 false) = some x ∧ nearBase.vectorStore (.vst false 1 40 0 .i32 false) = some y
      ∧ nearBase.thr.repA = false ∧ (nearBase.core nearBase.cur).vq.length < Config.vectorQueueEntries ∧ nearBase.thr.releases = []
      ∧ nearBase.canUseVectors (x.reads ++ []) [x.v] x.xs [] ∧ nearBase.accessOk (.vld false 1 40 0 .i32 false) x
      ∧ nearBase.canUseVectors y.reads [] y.xs [] ∧ nearBase.accessOk (.vst false 1 40 0 .i32 false) y
      ∧ (∀ k, k < 16 → (nearBase.vec y.v).lanePoison 32 k = false) := by
  refine ⟨_, _, rfl, rfl, ?_⟩
  and_intros <;> decide +kernel

theorem witness_vector_load_indexed :
    ∃ x, nearBase.vectorLoad (.vgath false 1 40 2 .i32 false) = some x ∧ nearBase.thr.repA = false ∧ (nearBase.core nearBase.cur).vq.length < Config.vectorQueueEntries
      ∧ nearBase.canUseVectors (x.reads ++ []) [x.v] x.xs [] ∧ nearBase.accessOk (.vgath false 1 40 2 .i32 false) x := by
  refine ⟨_, rfl, ?_⟩
  and_intros <;> first
    | decide +kernel
    | exact fun h => absurd h (by decide +kernel)

theorem witness_vector_strided :
    ∃ x, nearBase.vectorStore (.vsts false 1 40 41 .i32 false) = some x ∧ nearBase.thr.repA = false
      ∧ (nearBase.core nearBase.cur).vq.length < Config.vectorQueueEntries ∧ nearBase.thr.releases = []
      ∧ nearBase.canUseVectors x.reads [] x.xs [] ∧ nearBase.accessOk (.vsts false 1 40 41 .i32 false) x
      ∧ ∀ k, k < 16 → (nearBase.vec x.v).lanePoison 32 k = false := by
  refine ⟨_, rfl, by decide +kernel, by decide +kernel, by decide +kernel, ?_, ⟨rfl, by decide +kernel, by decide +kernel, ?_⟩,
    by decide +kernel⟩
  · unfold State.canUseVectors State.canUse; decide +kernel
  · intro k hk ea h
    injection h with h
    subst h
    revert hk
    revert k
    decide +kernel

/-! ### Threads, messages, synchronisation, engines, matrix and system instructions -/

/-- A descriptor for context 2: window 128 to 151, one argument (R154). -/
def spawnState : State := withRegs [(1, 0x121002), (2, home + 0x40), (3, 7)]
/-- `base` with context 2 in a state of its own. -/
def second (k : CtxState) : State := base.modThread 0 2 (fun t => { t with st := k, base := 128, size := 24 })
/-- Context 2 holds the slot. -/
def inSecond : State :=
  { base.modThread 0 2 (fun _ => { base.thr with base := 128, size := 24, priv := false }) with ctx := 2 }

/-- The source field k of a list reads a poisoned value. -/
def poisonAt (s : State) (rs : List Reg) (k : Nat) : Bool :=
  match rs[k]? with
  | some r => (((rs.take k).foldl State.afterRead s).value r).p
  | none => false
theorem clean_values {s : State} {rs : List Reg} (h : ∀ k, k < rs.length → poisonAt s rs k = false) (k : Nat) (r : Reg)
    (hk : rs[k]? = some r) : (((rs.take k).foldl State.afterRead s).value r).p = false := by
  have hl : k < rs.length := by
    rcases Nat.lt_or_ge k rs.length with h' | h'
    · exact h'
    · rw [List.getElem?_eq_none h'] at hk
      cases hk
  have h' := h k hl
  unfold poisonAt at h'
  rw [hk] at h'
  exact h'

theorem test_spawn : after (exec (.spawn false 3 1 2) spawnState) (fun t =>
    ((t.thread 0 2).st, (t.thread 0 2).pc, (t.thread 0 2).base, (t.thread 0 2).size, ((t.core 0).reg 128).val))
    = some (.runnable, home + 0x40, 128, 24, 7) := by decide +kernel
theorem test_reap : after (exec (.reap false 3 1) ((second .departed).modCore 0 (fun c => c.setReg 1 ⟨2, true, false, false⟩)))
    (fun t => ((t.thread 0 2).st, ((t.core 0).reg 3).val)) = some (.free, 0xFFFFFFFFFFFFFFFF) := by decide +kernel
theorem test_repart : after (exec (.repart false 3 1) (withRegs [(1, 2)])) (fun t => ((t.core 0).n, t.thr.size, ((t.core 0).reg 3).val))
    = some (16, 128, 16) := by decide +kernel
theorem test_clrf : after (exec (.clrf false 3) base) (fun t => (((t.core 0).reg 3).full, ((t.core 0).reg 3).armed))
    = some (false, true) := by decide +kernel

theorem witness_spawn_reap :
    spawnState.plain ∧ spawnState.ctx = 0 ∧ spawnState.clean [1, 2]
    ∧ spawnFits (spawnState.core spawnState.cur) (spawnState.operand [1, 2] 0)
    ∧ (spawnState.operand [1, 2] 1).toNat % 4 = 0 ∧ (spawnState.operand [1, 2] 0).getLsbD 24 = false
    ∧ (spawnState.operand [1, 2] 0).extractLsb' 20 4 = 1 ∧ (3 : Reg).toNat + 1 ≤ spawnState.thr.size
    ∧ spawnState.clean (regsFrom 3 1) ∧ base.plain ∧ base.ctx = 0 ∧ base.canUse [1] [3]
    ∧ base.thr.priv = true ∧ 2 < (base.core base.cur).n ∧ ((second .empty).thread 0 2).st = .empty
    ∧ ((second .departed).thread 0 2).st = .departed ∧ ((second .killed).thread 0 2).st = .killed
    ∧ ((second .idling).thread 0 2).st = .idling ∧ ((second .idling).thread 0 2).bargeCtx = false
    ∧ ((second .idling).thread 0 2).outst = [] ∧ (second .idling).unjoined 0 2 = false ∧ (base.value 1).v = 0
    ∧ ((withRegs [(1, 2)]).value 1).v = 2 ∧ (withRegs [(1, 2)]).thr.priv = true ∧ (withRegs [(1, 2)]).canUse [1] []
    ∧ ((withRegs [(1, 2)]).core 0).n ≠ 64
    ∧ (∀ e ∈ ((withRegs [(1, 2)]).core 0).ctxs, e.1 = 0 ∨ e.2.st = .free) ∧ (withRegs [(1, 2)]).thr.outst = [] := by
  refine ⟨⟨rfl, rfl⟩, rfl, ?_⟩
  and_intros <;> first
    | decide +kernel
    | (refine clean_values ?_; decide +kernel)

/-- A message for context 0. -/
def letter : Mail := ⟨1, 0, 5, 0, 0x1234, 0xABCD⟩
def withMail : State := base.modCore 0 (fun c => { c with mail := [{ letter with ctx := 3 }, letter] })

theorem test_recvm : owed (exec (.recvm false 4) withMail) = some [[.reg 4 letter.header false, .reg 5 0xABCD false]] := by
  decide +kernel
theorem test_recvm_empty : owed (exec (.recvm false 4) base) = some [[.reg 4 0 false, .reg 5 0 false]] := by decide +kernel
theorem test_send_refused : after (exec (.send false 1 2) (withRegs [(1, 0x1FFF), (2, 9)])) (fun t =>
    (t.core 0).waitRefuse.map (fun m => (m.kind, m.payload))) = some [(3, 0x1FFF)] := by decide +kernel
theorem test_waitm : goes (.waitm false) withMail = some (home + 4)
    ∧ after (exec (.waitm false) base) (fun t => t.thr.st) = some .parked := by decide +kernel

/-- Register 1 names a core that does not exist. -/
def nobody : State := withRegs [(1, 0x1FFF)]
theorem witness_send_mailbox :
    base.plain ∧ base.thr.releases = [] ∧ base.clean [1, 2] ∧ base.sendq.length < Config.sendQueueEntries
    ∧ ((base.operand [1, 2] 0).extractLsb' 0 13).toNat < Config.cores ∧ base.nextPair base.cur = none
    ∧ nobody.plain ∧ nobody.thr.releases = [] ∧ nobody.clean [1, 2] ∧ nobody.sendq.length < Config.sendQueueEntries
    ∧ (nobody.operand [1, 2] 0).getLsbD 47 = false ∧ Config.cores ≤ ((nobody.operand [1, 2] 0).extractLsb' 0 13).toNat
    ∧ withMail.plain ∧ (∃ e ∈ (withMail.core withMail.cur).mail, e.ctx.toNat = withMail.ctx) ∧ (4 : Reg).toNat + 2 ≤ withMail.thr.size
    ∧ (withMail.core withMail.cur).mail = [{ letter with ctx := 3 }] ++ letter :: [] ∧ letter.ctx.toNat = withMail.ctx
    ∧ (∀ e ∈ [{ letter with ctx := 3 }], e.ctx.toNat ≠ withMail.ctx) ∧ (base.core base.cur).mail = [] := by
  refine ⟨⟨rfl, rfl⟩, ?_⟩
  and_intros <;> first
    | decide +kernel
    | (refine clean_values ?_; decide +kernel)

theorem test_migrate : after (exec (.migrate false 1) (inSecond.modCore 0 (fun c => c.setReg 129 ⟨home, true, false, false⟩)))
    (fun t => (t.thr.st, t.flights.length)) = some (.departed, 1) := by decide +kernel
theorem test_trigger_alignment : fault (.trigger false 1 2) (withRegs [(1, 64), (2, 0x10)]) = some 0x06 := by decide +kernel
theorem test_bar : owed (exec (.bar false 3 1) (withRegs [(1, 0x100), (2, 0x400000)])) = some [[.reg 3 0 false]] := by
  decide +kernel

/-- Register 2 holds TRIGGER's scope 3, kind 0. -/
def triggering : State := withRegs [(2, 3)]
/-- Registers 1 and 2 describe an arrival of the core at its own barrier in scope 3. -/
def arriving : State := withRegs [(1, 0x100), (2, 0x30400000)]

/-- Context 2 holds the slot and names its home. -/
def leaving : State := inSecond.modCore 0 (fun c => c.setReg 129 ⟨home, true, false, false⟩)

theorem witness_migrate_trigger_bar :
    leaving.plain ∧ leaving.clean [1] ∧ 2 ≤ leaving.ctx ∧ 24 ≤ leaving.thr.size ∧ leaving.thr.lpD = 0 ∧ leaving.thr.rasd = 0
    ∧ leaving.thr.rasp.toNat = leaving.thr.rbase * 8 ∧ leaving.unjoined leaving.cur leaving.ctx = false
    ∧ leaving.thr.outst = [] ∧ leaving.storesAcked leaving.cur leaving.ctx = true ∧ leaving.thr.releases = []
    ∧ leaving.clean (regsFrom 0 24) ∧ leaving.thr.poison0 = false ∧ leaving.thr.poison1 = false
    ∧ (leaving.afterRead 1).migrateHome leaving.cur leaving.thr (leaving.value 1).v = .ok 0
    ∧ triggering.plain ∧ triggering.thr.releases = [] ∧ triggering.clean [1, 2] ∧ (triggering.operand [1, 2] 1) = 3
    ∧ (triggering.operand [1, 2] 0).toNat % 128 = 0 ∧ triggering.sample triggering.cur 3 = some .job
    ∧ (triggering.gated.afterReads [1, 2]).writesDone 0 0 ⟨triggering.fresh, .job⟩ = true
    ∧ arriving.plain ∧ arriving.thr.releases = [] ∧ arriving.clean [1, 1 + 1] ∧ (1 : Reg).toNat + 2 ≤ arriving.thr.size
    ∧ outWritable arriving.thr.size 3 = true ∧ (arriving.value (1 + 1)).v = 0x30400000 ∧ 0 < Config.cores
    ∧ arriving.partOfCore 0 = arriving.partOfCore arriving.cur ∧ (arriving.value 1).v.toNat % 64 = 0
    ∧ arriving.sample arriving.cur 3 = some .job ∧ arriving.gated.writesDone arriving.cur arriving.ctx ⟨arriving.fresh, .job⟩ = true := by
  refine ⟨⟨rfl, rfl⟩, ?_⟩
  and_intros <;> first
    | decide +kernel
    | (refine clean_values ?_; decide +kernel)

/-- A load of the thread is outstanding. -/
def owing : State := withThread (fun t => { t with outst := [⟨1, .load, [.reg 3 0 false], 0, false⟩] })
theorem test_fence_acquire_waits : after (exec (.fence false .acq 2) owing) (fun t => (t.thr.st, t.thr.park))
    = some (.parked, some (.results [1])) ∧ after (exec (.fence false .acq 2) base) (fun t => t.thr.st) = some .runnable := by
  decide +kernel
theorem test_fence_release : after (exec (.fence false .rel 3) base) (fun t => t.thr.releases.map Release.scope)
    = some [.job] := by decide +kernel
theorem witness_fence : base.plain ∧ base.sample base.cur 0 = some .thread ∧ base.sample base.cur 3 = some .job := by
  refine ⟨⟨rfl, rfl⟩, ?_⟩
  and_intros <;> decide +kernel

/-- The doubleword at the bottom of the local window after an instruction, and the register 3. -/
def atomicResult (i : Instr) (old v : Word) : Option (Nat × Word) :=
  after (exec i ((withRegs [(1, home + 0x100), (3, v)]).localWrite 0 (home + 0x100) 8 old.toNat))
    (fun t => ((t.localRead 0 (home + 0x100) 8).1, ((t.core 0).reg 3).val))
theorem test_amo_add : atomicResult (.amoAdd false 3 1 3 false) 5 7 = some (12, 5) := by decide +kernel
theorem test_amo_min_max :
    atomicResult (.amoMin false 3 1 3 false) 5 0xFFFFFFFFFFFFFFFF = some (0xFFFFFFFFFFFFFFFF, 5)
    ∧ atomicResult (.amoMax false 3 1 3 false) 5 0xFFFFFFFFFFFFFFFF = some (5, 5)
    ∧ atomicResult (.amoMinu false 3 1 3 false) 5 0xFFFFFFFFFFFFFFFF = some (5, 5)
    ∧ atomicResult (.amoMaxu false 3 1 3 false) 5 0xFFFFFFFFFFFFFFFF = some (0xFFFFFFFFFFFFFFFF, 5) := by decide +kernel
theorem test_amo_bits : atomicResult (.amoAnd false 3 1 3 false) 0xC 0xA = some (8, 0xC)
    ∧ atomicResult (.amoOr false 3 1 3 false) 0xC 0xA = some (0xE, 0xC)
    ∧ atomicResult (.amoXchg false 3 1 3 false) 0xC 0xA = some (0xA, 0xC) := by decide +kernel
theorem test_cas : atomicResult (.cas false 3 1 4 3) 0 9 = some (9, 0) ∧ atomicResult (.cas false 3 1 4 3) 5 9 = some (5, 5) := by
  decide +kernel
theorem test_reductions : atomicResult (.redIadd false 1 3 3 false) 5 7 = some (12, 7)
    ∧ atomicResult (.redMin false 1 3 3 false) 5 7 = some (5, 7) ∧ atomicResult (.redMax false 1 3 3 false) 5 7 = some (7, 7)
    ∧ atomicResult (.redFaddOrd false 1 3 3 false) 0x3FF0000000000000 0x3FF0000000000000
      = some (0x4000000000000000, 0x3FF0000000000000)
    ∧ atomicResult (.redFaddFast false 1 3 3 false) 0x3FF0000000000000 0x3FF0000000000000
      = some (0x4000000000000000, 0x3FF0000000000000) := by decide +kernel
theorem test_line_operations : atomicResult (.zero false 3 1 3) 5 7 = some (0, home + 0x140)
    ∧ atomicResult (.discard false 3 1 3) 5 7 = some (0, home + 0x140) ∧ atomicResult (.clean false 3 1 3) 5 7 = some (5, home + 0x140)
    ∧ atomicResult (.inval false 3 1 3) 5 7 = some (5, home + 0x140) := by decide +kernel

/-- Register 1 names an address of the local window, register 4 one outside. -/
def places : State := withRegs [(1, home + 0x100), (4, 0x10000)]
theorem witness_atomic_reduction_line :
    places.plain ∧ places.thr.releases = [] ∧ outWritable places.thr.size 3 = true ∧ places.canUse [1, 3] [3]
    ∧ places.canUse [4, 3] [3] ∧ places.canUse [1, 5, 3] [3] ∧ places.clean [1, 3] ∧ places.clean [4, 3] ∧ places.clean [1, 5, 3]
    ∧ (places.operand [1, 3] 0).toNat % 8 = 0 ∧ 0xFFFFFFFFFFFF0000 ≤ (places.operand [1, 3] 0).toNat
    ∧ (places.operand [4, 3] 0).toNat % 8 = 0 ∧ (places.operand [4, 3] 0).toNat < 0xFFFFFFFFFFFF0000
    ∧ places.sample places.cur 3 = some .job
    ∧ (places.gated.afterReads [1, 3]).releaseDone 0 0 ⟨places.fresh, .job⟩ = true
    ∧ places.canUse [1] [3] ∧ (places.value 1).p = false
    ∧ (∃ f, atomicOf (.amoAdd false 3 1 3 true) = some (0, false, 3, 1, 3, true, f))
    ∧ (∃ f, reductionOf (.redIadd false 1 3 3 true) = some (2, false, 1, 3, 3, true, f))
    ∧ lineOf (.zero false 3 1 3) = some (3, false, 3, 1, 3) := by
  refine ⟨⟨rfl, rfl⟩, ?_⟩
  and_intros <;> first
    | decide +kernel
    | exact ⟨_, rfl⟩
    | (refine clean_values ?_; decide +kernel)

theorem test_scopew_local : after (exec (.scopew false 1 4) (withRegs [(1, home + 0x100)])) (fun t => (t.thr.st, t.thr.outst.length))
    = some (.parked, 1) := by decide +kernel
theorem test_reserve : owed (exec (.reserve false 3 1) (withRegs [(1, 4)])) = some [[.reg 3 0 false]] := by decide +kernel
theorem test_bankmode : after (exec (.bankmode false 3 1 2) (withRegs [(1, 5), (2, 1)])) (fun t =>
    (t.chip 0).breqs.map (fun q => (q.mask, q.mode))) = some [(5, .scratch)] := by decide +kernel
/-- Registers 1 and 2 give a mask of banks and the scratch mode. -/
def banking : State := withRegs [(1, 5), (2, 1)]
theorem witness_scopew_reserve_bankmode :
    places.plain ∧ places.thr.releases = [] ∧ places.clean [1] ∧ places.clean [4] ∧ (places.value 1).v.toNat % 128 = 0
    ∧ (places.value 4).v.toNat % 128 = 0 ∧ (places.gated.afterRead 1).mayScope = true ∧ (places.gated.afterRead 4).mayScope = true
    ∧ (∀ i, i < 16 → ((places.gated.afterRead 1).localRead 0 (home + 0x100 + BitVec.ofNat 64 (8 * i)) 8).2 = false)
    ∧ outWritable places.thr.size 3 = true ∧ banking.plain ∧ outWritable banking.thr.size 3 = true ∧ banking.clean [1, 2]
    ∧ (banking.operand [1, 2] 0).toNat < 2 ^ 32 ∧ (banking.operand [1, 2] 1).toNat < 3 := by
  refine ⟨⟨rfl, rfl⟩, ?_⟩
  and_intros <;> first
    | decide +kernel
    | (refine clean_values ?_; decide +kernel)

theorem test_bufinit : after (exec (.bufinit false 1 2) (withRegs [(1, 0x10000), (2, 0x20010)])) (fun t =>
    t.reqs.map Req.kind) = some [.bufinit 0x20010] := by decide +kernel
theorem test_bufacq : after (exec (.bufacq false 4 1) (withRegs [(1, 0x10001)])) (fun t =>
    (t.reqs.map Req.kind, t.thr.st)) = some ([.bufacq 4 true], .parked) := by decide +kernel
theorem test_bufrel : after (exec (.bufrel false 1 2) (withRegs [(1, 0x10000), (2, 0x10040)])) (fun t =>
    t.reqs.map Req.kind) = some [.bufrel false 0x10040] := by decide +kernel
theorem test_queue_requests :
    after (exec (.qpush false 4 1 2) (withRegs [(1, 0x10000), (2, 5), (4, 6)])) (fun t => t.reqs.map Req.kind)
      = some [.qpush 4 5 6]
    ∧ after (exec (.qpop false 4 1) (withRegs [(1, 0x10000)])) (fun t => t.reqs.map Req.kind) = some [.qpop 4]
    ∧ after (exec (.qsteal false 4 1 2) (withRegs [(1, 0x10000), (2, 5)])) (fun t => t.reqs.map Req.kind) = some [.qsteal 4 5] := by
  decide +kernel

/-- Registers 1 and 2 describe a buffer in memory. -/
def ring : State := withRegs [(1, 0x10000), (2, 0x20010)]
theorem witness_buffer_queue :
    ring.plain ∧ ring.thr.releases = [] ∧ ring.clean [1, 2] ∧ (ring.operand [1, 2] 0).toNat % 64 = 0
    ∧ ring.operand [1, 2] 1 &&& 0xFFFFFFFDFE00F000 = 0 ∧ ((ring.operand [1, 2] 1).extractLsb' 16 9).toNat ≠ 1
    ∧ ((ring.operand [1, 2] 1).extractLsb' 16 9).toNat ≤ 256 ∧ (ring.operand [1, 2] 1).extractLsb' 0 12 ≠ 0
    ∧ ring.clean [1] ∧ ring.group 6 2 ∧ (ring.value 1).v &&& 0x3E = 0 ∧ ring.operand [1, 2] 0 &&& 0x3E = 0
    ∧ (ring.operand [1, 2] 0).getLsbD 0 = false ∧ (ring.gated.afterReads [1, 2]).reqs = []
    ∧ ring.clean [1, 2, 6] ∧ outWritable ring.thr.size 6 = true ∧ (ring.operand [1, 2, 6] 0).toNat % 64 = 0
    ∧ ring.group 6 3 ∧ (ring.value 1).v.toNat % 64 = 0 := by
  refine ⟨⟨rfl, rfl⟩, ?_⟩
  and_intros <;> first
    | decide +kernel
    | (refine clean_values ?_; decide +kernel)

/-- One doubleword from 0x10000 to 0x20000, in context 1 (R256, R257). -/
def copyState : State :=
  let s := withRegs [(8, 0x10000), (9, 0x20000), (10, 1 + 2 ^ 24 + 2 ^ 44), (20, 0x330007)]
  { s.modThread 0 1 (fun _ => { s.thr with priv := false }) with ctx := 1 }
theorem test_copy : after (exec (.copy false 8 20) copyState) (fun t =>
    (t.ops.map (fun o => (o.total, o.tag, o.target, o.seq)), (t.core 0).reserved)) = some ([(1, 7, 1, 0)], 1) := by decide +kernel
theorem witness_copy :
    copyState.plain ∧ copyState.ctx = 1 ∧ copyState.thr.releases = [] ∧ copyState.group 8 6 ∧ copyState.clean (regsFrom 8 6 ++ [20])
    ∧ (copyState.operand (regsFrom 8 6 ++ [20]) 6).toNat < 2 ^ 34
    ∧ ((copyState.operand (regsFrom 8 6 ++ [20]) 6).extractLsb' 20 3).toNat ≤ 5
    ∧ (copyState.operand (regsFrom 8 6 ++ [20]) 6).getLsbD 26 = false ∧ (copyState.operand (regsFrom 8 6 ++ [20]) 6).getLsbD 27 = false
    ∧ (copyState.gated.afterReads (regsFrom 8 6 ++ [20])).scoped ((copyState.operand (regsFrom 8 6 ++ [20]) 6).extractLsb' 16 4)
      ⟨copyState.fresh, .job⟩
    ∧ (copyState.core copyState.cur).mailRoom = true ∧ copyState.copiesOf copyState.cur < 32 := by
  refine ⟨⟨rfl, rfl⟩, ?_⟩
  and_intros <;> first
    | decide +kernel
    | (refine clean_values ?_; decide +kernel)
    | exact .inr (by decide +kernel)

/-- Four doublewords at 0x10000 for stream 0, as an input, and for stream 1, as an output at the whole job (R264). -/
def streamState : State :=
  withRegs [(8, 0x10000), (9, 4 + 2 ^ 24 + 2 ^ 44), (10, 8), (11, 0x30), (12, 0x10000), (13, 4 + 2 ^ 24 + 2 ^ 44), (14, 8), (15, 0xC39)]
theorem test_sbind : after (exec (.sbind false 3 8) streamState) (fun t => ((t.core 0).reg 3).val) = some 0
    ∧ after (exec (.sbind false 3 12) streamState) (fun t => (t.ops.map EngineOp.total, (t.core 0).reserved)) = some ([4], 1) := by
  decide +kernel
theorem witness_sbind :
    streamState.plain ∧ streamState.thr.releases = [] ∧ outWritable streamState.thr.size 3 = true
    ∧ streamState.group 8 4 ∧ streamState.clean (regsFrom 8 4) ∧ streamState.groupReg 8 3 &&& 0xFFFFFFFF0000C200 = 0
    ∧ ((streamState.groupReg 8 3).extractLsb' 4 3).toNat ≤ 4 ∧ (streamState.groupReg 8 3).getLsbD 3 = false
    ∧ 0 < extentTotal (streamState.groupReg 8 1) ∧ (streamState.core streamState.cur).claimedRows 0 = 0
    ∧ streamState.group 12 4 ∧ streamState.clean (regsFrom 12 4) ∧ streamState.groupReg 12 3 &&& 0xFFFFFFFF0000C200 = 0
    ∧ ((streamState.groupReg 12 3).extractLsb' 4 3).toNat < 4 ∧ (streamState.groupReg 12 3).getLsbD 3 = true
    ∧ 0 < extentTotal (streamState.groupReg 12 1) ∧ streamState.gated.scoped ((streamState.groupReg 12 3).extractLsb' 10 4) ⟨streamState.fresh, .job⟩
    ∧ (streamState.core streamState.cur).mailRoom = true ∧ (streamState.core streamState.cur).claimedRows 1 = 0
    ∧ base.group 8 4 ∧ base.clean (regsFrom 8 4) ∧ base.groupReg 8 3 = 0 ∧ extentTotal (base.groupReg 8 1) = 0 := by
  refine ⟨⟨rfl, rfl⟩, ?_⟩
  and_intros <;> first
    | decide +kernel
    | (refine clean_values ?_; decide +kernel)
    | exact .inr (by decide +kernel)

/-- An input of rows of 64 bytes, and one of bytes with one element ready. -/
def rowStream (es : Nat) (v : Nat) : InBind :=
  ⟨⟨0x10000, 64, 1, 1, 64, 0, 0⟩, es, false, false, 0, ⟨0, 0⟩, false, 64, 1, 0, [(v, false)], 0, (0, false), 0, none, 0, false, 0, 0, 0, [], 0⟩
/-- A strip of FP32 bound to entry 1, rows on stream 0 and a skip entry on stream 1: rows 2 to 4 of the block. -/
def matrixState : State :=
  (withRegs [(2, 1), (8, 0), (9, 0x02100001), (16, home), (17, 0x8000100001)]).modCore 0 (fun c =>
    { c with btab := [(1, (0, .fp32))], strm := [(0, .input (rowStream 4 0)), (1, .input (rowStream 0 0x12))] })
theorem test_mloadb_binds : after (exec (.mloadb false 3 8) matrixState) (fun t => ((t.core 0).mxq.length, t.reqs.length))
    = some (1, 0) := by decide +kernel
theorem test_mma : after (exec (.mma false 0 true 0 .fp32 2) matrixState) (fun t => (t.core 0).mxq.map MxEntry.kind)
    = some [.mma 0 true 0 .fp32 1 32] := by decide +kernel
theorem test_mmas : after (exec (.mmas false 0 true 0 1 .fp32 2) matrixState) (fun t => (t.core 0).mxq.map MxEntry.kind)
    = some [.mmas 0 true 0 .fp32 1 12 2 3 false] := by decide +kernel
theorem test_mread : after (exec (.mread false 1 0 .f32 40) matrixState) (fun t => (t.core 0).mxq.map MxEntry.kind)
    = some [.mread 1 0 .f32 0 0 false] := by decide +kernel

theorem witness_matrix_queue :
    matrixState.plain ∧ matrixState.thr.releases = [] ∧ matrixState.group 8 3 ∧ outWritable matrixState.thr.size 3 = true
    ∧ matrixState.clean (regsFrom 8 3) ∧ (matrixState.core matrixState.cur).mxq.length < Config.matrixQueueEntries
    ∧ mloadOk 0 (matrixState.groupReg 8 1) = true ∧ (matrixState.groupReg 8 1).getLsbD 25 = true
    ∧ mloadAligned (matrixState.groupReg 8 0) (matrixState.groupReg 8 1) (matrixState.groupReg 8 2) = true
    ∧ matrixState.group 16 3 ∧ matrixState.clean (regsFrom 16 3)
    ∧ mloadOk 0 (matrixState.groupReg 16 1) = true ∧ (matrixState.groupReg 16 1).getLsbD 25 = false
    ∧ mloadAligned (matrixState.groupReg 16 0) (matrixState.groupReg 16 1) (matrixState.groupReg 16 2) = true
    ∧ (mloadAddrs home (matrixState.groupReg 16 1) 0).all (fun x => decide (0xFFFFFFFFFFFF0000 ≤ x.toNat)) = true
    ∧ ((mloadAddrs 0 (matrixState.groupReg 16 1) 0).headD home).toNat < 0xFFFFFFFFFFFF0000
    ∧ matrixState.clean [2] ∧ (matrixState.afterRead 2).tileReady 0 true .fp32 (matrixState.value 2).v
    ∧ ((matrixState.afterRead 2).core 0).binding 0 = .input (rowStream 4 0)
    ∧ (rowStream 4 0).es = 4 ∧ blockRows .fp32 8 ≤ (rowStream 4 0).unclaimed
    ∧ ((matrixState.afterRead 2).core 0).isByteBinding 1 = true ∧ (matrixState.afterRead 2).clean [0xA9]
    ∧ ((matrixState.afterRead 2).value 0xA9).v = 0x12
    ∧ matrixState.canUseVectors [] [1] [40] [] ∧ (matrixState.value 40).v = 0
    ∧ (matrixState.core 0).futureClass 0 ≠ .fp64 := by
  refine ⟨⟨rfl, rfl⟩, ?_⟩
  and_intros <;> first
    | decide +kernel
    | exact ⟨0, .fp32, by decide +kernel, by decide +kernel⟩
    | (refine clean_values ?_; decide +kernel)

theorem test_break_trap : fault (.brk false) base = some 0x09 ∧ fault (.trap false 1) base = some 0x0A := by decide +kernel
theorem test_idle : after (exec (.idle false) base) (fun t => (t.thr.st, t.thr.pc)) = some (.idling, home)
    ∧ after (exec (.idle false) (withThread (fun t => { t with wake := true }))) (fun t => (t.thr.st, t.thr.wake, t.thr.pc))
      = some (.runnable, false, home + 4) := by decide +kernel
theorem test_nop : goes (.nop false) base = some (home + 4) := by decide +kernel
theorem witness_break_trap_idle :
    base.plain ∧ base.clean [1] ∧ base.thr.wake = false ∧ base.thr.barge = false
    ∧ (withThread (fun t => { t with barge := true })).thr.barge = true
    ∧ (withThread (fun t => { t with barge := true })).unjoined 0 0 = false
    ∧ (withThread (fun t => { t with barge := true })).thr.outst = []
    ∧ (withThread (fun t => { t with wake := true })).plain ∧ (withThread (fun t => { t with wake := true })).thr.wake = true := by
  refine ⟨⟨rfl, rfl⟩, ?_⟩
  and_intros <;> first
    | decide +kernel
    | (refine clean_values ?_; decide +kernel)

theorem test_rdctl : after (exec (.rdctl false 3 3) base) (fun t => ((t.core 0).reg 3).val) = some 128
    ∧ after (exec (.rdctl false 3 2) base) (fun t => ((t.core 0).reg 3).val) = some 0x100000 := by decide +kernel
theorem test_wrctl : after (exec (.wrctl false 0 1) (withRegs [(1, 7)])) (fun t => t.thr.rm) = some 3
    ∧ fault (.wrctl false 10 1) base = some 0x02 := by decide +kernel
theorem witness_control_register :
    base.plain ∧ base.canUse [] [3] ∧ base.thr.priv = true ∧ writable base.thr.size 3 = true ∧ base.clean [1] ∧ base.ctx = 0 ∧ guarded 9 = true ∧ guarded 0 = false := by
  refine ⟨⟨rfl, rfl⟩, ?_⟩
  and_intros <;> first
    | decide +kernel
    | (refine clean_values ?_; decide +kernel)

/-! ### Events of threads, messages, ports and barges -/

/-- `base` with core 0 changed. -/
def withCore (f : Core → Core) : State := base.modCore 0 f
/-- A result that can be written. -/
def ready : State := withThread (fun t => { t with outst := [⟨1, .load, [.reg 3 9 false], 0x10, true⟩] })
/-- A thread that waits for its results, and has none. -/
def waiting : State := withThread (fun t => { t with st := .parked, park := some .outstanding })
def idleThread : State := withThread (fun t => { t with st := .idling, wake := true })
/-- A vector result in the core's queue. -/
def granted : State :=
  (withThread (fun t => { t with outst := [⟨1, .other, [.reg 3 9 false], 0, false⟩] })).modCore 0 (fun c => { c with vq := [⟨0, 1⟩] })

theorem test_result_write : after (exec (.outstandingResultWrite 0 0 0 0 0) ready) (fun t =>
    (((t.core 0).reg 3).val, t.thr.outst.length, t.thr.flags)) = some (9, 0, 0x10) := by decide +kernel
theorem test_unpark : after (exec (.parkConditionHolds 0 0) waiting) (fun t => t.thr.st) = some .runnable
    ∧ after (exec (.parkConditionHolds 0 0) idleThread) (fun t => (t.thr.st, t.thr.wake, t.thr.pc)) = some (.runnable, false, home + 4) := by
  decide +kernel
theorem test_vector_grant : after (exec (.vectorGrant 0 0) granted) (fun t =>
    ((t.core 0).vq.length, t.thr.outst.map Outst.ready)) = some (0, [true]) := by decide +kernel
/-- A BAR result that is ready for a thread that has halted: it is written when the thread goes on (R271). -/
def keptBack : State := withThread (fun t => { t with st := .halted, outst := [⟨1, .bar, [.reg 3 9 false], 0, true⟩] })
theorem test_result_kept_back : (after (exec (.outstandingResultWrite 0 0 0 0 0) keptBack) (fun t => t.cur)) = none
    ∧ (keptBack.thread 0 0).outst = [] ++ ⟨1, .bar, [] ++ Piece.reg 3 9 false :: [], 0, true⟩ :: []
    ∧ (keptBack.thread 0 0).st = .halted := by decide +kernel
theorem witness_thread_events :
    (ready.thread 0 0).outst = [] ++ ⟨1, .load, [] ++ Piece.reg 3 9 false :: [], 0x10, true⟩ :: []
    ∧ (ready.thread 0 0).st ≠ .halted
    ∧ (waiting.thread 0 0).st = .parked ∧ (waiting.thread 0 0).park = some .outstanding ∧ waiting.parkHolds 0 0 .outstanding = true
    ∧ (idleThread.thread 0 0).st = .idling ∧ (idleThread.thread 0 0).wake = true ∧ (idleThread.core 0).ended = false
    ∧ (granted.vecOrder 0 0).find? (fun m => !(granted.core m).vq.isEmpty) = some 0 ∧ (granted.core 0).vq = [⟨0, 1⟩] := by
  and_intros <;> decide +kernel

/-- A SEND from core 1 to register 5 of context 0, to its mailbox, or to context 3 (R159). -/
def note (desc : Word) : SendMsg := ⟨desc, 0xABC, 1, 0, false, ⟨0, 0⟩, 0, 0, none, none⟩
def sent (desc : Word) : State := withCore (fun c => { c with inbox := [.send (note desc)] })
def pairedNote : SendMsg := { note 0x6000 with twin := some (9, 0) }
def refusals : State := withCore (fun c => { c with waitRefuse := [letter], waitNotice := [letter], waitSend := [letter] })

theorem test_send_arrives : after (exec (.sendArrival 0) (sent 0x280000)) (fun t => (((t.core 0).reg 5).val, t.thr.wake))
    = some (0xABC, true)
    ∧ after (exec (.sendArrival 0) (sent 0x4000000)) (fun t => (t.core 0).waitSend.map Mail.payload) = some [0xABC]
    ∧ after (exec (.sendArrival 0) (sent 0x6000)) (fun t => (t.core 1).waitRefuse.map Mail.kind) = some [3] := by decide +kernel
theorem test_mail_deliveries :
    after (exec (.refusalDelivery 0) refusals) (fun t => ((t.core 0).mail.length, t.thr.wake)) = some (1, true)
    ∧ after (exec (.noticeDelivery 0) refusals) (fun t => ((t.core 0).mail.length, t.thr.wake)) = some (1, true)
    ∧ after (exec (.mailboxMessageArrival 0) refusals) (fun t => ((t.core 0).mail.length, t.thr.wake)) = some (1, true) := by
  decide +kernel
theorem witness_message_events :
    ((sent 0x280000).core 0).inbox = .send (note 0x280000) :: [] ∧ (sent 0x280000).sendReaches 0 (note 0x280000)
    ∧ (note 0x280000).desc.getLsbD 26 = false ∧ (note 0x4000000).desc.getLsbD 26 = true
    ∧ (sent 0x4000000).sendReaches 0 (note 0x4000000) ∧ ((sent 0x6000).thread 0 3).st = .free
    ∧ (refusals.core 0).waitRefuse = [letter] ∧ (note 0x6000).twin = none
    ∧ ((withCore (fun c => { c with inbox := [.send pairedNote] })).core 0).inbox = [.send pairedNote]
    ∧ pairedNote.twin = some (9, 0) ∧ pairedNote.core ≠ 9 ∧ (sent 0x6000).partOfCore 1 = (sent 0x6000).partOfCore 0
    ∧ (refusals.core 0).mail.length + (refusals.core 0).reserved < Config.mailboxEntries := by
  and_intros <;> first
    | decide +kernel
    | exact .inl rfl
    | exact fun h => absurd h (by decide +kernel)
    | exact .inl (by decide +kernel)

/-- A word on its way north, and a core whose northern partner is sealed. -/
def wordFlying : State := withCore (fun c => { c with flying := [(portKey .pn, [⟨7, false⟩])] })
def aBarge : Barge := ⟨1, 2, 0, 0, home + 8, 3, 0, 0, 0, [1, 2]⟩
/-- Core 0 with a barge context 2, a barge in its queue or before it. -/
def bargeCore (wait q : List Barge) : State :=
  (base.modThread 0 2 (fun t => { t with st := .empty, bargeCtx := true, base := 128, size := 24 })).modCore 0 (fun c =>
    { c with bargeWait := wait, bargeq := q })
def bargeDone : State := base.modThread 0 2 (fun t =>
  { t with st := .idling, bargeCtx := true, barge := true, base := 128, size := 24 })

theorem test_port_word : after (exec (.portWordArrival 0 .pn) wordFlying) (fun t => ((t.core 0).fifo .pn).map PortWord.val)
    = some [7] := by decide +kernel
theorem test_barge_arrives :
    after (exec (.bargeArrival 0) (bargeCore [aBarge] [])) (fun t => ((t.core 0).bargeWait.length, (t.core 0).bargeq.length))
      = some (0, 1)
    ∧ after (exec (.bargeTake 0 2) (bargeCore [] [aBarge])) (fun t =>
      ((t.thread 0 2).st, (t.thread 0 2).pc, ((t.core 0).reg 129).val, (t.thread 0 2).barge)) = some (.runnable, home + 8, 2, true) := by
  decide +kernel
theorem test_barge_ends : after (exec (.bargeEnd 0 2) bargeDone) (fun t => ((t.thread 0 2).st, (t.thread 0 2).bargeCtx))
    = some (.empty, true) := by decide +kernel
theorem test_barge_held : after (exec (.bargeHold 0) (withCore (fun c => { c with bargeWait := [aBarge] }))) (fun t =>
    ((t.part 0).holdBarges.length, (t.part 0).recs.map FaultRec.code)) = some (1, [0x0D]) := by decide +kernel

/-- Cores 0 and 1 linked, with the partner sealed. -/
def sealedPartner : State :=
  let s := (List.range 5).foldl (fun (s : State) k => s.modCore 1 (fun c =>
    { c with links := Tab.set c.links (0xA1 + k) 0, sealed := true, region := 1 })) base
  s.modCore 0 (fun c => { c with links := (List.range 5).map (fun k => (0xA1 + k, 1)), region := 1 })
theorem witness_port_barge_events :
    (wordFlying.core 0).inFlight .pn = [⟨7, false⟩] ∧ (wordFlying.core 0).sealed = false
    ∧ sealedPartner.inPartner 0 .pn = some 1 ∧ (sealedPartner.core 1).sealed = true ∧ (sealedPartner.core 0).inFlight .pn = []
    ∧ 0 < (sealedPartner.core 0).room .pn
    ∧ ((bargeCore [aBarge] []).core 0).bargeWait = [aBarge] ∧ ((bargeCore [aBarge] []).core 0).bargeRoom = true
    ∧ base.partOfCore 0 = some 0 ∧ (base.part 0).freeHold = some 0 ∧ (base.core 0).inRepart = false ∧ (base.core 0).hasBarge = false
    ∧ ((bargeCore [] [aBarge]).thread 0 2).st = .empty ∧ ((bargeCore [] [aBarge]).thread 0 2).bargeCtx = true
    ∧ (bargeDone.thread 0 2).st = .idling ∧ (bargeDone.thread 0 2).barge = true ∧ (bargeDone.thread 0 2).outst = []
    ∧ (bargeDone.thread 0 2).wake = false ∧ bargeDone.unjoined 0 2 = false := by
  and_intros <;> decide +kernel

/-! ### Events of memory -/

/-- A page at 0x10000 that lies at a physical address, and a core that holds its translation. -/
def leafAt (pa : Nat) (c ub : Bool) : Leaf := ⟨0, c, c, pa / 65536, 0, ub, true, true, true, true, 3⟩
def mapped (l : Leaf) : State := withCore (fun c => { c with tlb := [⟨⟨0, 0⟩, 1, l, []⟩] })
def request (id : Nat) (k : ReqKind) (lanes : List Lane) (out : Option Nat) : Req :=
  ⟨id, 0, 0, k, lanes, 0, ⟨0, 0⟩, false, home, .job, 3, out, false, false, [], lanes.map (fun _ => none), none, none⟩
def lane0 : Lane := Lane.start 0 0x10008 8 0x1234
/-- A request of context 0 in flight, with its outstanding result. -/
def asking (l : Leaf) (k : ReqKind) (lane : Lane) : State :=
  let s := (mapped l).modThr (fun t => { t with outst := [⟨7, .load, [.reg 3 0 false], 0, false⟩] })
  { s with reqs := [request 8 k [lane] (some 7)], fresh := 9 }
def hbmLeaf : Leaf := leafAt 0x1000000 true false
def localLeaf : Leaf := leafAt localBase false false
def basinLeaf : Leaf := leafAt (basinPa 0 3 0) false false
def inScratch (s : State) : State := s.modChip 0 (fun c => { c with banks := [(3, { Bank.clear with mode := .scratch })] })

theorem test_memory_access_hbm :
    after (exec (.memoryAccess 8 0 true none) (asking hbmLeaf .store lane0)) (fun t =>
      (((t.cohSector (0x1000000 / 16)).read ⟨0, 0⟩ 8 8).1, t.reqs.length)) = some (0x1234, 0) := by decide +kernel
theorem test_memory_access_local :
    after (exec (.memoryAccess 8 0 false none) (asking localLeaf (.load 3 true) lane0)) (fun t =>
      (t.thr.outst.map Outst.ready, t.reqs.length)) = some ([true], 0) := by decide +kernel
theorem test_bank_access : after (exec (.bankAccess 8 0) (inScratch (asking basinLeaf .store lane0))) (fun t =>
    (t.physRead ⟨0, 0⟩ (basinPa 0 3 8) 8, t.thr.unacked.length)) = some (0x1234, 1) := by decide +kernel
/-- No translation: the load's fault arrives after issue (R118). -/
def unmapped : State := { base with reqs := [request 8 (.load 3 true) [lane0] none] }
theorem test_late_fault : after (exec (.memoryAccess 8 0 true none) unmapped) (fun t =>
    (t.thr.st, t.thr.late, t.thr.hcode)) = some (.halted, true, 0x16) := by decide +kernel
def acking : State := withThread (fun t => { t with unacked := [⟨5, 0⟩] })
theorem test_acknowledgement : after (exec (.acknowledgement 0 0 0) acking) (fun t => t.thr.unacked.length) = some 0 := by
  decide +kernel
/-- Tables at 0, 0x20000, 0x40000 and 0x60000 that map page 1. -/
def tables : State :=
  ((((base.hbmWrite ⟨0, 0⟩ 0 0x20001).hbmWrite ⟨0, 0⟩ 0x20000 0x40001).hbmWrite ⟨0, 0⟩ 0x40000 0x60001).hbmWrite ⟨0, 0⟩ 0x60008
    0x00300000010000F2)
theorem test_page_walk : after (exec (.pageWalk 0 0 0x10000) tables) (fun t =>
    (t.core 0).tlb.map (fun e => (e.page, e.leaf.frame, e.leaf.hp, e.leaf.c))) = some [(1, 0x100, true, true)] := by decide +kernel
def cachedLine : State := withCore (fun c => { c with l1 := [(40, ⟨5, false, ⟨0, 0⟩, false, true, none, 0xFFFF, 0⟩)] })
theorem test_l1_eviction : after (exec (.l1Eviction 0 10) cachedLine) (fun t => (t.core 0).l1.length) = some 0 := by decide +kernel
def oldHome : State := { asking hbmLeaf .store lane0 with reqs := [{ request 8 .store [lane0] (some 7) with homes := [some 5] }] }
theorem test_rehome : after (exec (.rehome ⟨8, 0⟩) oldHome) (fun t => t.reqs.map Req.homes) = some [[some 0]] := by decide +kernel
def oldSector : State := { base with l2 := [(40, ⟨5, false, ⟨0, 0⟩, false, 9, some 0, 0⟩)] }
theorem test_line_release : after (exec (.lineRelease 10) oldSector) (fun t => t.l2.length) = some 0 := by decide +kernel

theorem witness_access_events :
    (asking hbmLeaf .store lane0).laneReady 8 0 (request 8 .store [lane0] (some 7)) lane0 hbmLeaf 0x1000008
    ∧ ((asking hbmLeaf .store lane0).reach true hbmLeaf 0x1000008 none).isSome = true
    ∧ (inScratch (asking basinLeaf .store lane0)).laneReady 8 0 (request 8 .store [lane0] (some 7)) lane0 basinLeaf (basinPa 0 3 8)
    ∧ ((inScratch (asking basinLeaf .store lane0)).bankOf (basinPa 0 3 8)).waits = false
    ∧ (asking localLeaf (.load 3 true) lane0).laneReady 8 0 (request 8 (.load 3 true) [lane0] (some 7)) lane0 localLeaf (localPa 0 8)
    ∧ (asking localLeaf .store lane0).laneReady 8 0 (request 8 .store [lane0] (some 7)) lane0 localLeaf (localPa 0 8)
    ∧ paKind (localPa 0 8) = .coreLocal ∧ (unmapped.firstFault (request 8 (.load 3 true) [lane0] none)).isSome = true
    ∧ unmapped.goes (request 8 (.load 3 true) [lane0] none) = true ∧ 0 < (acking.thread 0 0).unacked.length
    ∧ tables.walk 0 0x10000 4 0 0 [] = .ok (hbmLeaf, [0, 0x20000, 0x40000, 0x60008])
    ∧ Leaf.check { hbmLeaf with us := true, rd := true } 0x10000 .load true = none
    ∧ (∃ k ∈ lineSectors 10, Tab.find (cachedLine.core 0).l1 k ≠ none)
    ∧ oldHome.homeOf hbmLeaf 0x1000008 ≠ 5
    ∧ oldHome.rehomesBefore { request 8 .store [lane0] (some 7) with homes := [some 5] } 0x1000008 = false
    ∧ oldSector.movedSectors 10 ≠ [] := by
  and_intros <;> decide +kernel

/-- A request of core 2, which is no lock-keeper. -/
def askingOf (n : Nat) (l : Leaf) (k : ReqKind) (sc : Scope) : State :=
  let s := base.modCore n (fun c => { c with tlb := [⟨⟨0, 0⟩, 1, l, []⟩] })
  { s with reqs := [{ request 8 k [lane0] (some 7) with core := n, scope := sc }], fresh := 9 }
/-- A scope entry over chiplet 0 with a reduction window of one line at 0x10000 (R238). -/
def scope4 : ScopeEntry := ⟨1, 3, true, true, true, true, 0xFF, 0x10000, 1⟩
def aKey : SetKey := ⟨⟨0, 0⟩, 0, 0, 4, 3, 1⟩
def aSet : RedSet := ⟨aKey, [2], [2], [⟨2, 0, 8, 0x1000008, some 0, 2, 5, ⟨0, 0⟩⟩], 0⟩
def lineNo : Nat := ubBase / 64
def ubLeaf : Leaf := leafAt ubBase true true
/-- An unbacked line in a state, at a home. -/
def ubState (st : UbState) (h : Nat) : State := { base with ub := [(lineNo, ⟨st, h, ⟨0, 0⟩, some 0, 0⟩)] }

theorem test_atomic_perform :
    after (exec (.atomicPerform 8) (asking localLeaf (.amo 0 3 5) lane0)) (fun t =>
      (t.physRead ⟨0, 0⟩ (localPa 0 8) 8, t.thr.outst.map Outst.pieces)) = some (5, [[.reg 3 0 false]])
    ∧ after (exec (.atomicPerform 8) (asking hbmLeaf (.cas 3 0 9) lane0)) (fun t =>
      ((t.cohSector (0x1000000 / 16)).read ⟨0, 0⟩ 8 8).1) = some 9 := by decide +kernel
theorem test_line_zero : after (exec (.lineopPerform 8) (asking localLeaf (.lineop 3) lane0)) (fun t =>
    (t.reqs.length, t.physRead ⟨0, 0⟩ (localPa 0 8) 8)) = some (0, 0) := by decide +kernel
theorem test_contribution_and_merge :
    after (exec (.redContribution 8) (askingOf 2 hbmLeaf (.red 2 5 true (some aKey)) (.entry 4 scope4))) (fun t =>
      t.redsets.map (fun q => (q.key.number, q.contribs.map Contribution.val))) = some [(1, [5])]
    ∧ after (exec (.reductionSetComplete 0 []) { base with redsets := [aSet] }) (fun t =>
      (t.redsets.length, ((t.cohSector (0x1000000 / 16)).read ⟨0, 0⟩ 8 8).1)) = some (0, 5) := by decide +kernel
theorem test_unbacked_lines :
    after (exec (.heldLineResolve lineNo .taken) (ubState .held 0)) (fun t => t.ub.map (fun e => e.2.st)) = some [.resident]
    ∧ after (exec (.heldLineResolve lineNo (.lateSlot 0x1000)) (ubState .held 0)) (fun t => t.ub.map (fun e => e.2.st))
      = some [.spilled 0x1000]
    ∧ after (exec (.unbackedLineMove lineNo) (ubState .resident 9)) (fun t => t.ub.map (fun e => e.2.home)) = some [0] := by
  decide +kernel

/-- A region of core 2 alone, with an empty block at 0x10000 (R175). -/
def aRegion : Region where
  part := 0
  slot := 0
  root := ⟨0, 0⟩
  block := 0x10000
  vahi := 0
  chain := []
  f := { prio := 0, fdom := 0, mxshare := 0, nctx := 8, link := 0, place := false, paired := false, vahi := 0, stragn := 0, gx := 1,
         gy := 1, cores := 16, basin := 0, unbk := 0, straglag := 0, scopetab := 0, entry := home, arg := 0x77, latepool := 0,
         save := 0, ckdir := 0, ckoff := 0, cksize := 0 }
  signal := 0
  st := .running
  packet := none
  argovr := 0
  tasks := [2]
  copy := []
  reserved := 1
  grade := 0
  lasting := []
  forwarded := false
  mismatch := false
  pool := none
  order := 0
  rank := 0
  since := 0
  waited := 0
  saved := []
  savedReqs := []

/-- A slice filled by slot 1 beyond its quota, and a write of slot 0 to a new line. -/
def crowded : State :=
  let s := asking ubLeaf .store lane0
  { s with regions := [(1, aRegion)], ub := (List.range 4).map (fun i => (lineNo + 10 + i, ⟨.resident, 0, ⟨1, 0⟩, some 0, i⟩)),
           slots := [(0, { KeySlot.clear with root := some ⟨0, 0⟩ }), (1, { KeySlot.clear with root := some ⟨0, 1⟩ })] }

theorem witness_atomic_line_events :
    (asking hbmLeaf (.amo 0 3 5) lane0).oneReady 8 (request 8 (.amo 0 3 5) [lane0] (some 7)) lane0 hbmLeaf 0x1000008
    ∧ (asking hbmLeaf (.amo 0 3 5) lane0).inWindow (request 8 (.amo 0 3 5) [lane0] (some 7)) lane0 = false
    ∧ ((asking hbmLeaf (.amo 0 3 5) lane0).reach true hbmLeaf 0x1000008 none).isSome = true
    ∧ (asking localLeaf (.amo 0 3 5) lane0).oneReady 8 (request 8 (.amo 0 3 5) [lane0] (some 7)) lane0 localLeaf (localPa 0 8)
    ∧ (asking localLeaf (.lineop 3) lane0).oneReady 8 (request 8 (.lineop 3) [lane0] (some 7)) lane0 localLeaf (localPa 0 8)
    ∧ (let s := askingOf 2 hbmLeaf (.red 2 5 true (some aKey)) (.entry 4 scope4)
       let r := { request 8 (.red 2 5 true (some aKey)) [lane0] (some 7) with core := 2, scope := .entry 4 scope4 }
       s.single 8 = some (r, lane0) ∧ s.firstFault r = none ∧ s.target r lane0 = .ok (hbmLeaf, 0x1000008)
         ∧ s.inOrder (fun q => !q.kind.joins) r 0 lane0 hbmLeaf 0x1000008 = true ∧ s.joined 8 = false)
    ∧ (∀ m ∈ aSet.members, m ∈ aSet.closed) ∧ aSet.before aKey = false
    ∧ (let s := { base with redsets := [aSet] }
       ∀ c ∈ aSet.contribs, s.contribReady aSet c = true ∧ s.contribRoom c = true)
    ∧ Tab.find (ubState .held 0).ub lineNo = some ⟨.held, 0, ⟨0, 0⟩, some 0, 0⟩ ∧ (ubState .held 0).lateSlot 0 lineNo = none
    ∧ (ubState .held 0).freePlace 0 ≠ none ∧ (ubState .resident 9).freePlace 0 ≠ none ∧ (ubState .held 9).holdRoom 0 = true
    ∧ paKind 0x1000 = .hbm ∧ (ubState .resident 9).homeAt (some 0) 0 (64 * lineNo) ≠ 9 := by
  and_intros <;> first
    | decide +kernel
    | exact fun h => absurd h (by decide +kernel)

/-- A SCOPEW, a RESERVE and a barrier's arrivals. -/
def scopeImage : List Word := [0, 0, 0, 0, 0, 0, 0, 0, 0, 0, 0, 0, 0, 0, 0, 0]
def keeperQueues : State :=
  (owing.modPart 0 (fun p =>
    { p with scopeq := [.scopew 0x10000 0 ⟨0, 0⟩ 4 scopeImage 0 0 1 home 0], resq := [.reserve 0 0 1 5] })).modCore 0 (fun c =>
      { c with tlb := [⟨⟨0, 0⟩, 1, hbmLeaf, []⟩] })
def badScope : State := owing.modPart 0 (fun p => { p with scopeq := [.scopew 1 0 ⟨0, 0⟩ 4 scopeImage 0 0 1 home 0] })
def installing : State := withCore (fun c => { c with installs := [(4, scope4)] })
def answering : State := owing.modPart 0 (fun p => { p with scopeWork := some ⟨0, 0, 1, []⟩ })
def arrival (members : Nat) : BarMsg := ⟨0, 0, 0x100, BitVec.ofNat 64 (2 ^ 22 * (members - 1)), 0, ⟨0, 0⟩, false, 1, home⟩
def barUnitOf (members : Nat) (complete : Bool) : BarUnit :=
  ⟨0x100, 0, ⟨0, 0⟩, false, members, 0, 4, if complete then 0 else 1, 0, 0, [(0, ⟨0, 0, 1, home, 0, 0, false, 0⟩), (1, ⟨0, 0, 1, home, 0, 0, true, 0⟩)], 0, 0, complete⟩
/-- Unit 0 of core 0 with one arrival of so many, and one more on its way. -/
def barrier (obj : Word) (members : Nat) : State :=
  owing.modCore 0 (fun c => { c with barq := [{ arrival members with a0 := obj }], units := [(0, barUnitOf members false)] })

theorem test_scope_install : after (exec (.scopeInstall 0) installing) (fun t => Tab.find (t.core 0).scopes 4) = some (some scope4) := by
  decide +kernel
theorem test_scopew_rejected : after (exec (.scopewHandle 0) badScope) (fun t => (t.thr.st, t.thr.hcode)) = some (.halted, 0x13) := by
  decide +kernel
theorem test_scopew_answer : after (exec (.scopewAnswer 0) answering) (fun t => t.thr.outst.length) = some 0 := by decide +kernel
theorem test_reserve_answer : after (exec (.reserveRequest 0) keeperQueues) (fun t =>
    t.thr.outst.map Outst.pieces) = some [[.reg 3 0x100000000 false]] := by decide +kernel
theorem test_barrier_counts : after (exec (.barrierArrival 0) (barrier 0x100 3)) (fun t =>
    (t.core 0).units.map (fun u => (u.2.arrived, u.2.complete))) = some [(2, false)]
    ∧ after (exec (.barrierArrival 0) (barrier 0x200 3)) (fun t => t.thr.hcode) = some 0x11 := by decide +kernel
def switching : State := base.modChip 0 (fun c => { c with
  breqs := [⟨0, 0, 1, 8, .scratch, 0, some (8, [3])⟩], banks := [(3, { Bank.clear with moveTo := some .scratch })] })
theorem test_bank_switch : after (exec (.bankSwitchComplete 0 3) switching) (fun t =>
    (((t.chip 0).bank 3).mode, (t.chip 0).breqs.length)) = some (.scratch, 0) := by decide +kernel
theorem test_bank_failure : after (exec (.bankFailure 0 3) base) (fun t => ((t.chip 0).bank 3).failed) = some true := by
  decide +kernel
def bankAsk (mask : BitVec 32) : BankReq := ⟨0, 0, 1, mask, .scratch, 0, none⟩
def bankAsking (mask : BitVec 32) : State := base.modChip 0 (fun c => { c with breqs := [bankAsk mask] })

theorem witness_sync_events :
    (keeperQueues.part 0).scopeq = .scopew 0x10000 0 ⟨0, 0⟩ 4 scopeImage 0 0 1 home 0 :: [] ∧ (keeperQueues.part 0).scopeWork = none
    ∧ (let u := keeperQueues.modPart 0 (fun q => { q with scopeq := [] })
       u.imageOk 0 (u.jobView 0 ⟨0, 0⟩ 0) 0x10000 scopeImage = true)
    ∧ (let u := badScope.modPart 0 (fun q => { q with scopeq := [] })
       u.imageOk 0 (u.jobView 0 ⟨0, 0⟩ 0) 1 scopeImage = false)
    ∧ (badScope.thread 0 0).st = .runnable ∧ (∃ o ∈ (badScope.thread 0 0).outst, o.id = 1)
    ∧ (installing.core 0).installs = (4, scope4) :: [] ∧ (answering.part 0).scopeWork = some ⟨0, 0, 1, []⟩
    ∧ (keeperQueues.part 0).resq = .reserve 0 0 1 5 :: [] ∧ (barrier 0x100 3).nextArrival 0 = some (arrival 3)
    ∧ (barUnitOf 3 false).matches_ (arrival 3) = true ∧ (barUnitOf 3 false).arrived + 1 < 3 ∧ (barUnitOf 2 false).matches_ (arrival 2) = true
    ∧ (barUnitOf 2 false).arrived + 1 = 2 ∧ (barUnitOf 3 false).matches_ { arrival 3 with a0 := 0x200 } = false := by
  and_intros <;> decide +kernel

theorem witness_sync_more :
    Tab.find ((owing.modCore 0 (fun c => { c with units := [(0, barUnitOf 2 true)] })).core 0).units 0 = some (barUnitOf 2 true)
    ∧ (barUnitOf 2 true).complete = true
    ∧ ((bankAsking 0).chip 0).breqs = [bankAsk 0] ∧ (bankAsk 0).moving = none ∧ (bankAsking 0).bankAccessBefore 0 (bankAsk 0) = false
    ∧ (bankAsking 8).bankStatus 0 (bankAsk 8) = 0 ∧ (bankAsk 8).mask.getLsbD 3 = true ∧ (((bankAsking 8).chip 0).bank 3).mode ≠ .scratch
    ∧ (bankAsking 0xFFFFFFFF).bankStatus 0 (bankAsk 0xFFFFFFFF) ≠ 0 ∧ (bankAsking 0xFFFFFFFF).bankAccessBefore 0 (bankAsk 0xFFFFFFFF) = false
    ∧ (switching.chip 0).breqs = ⟨0, 0, 1, 8, .scratch, 0, some (8, [3])⟩ :: [] ∧ ((switching.chip 0).bank 3).moveTo = some .scratch
    ∧ (switching.vacateBank 0 3).isSome = true
    ∧ (∀ b ∈ [3], b = 3) := by
  and_intros <;> decide +kernel

theorem witness_unbacked_resume :
    crowded.laneReady 8 0 (request 8 .store [lane0] (some 7)) lane0 ubLeaf (ubBase + 8)
    ∧ Tab.find crowded.ub ((ubBase + 8) / 64) = none ∧ (crowded.chooseUb (crowded.homeOf ubLeaf (ubBase + 8)) 0).isSome = true := by
  and_intros <;> decide +kernel

/-! ### Queues, buffers, copies and streams -/

/-- A queue of four records at 0x10000 with head, tail and the state of record 0 (R275, R276). -/
def queueState (k : ReqKind) (headTail st : Word) : State :=
  let s := asking (leafAt 0x1000000 false false) k (Lane.start 0 0x10000 8 0)
  (((s.hbmWrite ⟨0, 0⟩ 0x1000000 headTail).hbmWrite ⟨0, 0⟩ 0x1000010 0x200).hbmWrite ⟨0, 0⟩ 0x1000050 st).hbmWrite ⟨0, 0⟩ 0x1000040 0xAB

theorem test_queue_push :
    after (exec (.qpushCommand 8) (queueState (.qpush 3 5 6) 0 0)) (fun t =>
      (t.thr.outst.map Outst.pieces, t.hbmRead ⟨0, 0⟩ 0x1000000, t.hbmRead ⟨0, 0⟩ 0x1000040)) = some ([[.reg 3 0 false]], 1, 5)
    ∧ after (exec (.qpushCommand 8) (queueState (.qpush 3 5 6) 4 1)) (fun t => t.thr.outst.map Outst.pieces)
      = some [[.reg 3 2 false]] := by decide +kernel
theorem test_queue_pop :
    after (exec (.qpopCommand 8) (queueState (.qpop 3) 1 1)) (fun t => t.thr.outst.map Outst.pieces)
      = some [[.reg 3 0 false, .reg 4 0xAB false, .reg 5 0 false]]
    ∧ after (exec (.qpopCommand 8) (queueState (.qpop 3) 0 0)) (fun t => t.thr.outst.map Outst.pieces)
      = some [[.reg 3 1 false, .reg 4 0 false, .reg 5 0 false]] := by decide +kernel
theorem test_queue_steal : after (exec (.qstealCommand 8) (queueState (.qsteal 3 0) 1 1)) (fun t => t.thr.outst.map Outst.pieces)
    = some [[.reg 3 0 false, .reg 4 0xAB false, .reg 5 0 false]] := by decide +kernel

/-- A bank in FIFO mode with a buffer of two slots of one line, and a request at it (R268 to R272). -/
def twoSlots (a b : SlotState) (waitC waitP : List Nat) (pk : Bool) : CBuf :=
  ⟨0, 1, 2, pk, 0, 0, 0, [⟨a, 0, false⟩, ⟨b, 0, false⟩], waitC, waitP⟩
def bufState (k : ReqKind) (bufs : List CBuf) : State :=
  (asking basinLeaf k (Lane.start 0 0x10000 1 0)).modChip 0 (fun c => { c with banks := [(3, { Bank.clear with mode := .fifo, bufs := bufs })] })

theorem test_buffer_made : after (exec (.bufinitRequest 8) (bufState (.bufinit 0x20001) [])) (fun t =>
    (((t.chip 0).bank 3).bufs.map (fun b => (b.base, b.size, b.count, b.slots.length)))) = some [(0, 1, 2, 2)] := by decide +kernel
theorem test_buffer_acquire : after (exec (.bufacqRequest 8) (bufState (.bufacq 3 false) [twoSlots .free .free [] [] false])) (fun t =>
    ((t.chip 0).bank 3).bufs.map CBuf.waitC) = some [[8]] := by decide +kernel
theorem test_buffer_grant :
    after (exec (.bufacqGrant 0 3 0 false) (bufState (.bufacq 3 false) [twoSlots .full .free [8] [] false])) (fun t =>
      (((t.chip 0).bank 3).bufs.map (fun b => (b.take, (b.slot 0).st)), t.thr.outst.map Outst.ready)) = some ([(1, .held)], [true])
    ∧ after (exec (.bufacqGrant 0 3 0 true) (bufState (.bufacq 3 true) [twoSlots .free .free [] [8] true])) (fun t =>
      (((t.chip 0).bank 3).bufs.map (fun b => (b.fill, (b.slot 0).st)), t.thr.outst.map Outst.ready)) = some ([(1, .filling)], [true]) := by
  decide +kernel
theorem test_buffer_release : after (exec (.bufrelRequest 8) (bufState (.bufrel false 0x10040) [twoSlots .free .held [] [] false])) (fun t =>
    ((t.chip 0).bank 3).bufs.map (fun b => (b.slot 1).st)) = some [.free] := by decide +kernel

theorem witness_queue_buffer_events :
    (match (queueState (.qpush 3 5 6) 4 1).tryQueue 8 with
      | .ok r q => decide (r.kind = .qpush 3 5 6 ∧ r.out = some 7 ∧ (q.tail + 2 ^ 32 - q.head) % 2 ^ 32 = 2 ^ q.log2)
      | _ => false) = true
    ∧ (match (queueState (.qpop 3) 0 0).tryQueue 8 with
      | .ok _ q => decide (q.live.find? (fun n => (queueState (.qpop 3) 0 0).recState q n == 1) = none)
      | _ => false) = true
    ∧ (match (queueState (.qsteal 3 0) 1 1).tryQueue 8 with
      | .ok _ q => decide (q.barva = 0 ∧ q.live.reverse.find? (fun n => (queueState (.qsteal 3 0) 1 1).recState q n == 1) = some 0
          ∧ q.live.find? (fun n => (queueState (.qsteal 3 0) 1 1).recState q n == 1) = some 0)
      | _ => false) = true
    ∧ (match (bufState (.bufinit 0x20001) []).tryBuf 8 with
      | .ok r chip bank off => decide (r.kind = .bufinit 0x20001 ∧ chip = 0 ∧ bank = 3 ∧ off = 0
          ∧ (bufState (.bufinit 0x20001) []).bufinitBad 0 3 0 0x20001 = false)
      | _ => false) = true
    ∧ (match (bufState (.bufacq 3 false) [twoSlots .full .free [] [] false]).tryBuf 8 with
      | .ok r chip bank off => decide (r.kind = .bufacq 3 false ∧ chip = 0 ∧ bank = 3 ∧ off = 0)
      | _ => false) = true
    ∧ (match (bufState (.bufrel false 0x10040) [twoSlots .free .held [] [] false]).tryBuf 8 with
      | .ok r _ _ _ => decide (r.kind = .bufrel false 0x10040)
      | _ => false) = true
    ∧ ((twoSlots .free .held [] [] false).release false (slotNumber 0x10000 0x10040 64)).isSome = true
    ∧ ((twoSlots .full .free [8] [] false).slot 0).st = .full ∧ ((twoSlots .free .free [] [8] true).slot 0).st = .free := by
  and_intros <;> decide +kernel

/-- Two pages of HBM, and a copy of two doublewords from the first to the second (R256). -/
def twoPages : State := withCore (fun c => { c with reserved := 1, tlb := [⟨⟨0, 0⟩, 1, hbmLeaf, []⟩, ⟨⟨0, 0⟩, 2, leafAt 0x1010000 true false, []⟩] })
def row (b : Word) : Pattern := ⟨b, 2, 1, 1, 8, 0, 0⟩
def copyOp (next : Nat) (ctl : Word) : EngineOp :=
  ⟨4, 0, 0, 0, 0, .copy (row 0x10000) (row 0x20000) 0 ctl false 0, 7, .job, false, [], home, ⟨0, 0⟩, 0, false, 2, next, [], 0, [], 0, false,
   false, none, 0, none, 0, 0, false, 0, 0, none, none⟩
def copying (next : Nat) : State :=
  { (twoPages.cohWrite 0 ⟨0, 0⟩ 0x1000000 8 0x55 (some 0) false) with ops := [copyOp next 0x300000], fresh := 9 }

theorem test_copy_element : after (exec (.copyElement 4 0) (copying 0)) (fun t =>
    (t.ops.map EngineOp.next, ((t.cohSector (0x1010000 / 16)).read ⟨0, 0⟩ 0 8).1)) = some ([1], 0x55) := by decide +kernel
theorem test_copy_completion : after (exec (.copyCompletion 4) (copying 2)) (fun t =>
    (t.ops.length, (t.core 0).mail.map (fun m => (m.kind, m.tag, m.payload)), t.thr.wake)) = some (0, [(2, 7, 2)], true) := by
  decide +kernel

def inRow : InBind := { rowStream 3 0 with pat := row 0x10000, total := 2, next := 0, buf := [] }
def filling : State := (copying 0).modCore 0 (fun c => { c with strm := [(2, .input inRow)] })
theorem test_stream_fill : after (exec (.streamFill 0 2) filling) (fun t =>
    match (t.core 0).binding 2 with
    | .input b => (b.next, b.buf)
    | _ => (0, [])) = some (1, [(0x55, false)]) := by decide +kernel
def outOp (next : Nat) (closed : Bool) (buf : List (Word × Bool)) : EngineOp :=
  { copyOp next 0 with kind := .outStream 2 (row 0x20000) 3, buf := buf, pushed := 1, closed := closed }
def draining (next : Nat) (closed : Bool) (buf : List (Word × Bool)) : State := { twoPages with ops := [outOp next closed buf], fresh := 9 }
theorem test_stream_drain : after (exec (.streamDrain 0 4) (draining 0 false [(0x66, false)])) (fun t =>
    (t.ops.map EngineOp.next, ((t.cohSector (0x1010000 / 16)).read ⟨0, 0⟩ 0 8).1)) = some ([1], 0x66) := by decide +kernel
theorem test_output_completion : after (exec (.outputBindingCompletion 4) (draining 1 true [])) (fun t =>
    (t.ops.length, (t.core 0).mail.map (fun m => (m.kind, m.payload)))) = some (0, [(2, 1)]) := by decide +kernel

theorem witness_copy_stream_events :
    (copying 0).op 4 = some (copyOp 0 0x300000) ∧ (copyOp 0 0x300000).runs = true ∧ (copying 0).copyPaused (copyOp 0 0x300000) = false
    ∧ (copyOp 0 0x300000).mute = false ∧ ((copying 0).core 0).retiring = false
    ∧ (copying 2).refusedEmpty (copyOp 2 0x300000) (row 0x20000).base 0x300000 = false ∧ (copying 2).paused (copyOp 2 0x300000) = false
    ∧ (draining 0 false [(0x66, false)]).paused (outOp 0 false [(0x66, false)]) = false ∧ (copyOp 0 0x300000).isDone 0 = false
    ∧ (0x300000 : Word).getLsbD 25 = false ∧ (0x300000 : Word).getLsbD 24 = false
    ∧ (copying 0).ordWaits (copyOp 0 0x300000) (row 0x10000) (row 0x20000) false 0 = false
    ∧ ((row 0x10000).elem 0).toNat % 8 = 0
    ∧ (copySectors (copyOp 0 0x300000).view (some ((row 0x10000).elem 0)) ((row 0x20000).elem 0) 8 false (elemParts 8 0) (copying 0)).2.isNone = true
    ∧ (match (copySectors (copyOp 0 0x300000).view (some ((row 0x10000).elem 0)) ((row 0x20000).elem 0) 8 false (elemParts 8 0) base).2 with
      | some e => decide (e.code ≠ 0) | none => false) = true
    ∧ (copying 2).op 4 = some (copyOp 2 0x300000) ∧ (copyOp 2 0x300000).next = (copyOp 2 0x300000).total
    ∧ (filling.core 0).binding 2 = .input inRow ∧ inRow.next < inRow.total ∧ inRow.buf.length < 256 / esBytes 3
    ∧ (readElem (inRow.view 0) (some (inRow.pat.elem 0)) 8 false (elemParts 8 0) filling).2.2.isNone = true
    ∧ (match (readElem (inRow.view 0) (some (inRow.pat.elem 0)) 8 false (elemParts 8 0) base).2.2 with
      | some e => decide (e.code ≠ 0) | none => false) = true
    ∧ (draining 0 false [(0x66, false)]).op 4 = some (outOp 0 false [(0x66, false)])
    ∧ (match (draining 0 false [(0x66, false)]).engWrite (outOp 0 false [(0x66, false)]).view ((row 0x20000).elem 0) 8 0 0x66 false with
      | .ok _ => true | .error _ => false) = true
    ∧ (outOp 1 true []).closed = true ∧ (outOp 1 true []).fault = none := by
  and_intros <;> decide +kernel

/-! ### The matrix unit, regions and the lock-keeper -/

def heldBuf : State :=
  let s := (bufState .store [twoSlots .free .free [] [] false]).modCore 0 (fun c => { c with tlb := [⟨⟨0, 0⟩, 2, basinLeaf, []⟩] })
  { s with ops := [{ copyOp 0 0x2300000 with written := 16 }] }
theorem witness_sector_counted :
    heldBuf.op 4 = some { copyOp 0 0x2300000 with written := 16 } ∧ (0x2300000 : Word).getLsbD 25 = true
    ∧ (match heldBuf.destBuf { copyOp 0 0x2300000 with written := 16 } 0x20000 with
      | .ok (some (_, _, b)) => decide (16 - b.bytes % 16 ≤ 16)
      | _ => false) = true := by
  and_intros <;> decide +kernel

def mxEntry (k : MxKind) : MxEntry := ⟨1, 0, k, some 1, [], false⟩
/-- Core 0 with one matrix instruction at its queue's head, granted. -/
def stepping (k : MxKind) : State :=
  (owing.modCore 0 (fun c => { c with mxq := [mxEntry k], strm := [(0, .input { rowStream 4 5 with claimed := 2 })], btab := [(1, (0, .fp32))] })).modChip 0
    (fun c => { c with mxIdle := false, mxGrant := some (0, 0) })
def fullRows (k : MxKind) (n : Nat) : State := (stepping k).modCore 0 (fun c => { c with rowbuf := List.replicate n (0, false) })
def mmaHead : MxKind := .mma 0 true 0 .fp32 1 2
def mmasHead : MxKind := .mmas 0 true 0 .fp32 1 2 0 1 false
def mreadHead : MxKind := .mread 1 0 .f32 0 0 false
def bindHead : MxKind := .mloadb 3 0 0x02100005 0 none
def ungranted : State := (stepping mreadHead).modChip 0 (fun c => { c with mxGrant := none })
def queueEmpty : State := base.modChip 0 (fun c => { c with mxIdle := false })
def restarting : State := (stepping mreadHead).modChip 0 (fun c => { c with mxIdle := true, mxGrant := none })

theorem test_row_pop : after (exec (.rowPop 0) (stepping mmaHead)) (fun t => (t.core 0).rowbuf) = some [(5, false)] := by decide +kernel
theorem test_matrix_grant : after (exec (.matrixGrant 0) ungranted) (fun t => (t.chip 0).mxGrant) = some (some (0, 0)) := by
  decide +kernel
theorem test_mread_step : after (exec (.mreadStep 0) (stepping mreadHead)) (fun t =>
    ((t.core 0).mxq.length, t.thr.outst.map Outst.ready)) = some (0, [true]) := by decide +kernel
theorem test_mloadb_step : after (exec (.mloadbStep 0) (stepping bindHead)) (fun t =>
    ((t.core 0).mxq.length, Tab.find (t.core 0).btab 5)) = some (0, some (0, .fp32)) := by decide +kernel
theorem test_mma_step_empties_rows : after (exec (.mmaStep 0) (stepping mmaHead)) (fun _ => true) = none := by decide +kernel
theorem test_matrix_idle : after (exec (.matrixIdle 0) queueEmpty) (fun t => (t.chip 0).mxIdle) = some true
    ∧ after (exec (.columnUnitRelease 0 0) restarting) (fun t => (t.chip 0).mxReleased) = some 1 := by decide +kernel
theorem witness_matrix_events :
    ((stepping mmaHead).core 0).rowsWanted = some 0 ∧ ((stepping mmaHead).core 0).binding 0 = .input { rowStream 4 5 with claimed := 2 }
    ∧ (ungranted.chip 0).mxIdle = false ∧ ungranted.grantHolds 0 = false
    ∧ ((List.range 8).map (fun i => ((ungranted.chip 0).pointer + i) % 8)).find? (ungranted.mxReadyAt 0) = some 0
    ∧ (stepping mreadHead).stepHead 0 = some (0, mxEntry mreadHead) ∧ (stepping bindHead).stepHead 0 = some (0, mxEntry bindHead)
    ∧ (fullRows mmaHead 2).stepHead 0 = some (0, mxEntry mmaHead) ∧ (fullRows mmasHead 2).stepHead 0 = some (0, mxEntry mmasHead)
    ∧ (queueEmpty.chip 0).mxIdle = false ∧ queueEmpty.mxAny 0 = false ∧ (restarting.chip 0).mxIdle = true ∧ restarting.mxAny 0 = true
    ∧ (restarting.chip 0).mxReleased.getLsbD 0 = false
    ∧ (∀ i, i < 7 → ((0x7F : BitVec 8)).getLsbD i = true) ∧ ((0x7F : BitVec 8)).getLsbD 7 = false := by
  and_intros <;> decide +kernel

/-- The lock-keeper's core maps a page of HBM at 0x10000 for the tables of slot 0. -/
def keeper (f : Part → Part) : State := (mapped hbmLeaf).modPart 0 f
def triggered (kind : Nat) (a : Word) : State := keeper (fun p => { p with trigq := [.trigger kind a 0 2 0 ⟨0, 0⟩ false] })
def aLaunch (r : Bool) : Launch := ⟨0x10000, 0, ⟨0, 0⟩, 2, 0, r, 5, 0⟩
def aQueue : HostQueue := ⟨0, 3, 0, 0, 0x10400, [], true, none, 0⟩
/-- A doubleword of the page. -/
def poke (s : State) (off : Nat) (v : Nat) : State := s.cohWrite 0 ⟨0, 0⟩ (0x1000000 + off) 8 v (some 0) false

theorem test_notify_unknown : exec (.notify 0 9) base = .next base := rfl
/-- DEC of a launch with two dependences left, of a ready one, and of a block that is not armed (R191). -/
theorem test_trigger_dec :
    after (exec (.triggerDec 0) ((poke (triggered 0 0x10000) 0x70 2).modPart 0 (fun p => { p with launches := [aLaunch false] }))) (fun t =>
      (((t.cohSector (0x1000070 / 16)).read ⟨0, 0⟩ 0 8).1, (t.part 0).launches.map Launch.ready)) = some (1, [false])
    ∧ after (exec (.triggerDec 0) ((triggered 0 0x10000).modPart 0 (fun p => { p with launches := [aLaunch true] }))) (fun t =>
      (t.core 2).waitNotice.map Mail.kind) = some [4] := by decide +kernel
theorem test_trigger_arm_bad_state : after (exec (.triggerArm 0) (poke (triggered 1 0x10000) 0x68 3)) (fun t =>
    (t.core 2).waitNotice.map Mail.kind) = some [4] := by decide +kernel
theorem test_trigger_notify_unknown : after (exec (.triggerNotify 0) (triggered 2 0x10400)) (fun t =>
    (t.core 2).waitNotice.map Mail.kind) = some [4] := by decide +kernel

/-- A region that waits, taken first. -/
def placing : State :=
  (keeper (fun p => { p with first := some 1 })).modCore 0 (fun c => c) |> fun s => { s with regions := [(1, { aRegion with st := .waiting, tasks := [] })] }
def aging : State := { base with regions := [(1, { aRegion with st := .waiting, since := 3 })] }
theorem test_region_place : after (exec (.regionPlace 0) placing) (fun t =>
    (t.regions.map (fun e => (e.2.st, e.2.tasks)), (t.core 2).region, ((t.core 2).ctx 0).pc, ((t.core 2).reg 2).val))
    = some ([(.running, [2])], 2, home, 0x77) := by decide +kernel
theorem test_aging : after (exec (.priorityAging 0 0) aging) (fun t => t.regions.map (fun e => e.2.waited)) = some [1048576] := by
  decide +kernel
/-- Core 2 runs the region, and its context 0 is idle. -/
def idlePart (ended : Bool) : State :=
  let s := (mapped hbmLeaf).modCore 2 (fun c =>
    { (c.modCtx 0 (fun t => { t with st := .idling, size := 128 })) with region := 2, ended := ended })
  { s with regions := [(1, aRegion)] }
theorem test_part_end : after (exec (.corePartEnd 2) (idlePart false)) (fun t => (t.core 2).ended) = some true := by decide +kernel
theorem test_region_complete : after (exec (.regionComplete ⟨1, []⟩) (idlePart true)) (fun t =>
    (t.regions.map (fun e => e.2.st), (t.core 2).region)) = some ([], 0) := by decide +kernel
def aPacket : Packet := ⟨0, 3, 0, 0, [], some (0, 0)⟩
def completing : State := keeper (fun p => { p with queues := [aQueue], packets := [aPacket] })
theorem test_packet_completion : after (exec (.packetCompletion 0) completing) (fun t => (t.part 0).packets.length) = some 0 := by
  decide +kernel

/-- The block at 0x10000 has STATE 0 and runs under no region; whether the write of STATE 8 into it is made. -/
def badArm (s : State) (made : Bool) : Bool :=
  let u := s.modPart 0 (fun v => { v with trigq := [] })
  match State.loadDs (u.blockView 0 ⟨0, 0⟩ 0) 16 0x10000 u with
  | .ok (w, ws) =>
    let y := ((w.resolve 0 ⟨0, 0⟩ 0 0x10000).map Prod.fst).getD w
    (wordAt 13 ws).toNat % 16 == 0 && !y.runsBlock ⟨0, 0⟩ 0 (wordAt 0 ws)
      && (match State.storeDs (y.blockView 0 ⟨0, 0⟩ 0) [8] (0x10000 + 0x68) y with | .ok _ => made | .error _ => !made)
  | .error _ => false
theorem witness_region_events :
    base.queueOf 0 9 = none ∧ completing.queueOf 0 3 = some (0, aQueue)
    ∧ (triggered 0 0x10000).trigger 0 0 0x10000 0 2 0 ⟨0, 0⟩ [] ∧ (aLaunch true).is ⟨0, 0⟩ 0 0x10000 = true
    ∧ (let u := (triggered 0 0x50000).modPart 0 (fun v => { v with trigq := [], heldCounts := [(heldKey 0 0 0x50000, 1)] })
       u.blockState (u.blockView 0 ⟨0, 0⟩ 0) 0x50000 = none ∧ Tab.find (u.part 0).heldCounts (heldKey 0 0 0x50000) = some 1)
    ∧ (let u := (poke (triggered 0 0x10000) 0x68 3).modPart 0 (fun v => { v with trigq := [] })
       u.blockState (u.blockView 0 ⟨0, 0⟩ 0) 0x10000 = some 3)
    ∧ (let u := (poke (triggered 0 0x10000) 0x70 2).modPart 0 (fun v => { v with trigq := [] })
       (match u.loadD (u.blockView 0 ⟨0, 0⟩ 0) 0x10070 with | .ok (_, y) => decide (y.toNat = 2) | .error _ => false) = true)
    ∧ (triggered 1 0x10000).trigger 0 1 0x10000 0 2 0 ⟨0, 0⟩ []
    ∧ (let u := (poke (poke { triggered 1 0x10000 with regions := [(1, { aRegion with block := 0x10080, root := ⟨0, 0⟩ })] } 0 0x10080)
         8 0x8000).modPart 0 (fun v => { v with trigq := [] })
       (match State.loadDs (u.blockView 0 ⟨0, 0⟩ 0) 16 0x10000 u with
        | .ok (w, ws) => decide ((wordAt 13 ws).toNat % 16 = 0) && ((w.resolve 0 ⟨0, 0⟩ 0 0x10000).any (fun y => y.1.runsBlock ⟨0, 0⟩ 0 (wordAt 0 ws)))
        | .error _ => false) = true)
    ∧ badArm (triggered 1 0x10000) true = true ∧ badArm ((triggered 1 0x10000).modCore 0 (fun c =>
        { c with tlb := [⟨⟨0, 0⟩, 1, { hbmLeaf with w := false }, []⟩] })) false = true
    ∧ (triggered 2 0x10400).trigger 0 2 0x10400 0 2 0 ⟨0, 0⟩ []
    ∧ aQueue.desc == 0x10400 ∧ (aging.waitTimes 0)[0]? = some (3, 0) ∧ (∀ y ∈ aging.waitTimes 0, ¬ y.1 < 3)
    ∧ (placing.part 0).first = some 1 ∧ Tab.find placing.regions 1 = some { aRegion with st := .waiting, tasks := [] }
    ∧ placing.fitsBudget { aRegion with st := .waiting, tasks := [] } Fields.cores coreClaim (Region.coreClaim aRegion) = true
    ∧ placeRegion aRegion.f (placing.coreFree 0) = some ([2], [])
    ∧ ((idlePart false).core 2).region ≠ 0 ∧ ((idlePart false).thread 2 0).st = .idling
    ∧ (∀ e ∈ ((idlePart false).core 2).ctxs, e.1 = 0 ∨ e.2.st = .free) ∧ (idlePart false).storesPending 2 = false
    ∧ (∀ n ∈ aRegion.allCores, ((idlePart true).core n).ended = true) ∧ (idlePart true).ops = []
    ∧ (completing.part 0).packets.find? (fun k => k.code.isSome) = some aPacket := by
  and_intros <;> first | decide +kernel | exact ⟨false, by decide +kernel⟩

theorem test_completion_window : markDone 6 5 0 = (5, 1) ∧ markDone 5 5 3 = (8, 0) := by decide +kernel
theorem witness_completion_window : (6 : BitVec 32) ≠ 5 ∧ ((6 : BitVec 32) - 5).toNat ≤ 32 := by decide

/-! ### Records, commands and saves -/

/-- A command of the lock-keeper for context x of core n, at that core. -/
def cmd (k n x : Nat) (b : Word) : Cmd := ⟨BitVec.ofNat 64 (2 ^ 60 * k + 2 ^ 13 * x + n), 0, 0, none, b, ⟨0, 0⟩, 0⟩
/-- Core 2 with a thread in a state at `home`, and a command to it. -/
def commandedAt (st : CtxState) (k x : Nat) (b : Word) : State :=
  (mapped hbmLeaf).modCore 2 (fun c =>
    { (c.modCtx x (fun t => { t with st := st, pc := home + 8, base := 0, size := 128, tag := some ⟨0, 0⟩, hcode := 6 })) with
      cmds := [cmd k 2 x b], tlb := [⟨⟨0, 0⟩, 1, hbmLeaf, []⟩] })
def aRecord : FaultRec := ⟨0, 0, 0, 6, 0, 0, 2, 0, 0, home, home, 0, 0, 0, 0, 0, 0, 0, 0, []⟩
def recorded : State := base.modPart 0 (fun p => { p with recs := [aRecord] })
def imaged : State := (mapped hbmLeaf).modCore 2 (fun c => c.modCtx 0 (fun t => { t with st := .halted, imageDue := true, size := 128, pc := home }))
def heldBargeState : State :=
  let s := (commandedAt .free 8 0 0x10000).modCore 2 (fun c =>
    { (c.modCtx 2 (fun t => { t with st := .empty, bargeCtx := true, base := 128, size := 24 })) with
      tlb := [⟨⟨0, 0⟩, 1, leafAt ((base.holdSlot 0 0) / 65536 * 65536) false false, []⟩] })
  s.modPart 0 (fun p => { p with holdBarges := [(0, { aBarge with dst := 2 })] })
def sealedCore : State := (commandedAt .free 7 0 0).modCore 2 (fun c => { c with sealed := true })
/-- A region that saves at 0x10000, with its one core stopped. -/
def savedRegion : Region := { aRegion with f := { aRegion.f with save := 0x40000000 } }
def saving : State := { base.modCore 2 (fun c => { c with region := 2, stopped := true }) with regions := [(1, savedRegion)] }
def resuming : State := { base.modPart 0 (fun p => { p with first := some 1 }) with regions := [(1, { savedRegion with st := .preempted })] }
def faulting (fdom : Nat) : State :=
  { base.modCore 2 (fun c => { (c.modCtx 0 (fun t => { t with st := .halted, hcode := 0x22 })) with region := 2 }) with
    regions := [(1, { aRegion with f := { aRegion.f with fdom := fdom } })] }
def running : State := { base with slots := [(5, { KeySlot.clear with root := some ⟨0, 5⟩ })] }
def sweeping : State := { base with slots := [(5, { KeySlot.clear with sweeping := true })], otag := [(7, ⟨5, 0⟩)],
                                    l2 := [(9, ⟨1, false, ⟨5, 0⟩, false, 0, none, 0⟩)] }

theorem test_record : after (exec (.faultRecord 0 0) recorded) (fun t =>
    ((t.part 0).recs.length, t.ringWrites 0, t.hbmRead ⟨0, 0⟩ (t.ringAt 0 + 64), (t.core 0).waitNotice.map Mail.payload))
    = some (0, 1, 0x8000600000000002, [0]) := by decide +kernel
theorem test_image : after (exec (.imageWrite 2 0) imaged) (fun t =>
    (t.thread 2 0).imageDue) = some false := by decide +kernel
theorem test_resumes :
    after (exec (.resumeReissue 2) (commandedAt .halted 1 1 0)) (fun t => ((t.thread 2 1).st, (t.thread 2 1).pc)) = some (.runnable, home + 8)
    ∧ after (exec (.resumeSkip 2) (commandedAt .halted 1 1 1)) (fun t => ((t.thread 2 1).st, (t.thread 2 1).pc)) = some (.runnable, home + 12)
    ∧ after (exec (.resumeImagePc 2) (commandedAt .halted 1 1 2)) (fun t => ((t.thread 2 1).st, (t.thread 2 1).pc)) = some (.runnable, 0) := by
  decide +kernel
theorem test_commands :
    after (exec (.kill 2) (commandedAt .parked 2 1 0)) (fun t => (t.thread 2 1).st) = some .killed
    ∧ after (exec (.stop 2) (commandedAt .runnable 3 1 0x10000)) (fun t => ((t.thread 2 1).st, (t.thread 2 1).was, (t.core 2).stopped))
      = some (.halted, some .runnable, true)
    ∧ after (exec (.wake 2) (commandedAt .idling 4 1 0)) (fun t => (t.thread 2 1).wake) = some true
    ∧ after (exec (.unseal 2) sealedCore) (fun t => (t.core 2).sealed) = some false := by decide +kernel
theorem test_image_command : after (exec (.image 2) (commandedAt .halted 5 1 0x10040)) (fun t =>
    ((t.core 2).cmds.length, (t.thread 2 1).st)) = some (0, .halted) := by decide +kernel
theorem test_barge_delivered : after (exec (.launchBarge 2) heldBargeState) (fun t =>
    ((t.part 0).holdBarges.length, (t.core 2).bargeq.map Barge.srcCore)) = some (0, [1]) := by decide +kernel
theorem test_region_faults : after (exec (.regionFaulted 1 2) (faulting 1)) (fun t => (t.regions.length, (t.core 2).region)) = some (0, 0) := by
  decide +kernel
theorem test_job_killed : after (exec (.jobKill 5 0 []) running) (fun t => ((t.slot 5).root, (t.slot 5).gen)) = some (none, 1) := by
  decide +kernel
theorem test_slot_swept : after (exec (.keySlotSweep 5) sweeping) (fun t => ((t.slot 5).sweeping, t.otag.length, t.l2.length))
    = some (false, 0, 0) := by decide +kernel

theorem witness_save_command_events :
    (recorded.part 0).recs[0]? = some aRecord ∧ (recorded.ringWrites 0 - recorded.ringReads 0).toNat ≠ Config.ringRecords
    ∧ (imaged.thread 2 0).st = .halted ∧ (imaged.thread 2 0).imageDue = true ∧ imaged.imageReady 2 0 = true
    ∧ ((commandedAt .halted 1 1 1).core 2).cmds = cmd 1 2 1 1 :: [] ∧ sendCmd (cmd 1 2 1 1).desc = 1 ∧ sendCtx (cmd 1 2 1 1).desc = 1
    ∧ ((commandedAt .halted 1 1 1).thread 2 1).st = .halted ∧ (cmd 1 2 1 1).imageAt = 0
    ∧ (commandedAt .halted 1 1 1).heldOf 2 1 = [] ∧ ((commandedAt .halted 1 1 1).thread 2 1).park = none
    ∧ ((commandedAt .halted 1 1 1).thread 2 1).was = none ∧ ((commandedAt .halted 1 1 1).thread 2 1).late = false
    ∧ (cmd 1 2 1 0).b.extractLsb' 0 2 = 0 ∧ (cmd 1 2 1 1).b.extractLsb' 0 2 = 1 ∧ (cmd 1 2 1 2).b.extractLsb' 0 2 = 2
    ∧ ((commandedAt .halted 1 1 1).thread 2 1).repA = false ∧ ((commandedAt .halted 1 1 1).thread 2 1).lpD = 0
    ∧ (commandedAt .halted 1 1 1).extWords 2 ((commandedAt .halted 1 1 1).thread 2 1) (home + 8) 2 = 0
    ∧ (∀ k, k < 9 → sendCmd (cmd k 2 1 0).desc = BitVec.ofNat 4 k) ∧ CtxState.killable .parked = true ∧ CtxState.killable .free = false
    ∧ CtxState.holdsThread .idling = true ∧ ((commandedAt .parked 2 1 0).thread 2 1).bargeCtx = false
    ∧ (sealedCore.core 2).sealed = true ∧ heldBargeState.partOfCore 2 = some 0 ∧ (heldBargeState.core 2).bargeRoom = true
    ∧ (match heldBargeState.place ((cmd 8 2 0 0x10000).view 2) 0x10000 .load with
      | .ok (_, pa) => heldBargeState.holdIndex 0 pa == some 0
      | .error _ => false) = true
    ∧ Tab.find (heldBargeState.part 0).holdBarges 0 = some { aBarge with dst := 2 }
    ∧ (match State.loadDs ((cmd 8 2 0 0x10000).view 2) 256 0x10000 heldBargeState with | .ok _ => true | .error _ => false) = true
    ∧ (saving.core 2).region = 1 + 1 ∧ Tab.find saving.regions 1 = some savedRegion
    ∧ savedRegion.allCores.findIdx? (fun n => n == 2) = some 0 ∧ savedRegion.f.save ≠ 0 ∧ saving.coreStopped 2 = true
    ∧ (resuming.part 0).first = some 1 ∧ (∀ n ∈ savedRegion.allCores, resuming.coreFree 0 n = true)
    ∧ (faulting 0).openFaults 1 { aRegion with f := { aRegion.f with fdom := 0 } } = [0x22]
    ∧ highestGrade ((faulting 0).openFaults 1 { aRegion with f := { aRegion.f with fdom := 0 } }) = (2 : BitVec 2).toNat
    ∧ (running.slot 5).root.isSome = true ∧ (sweeping.slot 5).sweeping = true ∧ Memory.wf sweeping.mem = true
    ∧ Tab.wf sweeping.otag = true ∧ Tab.wf sweeping.poison = true := by
  and_intros <;> decide +kernel

/-- A suspended operation of core 2, and its record at 0x10000, which an ENGINE command names. -/
def suspendedOp : EngineOp := { copyOp 0 0 with core := 2, seq := 9, fault := some ⟨0x16, 0, 0, 0, 0, 0⟩ }
def engineCmd (b : Word) : State :=
  let s := (commandedAt .runnable 6 0 b).cohWrite 2 ⟨0, 0⟩ 0x1000000 16 (2 ^ 63 + 2 ^ 56 + 2 + 2 ^ 64 * 9) (some 0) false
  { s with ops := [suspendedOp] }
theorem test_engine_commands :
    after (exec (.engineResume 2) (engineCmd 0x10000)) (fun t => t.ops.map (fun o => o.fault.isSome)) = some [false]
    ∧ after (exec (.engineEnd 2) (engineCmd 0x10001)) (fun t => t.ops.map (fun o => (o.fault.isSome, o.ended))) = some [(false, some 0)] := by
  decide +kernel
theorem witness_engine_commands :
    (match State.loadDs ((cmd 6 2 0 0x10001).view 2) 2 0x10000 (engineCmd 0x10001) with
      | .ok (w, ws) => (match w.engineTarget 2 (cmd 6 2 0 0x10001) ws with
        | some (.op o) => decide (o = suspendedOp)
        | _ => false)
      | .error _ => false) = true
    ∧ (0x10001 : Word) &&& ~~~(0x7F : Word) = 0x10000 ∧ (0x10001 : Word).getLsbD 0 = true := by
  and_intros <;> decide +kernel

/-! ### Errors, partitions, the network and the host -/

def failed : State := (base.modCore 2 (fun c => { c with sealed := true })).modCore 3 (fun c =>
  { c with l1 := [(40, ⟨5, false, ⟨0, 0⟩, false, true, none, 0xFFFF, 0⟩)] })
def failedIn (paired : Bool) : State :=
  { failed.modCore 2 (fun c => { c with region := 2 }) with regions := [(1, { aRegion with f := { aRegion.f with paired := paired } })] }
def working : State := base.modCore 2 (fun c => { c with region := 2 })
def noticed : State := base.modPart 0 (fun p => { p with errq := [2] })
def pairOf (twin : Bool) (h : Word) : PairMsg := ⟨1, 0, 5, twin, h, none, none, none⟩
def paired (h : Word) : State := { base with slots := [(5, { KeySlot.clear with root := some ⟨0, 5⟩ })], regions := [(1, { aRegion with slot := 5, root := ⟨0, 5⟩ })], pairs := [pairOf false 7, pairOf true h] }
def single : State := { paired 7 with pairs := [pairOf false 7] }
def lastLine : State := base.modChip 0 (fun c => { c with sweepBasin := { Sweeper.clear with pos := 278527 } })

theorem test_errors :
    after (exec (.uncorrectableError (.entry 0 5)) base) (fun t => ((t.core 0).reg 5).poison) = some true
    ∧ after (exec (.uncorrectableError (.sector 40)) base) (fun t => Tab.find t.poison 40) = some (some true)
    ∧ after (exec (.correctedError 2 (.bank 1 3) 0) working) (fun t => (t.part 0).errq) = some [2 ^ 21 + 3 * 2 ^ 16 + 2]
    ∧ after (exec (.correctedErrorNotice 0) noticed) (fun t => ((t.part 0).errq.length, (t.part 0).errLog.length)) = some (0, 1) := by
  decide +kernel
theorem test_restart : after (exec (.containmentRestart 2 8) failed) (fun _ => true) = some true := by
  decide +kernel
theorem test_pairs :
    after (exec (.pairCompare 0) (paired 7)) (fun t => (t.pairs.length, t.regions.length)) = some (0, 1)
    ∧ after (exec (.pairCompare 0) (paired 8)) (fun t => (t.regions.length, (t.part 0).recs.map (fun r => (r.code, r.arg)))) = some (0, [(0x23, 7), (0x27, 5)])
    ∧ after (exec (.pairTimeout 0) single) (fun t => (t.regions.length, (t.part 0).recs.map (fun r => (r.code, r.arg)))) = some (0, [(0x23, 7), (0x27, 5)]) := by
  decide +kernel
theorem test_sweep : after (exec (.sweepLine 0 false) lastLine) (fun t => ((t.chip 0).sweepBasin.pos, (t.chip 0).sweepBasin.passes))
    = some (0, 1) := by decide +kernel

theorem witness_error_events :
    paKind (16 * 40) ≠ .reserved ∧ paKind (16 * 2 ^ 60) = .reserved
    ∧ Tab.find (failed.core 3).l1 40 = some ⟨5, false, ⟨0, 0⟩, false, true, none, 0xFFFF, 0⟩
    ∧ Tab.find oldSector.l2 40 = some ⟨5, false, ⟨0, 0⟩, false, 9, some 0, 0⟩
    ∧ (failed.core 2).sealed = true ∧ failed.updates.any (Update.restarts 2) = false ∧ failed.spareFree (8 / 9 / 24) (8 / 9 % 24) (8 % 9) = true
    ∧ (failed.core 2).region = 0 ∧ ((failedIn true).core 2).region = 1 + 1
    ∧ (failedIn false).checkpoint 2 aRegion = none
    ∧ working.partOfCore 2 = some 0 ∧ (working.core 2).region ≠ 0 ∧ (noticed.part 0).errq = 2 :: []
    ∧ tooMany (lastThree (Tab.getD (noticed.part 0).errLog 2 []) (noticed.core 0).cycle) = false
    ∧ (paired 8).pairs.find? (fun x => x.twins (pairOf false 7)) = some (pairOf true 8) ∧ (pairOf false 7).hash ≠ (pairOf true 8).hash
    ∧ (∀ x ∈ single.pairs, x.twins (pairOf false 7) = false)
    ∧ (base.chip 0).sweepCim.pos.toNat + 1 ≠ 557056 ∧ (lastLine.chip 0).sweepBasin.pos.toNat + 1 = 278528 := by
  and_intros <;> decide +kernel

/-- Partition 1 of chiplet 1, in a state. -/
def second1 (st : PartState) : State := { base with parts := base.parts ++ [(1, { Part.clear with chiplets := [1], lk := 8, standby := 9, func := 1, st := st, beatSame := 64 })] }
def phased (n : Nat) : State := base.setControl 3 base.liveSites n
/-- The retirement of core 2 to physical core 8 of its site (R339). -/
def retireTwo : Update := .retire 2 8 (base.remap.coreEntry 2)
def flipping : State := { base.setControl 3 base.liveSites 1 with pending := some ⟨true, [(0, 8)], []⟩, updates := [retireTwo] }
def retiring : State := { (phased 3).modCore 2 (fun c => { c with retiring := true }) with updates := [retireTwo] }
/-- An update that waits to begin: of a core that has stopped, or of one that has died. -/
def queuedUpdate (dead : Bool) : State := { base.modCore 2 (fun c => { c with retiring := true, sealed := dead }) with updates := [retireTwo] }
/-- An update of which no router has answered yet, and the table before an update in which core 2 stood at a spare site. -/
def unansweredUpdate : State := { base.setControl 3 0 1 with updates := [retireTwo] }
def confirming : State := { phased 2 with former := some ⟨true, [(2, remapEntry 24 0 0)], []⟩ }
/-- Every router. -/
def allRouters : BitVec 624 := siteSet (fun _ => true)

theorem test_heartbeat : after (exec (.heartbeatRead 1) (second1 .active)) (fun t => (t.part 1).beatSame) = some 65 := by decide +kernel
theorem test_partition_reset : after (exec (.partitionReset 0 []) ((second1 .active).modPart 0 (fun p => { p with beatSame := 64 }))) (fun t =>
    ((t.part 0).lk, (t.part 0).standby, (t.part 0).beatSame)) = some (1, 0, 0) := by decide +kernel
theorem test_drained : after (exec (.partitionDrained 1) (second1 .draining)) (fun t => (t.part 1).st) = some .drained := by decide +kernel
theorem test_remap_flip : after (exec .remapFlip flipping) (fun t => (t.remap.core, t.pending, t.tg)) = some ([(0, 8)], none, 1) := by
  decide +kernel
theorem test_remap_idle : after (exec .remapIdle retiring) (fun t => ((t.core 2).retiring, t.phase)) = some (false, 0) := by decide +kernel
/-- The first router takes the new table before the others. -/
def flipDue : State := { flipping with agenda := [.flips 1] }
theorem test_remap_flips_in_parts : after (step flipDue) (fun t => (t.remap.core, t.pending.isSome, t.tg)) = some ([], true, 0) := by
  decide +kernel
theorem test_remap_load :
    after (exec (.remapLoad []) (queuedUpdate true)) (fun t => ((t.core 2).retiring, t.updates.length, t.phase)) = some (false, 0, 0) := by
  decide +kernel
theorem test_remap_confirm : after (exec .remapConfirm (phased 2)) (fun _ => true) = some true := by decide +kernel

theorem witness_partition_remap_events :
    (second1 .active).hasPart 1 = true ∧ (second1 .active).hbmRead ((second1 .active).slotTag 0) ((second1 .active).svc.record + 64) = 0
    ∧ ((second1 .active).part 1).beat = 0 ∧ 64 ≤ ((second1 .active).part 1).beatSame
    ∧ ((second1 .draining).part 1).st = .draining ∧ (∀ e ∈ (second1 .draining).regions, e.2.part ≠ 1)
    ∧ (phased 1).phase = 1 ∧ (phased 1).pending = none ∧ flipping.pending = some ⟨true, [(0, 8)], []⟩ ∧ flipping.phase = 1
    ∧ flipping.acks = flipping.liveSites ∧ (phased 2).phase = 2 ∧ (phased 2).released = true
    ∧ retiring.phase = 3 ∧ retiring.pending = none
    ∧ retiring.acks = retiring.liveSites ∧ (queuedUpdate true).phase = 0 ∧ (queuedUpdate true).updateVoid retireTwo = true
    ∧ (queuedUpdate false).updateVoid retireTwo = false ∧ (queuedUpdate false).updateReady retireTwo = true
    ∧ unansweredUpdate.phase = 1 ∧ unansweredUpdate.acks ≠ unansweredUpdate.liveSites
    ∧ flipDue.thr.pre = [] ∧ (flipping.flipped ||| allRouters) &&& siteSet (fun p => flipping.siteOpen p.1 p.2) = siteSet (fun p => flipping.siteOpen p.1 p.2)
    ∧ (flipping.flipped ||| 1) &&& siteSet (fun p => flipping.siteOpen p.1 p.2) ≠ siteSet (fun p => flipping.siteOpen p.1 p.2)
    ∧ confirming.pending = none ∧ confirming.phase = 2 ∧ confirming.released = true
    ∧ remapEntry 24 0 0 ∈ changedEntries ⟨true, [(2, remapEntry 24 0 0)], []⟩ confirming.remap
    ∧ (remapEntry 24 0 0).getLsbD 31 = true
    ∧ confirming.remap.namesSite (entryPx (remapEntry 24 0 0)) (entryPy (remapEntry 24 0 0)) = false := by
  and_intros <;> decide +kernel

/-- A message from core 0 to core 9 that stands at a site. -/
def flightAt (fr : Freight) (px py : Nat) : Flight := ⟨.core 0, .core 9, true, fr, px, py, 0⟩
def flying1 (fr : Freight) (px py : Nat) : State := { base with flights := [flightAt fr px py] }
def aMessage : Freight := .message 0 (.send (note 0))
def fenced : State := (flying1 aMessage 0 0).setSite 0 0 { (base.site 0 0) with fenced := true }
def unanswered : State := { base with streams := [{ Stream.fresh (.core 0) (.core 9) true with unacked := [(0, .send (note 0))], nextSeq := 1 }] }
/-- A flit, with its check or with another word in its place. -/
def aFlit (lseq : BitVec 16) (k : BitVec 3) (ok : Bool) : Flit :=
  if ok then sealFlit ⟨lseq, 0xFFFF, false, k, 0, 0⟩ else ⟨lseq, 0xFFFF, false, k, 0, 0⟩
def linked : State := base.setWharf 3 { Wharf.clear with sent := [aFlit 0 0 true] }

theorem test_hop : after (exec (.routerHop 0 .east) (flying1 aMessage 0 0)) (fun t => t.flights.map (fun f => (f.px, f.py, f.hops)))
    = some [(1, 0, 1)] ∧ after (exec (.routerHop 0 .east) fenced) (fun t => t.flights.length) = some 0 := by decide +kernel
theorem test_arrival : after (exec (.streamMessageArrival 0) (flying1 aMessage 1 0)) (fun t =>
    ((t.core 9).inbox.length, t.flights.map Flight.freight)) = some (1, [.answer 0]) := by decide +kernel
theorem test_retransmit : after (exec (.retransmitTimeout 0) unanswered) (fun t => t.flights.map Flight.freight) = some [aMessage] := by
  decide +kernel
/-- The check value of CRC-32C (R230): of the nine bytes "123456789". -/
theorem test_crc32c : crc32c 72 0x393837363534333231 = 0xE3069283 := by decide +kernel
theorem test_flits :
    after (exec (.wharfFlitReceive 3 (aFlit 0 0 true)) linked) (fun t => ((t.wharf 3).got, (t.wharf 3).nak)) = some (0, false)
    ∧ after (exec (.wharfFlitReceive 3 (aFlit 0 0 false)) linked) (fun t => ((t.wharf 3).got, (t.wharf 3).out.map Flit.nak)) = some (0xFFFF, [true])
    ∧ after (exec (.wharfResendTimeout 3) linked) (fun t => (t.wharf 3).out.length) = some 1
    ∧ after (exec (.wharfFailure 3) linked) (fun t => (t.wharf 3).live) = some false := by decide +kernel

theorem witness_network_events :
    (flying1 aMessage 0 0).reached (flightAt aMessage 0 0) = false ∧ fenced.siteOpen 0 0 = false
    ∧ (flying1 aMessage 0 0).siteOpen 0 0 = true ∧ 0 < Config.maxHops ∧ neighbour 0 0 .east = some (1, 0)
    ∧ (flying1 aMessage 0 0).siteOpen 1 0 = true ∧ (flying1 aMessage 0 0).mayStep (flightAt aMessage 0 0) .east 1 0 1 0 = true
    ∧ (flying1 aMessage 1 0).reached (flightAt aMessage 1 0) = true ∧ (flying1 aMessage 1 0).overtakes 0 (flightAt aMessage 1 0) = false
    ∧ (flying1 aMessage 0 0).spotOf (flightAt aMessage 0 0) = .site 1 0 ∧ (flying1 aMessage 1 0).siteOpen 1 0 = true
    ∧ (flying1 aMessage 1 0).performs (.core 9) = true
    ∧ (flying1 (.answer 0) 0 0).reached (flightAt (.answer 0) 0 0) = true
    ∧ unanswered.streams[0]?.map (fun t => t.unacked.length) = some 1
    ∧ State.reset.siteOpen 0 0 = true ∧ (State.reset.site 0 0).state ≠ 2
    ∧ (linked.wharf 3).live = true ∧ flitOk (aFlit 0 1 true) = true ∧ flitOk (aFlit 0 1 false) = false ∧ (aFlit 0 1 true).lseq = (linked.wharf 3).got + 1
    ∧ (aFlit 0 1 true).kind = 1 ∧ (aFlit 0 0 true).kind ≠ 1 ∧ (aFlit 0 0 true).kind ≠ 2 ∧ (linked.wharf 3).sent ≠ [] := by
  and_intros <;> decide +kernel
/-- A message q from core 0 stands at the site of core 9, whose stream is as given. -/
def streamAt (ordered : Bool) (expected : BitVec 16) (map : BitVec 64) (resync : Bool) (q : BitVec 16) : State :=
  { base with
    streams := [{ Stream.fresh (.core 0) (.core 9) ordered with expected := expected, map := map, resync := resync }]
    flights := [{ flightAt (.message q (.send (note 0))) 1 0 with ordered := ordered }] }
/-- The message is at an open station that performs it, where its number is `ahead` of the expected one and `back` before it. -/
def arrivesAs (s : State) (ordered resync : Bool) (q : BitVec 16) (ahead back : Nat) (bit : Bool) : Bool :=
  let f := { flightAt (.message q (.send (note 0))) 1 0 with ordered := ordered }
  let t := s.stream f.src f.dst f.ordered
  s.flights[0]? == some f && s.reached f && !s.overtakes 0 f && s.openAt f && s.performs f.dst && t.resync == resync
    && t.ordered == ordered && (q - t.expected).toNat == ahead && (t.expected - q).toNat == back && t.map.getLsbD ahead == bit
theorem witness_arrivals :
    arrivesAs (streamAt true 0 0 true 7) true true 7 7 65529 false = true
    ∧ arrivesAs (streamAt true 7 0 false 7) true false 7 0 0 false = true
    ∧ arrivesAs (streamAt false 7 0 false 7) false false 7 0 0 false = true
    ∧ arrivesAs (streamAt true 7 0 false 8) true false 8 1 65535 false = true
    ∧ arrivesAs (streamAt false 7 (2 ^ 63) false 70) false false 70 63 65473 true = true
    ∧ arrivesAs (streamAt false 7 0 false 8) false false 8 1 65535 false = true
    ∧ arrivesAs (streamAt false 7 0 false 65479) false false 65479 65472 64 false = true
    ∧ arrivesAs (streamAt false 7 0 false 71) false false 71 64 65472 false = true := by
  and_intros <;> decide +kernel
theorem test_arrival_numbers :
    after (exec (.streamMessageArrival 0) (streamAt false 7 2 false 7)) (fun t => t.streams.map (fun x => (x.expected, x.map))) = some [(9, 0)]
    ∧ after (exec (.streamMessageArrival 0) (streamAt true 7 0 false 6)) (fun t => ((t.core 9).inbox.length, t.flights.map Flight.freight))
      = some (0, [.answer 6]) := by
  and_intros <;> decide +kernel
/-- The site of core 9 is fenced; core 9 is in retirement; the table names no place for core 9; and the wharf's flits. -/
def arrivalFenced : State := let s := flying1 aMessage 1 0; s.setSite 1 0 { (s.site 1 0) with fenced := true }
def arrivalRetiring : State := (flying1 aMessage 1 0).modCore 9 (fun c => { c with retiring := true })
def placeless : State := { flying1 aMessage 0 0 with remap := ⟨true, [(9, 0)], []⟩ }
theorem witness_network_cases :
    arrivalFenced.reached (flightAt aMessage 1 0) = true ∧ arrivalFenced.openAt (flightAt aMessage 1 0) = false
    ∧ arrivalFenced.overtakes 0 (flightAt aMessage 1 0) = false ∧ (arrivalRetiring.core 9).retiring = true
    ∧ arrivalRetiring.openAt (flightAt aMessage 1 0) = true ∧ placeless.spotOf (flightAt aMessage 0 0) = .nowhere
    ∧ (flying1 (.answer 0) 0 0).reached { flightAt (.answer 0) 0 0 with dst := .core 0 } = true
    ∧ (flightAt .resync 0 0).freight = .resync ∧ flitOk (aFlit 0 0 true) = true ∧ (aFlit 0 0 true).lseq = (linked.wharf 3).got + 1
    ∧ (aFlit 0 3 true).kind ≠ 0 ∧ (aFlit 0 3 true).kind ≠ 1 ∧ (aFlit 0 3 true).kind ≠ 2 ∧ flitOk (aFlit 0 3 true) = true
    ∧ (aFlit 1 1 true).lseq ≠ (linked.wharf 3).got + 1 ∧ (aFlit 0 2 true).kind = 2 := by
  and_intros <;> decide +kernel
theorem witness_site_death : ∀ ns cs, State.reset.lostTags ns cs = [] := by
  intro ns cs
  simp [State.lostTags, State.reset, State.core, Tab.getD, Tab.find, Core.clear]

/-- A range of function 1 over HBM. -/
def ranged : State := base.setFunc 1 { Func.clear with hdm := [⟨0x100000, 0x10000, 0x1000000, 0, true⟩] }
def powered (n : Nat) : State := { base with boot := ⟨3, n⟩ }
theorem test_host_access :
    after (exec (.cxlMemAccess 1 0x100008 8 (some 0x55)) ranged) (fun t => ((t.cohSector (0x1000000 / 16)).read ⟨0, 0⟩ 8 8).1) = some 0x55
    ∧ after (exec (.cxlMemAccess 1 0x100008 8 none) ranged) (fun t => (t.func 1).readData) = some 0 := by decide +kernel
theorem test_registers :
    after (exec (.nring 1 0x9000) base) (fun t => (t.func 1).nring) = some 0x9000
    ∧ after (exec (.registerWrite 1 8 8 0x0100000000000000) base) (fun t => (t.guast, (t.func 1).done)) = some ([1], false)
    ∧ after (exec (.registerWrite 1 8 8 0x7700000000000000) base) (fun t => (t.guast, (t.func 1).gst)) = some ([], 2)
    ∧ after (exec (.functionReset 1) ranged) (fun t => (t.func 1).done) = some true := by decide +kernel
theorem test_bring_up : after (exec (.sitePowerOn 1) (powered 0)) (fun t => (t.boot.sites, (t.site 0 0).cores)) = some (1, 0x1FE) := by
  decide +kernel
/-- Ranges set from outside wait on the agenda of a machine (R350). -/
def rangesDue : State := { base with agenda := [.ranges 1 [⟨0x10000000, 0x10000000, 0x1000000, 0, true⟩]] }
theorem test_ranges : after (step rangesDue) (fun t => ((t.func 1).hdm.length, t.agenda.length)) = some (1, 0) := by decide +kernel
theorem test_last_site : after (exec (.sitePowerOn 0) (powered 623)) (fun t => (t.boot.step, t.boot.sites, t.updates.length))
    = some (5, 624, 1) := by decide +kernel
theorem test_warm_reset : after (exec .warmReset (running)) (fun t => (t.boot.step, (t.slot 5).root, t.remap.set)) = some (5, none, false) := by
  decide +kernel
theorem witness_host_port_cases :
    rangesDue.thr.pre = [] ∧ (⟨0x10000000, 0x10000000, 0x1000000, 0, true⟩ : Hdm).wf = true ∧ (powered 623).boot.sites + 1 = 624
    ∧ (powered 623).boot.step = 3 ∧ 5 ≤ running.boot.step ∧ ranged.slotSweeping (ranged.slotTag 0) = false ∧ Memory.wf running.mem = true
    ∧ ((asking hbmLeaf .store lane0).func 2).done = true := by
  and_intros <;> decide +kernel
theorem witness_host_port_events :
    ranged.hdmRange 1 0x100008 = some ⟨0x100000, 0x10000, 0x1000000, 0, true⟩ ∧ paKind (0x1000000 + (0x100008 - 0x100000)) = .hbm
    ∧ 0x100008 % 16 + 8 ≤ 16 ∧ (base.func 1).done = true ∧ ((0x0100000000000000 : Word).extractLsb' 56 8).toNat = 1
    ∧ 13 < ((0x7700000000000000 : Word).extractLsb' 56 8).toNat ∧ (powered 0).boot.step = 3 ∧ (powered 0).boot.sites + 1 < 624 := by
  and_intros <;> decide +kernel

/-! ### Guast requests -/

/-- The oldest request is of function f, with an operation and an argument. -/
def asked (s : State) (f op g : Nat) : State :=
  { s.setFunc f { (s.func f) with gop := BitVec.ofNat 8 op, garg := BitVec.ofNat 56 g, done := false } with guast := [f] }
/-- The request as it stands at the head of the list. -/
def isAsked (s : State) (f op g : Nat) : Bool :=
  s.guast == [f] && (s.func f).gop.toNat == op && (s.func f).garg.toNat == g && mayRequest f op
/-- How a request ends. -/
def ends (o : Out) (f : Nat) : Option (List Nat × Nat × Nat) := after o (fun t => (t.guast, (t.func f).gst.toNat, (t.func f).gval.toNat))
def twoParts (st : PartState) : State := asked (second1 st) 0 3 1
/-- A record at 0x100040 of function 1 that registers queue 3 of partition 1's job in slot 5, with its descriptor at 0x10400. -/
def registering (remove : Bool) (queues : List HostQueue) : State :=
  let s := { ranged with parts := ranged.parts ++ [(1, { Part.clear with chiplets := [1], lk := 8, standby := 9, func := 1, queues := queues })],
                         slots := [(5, { KeySlot.clear with part := 1, root := some ⟨0, 5⟩ })] }
  let s := s.modCore 8 (fun c => { c with tlb := [⟨⟨0, 5⟩, 1, { hbmLeaf with key := 5 }, []⟩] })
  let s := s.cohWrite 0 ⟨0, 0⟩ 0x1000040 16 ((3 + 5 * 2 ^ 8 + if remove then 2 ^ 16 else 0) + 0x10400 * 2 ^ 64) (some 0) false
  asked s 1 0x0D 0x100040
def queue3 : HostQueue := ⟨1, 3, 5, 0, 0x10400, [0, 0], false, none, 0⟩

theorem test_request_not_allowed : ends (exec .setPower (asked base 1 0x0A 15000)) 1 = some ([], 1, 0) := by decide +kernel
theorem test_drain_requests :
    after (exec .drain (asked (second1 .active) 1 1 0)) (fun t => (t.part 1).st) = some .draining
    ∧ after (exec .undrain (asked (second1 .drained) 1 2 0)) (fun t => (t.part 1).st) = some .active
    ∧ after (exec .online (asked (second1 .offline) 0 4 1)) (fun t => (t.part 1).st) = some .active
    ∧ ends (exec .drain (asked (second1 .drained) 1 1 0)) 1 = some ([], 1, 0) := by decide +kernel
theorem test_offline : after (exec .offline (twoParts .drained)) (fun t => (t.part 1).st) = some .offline := by decide +kernel
theorem test_settings :
    after (exec .setAge (asked base 0 6 (256 * 5000))) (fun t => ((t.part 0).age, (t.func 0).gval)) = some (5000, 1048576)
    ∧ after (exec .setStrength (asked base 0 7 (3 + 2 ^ 10 * 4 + 2 ^ 16))) (fun t => ((t.chip 3).bank 4).strength) = some true
    ∧ after (exec .setTout (asked base 0 8 50000)) (fun t => (t.tout, (t.func 0).gval)) = some (50000, 40000)
    ∧ after (exec .setPower (asked base 0 0x0A 15000)) (fun t => t.power) = some 15000 := by decide +kernel
theorem test_retire_request : after (exec .retireCore (asked base 0 9 2)) (fun _ => true) = some true := by
  decide +kernel
theorem test_fabric_requests :
    after (exec .setFabricSlot (asked base 0 0x0B (5 + 2 ^ 6 * 7 + 2 ^ 18 * 9 + 2 ^ 24 * 11 + 2 ^ 40))) (fun t => (t.slot 5).fabric)
      = some (some (7, 9, 11))
    ∧ after (exec .setFabricAdmission (asked base 0 0x0B (5 + 2 ^ 6 * 7 + 2 ^ 18 * 9 + 2 ^ 40 + 2 ^ 52))) (fun t => (t.slot 5).allowed)
      = some [(7, 9)]
    ∧ after (exec .setFabricSendAdmission (asked base 0 0x0B (2 ^ 7 * 7 + 2 ^ 40 + 2 * 2 ^ 52))) (fun t => (t.part 0).allowed) = some [7]
    ∧ after (exec .setFabricRoute (asked base 0 0x0B (7 + 2 ^ 12 * 3 + 3 * 2 ^ 52))) (fun t => t.routes) = some [(7, 3)] := by
  decide +kernel
theorem test_survey_now : after (exec .surveyNow (asked base 1 0x0C 0)) (fun _ => true) = some true := by
  decide +kernel
theorem test_queue_requests_of_host :
    after (exec .setQueueRegister (registering false [])) (fun t => ((t.part 1).queues.map HostQueue.desc, (t.func 1).gst))
      = some ([0x10400], 0)
    ∧ after (exec .setQueueRemove (registering true [queue3])) (fun t => ((t.part 1).queues.length, (t.func 1).gst)) = some (0, 0) := by
  decide +kernel
theorem test_kill_job : after (exec .killJob (asked running 0 5 5)) (fun t => ((t.slot 5).root, (t.func 0).gst)) = some (none, 0) := by
  decide +kernel

theorem witness_guast_requests :
    (asked base 1 0x0A 15000).guast = [1] ∧ ((asked base 1 0x0A 15000).func 1).gop.toNat = 0x0A ∧ mayRequest 1 0x0A = false
    ∧ isAsked (asked (second1 .active) 1 1 0) 1 1 0 = true ∧ (second1 .active).hasPart 1 = true
    ∧ isAsked (asked (second1 .drained) 1 2 0) 1 2 0 = true ∧ isAsked (twoParts .drained) 0 3 1 = true
    ∧ ((twoParts .drained).part 1).st = .drained ∧ isAsked (asked (second1 .offline) 0 4 1) 0 4 1 = true
    ∧ isAsked (asked running 0 5 5) 0 5 5 = true ∧ (running.slot 5).root.isSome = true ∧ (base.slot 5).root = none
    ∧ isAsked (asked base 0 6 (256 * 5000)) 0 6 (0 + 256 * 5000) = true ∧ base.hasPart 0 = true
    ∧ isAsked (asked base 0 7 (3 + 2 ^ 10 * 4 + 2 ^ 16)) 0 7 (3 + 2 ^ 10 * 4 + if true then 2 ^ 16 else 0) = true
    ∧ isAsked (asked base 0 8 10000) 0 8 10000 = true ∧ isAsked (asked base 0 9 2) 0 9 2 = true
    ∧ (base.core 2).retiring = false ∧ base.siteSpare 2 = some 8
    ∧ isAsked (asked base 0 0x0A 21000) 0 0x0A 21000 = true
    ∧ isAsked (asked base 0 0x0B (5 + 2 ^ 6 * 7 + 2 ^ 18 * 9 + 2 ^ 24 * 11 + 2 ^ 40)) 0 0x0B
        ((5 : BitVec 6).toNat + 2 ^ 6 * (7 : BitVec 12).toNat + 2 ^ 18 * (9 : BitVec 6).toNat + 2 ^ 24 * (11 : BitVec 16).toNat
          + if true then 2 ^ 40 else 0) = true
    ∧ isAsked (asked base 1 0x0C 0) 1 0x0C 0 = true ∧ isAsked (registering true [queue3]) 1 0x0D 0x100040 = true
    ∧ ((registering false []).regRecord 1 0x100040).isSome = true
    ∧ (match (registering false []).regRecord 1 0x100040 with
      | some ws => recordOk ws && decide ((registering false []).keyJob 1 ws = some ⟨0, 5⟩)
          && (registering false []).descTranslates 1 ⟨0, 5⟩ (newQueue 1 ws).vahi (newQueue 1 ws).desc
          && !(wordAt 0 ws).getLsbD 16 && ((registering false []).findQueue 1 1 (newQueue 1 ws).num).isNone
      | none => false) = true
    ∧ (registering true [queue3]).findQueue 1 1 3 = some queue3 ∧ (registering true [queue3]).queueIdle 1 queue3 = true := by
  and_intros <;> decide +kernel
theorem witness_core_without_spare : ({ base with sites := [(siteKey 0 0, ⟨true, 0xFF, false, 0⟩)] } : State).siteSpare 2 = none := by
  decide +kernel

/-! ### The machine -/

/-- Core 0 runs the word w. -/
def fetching (w : Nat) : State := State.reset.loadWord w
/-- The word w in a captured frame of three instructions run again twice, at the second one in the first pass. -/
def framed (w : Nat) : State := (fetching w).modThread 0 0 (fun t => { t with repA := true, repFrm := 0x212345, repJ := 1, repI := 1 })

theorem test_step_runs : after (step (fetching 0x2001ABCD)) (fun t => (((t.core 0).reg 1).val, (t.thread 0 0).pc))
    = some (0xFFFFFFFFFFFFABCD, home + 4) := by decide +kernel
theorem test_step_no_instruction : after (step (fetching 0)) (fun t => ((t.thread 0 0).st, (t.thread 0 0).hcode)) = some (.halted, 1) := by
  decide +kernel
theorem test_step_prefix : after (step (fetching 0x7E012345)) (fun t => (t.thread 0 0).pre) = some [0x012345] := by decide +kernel
theorem test_bubble : after (step State.reset) (fun t => ((t.core 0).cycle, (t.core 0).ctxs.length)) = some (1, 0) := by decide +kernel

/-- A slot of `s` goes to a thread, whose fetch answers as `f` says. -/
def fetches (s : State) (f : Except WalkFault (IWord × Bool) → Bool) : Bool :=
  s.thr.pre.isEmpty && s.agenda.isEmpty
    && (match s.beginSlot s.turn with
      | (t, true) => f (t.fetchWord t.cur t.thr t.thr.opw)
      | _ => false)
def marked : State := { fetching 0x2001ABCD with poison := [(localPa 0 0 / 16, true)] }
def lost : State := (fetching 0x2001ABCD).modThread 0 0 (fun t => { t with pc := 0x10000 })
def prefixed : State := (fetching 0x2001ABCD).modThread 0 0 (fun t => { t with pre := [1], pc := home - 4 })

theorem witness_step_runs :
    fetches (fetching 0x2001ABCD) (fun x => match x with
      | .ok (w, p) => !p && (match decode w with | .ok i => decide (i = .movi false 1 0xABCD) | .error _ => false)
      | .error _ => false) = true
    ∧ ((fetching 0x2001ABCD).thread 0 0).repA = false
    ∧ fetches (framed 0x01010203) (fun x => match x with
      | .ok (w, p) => !p && (match decode w with | .ok _ => true | .error _ => false) && arithmeticOp (opOf w)
      | .error _ => false) = true
    ∧ adjustWord 0x01010203 0x212345 1 = none ∧ arithmeticOp (opOf 0x01010203) = true
    ∧ adjustWord 0x01010203 0x200400 1 = some 0x01020203 ∧ (match decode 0x01020203 with | .ok _ => true | .error _ => false) = true
    ∧ fetches (fetching 0) (fun x => match x with
      | .ok (w, p) => !p && (match decode w with | .ok _ => false | .error _ => true)
      | .error _ => false) = true
    ∧ fetches marked (fun x => match x with | .ok (_, p) => p | .error _ => false) = true
    ∧ fetches lost (fun x => match x with | .ok _ => false | .error _ => true) = true
    ∧ prefixed.thr.pre ≠ [] ∧ prefixed.thr.repA = false
    ∧ (match prefixed.fetchWord prefixed.cur prefixed.thr prefixed.thr.opw with
      | .ok (w, p) => !p && (match decode w with | .ok _ => true | .error _ => false)
      | .error _ => false) = true
    ∧ ({ State.reset with agenda := [.event .surveyRefresh] } : State).agenda = .event .surveyRefresh :: [] := by
  and_intros <;> decide +kernel
theorem witness_event_has_no_word : encode .surveyRefresh = none := rfl

theorem witness_slot :
    ((fetching 0x7C000000).beginSlot 0).2 = true ∧ State.reset.thr.pre = [] ∧ State.reset.agenda = []
    ∧ (∀ x, x < (State.reset.core State.reset.turn).n → (State.reset.thread State.reset.turn x).st ≠ .runnable) := by
  and_intros <;> decide +kernel
theorem witness_advance :
    (Ctx.free).repA = false ∧ Ctx.free.lpD = 0 ∧ ({ Ctx.free with lpD := 1 } : Ctx).le0 = Ctx.free.opw
    ∧ ({ Ctx.free with lpD := 2 } : Ctx).le1 = Ctx.free.opw ∧ 1 < ({ Ctx.free with lc1 := 2 } : Ctx).lc1.toNat
    ∧ ({ Ctx.free with repA := true } : Ctx).repI = ({ Ctx.free with repA := true } : Ctx).repFrm.extractLsb' 20 4
    ∧ ({ Ctx.free with repA := true, repFrm := 0x304000 } : Ctx).repI ≠ (0x304000 : BitVec 24).extractLsb' 20 4
    ∧ ({ Ctx.free with repA := true, repFrm := 0x004000 } : Ctx).repJ ≠ (0x004000 : BitVec 24).extractLsb' 14 6 := by
  and_intros <;> decide +kernel

/-- A thread about to run an instruction after a prefix, inside a frame, without privilege, or beyond context 0. -/
def afterPrefix : State := withThread (fun t => { t with pre := [1] })
def inFrame : State := withThread (fun t => { t with repA := true })
def unprivileged : State := withThread (fun t => { t with priv := false })
def unaligned : State := withRegs [(1, 0x10003)]

theorem test_checks :
    fault (.nop false) afterPrefix = some 1 ∧ fault (.waitm false) inFrame = some 5 ∧ fault (.repart false 1 2) unprivileged = some 3
    ∧ fault (.rdctl false 1 0) unprivileged ≠ none ∧ fault (.add false 1 1 0xFF) base = some 2
    ∧ fault (.ldW false 2 1 0) unaligned = some 6 ∧ fault (.jr false 1) unaligned = some 6 := by decide +kernel
theorem witness_checks :
    encode (.waitm false) ≠ none ∧ takesPrefix 0x00 = false ∧ afterPrefix.thr.pre ≠ [] ∧ afterPrefix.thr.repA = false
    ∧ (encode (.waitm false)).map (fun w => (opOf w != 0x7E, takesPrefix (opOf w), arithmeticOp (opOf w))) = some (true, false, false)
    ∧ inFrame.thr.repA = true ∧ inFrame.thr.pre = [] ∧ unprivileged.plain ∧ unprivileged.thr.priv = false
    ∧ base.plain ∧ base.thr.priv = true ∧ inSecond.plain ∧ inSecond.ctx ≠ 0 ∧ base.ctx ≠ 1
    ∧ writable base.thr.size 1 = true ∧ readable base.thr.size 0xFF = false
    ∧ unaligned.canUse [1] [] ∧ (unaligned.value 1).p = false ∧ (unaligned.address (unaligned.value 1).v 4 0).toNat % 4 ≠ 0
    ∧ outWritable unaligned.thr.size 2 = true ∧ (unaligned.value 1).v.toNat % 4 ≠ 0 := by
  and_intros <;> first
    | decide +kernel
    | exact ⟨rfl, rfl⟩
    | rfl
theorem witness_guarded : ∃ k : BitVec 8, k.toNat ≤ 9 ∧ guarded k.toNat = true := ⟨7, by decide +kernel⟩

/-- Register 1 is marked poisoned. -/
def poisoned : State := (withRegs [(1, 0x10000)]).modCore 0 (fun c => c.setReg 1 { (c.reg 1) with poison := true })
/-- The last port is linked to core 1. -/
def portOut : State := { poisoned.modCore 0 (fun c => { c with links := [(0xA1, 1), (0xA2, 1), (0xA3, 1), (0xA4, 1), (0xA5, 1)] }) with
  cores := Tab.set (poisoned.modCore 0 (fun c => { c with links := [(0xA1, 1), (0xA2, 1), (0xA3, 1), (0xA4, 1), (0xA5, 1)] })).cores 1
    { Core.clear with links := [(0xA1, 0), (0xA2, 0), (0xA3, 0), (0xA4, 0), (0xA5, 0)] } }
theorem test_poison_consumed : after (exec (.ldD false 2 1 0) poisoned) (fun t => ((t.core 0).sealed, (t.part 0).recs.map FaultRec.code))
    = some (true, [0x22]) := by decide +kernel
theorem witness_poison :
    poisoned.canUse [1, 2] [] ∧ (poisoned.value 1).p = true ∧ poisoned.thr.repA = false ∧ poisoned.thr.pre = []
    ∧ poisoned.canUse [1] [] ∧ outWritable poisoned.thr.size 2 = true ∧ poisoned.thr.releases = []
    ∧ (poisoned.address (poisoned.value 1).v 8 0).toNat % 8 = 0
    ∧ (outFifo 0xA2).isSome = true ∧ portOut.canUse [1, 2] [0xA2] ∧ (portOut.value 1).p = true
    ∧ poisoned.partOfCore 0 = some 0 := by
  and_intros <;> decide +kernel

theorem witness_register_frame :
    (registerOnly (.add false 3 1 2)).isSome = true ∧ registerOnly (.add false 3 1 2) = some 3
    ∧ after (exec (.add false 3 1 2) base) (fun t => (t.core 0).sealed) = some false
    ∧ raisesNoFlag (.add false 3 1 2) = true ∧ registerOnly (.fdivD false 3 1 2) = some 3
    ∧ after (exec (.fdivD false 3 1 2) base) (fun t => (t.core 0).sealed) = some false := by
  and_intros <;> decide +kernel
theorem witness_store_frame :
    (storeOf (.stD false 4 1 0)).isSome = true ∧ places.thr.releases = []
    ∧ after (exec (.stD false 4 1 0) places) (fun t => t.physRead ⟨0, 0⟩ (localPa 0 0xFFFFFFFFFFFF0100) 8) = some 0x10000
    ∧ (places.vectorStore (.vst false 1 1 0 .fp32 false)).isSome = true
    ∧ after (exec (.vst false 1 1 0 .fp32 false) places) (fun t => t.thr.st) = some .runnable
    ∧ (loadOf (.ldD false 5 1 0)).isSome = true ∧ after (exec (.ldD false 5 1 0) places) (fun t => t.thr.st) = some .runnable
    ∧ (places.vectorLoad (.vld false 1 1 0 .fp32 false)).isSome = true
    ∧ after (exec (.vld false 1 1 0 .fp32 false) places) (fun t => t.thr.st) = some .runnable := by
  and_intros <;> decide +kernel
theorem witness_tagged :
    Memory.wf base.mem = true ∧ Tab.wf base.otag = true ∧ Tab.wf base.poison = true ∧ base.tagCurrent ⟨0, 0⟩ = true
    ∧ base.tagCurrent ⟨0, 1⟩ = false ∧ (0x1000008 : Nat) / 16 = (0x1000008 + 8 - 1) / 16 ∧ (0x1000008 : Nat) % 8 = 0
    ∧ ({ base with slots := [(5, { KeySlot.clear with gen := 0xFFFF })] } : State).slot 5 = { KeySlot.clear with gen := 0xFFFF } := by
  and_intros <;> decide +kernel
theorem witness_round_trip :
    (Instr.add false 3 1 2).wf = true ∧ encode (.add false 3 1 2) = some 0x01030102 ∧ decode 0x01030102 = .ok (.add false 3 1 2) := by
  decide +kernel
theorem witness_memory_kept : Memory.wf base.mem = true ∧ Tab.wf base.otag = true ∧ Tab.wf base.poison = true
    ∧ after (step base) (fun t => t.thr.pc) = some (home + 4) := by
  and_intros <;> decide +kernel
/-- The step runs a word that the host places, as the first instruction after reset. -/
theorem test_with_fetch_word : after (step (State.reset.withFetchWord 32 0x7C000000)) (fun t => (t.thread 0 0).pc) = some (home + 4) := by
  decide +kernel
theorem test_decode_table_word : decodeTableWord 32 0x01030201 = some (.add false 3 2 1) ∧ decodeTableWord 32 0 = none := by
  decide +kernel

/-! ### Witnesses: the remaining hypotheses of the statements about events -/

theorem witness_thread_events_rest :
    (∀ r ∈ granted.reqs, r.out ≠ some 1) ∧ ([] : List Piece) ++ [] = []
    ∧ ((note 0x280000).desc.extractLsb' 19 7).toNat < ((sent 0x280000).thread 0 ((note 0x280000).desc.extractLsb' 13 6).toNat).size
    ∧ ((sent 0x6000).core 0).inbox = .send (note 0x6000) :: [] ∧ (note 0x6000).panel = none ∧ (note 0x6000).priv = false
    ∧ (note 0x6000).core ≠ 0 ∧ ((note 0x6000).desc.extractLsb' 13 6).toNat = 3
    ∧ ((sent 0x4000000).core 0).inbox = .send (note 0x4000000) :: []
    ∧ (refusals.core 0).waitNotice = letter :: [] ∧ (refusals.core 0).waitSend = letter :: [] := by
  and_intros <;> decide +kernel
def bargeWaiting : State := withCore (fun c => { c with bargeWait := [aBarge] })
theorem witness_barge_rest :
    (bargeWaiting.core 0).bargeWait = aBarge :: [] ∧ bargeWaiting.partOfCore 0 = some 0 ∧ (bargeWaiting.part 0).freeHold = some 0
    ∧ (bargeWaiting.core 0).inRepart = false ∧ (bargeWaiting.core 0).hasBarge = false
    ∧ ((bargeCore [] [aBarge]).core 0).bargeq = aBarge :: [] ∧ ((bargeCore [] [aBarge]).core 0).sealed = false := by
  and_intros <;> decide +kernel
theorem witness_access_rest :
    (∃ r, unmapped.findReq 8 = some r ∧ r.lanes[0]? = some lane0 ∧ r.kind.isAccess = true ∧ lane0.done = false
      ∧ unmapped.goes r = true ∧ (unmapped.firstFault r).isSome = true ∧ (unmapped.thread r.core r.ctx).st = .runnable)
    ∧ (∃ r, oldHome.findReq 8 = some r ∧ r.lanes = [lane0] ∧ r.homes = [some 5] ∧ oldHome.target r lane0 = .ok (hbmLeaf, 0x1000008))
    ∧ (request 8 (.load 3 true) [lane0] (some 7)).out = some 7 ∧ localLeaf.c = false := by
  refine ⟨⟨_, rfl, ?_⟩, ⟨_, rfl, ?_⟩, ?_, ?_⟩ <;> decide +kernel
theorem witness_atomic_rest :
    (ReqKind.amo 0 3 5).isAtomic = true ∧ ReqKind.isWrite .store = true ∧ paKind (ubBase + 8) = .unbacked
    ∧ ({ base with redsets := [aSet] } : State).redsets[0]? = some aSet ∧ 0x1000 % 64 = 0
    ∧ (crowded.chooseUb (crowded.homeOf ubLeaf (ubBase + 8)) 0).isSome = true
    ∧ (crowded.reach true ubLeaf (ubBase + 8) (crowded.chooseUb (crowded.homeOf ubLeaf (ubBase + 8)) 0)).isSome = true
    ∧ Tab.find (ubState .resident 9).ub lineNo = some ⟨.resident, 9, ⟨0, 0⟩, some 0, 0⟩ := by
  and_intros <;> decide +kernel
/-- Unit 0 with one arrival of two, and the second on its way. -/
def lastArrival : State :=
  owing.modCore 0 (fun c => { c with barq := [arrival 2], units := [(0, barUnitOf 2 false)] })
theorem witness_sync_rest :
    (answering.part 0).scopeWork = some ⟨0, 0, 1, []⟩ ∧ barUnit (arrival 3).a1 = 0
    ∧ Tab.find ((barrier 0x100 3).core 0).units 0 = some (barUnitOf 3 false) ∧ (barUnitOf 3 false).complete = false
    ∧ ((barrier 0x100 3).core 0).sealed = false
    ∧ lastArrival.nextArrival 0 = some (arrival 2) ∧ (lastArrival.core 0).sealed = false ∧ barUnit (arrival 2).a1 = 0
    ∧ Tab.find (lastArrival.core 0).units 0 = some (barUnitOf 2 false) ∧ (barUnitOf 2 false).complete = false
    ∧ (barrier 0x200 3).nextArrival 0 = some { arrival 3 with a0 := 0x200 } ∧ ((barrier 0x200 3).core 0).sealed = false
    ∧ Tab.find ((barrier 0x200 3).core 0).units 0 = some (barUnitOf 3 false)
    ∧ ((barrier 0x200 3).thread 0 0).st = .runnable ∧ (∃ o ∈ ((barrier 0x200 3).thread 0 0).outst, o.id = 1)
    ∧ ((bankAsking 8).chip 0).breqs = bankAsk 8 :: [] ∧ (bankAsking 8).bankAccessBefore 0 (bankAsk 8) = false := by
  and_intros <;> decide +kernel
theorem witness_buffer_rest :
    (∃ r, (bufState (.bufacq 3 false) [twoSlots .full .free [8] [] false]).findReq 8 = some r ∧ r.kind = .bufacq 3 false ∧ r.out = some 7)
    ∧ (∃ r, (bufState (.bufacq 3 true) [twoSlots .free .free [] [8] true]).findReq 8 = some r ∧ r.kind = .bufacq 3 true ∧ r.out = some 7)
    ∧ (((bufState (.bufacq 3 false) [twoSlots .full .free [8] [] false]).chip 0).bank 3).buf 0 = some (twoSlots .full .free [8] [] false)
    ∧ (((bufState (.bufacq 3 true) [twoSlots .free .free [] [8] true]).chip 0).bank 3).buf 0 = some (twoSlots .free .free [] [8] true)
    ∧ (((bufState (.bufacq 3 false) [twoSlots .free .free [] [] false]).chip 0).bank 3).buf 0 = some (twoSlots .free .free [] [] false)
    ∧ ((0x20001 : Word).extractLsb' 16 9).toNat ≠ 0 := by
  refine ⟨⟨_, rfl, ?_⟩, ⟨_, rfl, ?_⟩, ?_⟩
  · decide +kernel
  · decide +kernel
  · and_intros <;> decide +kernel
theorem witness_copy_rest :
    (copyOp 0 0x300000).mute = false ∧ 0 < (copyOp 0 0x300000).total ∧ ((row 0x20000).elem 0).toNat % 8 = 0
    ∧ (copyOp 2 0x300000).mute = false ∧ (copyOp 2 0x300000).pairNo = none ∧ (copyOp 2 0x300000).fault = none
    ∧ (copying 2).paused (copyOp 2 0x300000) = false ∧ (copyOp 2 0x300000).ended = none ∧ (copyOp 2 0x300000).refused = false
    ∧ (copyOp 2 0x300000).written = 0 ∧ (copyOp 2 0x300000).twin = none ∧ (copyOp 2 0x300000).target < 64
    ∧ (copyOp 2 0x300000).total < 2 ^ 32 ∧ (copyOp 2 0x300000).oor < 2 ^ 24
    ∧ inRow.fault = none ∧ inRow.ended = false ∧ (inRow.pat.elem inRow.next).toNat % 8 = 0
    ∧ (outOp 0 false [(0x66, false)]).core = 0 ∧ (outOp 0 false [(0x66, false)]).runs = true ∧ (outOp 0 false [(0x66, false)]).mute = false
    ∧ (draining 0 false [(0x66, false)]).paused (outOp 0 false [(0x66, false)]) = false
    ∧ (draining 1 true []).op 4 = some (outOp 1 true []) ∧ (draining 1 true []).paused (outOp 1 true []) = false
    ∧ (outOp 1 true []).pairNo = none ∧ (outOp 1 true []).ended = none ∧ (outOp 1 true []).buf = [] ∧ (outOp 1 true []).target < 64
    ∧ (outOp 1 true []).next < 2 ^ 32 := by
  and_intros <;> decide +kernel
theorem witness_matrix_rest :
    ({ rowStream 4 5 with claimed := 2 } : InBind).ended = false ∧ ({ rowStream 4 5 with claimed := 2 } : InBind).buf = (5, false) :: []
    ∧ ((stepping mmaHead).core 0).sealed = false ∧ ((stepping bindHead).core 0).mxq = mxEntry bindHead :: []
    ∧ ((fullRows mmaHead 2).core 0).mxq = mxEntry mmaHead :: [] ∧ ((fullRows mmasHead 2).core 0).mxq = mxEntry mmasHead :: []
    ∧ ((stepping mreadHead).core 0).mxq = mxEntry mreadHead :: [] ∧ (mxEntry mreadHead).out = some 1 := by
  and_intros <;> decide +kernel

/-! ### Witnesses: the remaining hypotheses of the statements about regions, errors and the network -/

theorem witness_region_rest :
    ((triggered 0 0x10000).modPart 0 (fun p => { p with launches := [aLaunch true] })).trigger 0 0 0x10000 0 2 0 ⟨0, 0⟩ []
    ∧ ((poke (triggered 0 0x10000) 0x70 2).modPart 0 (fun p => { p with launches := [aLaunch false] })).trigger 0 0 0x10000 0 2 0 ⟨0, 0⟩ []
    ∧ (poke (triggered 0 0x10000) 0x68 3).trigger 0 0 0x10000 0 2 0 ⟨0, 0⟩ []
    ∧ (aLaunch false).is ⟨0, 0⟩ 0 0x10000 = true ∧ (aLaunch false).ready = false ∧ (aLaunch true).ready = true
    ∧ { aRegion with st := RegionState.waiting, tasks := [] }.st = .waiting
    ∧ ((idlePart false).core 2).ended = false ∧ ((idlePart false).thread 2 0).wake = false ∧ ((idlePart false).core 2).sealed = false
    ∧ ((idlePart false).core 2).stopped = false
    ∧ Tab.find (idlePart true).regions 1 = some aRegion ∧ aRegion.st = .running ∧ (idlePart true).redsets = [] := by
  and_intros <;> first | decide +kernel | exact ⟨false, by decide +kernel⟩
theorem witness_error_rest :
    (paired 8).pairs[0]? = some (pairOf false 7) ∧ (paired 7).pairs.find? (fun x => x.twins (pairOf false 7)) = some (pairOf true 7)
    ∧ (pairOf false 7).hash = (pairOf true 7).hash ∧ single.pairs[0]? = some (pairOf false 7) ∧ (pairOf false 7).twin = false
    ∧ ((failedIn false).core 2).sealed = true ∧ (failedIn false).updates.any (Update.restarts 2) = false
    ∧ (failedIn false).spareFree (8 / 9 / 24) (8 / 9 % 24) (8 % 9) = true ∧ Tab.find (failedIn false).regions 1 = some { aRegion with f := { aRegion.f with paired := false } }
    ∧ Tab.find (failedIn true).regions 1 = some { aRegion with f := { aRegion.f with paired := true } } := by
  and_intros <;> decide +kernel
/-- The site to which the flight would go is fenced. -/
def fencedEast : State := (flying1 aMessage 0 0).setSite 1 0 { (base.site 1 0) with fenced := true }
theorem witness_network_rest :
    fenced.flights[0]? = some (flightAt aMessage 0 0) ∧ fenced.reached (flightAt aMessage 0 0) = false
    ∧ fencedEast.flights[0]? = some (flightAt aMessage 0 0) ∧ fencedEast.reached (flightAt aMessage 0 0) = false
    ∧ fencedEast.siteOpen 0 0 = true ∧ fencedEast.siteOpen 1 0 = false ∧ fencedEast.mayStep (flightAt aMessage 0 0) .east 1 0 1 0 = true
    ∧ (flying1 .resync 0 0).reached (flightAt .resync 0 0) = true ∧ (flying1 .resync 0 0).overtakes 0 (flightAt .resync 0 0) = false
    ∧ (flying1 (.answer 0) 0 0).overtakes 0 (flightAt (.answer 0) 0 0) = false
    ∧ (flying1 .resync 0 0).openAt (flightAt .resync 0 0) = true ∧ (flying1 .resync 0 0).siteOpen 0 0 = true
    ∧ (aFlit 0 0 true).lseq = (linked.wharf 3).got + 1 ∧ (aFlit 5 0 true).lseq ≠ (linked.wharf 3).got + 1 := by
  and_intros <;> decide +kernel

/-! ### Witnesses: further cases of the statements -/

/-- Core 0 with a full SEND queue, and core 0 alone in the first copy of a PAIRED region. -/
def sendsFull : State := withCore (fun c => { c with sendq := List.replicate Config.sendQueueEntries (note 0) })
def pairedSender : State :=
  { withCore (fun c => { c with region := 2 }) with
    regions := [(1, { aRegion with tasks := [0], copy := [2], f := { aRegion.f with paired := true } })] }
theorem test_send_waits :
    after (exec (.send false 1 2) sendsFull) (fun t => (t.thr.pc, (t.core 0).sendq.length)) = some (home, Config.sendQueueEntries)
    ∧ after (exec (.send false 1 2) (pairedSender.modCore 0 (fun c => c.setReg 1 ⟨9, true, false, false⟩))) (fun t =>
      ((t.core 0).sendq.length, t.pairs.map PairMsg.count)) = some (0, [0]) := by
  and_intros <;> decide +kernel
theorem witness_send_cases :
    Config.sendQueueEntries ≤ sendsFull.sendq.length ∧ sendsFull.plain ∧ sendsFull.thr.releases = []
    ∧ pairedSender.nextPair pairedSender.cur = some 0 ∧ pairedSender.sameCopy 0 (pairedSender.twinTarget 0 9) = false
    ∧ pairedSender.sameCopy 0 (pairedSender.twinTarget 0 0) = true ∧ pairedSender.plain
    ∧ (2 ^ 47 + 5 * 2 ^ 48 : Word).getLsbD 47 = true ∧ (2 ^ 47 + 5 * 2 ^ 48 : Word).extractLsb' 48 12 ≠ base.panel
    ∧ 0x80 < (0x7F : Reg).toNat + 2 ∧ base.thr.size < (0x7E : Reg).toNat + 4 := by
  refine ⟨by decide +kernel, ⟨rfl, rfl⟩, rfl, ?_⟩
  and_intros <;> first | decide +kernel | rfl

theorem test_control_cases :
    fault (.wrctl false 5 1) unprivileged = some 3 ∧ fault (.wrctl false 8 1) inSecond = some 4
    ∧ after (exec (.wrctl false 5 1) (withRegs [(1, 2 ^ 63 + 0x212345 * 2 ^ 32 + 3 * 2 ^ 24 + 2 * 2 ^ 16)])) (fun t =>
      (t.thr.repA, t.thr.repFrm, t.thr.repJ, t.thr.repI, t.thr.pc)) = some (true, 0x212345, 3, 2, home + 4)
    ∧ after (exec (.wrctl false 6 1) (withRegs [(1, 1)])) (fun t => (t.thr.lpD, t.thr.pc)) = some (1, home + 4) := by
  and_intros <;> decide +kernel
/-- A privileged thread that is not context 0. -/
def privilegedSecond : State := inSecond.modThr (fun t => { t with priv := true })
theorem witness_control_cases :
    (9 : Nat) < (10 : BitVec 8).toNat ∧ unprivileged.plain ∧ guarded (7 : BitVec 8).toNat = true ∧ unprivileged.thr.priv = false
    ∧ readable unprivileged.thr.size 1 = true ∧ writable unprivileged.thr.size 3 = true ∧ privilegedSecond.plain
    ∧ privilegedSecond.ctx ≠ 0 ∧ readable privilegedSecond.thr.size 1 = true
    ∧ (2 ^ 63 : Word).getLsbD 63 = true ∧ base.thr.lpD < min ((1 : Word).toNat % 4) 2
    ∧ (base.thr.imm (0 : BitVec 16)).toInt ≤ 0 := by
  refine ⟨by decide +kernel, ⟨rfl, rfl⟩, ?_⟩
  and_intros <;> first | decide +kernel | rfl

/-- A queue whose owner counts its cores at `b`. -/
def owned (b bits : Word) (asked : Word) : State :=
  let s := queueState (.qsteal 3 asked) 1 1
  ((s.modCore 0 (fun c => { c with tlb := c.tlb ++ [⟨⟨0, 0⟩, 2, leafAt 0x1010000 false false, []⟩] })).hbmWrite ⟨0, 0⟩ 0x1000008 b).hbmWrite
    ⟨0, 0⟩ 0x1010010 bits
theorem test_steal_of_other_queue :
    after (exec (.qstealCommand 8) (owned 0x20000 0 0x20040)) (fun t => t.thr.hcode) = some 0x1F
    ∧ after (exec (.qstealCommand 8) (owned 0x20000 0 0x20000)) (fun t => t.thr.outst.map Outst.pieces)
      = some [[.reg 3 3 false, .reg 4 0 false, .reg 5 0 false]]
    ∧ after (exec (.qstealCommand 8) (owned 0x20000 1 0x20000)) (fun t => t.thr.outst.map Outst.pieces)
      = some [[.reg 3 0 false, .reg 4 0xAB false, .reg 5 0 false]] := by
  and_intros <;> decide +kernel
theorem witness_steal_cases :
    (match (owned 0x20000 1 0x20000).tryQueue 8 with
      | .ok r q => decide (q.barva = 0x20000 ∧ r.kind = .qsteal 3 0x20000) && (match (owned 0x20000 1 0x20000).loadD
          ⟨r.core, r.root, r.vahi, r.priv⟩ (0x20000 + 16) with
        | .ok (_, w) => w.getLsbD q.owner
        | .error _ => false)
      | _ => false) = true
    ∧ (match (owned 0x20000 0 0x20000).tryQueue 8 with
      | .ok r q => (match (owned 0x20000 0 0x20000).loadD ⟨r.core, r.root, r.vahi, r.priv⟩ (0x20000 + 16) with
        | .ok (_, w) => !w.getLsbD q.owner
        | .error _ => false)
      | _ => false) = true := by
  and_intros <;> decide +kernel
theorem witness_buffer_cases :
    (match (bufState (.bufinit 0) [twoSlots .free .free [] [] false]).tryBuf 8 with
      | .ok r chip bank off => decide (r.kind = .bufinit 0 ∧ chip = 0 ∧ bank = 3 ∧ off = 0
          ∧ (bufState (.bufinit 0) [twoSlots .free .free [] [] false]).bufinitBad 0 3 0 0 = false)
      | _ => false) = true
    ∧ (match (bufState (.bufacq 3 true) [twoSlots .free .free [] [] true]).tryBuf 8 with
      | .ok r chip bank off => decide (r.kind = .bufacq 3 true ∧ chip = 0 ∧ bank = 3 ∧ off = 0)
      | _ => false) = true
    ∧ (twoSlots .free .free [] [] true).pk = true := by
  and_intros <;> decide +kernel
theorem test_buffer_removed : after (exec (.bufinitRequest 8) (bufState (.bufinit 0) [twoSlots .free .free [] [] false])) (fun t =>
    ((t.chip 0).bank 3).bufs.length) = some 0 := by decide +kernel

/-- A suspended input of core 2, and its record, which an ENGINE command names. -/
def suspendedIn : InBind := { inRow with seq := 9, fault := some ⟨0x16, 0, 0, 0, 0, 0⟩ }
def inputCmd (b : Word) : State := ({ engineCmd b with ops := [] } : State).modCore 2 (fun c => { c with strm := [(2, .input suspendedIn)] })
theorem test_engine_inputs :
    after (exec (.engineResume 2) (inputCmd 0x10000)) (fun t => match (t.core 2).binding 2 with
      | .input b => (b.fault.isSome, b.ended)
      | _ => (true, true)) = some (false, false)
    ∧ after (exec (.engineEnd 2) (inputCmd 0x10001)) (fun t => match (t.core 2).binding 2 with
      | .input b => (b.fault.isSome, b.ended)
      | _ => (true, true)) = some (false, true) := by
  and_intros <;> decide +kernel
theorem witness_command_cases :
    (match State.loadDs ((cmd 6 2 0 0x10001).view 2) 2 0x10000 (inputCmd 0x10001) with
      | .ok (w, ws) => (match w.engineTarget 2 (cmd 6 2 0 0x10001) ws with
        | some (.input n b) => decide (n = 2 ∧ b = suspendedIn)
        | _ => false)
      | .error _ => false) = true
    ∧ (0x10000 : Word).getLsbD 0 = false ∧ ((commandedAt .killed 3 1 0).thread 2 1).st = .killed
    ∧ (commandedAt .killed 3 1 0).keeps 2 0 = true ∧ (commandedAt .killed 3 1 0).keeps 2 1 = false
    ∧ CtxState.holdsThread .free = false ∧ ((commandedAt .halted 5 1 0x10040).thread 2 1).st = .halted
    ∧ elemWaits (saving.storeRecord 2 0 savedRegion) = false ∧ Tab.find savedRegion.saved 0 = none
    ∧ restoreWaits (restoreCores savedRegion [] [2] 0 resuming) = false := by
  and_intros <;> decide +kernel
theorem test_stop_of_killed :
    after (exec (.stop 2) (commandedAt .killed 3 1 0)) (fun t => ((t.core 2).stopped, (t.core 0).waitRefuse.length)) = some (true, 1) := by
  decide +kernel

/-- A dead core whose checkpoint lies in the core to its east. -/
def checkpointed : State :=
  let r : Region := { aRegion with f := { aRegion.f with ckdir := 1, cksize := 64 } }
  let s := failed.modCore 2 (fun c => { c with region := 2, links := [(0xA2, 3)] })
  { s with regions := [(1, r)] }.physWrite ⟨0, 0⟩ (localPa 3 0) 8 (2 ^ 63)
/-- Two corrected errors of core 2 logged, and a third noticed. -/
def thirdError : State := base.modPart 0 (fun p => { p with errq := [2], errLog := [(2, [0, 0])] })
theorem test_third_error : after (exec (.correctedErrorNotice 0) thirdError) (fun t => ((t.core 2).retiring, t.updates.length))
    = some (true, 1) := by decide +kernel
theorem test_restart_with_checkpoint :
    after (exec (.containmentRestart 2 8) checkpointed) (fun t => t.updates.length) = some 1 := by decide +kernel
theorem test_strip_marked : after (exec (.uncorrectableError (.strip 3 5)) base) (fun t => (Tab.find (t.chip 3).cim 5).map Strip.poison)
    = some (some true) := by decide +kernel
theorem test_corrected_hbm : after (exec (.correctedError 2 .sectors 0x100000) base) (fun t => ((t.part 0).errq, decide (t.mem = base.mem)))
    = some ([], true) := by decide +kernel
theorem witness_error_cases :
    ((checkpointed.withdrawCore 2).checkpoint 2 { aRegion with f := { aRegion.f with ckdir := 1, cksize := 64 } }).isSome = true
    ∧ (checkpointed.core 2).sealed = true ∧ checkpointed.spareFree (8 / 9 / 24) (8 / 9 % 24) (8 % 9) = true
    ∧ (ready.thread 0 0).inFlight 0 0 = true ∧ (base.struck .sectors 0x100000).1 = true ∧ (base.struck (.entries 0) 5).1 = true
    ∧ (base.struck (.strips 0) 5).1 = true ∧ (failed.struck (.l1 3) 40).1 = true
    ∧ tooMany (lastThree (Tab.getD (thirdError.part 0).errLog 2 []) (thirdError.core 0).cycle) = true
    ∧ (thirdError.core 2).retiring = false ∧ thirdError.siteSpare 2 = some 8 := by
  and_intros <;> decide +kernel
theorem witness_guast_cases :
    isAsked (asked base 0 5 5) 0 5 5 = true
    ∧ isAsked (asked base 0 0x0B (5 + 2 ^ 6 * 7 + 2 ^ 18 * 9 + 2 ^ 40 + 2 ^ 52)) 0 0x0B
        ((5 : BitVec 6).toNat + 2 ^ 6 * (7 : BitVec 12).toNat + 2 ^ 18 * (9 : BitVec 6).toNat + (if true then 2 ^ 40 else 0) + 2 ^ 52) = true
    ∧ isAsked (asked base 0 0x0B (2 ^ 7 * 7 + 2 ^ 40 + 2 * 2 ^ 52)) 0 0x0B
        (0 + 2 ^ 7 * (7 : BitVec 12).toNat + (if true then 2 ^ 40 else 0) + 2 * 2 ^ 52) = true
    ∧ isAsked (asked base 0 0x0B (7 + 2 ^ 12 * 3 + 3 * 2 ^ 52)) 0 0x0B
        ((7 : BitVec 12).toNat + 2 ^ 12 * (3 : BitVec 16).toNat + 3 * 2 ^ 52) = true := by
  and_intros <;> decide +kernel

/-- A load of a word of a basin bank of the core's own chiplet, whose slot is lost to another access of that bank (R150, R211). -/
def losing : State :=
  { (fetching 0x3C020100).modCore 0 (fun c => { (c.setReg 1 ⟨0x10000, true, false, false⟩) with tlb := [⟨⟨0, 0⟩, 1, basinLeaf, []⟩] }) with
    agenda := [.lost 0] }
theorem test_lost_slot : after (step losing) (fun t => ((t.thread 0 0).pc, (t.thread 0 0).tries, t.reqs.length, t.agenda.length))
    = some (home, 1, 0, 0) := by decide +kernel
theorem witness_step_cases :
    losing.thr.pre = [] ∧ losing.agenda = .lost 0 :: []
    ∧ (let u := ({ losing with agenda := [] } : State).beginSlot 0; u.2 = true ∧ u.1.canLose = true)
    ∧ (let v := strayWord 0x01010203 0x212345 1; (match decode v with | .ok _ => true | .error _ => false) = true)
    ∧ fetches (framed 0x210102FF) (fun x => match x with
      | .ok (w, p) => !p && arithmeticOp (opOf w) && (adjustWord w 0x212345 1).isNone
          && (match decode (strayWord w 0x212345 1) with | .ok _ => false | .error _ => true)
      | .error _ => false) = true
    ∧ (match adjustWord 0x210102FF 0x200400 1 with | some v => (match decode v with | .ok _ => false | .error _ => true) | none => false) = true
    ∧ (({ fetching 0x2001ABCD with agenda := [.slot 0] } : State).beginSlot 0).2 = true
    ∧ (∀ n, n < 4 → ({ fetching 0x2001ABCD with agenda := [.slot 0] } : State).agenda ≠ .lost n :: []) := by
  and_intros <;> decide +kernel

/-! ### The assembler edas (R25, R79, R92, R94, R132) -/

/-- Whether edas gives these words of text and these reports. -/
def edasGives (src : List String) (ws : List Nat) (rs : List Edas.Report) : Bool :=
  match Edas.assemble [] (src.map String.toList) with
  | .ok im => im.text == ws.flatMap (Edas.leBytes 4) && im.reports == rs
  | .error _ => false

/-- R79: the words of a 64-bit value, the highest payload first. -/
theorem test_edas_movi :
    edasGives ["movi x15, 0x0123_4567_89AB_CDEF"] [0x7E012345, 0x7E6789AB, 0x200FCDEF] [] = true := by decide +kernel
/-- R132: the predicate follows the type in the mnemonic. -/
theorem test_edas_vfma : edasGives ["vfma.fp32.m0 v2, v3, v4, v5"] [0x48234528] [] = true := by decide +kernel
/-- R25, R94: a word reads the register that the load just before it writes. -/
theorem test_edas_early : edasGives ["ld.d x2, x9, 0", "mov x3, x2"] [0x3C020900, 0x2103020A] [.early 2] = true := by decide +kernel
/-- R92: an EXT word that the source writes itself stands before the branch. -/
theorem test_edas_ext : edasGives ["ext 0", "beq x1, x2, 5"] [0x7E000000, 0x2D010205] [] = true := by decide +kernel

end Sys2Proof.Tests
end

section
/-! Storage under owner tags (R7, R202, R210, R228, R229): a claim makes every byte of a unit read as the claimant saw it,
so what a write gives under its tag follows from the bytes alone; sectors of HBM; key slots and their retirement. -/

namespace Sys2Proof.Machine

/-! ### Bytes -/

theorem readByte_zeroBytes_in (m : List Host.Cell) {a n b : Nat} (h : a ≤ b ∧ b < a + n) :
    readByte (zeroBytes m a n) b = 0 := by
  induction n generalizing m a with
  | zero => omega
  | succ n ih =>
    rw [zeroBytes]
    by_cases hb : b = a
    · rw [readByte_zeroBytes_out _ _ _ _ (by omega), hb, readByte_writeByte_self]
    · exact ih _ (by omega)

/-! ### Tagged units -/

/-- Two addresses have one key exactly when they lie in one unit: a line above the start of the basin window (R202, R210),
a sector below it (R228). -/
theorem unitKey_eq_iff (k pa : Nat) :
    unitKey k = unitKey pa ↔ unitBase pa ≤ k ∧ k < unitBase pa + unitSize pa := by
  have hline : ∀ a, lineTagged a = true ↔ basinBase ≤ a := fun _ => decide_eq_true_iff
  simp only [unitKey, unitBase, unitSize, hline, basinBase]
  split <;> split <;> omega

/-! ### Claiming units (R202, R210, R228) -/

theorem State.claimUnit_owned {s : State} {t : Tag} {pa : Nat} (h : Tab.find s.otag (unitKey pa) = some t) :
    s.claimUnit t pa = s := if_pos h

theorem State.find_otag_claimUnit (s : State) (t : Tag) (pa j : Nat) :
    Tab.find (s.claimUnit t pa).otag j = if j = unitKey pa then some t else Tab.find s.otag j := by
  by_cases ho : Tab.find s.otag (unitKey pa) = some t
  · rw [State.claimUnit_owned ho]
    split
    · next hj => rw [hj, ho]
    · rfl
  · rw [State.claimUnit, if_neg ho]
    split
    · next hj => rw [hj, Tab.find_set_self]
    · next hj => exact Tab.find_set_ne _ _ hj

/-- A claim changes nothing that its own tag reads: the unit it zeroes read as zero under that tag before. -/
theorem State.physByte_claimUnit (s : State) (t : Tag) (pa k : Nat) :
    (s.claimUnit t pa).physByte t k = s.physByte t k := by
  by_cases ho : Tab.find s.otag (unitKey pa) = some t
  · rw [State.claimUnit_owned ho]
  · simp only [State.physByte, State.find_otag_claimUnit]
    rw [State.claimUnit, if_neg ho]
    by_cases hk : unitKey k = unitKey pa
    · rw [if_pos hk, if_pos rfl, hk, if_neg ho]
      exact readByte_zeroBytes_in _ ((unitKey_eq_iff k pa).1 hk)
    · have hout : k < unitBase pa ∨ unitBase pa + unitSize pa ≤ k := by
        have := mt (unitKey_eq_iff k pa).2 hk
        omega
      rw [if_neg hk, readByte_zeroBytes_out _ _ _ _ hout]

theorem State.physByte_claimUnits (s : State) (t : Tag) (pa n k : Nat) :
    (s.claimUnits t pa n).physByte t k = s.physByte t k := by
  induction n generalizing s pa with
  | zero => rfl
  | succ n ih => rw [State.claimUnits, ih, State.physByte_claimUnit]

theorem State.find_otag_claimUnits_owned {s : State} {t : Tag} {j : Nat} (h : Tab.find s.otag j = some t) (pa n : Nat) :
    Tab.find (s.claimUnits t pa n).otag j = some t := by
  induction n generalizing s pa with
  | zero => exact h
  | succ n ih => exact ih (by rw [State.find_otag_claimUnit, h, ite_self]) _

/-- The unit of every byte claimed carries the claimant's tag. -/
theorem State.find_otag_claimUnits (s : State) (t : Tag) {pa n k : Nat} (h : pa ≤ k ∧ k < pa + n) :
    Tab.find (s.claimUnits t pa n).otag (unitKey k) = some t := by
  induction n generalizing s pa with
  | zero => omega
  | succ n ih =>
    rw [State.claimUnits]
    by_cases hk : k = pa
    · exact State.find_otag_claimUnits_owned (by rw [State.find_otag_claimUnit, hk, if_pos rfl]) _ _
    · exact ih _ (by omega)

/-! ### Reads and writes with a tag -/

/-- A byte whose unit carries another tag reads as zero. -/
theorem State.physByte_of_other {s : State} {g h : Tag} {k : Nat} (hg : Tab.find s.otag (unitKey k) = some g) (hne : h ≠ g) :
    s.physByte h k = 0 := by
  rw [State.physByte, hg, if_neg (by simpa using hne.symm)]

/-- Under the tag that its units carry, a read gives the little-endian value of the bytes (R7). -/
theorem State.physRead_of_owned {s : State} {t : Tag} {pa n : Nat}
    (h : ∀ k, pa ≤ k ∧ k < pa + n → Tab.find s.otag (unitKey k) = some t) : s.physRead t pa n = readBytes s.mem pa n := by
  induction n generalizing pa with
  | zero => rfl
  | succ n ih =>
    rw [State.physRead, readBytes, ih (fun k hk => h k (by omega)), State.physByte, if_pos (h pa (by omega))]

theorem State.physWrite_of_not_current {s : State} {t : Tag} (h : s.tagCurrent t = false) (pa n v : Nat) :
    s.physWrite t pa n v = s := by
  simp [State.physWrite, h]

theorem State.physWrite_mem {s : State} {t : Tag} (h : s.tagCurrent t = true) (pa n v : Nat) :
    (s.physWrite t pa n v).mem = writeBytes (s.claimUnits t pa n).mem pa n v := by
  rw [State.physWrite, if_pos h]

theorem State.physWrite_otag {s : State} {t : Tag} (h : s.tagCurrent t = true) (pa n v : Nat) :
    (s.physWrite t pa n v).otag = (s.claimUnits t pa n).otag := by
  rw [State.physWrite, if_pos h]

theorem State.find_otag_physWrite {s : State} {t : Tag} (h : s.tagCurrent t = true) {pa n k : Nat} (v : Nat)
    (hk : pa ≤ k ∧ k < pa + n) : Tab.find (s.physWrite t pa n v).otag (unitKey k) = some t := by
  rw [State.physWrite_otag h, State.find_otag_claimUnits s t hk]

/-- A write under a current tag is read back under that tag. -/
theorem State.physRead_physWrite {s : State} {t : Tag} (h : s.tagCurrent t = true) (pa n v : Nat) :
    (s.physWrite t pa n v).physRead t pa n = v % 256 ^ n := by
  rw [State.physRead_of_owned (fun k => State.find_otag_physWrite h v), State.physWrite_mem h, readBytes_writeBytes]

/-- A write leaves what its tag reads elsewhere, in the units it claims too. -/
theorem State.physByte_physWrite_out (s : State) (t : Tag) {pa n k : Nat} (v : Nat) (hk : k < pa ∨ pa + n ≤ k) :
    (s.physWrite t pa n v).physByte t k = s.physByte t k := by
  cases h : s.tagCurrent t with
  | false => rw [State.physWrite_of_not_current h]
  | true =>
    rw [← State.physByte_claimUnits s t pa n k]
    simp only [State.physByte, State.physWrite_otag h, State.physWrite_mem h, readByte_writeBytes_out _ _ _ _ _ hk]

/-! ### Sectors (R228) -/

theorem sliceOf_spliceIn (d o n v : Nat) : sliceOf (spliceIn d o n v) o n = v % 256 ^ n := by
  have hsum : spliceIn d o n v = d % 256 ^ o + 256 ^ o * (v % 256 ^ n + 256 ^ n * (d / 256 ^ (o + n))) := by
    rw [spliceIn, pow_add]
    ring
  have hpos : 0 < 256 ^ o := Nat.pow_pos (by decide)
  rw [sliceOf, hsum, Nat.add_mul_div_left _ _ hpos, Nat.div_eq_of_lt (Nat.mod_lt _ hpos), Nat.zero_add, Nat.add_mul_mod_self_left,
    Nat.mod_mod]

/-- A slice inside the sector does not see what lies above the sector's 16 bytes. -/
theorem sliceOf_mod_sector (d : Nat) {o n : Nat} (h : o + n ≤ 16) : sliceOf (d % 256 ^ 16) o n = sliceOf d o n := by
  rw [sliceOf, sliceOf, show 256 ^ 16 = 256 ^ o * 256 ^ (16 - o) by rw [← pow_add]; congr 1; omega, Nat.mod_mul_right_div_self,
    Nat.mod_mod_of_dvd _ (Nat.pow_dvd_pow _ (by omega))]

/-- A sector put into storage under a current tag stands there as it was, within its 16 bytes. -/
theorem State.storedSector_storeSector {s : State} {x : SectorVal} {t : Tag} (hx : x.tag = some t) (h : s.tagCurrent t = true)
    (k : Nat) : (s.storeSector k x).storedSector k = { x with data := x.data % 256 ^ 16 } := by
  obtain ⟨d, tag, p⟩ := x
  subst hx
  cases p <;> simp [State.storeSector, h, State.storedSector, readBytes_writeBytes, Tab.getD]

/-- A doubleword written to HBM under a current tag is read back under that tag. -/
theorem State.hbmRead_hbmWrite {s : State} {t : Tag} {pa : Nat} (h : s.tagCurrent t = true) (ha : pa % 8 = 0) (v : Word) :
    (s.hbmWrite t pa v).hbmRead t pa = v := by
  have hin : pa % 16 + 8 ≤ 16 := by omega
  rw [State.hbmRead, State.hbmWrite, State.storedSector_storeSector rfl h]
  simp only [SectorVal.read, SectorVal.write, if_true, sliceOf_mod_sector _ hin, sliceOf_spliceIn]
  rw [show 256 ^ 8 = 2 ^ 64 from rfl, Nat.mod_eq_of_lt v.isLt, BitVec.ofNat_toNat, BitVec.setWidth_eq]

/-! ### Key slots (R229) -/

@[simp] theorem State.slot_modSlot_self (s : State) (k : BitVec 6) (f : KeySlot → KeySlot) :
    (s.modSlot k f).slot k = f (s.slot k) := Tab.getD_set_self _ _ _ _

theorem State.slot_modSlot_ne (s : State) {k j : BitVec 6} (f : KeySlot → KeySlot) (h : j ≠ k) :
    (s.modSlot k f).slot j = s.slot j := Tab.getD_set_ne _ _ _ (fun e => h (BitVec.eq_of_toNat_eq e))

theorem State.tagCurrent_of_sweeping {s : State} {g : Tag} (h : (s.slot g.slot).sweeping = true) : s.tagCurrent g = false := by
  have hs : s.slotSweeping g = true := h
  rw [State.tagCurrent, hs, Bool.not_true, Bool.and_false]

theorem State.slotTag_ne_of_gen_ne {s t : State} {slot : BitVec 6} (h : (t.slot slot).gen ≠ (s.slot slot).gen) :
    t.slotTag slot ≠ s.slotTag slot := fun e => h (congrArg Tag.gen e)

theorem State.retireSlot_slot_self (s : State) (slot : BitVec 6) :
    (s.retireSlot slot).slot slot = if (s.slot slot).gen = 0xFFFF then { s.slot slot with root := none, sweeping := true }
      else { s.slot slot with gen := (s.slot slot).gen + 1, key := (s.slot slot).key + 1, root := none } :=
  State.slot_modSlot_self _ _ _

theorem State.retireSlot_slot_ne (s : State) {slot k : BitVec 6} (h : k ≠ slot) : (s.retireSlot slot).slot k = s.slot k :=
  State.slot_modSlot_ne _ _ h

/-- Settles O57: what a tag reads after a write, in storage and in HBM, and what retiring a slot leaves of its tags. -/
theorem taggedStorage : Obligations.TaggedStorage := by
  refine ⟨⟨?write, ?dropped, ?doubleword⟩, ?retired⟩
  case write =>
    intro s g pa n v _ hcur _ _
    refine ⟨State.physRead_physWrite hcur pa n v, fun h hne k hlo hhi => ?_, fun k => State.physByte_physWrite_out s g v⟩
    exact State.physByte_of_other (State.find_otag_physWrite hcur v ⟨hlo, hhi⟩) hne
  case dropped => exact fun s g pa n v hold => State.physWrite_of_not_current hold pa n v
  case doubleword => exact fun s g pa v _ hcur ha => State.hbmRead_hbmWrite hcur ha v
  case retired =>
    intro s slot t
    have hslot : t.slot slot = _ := s.retireSlot_slot_self slot
    refine ⟨?_, fun hgen => ?_, fun hlast => ?_, fun k => s.retireSlot_slot_ne⟩
    · rw [hslot]
      split <;> rfl
    · rw [if_neg hgen] at hslot
      have hraised : (t.slot slot).gen = (s.slot slot).gen + 1 := by rw [hslot]
      refine ⟨hraised, by rw [hslot], State.slotTag_ne_of_gen_ne ?_⟩
      rw [hraised]
      bv_omega
    · rw [if_pos hlast] at hslot
      have hsweep : (t.slot slot).sweeping = true := by rw [hslot]
      exact ⟨hsweep, fun g pa n v hg => State.physWrite_of_not_current (State.tagCurrent_of_sweeping (hg ▸ hsweep)) pa n v⟩

end Sys2Proof.Machine
end

section
/-! Vector instructions of format VV (R129 to R132, R170), and the tree and the running values of VRED and VSCAN (R60, R61,
R138): over integers both add modulo the lane, so each is the sum of the active lanes, wrapped. -/

namespace Sys2Proof.Machine

/-! ### The steps of a vector instruction -/

/-- Vector fields that can be used pass every check before issue (R17, R131, R157). -/
theorem vecOperands_ok {s : State} {reads writes : List VReg} {srcs dsts : List Reg}
    (h : s.canUseVectors reads writes srcs dsts) : vecOperands reads writes srcs dsts s = .ok ((), s) := by
  obtain ⟨hreads, hwrites, hfields, harmed⟩ := h
  have hexist : (reads.all (vecExists s.thr.size) && writes.all (vecExists s.thr.size)) = true := by
    rw [Bool.and_eq_true, List.all_eq_true, List.all_eq_true]
    exact ⟨hreads, hwrites⟩
  rw [vecOperands, act_get_bind, need_bind_true hexist, act_bind_ok (operands_ok hfields), firstSome_none _ _ harmed]
  rfl

/-- With room in the vector queue an instruction enters it, and its result is outstanding (R130, R170). -/
theorem enqueueVec_ok {s : State} (h : s.vectorRoom) (k : OutKind) (ps : List Piece) (f : Flags) :
    enqueueVec k ps f s = .ok ((), s.queued k ps f) := by
  have hlt : decide ((s.core s.cur).vq.length < Config.vectorQueueEntries) = true := decide_eq_true h
  rw [enqueueVec, act_get_bind, need_bind_true hlt]
  rfl

/-- The registers written are those that hold the lanes written. -/
theorem lanePieces_eq_resultPieces (v : VReg) (w d : Nat) (ws : List LaneWrite) (p : Nat → Bool) :
    lanePieces v w d ws p = resultPieces v w d (ws.map Prod.fst) p := by
  simp only [lanePieces, resultPieces, List.any_map]
  rfl

/-- The flags of lane writes are the union of those of the lanes (R99). -/
theorem applyLanes_flags (w old : Nat) (ws : List LaneWrite) :
    (applyLanes w old ws).2 = unionFlags (ws.map (fun x => x.2.2)) := by
  rw [applyLanes, unionFlags, List.foldl_map]
  exact (List.foldl_hom (f := Prod.snd) (init := (old, 0)) (fun _ _ => rfl)).symm

/-- What the lane function of an instruction reads: the rounding mode and up to three sources. -/
def State.vecInputs (s : State) (srcs : List VReg) : VIn :=
  let data := fun n => ((srcs[n]?).map (fun v => (s.vec v).data)).getD 0
  ⟨s.thr.rm, data 0, data 1, data 2⟩

/-- An instruction of format VV leaves one outstanding result: the destination with the lanes of `f` written (R129 to R132). -/
theorem vvOp_ok {s : State} {w : Nat} {vd : VReg} {srcs reads : List VReg} {m : MaskSel} {merge : Ctx → Bool}
    {f : Ctx → VIn → List LaneWrite} {ws : List LaneWrite} (hreads : (if merge s.thr then srcs ++ [vd] else srcs) = reads)
    (hws : f s.thr (s.vecInputs srcs) = ws) (hroom : s.vectorRoom) (huse : s.canUseVectors reads [vd] [] []) (sw : Bool) :
    vvOp sw w vd srcs m merge f s = .ok ((), (s.queued .other
      (resultPieces vd w (applyLanes w (s.vec vd).data ws).1 (ws.map Prod.fst) (fun _ => s.vectorPoison reads m))
      (unionFlags (ws.map (fun x => x.2.2)))).moved sw) := by
  subst hreads hws
  rw [← lanePieces_eq_resultPieces, ← applyLanes_flags w (s.vec vd).data]
  rw [vvOp, act_get_bind, act_bind_ok (vecOperands_ok huse), act_get_bind]
  exact act_bind_ok (enqueueVec_ok hroom _ _ _)

/-- The arithmetic instructions of format VV need only that no prefix stands before them (R75, R86). -/
theorem meets_vvForm {s : State} (h : s.thr.pre = []) : s.meets vvForm :=
  ⟨.inr h, .inl ⟨rfl, h⟩, nofun, nofun⟩

/-! ### Sums modulo the lane (R45) -/

theorem toPattern_modEq (w : Nat) (z : Int) : (toPattern w z : Int) ≡ z [ZMOD (2 ^ w : Nat)] := by
  have hpos : ((2 ^ w : Nat) : Int) ≠ 0 := Int.natCast_ne_zero.2 (Nat.two_pow_pos w).ne'
  rw [toPattern, Int.toNat_of_nonneg (Int.emod_nonneg z hpos)]
  exact Int.mod_modEq z _

theorem toSigned_modEq (w n : Nat) : toSigned w n ≡ n [ZMOD (2 ^ w : Nat)] := by
  have hlow : ((n % 2 ^ w : Nat) : Int) ≡ n [ZMOD (2 ^ w : Nat)] := by
    rw [Int.natCast_mod]
    exact Int.mod_modEq _ _
  rw [toSigned]
  split
  · exact hlow
  · exact (Int.sub_modulus_modEq_iff).2 hlow

/-- An operation of lanes whose values add modulo M. -/
def AddsModulo (M : Nat) (op : Nat → Nat → Nat × Flags) : Prop := ∀ a b, (op a b).1 ≡ a + b [MOD M]

/-- The addition of VRED and VSCAN over integers wraps to the lane. -/
theorem laneRed_addsModulo {ty : ElemType} (h : ty.isInt = true) (rm : BitVec 2) :
    AddsModulo (2 ^ ty.width) (laneRed ty 0 rm) := by
  intro a b
  have hsum : (laneRed ty 0 rm a b).1 = toPattern ty.width (toSigned ty.width a + toSigned ty.width b) := by
    show (laneAdd ty 0 rm a b).1 = _
    rw [laneAdd, if_pos h]
    rfl
  rw [hsum, ← Int.natCast_modEq_iff, Int.natCast_add]
  exact (toPattern_modEq _ _).trans ((toSigned_modEq _ a).add (toSigned_modEq _ b))

/-- The sum of lanes, an EMPTY one counted as zero. -/
def sumOrEmpty (l : List (Option Nat)) : Nat := (l.map (fun x => x.getD 0)).sum

@[simp] theorem sumOrEmpty_nil : sumOrEmpty [] = 0 := rfl

@[simp] theorem sumOrEmpty_cons (x : Option Nat) (l : List (Option Nat)) : sumOrEmpty (x :: l) = x.getD 0 + sumOrEmpty l :=
  List.sum_cons

/-- The sum of the lanes of a source, EMPTY where inactive, is that of the active lanes. -/
theorem sumOrEmpty_range (s : State) (m : MaskSel) (lane : Nat → Nat) (n : Nat) :
    sumOrEmpty ((List.range n).map (fun k => if s.thr.active m k then some (lane k) else none))
      = activeSum (s.lanes m n) lane := by
  have hlane : ∀ k, (if s.thr.active m k then some (lane k) else none).getD 0 = if s.thr.active m k then lane k else 0 := by
    intro k
    split <;> rfl
  simp only [sumOrEmpty, activeSum, State.lanes, List.map_map, Function.comp_def, hlane, List.sum_map_ite]
  simp

/-! ### The tree (R60) -/

/-- A level leaves a list of fewer than two lanes. -/
theorem combineLevel_of_short {op : Nat → Nat → Nat × Flags} {l : List (Option Nat × Flags)}
    (h : ∀ p q t, l = p :: q :: t → False) : combineLevel op l = l := by
  match l, h with
  | [], _ => rfl
  | [_], _ => rfl
  | p :: q :: t, h => exact (h p q t rfl).elim

/-- A level halves the list, rounding up. -/
theorem combineLevel_length (op : Nat → Nat → Nat × Flags) (l : List (Option Nat × Flags)) :
    (combineLevel op l).length = (l.length + 1) / 2 := by
  induction l using combineLevel.induct with
  | case1 p q t ih =>
    simp only [combineLevel, List.length_cons, ih]
    omega
  | case2 l hl =>
    rw [combineLevel_of_short hl]
    match l, hl with
    | [], _ => rfl
    | [_], _ => rw [List.length_singleton]
    | p :: q :: t, hl => exact absurd rfl (hl p q t)

section Tree

variable {M : Nat} {op : Nat → Nat → Nat × Flags} (hop : AddsModulo M op)
include hop

theorem combineNode_modEq (p q : Option Nat × Flags) :
    (combineNode op p q).1.getD 0 ≡ p.1.getD 0 + q.1.getD 0 [MOD M] := by
  obtain ⟨p, fp⟩ := p
  obtain ⟨q, fq⟩ := q
  cases p with
  | none => simp [combineNode, Nat.ModEq.refl]
  | some a =>
    cases q with
    | none => exact Nat.ModEq.refl _
    | some b => exact hop a b

/-- A level of the tree keeps the sum modulo M. -/
theorem combineLevel_modEq (l : List (Option Nat × Flags)) :
    sumOrEmpty ((combineLevel op l).map Prod.fst) ≡ sumOrEmpty (l.map Prod.fst) [MOD M] := by
  induction l using combineLevel.induct with
  | case1 p q t ih =>
    simp only [combineLevel, List.map_cons, sumOrEmpty_cons, ← Nat.add_assoc]
    exact (combineNode_modEq hop p q).add ih
  | case2 l hl => rw [combineLevel_of_short hl]

/-- The tree over at most 2^k lanes gives their sum modulo M. -/
theorem redTree_modEq {k : Nat} {l : List (Option Nat × Flags)} (hl : l.length ≤ 2 ^ k) :
    (redTree op k l).1.getD 0 ≡ sumOrEmpty (l.map Prod.fst) [MOD M] := by
  induction k generalizing l with
  | zero =>
    match l, hl with
    | [], _ => exact Nat.ModEq.refl _
    | [_], _ => simp [redTree, Nat.ModEq.refl]
  | succ k ih =>
    have hlevel : (combineLevel op l).length ≤ 2 ^ k := by
      rw [Nat.pow_succ] at hl
      rw [combineLevel_length]
      omega
    exact (ih hlevel).trans (combineLevel_modEq hop l)

end Tree

/-! ### The running values (R61) -/

/-- The running value of a scan takes in a lane as a node of the tree does. -/
theorem scanLanes_cons (op : Nat → Nat → Nat × Flags) (ident : Nat) (acc : Option Nat) (i : Nat) (x : Option Nat)
    (t : List (Option Nat)) :
    scanLanes op ident acc i (x :: t)
      = (i, (combineNode op (acc, 0) (x, 0)).1.getD ident, (combineNode op (acc, 0) (x, 0)).2)
        :: scanLanes op ident (combineNode op (acc, 0) (x, 0)).1 (i + 1) t := by
  cases acc with
  | none => simp [scanLanes, combineNode]
  | some a => cases x <;> simp [scanLanes, combineNode]

/-- A scan writes every lane, in order. -/
theorem scanLanes_fst (op : Nat → Nat → Nat × Flags) (ident : Nat) (acc : Option Nat) (i : Nat) (l : List (Option Nat)) :
    (scanLanes op ident acc i l).map Prod.fst = List.range' i l.length := by
  induction l generalizing acc i with
  | nil => simp [scanLanes]
  | cons x t ih => rw [scanLanes_cons, List.map_cons, ih, List.length_cons, List.range'_succ]

/-- A lane of a scan holds the sum, modulo M, of the value before and the lanes up to its own. -/
theorem scanLanes_modEq {M : Nat} {op : Nat → Nat → Nat × Flags} (hop : AddsModulo M op) (acc : Option Nat) (i : Nat)
    (l : List (Option Nat)) {j : Nat} (hj : j < l.length) :
    ∃ x ∈ scanLanes op 0 acc i l, x.1 = i + j ∧ x.2.1 ≡ acc.getD 0 + sumOrEmpty (l.take (j + 1)) [MOD M] := by
  induction l generalizing acc i j with
  | nil => cases hj
  | cons x t ih =>
    rw [scanLanes_cons, List.take_succ_cons, sumOrEmpty_cons, ← Nat.add_assoc]
    have hnode := combineNode_modEq hop (acc, 0) (x, 0)
    cases j with
    | zero => exact ⟨_, List.mem_cons_self, rfl, by simpa using hnode⟩
    | succ j =>
      obtain ⟨y, hmem, hlane, hval⟩ := ih (combineNode op (acc, 0) (x, 0)).1 (i + 1) (Nat.lt_of_succ_lt_succ hj)
      exact ⟨y, List.mem_cons_of_mem _ hmem, by omega, hval.trans (hnode.add_right _)⟩

/-! ### VRED and VSCAN (R138) -/

theorem lanes_eq_two_pow (ty : ElemType) : ty.lanes = 2 ^ Nat.log2 ty.lanes := by
  cases ty <;> decide

theorem redIdentity_add (ty : ElemType) : redIdentity ty 0 = 0 := rfl

/-- What VRED gives for lane 0: the tree over the lanes of its source, EMPTY where inactive (R60). -/
def State.reduced (s : State) (va : VReg) (ty : ElemType) (m : MaskSel) (f : BitVec 3) : Option Nat × Flags :=
  redTree (laneRed ty f s.thr.rm) (Nat.log2 ty.lanes)
    ((List.range ty.lanes).map (fun k => (if s.thr.active m k then some (laneOf (s.vec va).data ty.width k) else none, 0)))

/-- What VSCAN gives for every lane: the running values over the lanes of its source, EMPTY where inactive (R61). -/
def State.scanned (s : State) (va : VReg) (ty : ElemType) (m : MaskSel) (f : BitVec 3) : List LaneWrite :=
  scanLanes (laneRed ty f s.thr.rm) (redIdentity ty f) none 0
    ((List.range ty.lanes).map (fun k => if s.thr.active m k then some (laneOf (s.vec va).data ty.width k) else none))

/-- VSCAN writes every lane once, in order. -/
theorem scanned_fst (s : State) (va : VReg) (ty : ElemType) (m : MaskSel) (f : BitVec 3) :
    (s.scanned va ty m f).map Prod.fst = List.range ty.lanes := by
  rw [State.scanned, scanLanes_fst, List.length_map, List.length_range, List.range_eq_range']

/-- VRED leaves its destination with lane 0 replaced (R138). -/
theorem exec_vred {s : State} {vd va : VReg} (hpre : s.thr.pre = []) (hroom : s.vectorRoom)
    (huse : s.canUseVectors [va, vd] [vd] [] []) (sw : Bool) (vb : VReg) (ty : ElemType) (m : MaskSel) (f : BitVec 3) :
    exec (.vred sw vd va vb ty m f) s = .next ((s.queued .other
      (resultPieces vd ty.width
        (setLane (s.vec vd).data ty.width 0 ((s.reduced va ty m f).1.getD (redIdentity ty f))) [0]
        (fun _ => s.vectorPoison [va, vd] m)) (s.reduced va ty m f).2).moved sw) := by
  have hone : unionFlags [(s.reduced va ty m f).2] = (s.reduced va ty m f).2 := BitVec.zero_or
  have htree : redTree (laneRed ty f s.thr.rm) (Nat.log2 ty.lanes)
      ((s.thr.lanesOrEmpty m ty (s.vec va).data).map (fun x => (x, 0))) = s.reduced va ty m f :=
    congrArg (redTree _ _) List.map_map
  rw [← hone, ← htree]
  exact instr_ok (meets_vvForm hpre) (vvOp_ok (srcs := [va]) (merge := fun _ => true) rfl rfl hroom huse sw)

/-- VSCAN leaves its destination with every lane replaced (R138). -/
theorem exec_vscan {s : State} {vd va : VReg} (hpre : s.thr.pre = []) (hroom : s.vectorRoom)
    (huse : s.canUseVectors [va] [vd] [] []) (sw : Bool) (vb : VReg) (ty : ElemType) (m : MaskSel) (f : BitVec 3) :
    exec (.vscan sw vd va vb ty m f) s = .next ((s.queued .other
      (resultPieces vd ty.width (applyLanes ty.width (s.vec vd).data (s.scanned va ty m f)).1 (List.range ty.lanes)
        (fun _ => s.vectorPoison [va] m)) (unionFlags ((s.scanned va ty m f).map (fun x => x.2.2)))).moved sw) := by
  rw [← scanned_fst s va ty m f]
  exact instr_ok (meets_vvForm hpre) (vvOp_ok (srcs := [va]) (merge := fun _ => false) rfl rfl hroom huse sw)

/-- Over integers the tree of VRED adds the active lanes, wrapped. -/
theorem reduced_add_modEq (s : State) (va : VReg) {ty : ElemType} (h : ty.isInt = true) (m : MaskSel) :
    (s.reduced va ty m 0).1.getD 0 ≡ activeSum (s.lanes m ty.lanes) (fun k => laneOf (s.vec va).data ty.width k)
      [MOD 2 ^ ty.width] := by
  have htree := redTree_modEq (laneRed_addsModulo h s.thr.rm) (k := Nat.log2 ty.lanes)
    (l := (List.range ty.lanes).map (fun k =>
      (if s.thr.active m k then some (laneOf (s.vec va).data ty.width k) else none, 0)))
    (by rw [List.length_map, List.length_range, ← lanes_eq_two_pow])
  rw [List.map_map] at htree
  rwa [← sumOrEmpty_range]

/-- Over integers the running value of VSCAN adds the active lanes up to the lane, wrapped. -/
theorem scanned_add_modEq (s : State) (va : VReg) {ty : ElemType} (h : ty.isInt = true) (m : MaskSel) {k : Nat}
    (hk : k < ty.lanes) :
    ∃ x ∈ s.scanned va ty m 0, x.1 = k ∧ x.2.1 ≡ activeSum (s.lanes m (k + 1))
      (fun j => laneOf (s.vec va).data ty.width j) [MOD 2 ^ ty.width] := by
  rw [State.scanned, redIdentity_add]
  obtain ⟨x, hmem, hlane, hval⟩ := scanLanes_modEq (laneRed_addsModulo h s.thr.rm) none 0
    ((List.range ty.lanes).map (fun k => if s.thr.active m k then some (laneOf (s.vec va).data ty.width k) else none))
    (by rwa [List.length_map, List.length_range] : k < _)
  rw [← List.map_take, List.take_range, Nat.min_eq_left hk, sumOrEmpty_range] at hval
  exact ⟨x, hmem, by omega, by simpa using hval⟩

/-- A lane that the scan writes holds its running value. -/
theorem laneOf_scanned (s : State) (vd va : VReg) (ty : ElemType) (m : MaskSel) (f : BitVec 3) {x : LaneWrite}
    (hx : x ∈ s.scanned va ty m f) :
    laneOf (applyLanes ty.width (s.vec vd).data (s.scanned va ty m f)).1 ty.width x.1 = x.2.1 % 2 ^ ty.width :=
  (applyLanes_lane _ _ _ (by rw [scanned_fst]; exact List.nodup_range) x.1).2 x hx rfl

/-- Settles O13: VRED writes one lane and VSCAN all of them, and over integers the tree and the running values add modulo
the lane. -/
theorem vectorReduceScan : Obligations.VectorReduceScan := by
  refine ⟨?reduce, ?scan⟩
  case reduce =>
    intro s sw vd va vb ty m f hpre hroom huse w is r
    refine ⟨setLane (s.vec vd).data w 0 (r.1.getD (redIdentity ty f)), exec_vred hpre hroom huse sw vb ty m f,
      setLane_self _ _ _ _, fun hint hf => ?_, fun k hk _ => setLane_ne _ _ _ _ _ hk.ne'⟩
    subst hf
    rw [setLane_self, redIdentity_add]
    exact reduced_add_modEq s va hint m
  case scan =>
    intro s sw vd va vb ty m f hpre hroom huse w r
    refine ⟨(applyLanes w (s.vec vd).data r).1, exec_vscan hpre hroom huse sw vb ty m f,
      fun x hx => laneOf_scanned s vd va ty m f hx, fun hint hf k hk => ?_⟩
    subst hf
    obtain ⟨x, hmem, rfl, hval⟩ := scanned_add_modEq s va hint m hk
    exact (laneOf_scanned s vd va ty m 0 hmem).trans hval

end Sys2Proof.Machine
end

section
/-! Taking a fault (R86, R148, R300 to R302): one thread halts, and a record waits for the ring of its partition. -/

namespace Sys2Proof.Machine

/-- A fault changes the cores' contexts, and what waits for the rings of the partitions. -/
theorem State.faulted_frame (s : State) (f : FaultInfo) :
    s.faulted f = { s with cores := (s.faulted f).cores, parts := (s.faulted f).parts } := by
  rw [State.faulted, State.haltThread]
  cases s.partOfCore s.cur <;> rfl

/-- A record waits with a partition or is dropped (R300): no core changes. -/
theorem State.core_addRec (s : State) (p : Option Nat) (r : FaultRec) (n : Nat) : (s.addRec p r).core n = s.core n := by
  cases p <;> rfl

/-- The thread that takes a fault: halted where it stands, with its image due (R148, R302). -/
theorem State.faulted_thr (s : State) (f : FaultInfo) :
    (s.faulted f).thr =
      { s.thr with st := .halted, pre := [], ipc := s.thr.pc, late := false, hcode := f.code, hport := f.port,
                   sampled := none, imageDue := true, recNo := s.thr.recNo + 1 } := by
  rw [State.faulted, State.haltThread]
  cases s.partOfCore s.cur <;> exact modThr_thr _ _

/-- Of a core a fault changes no more than contexts. -/
theorem State.faulted_core (s : State) (f : FaultInfo) (n : Nat) :
    ∃ c, (s.faulted f).core n = { s.core n with ctxs := c } := by
  obtain ⟨c, hc⟩ := core_modThread (s.addRec (s.partOfCore s.cur) (s.threadRec s.cur s.ctx f s.thr.pc)) s.cur s.ctx n _
  exact ⟨c, hc.trans (by rw [State.core_addRec])⟩

theorem State.faulted_otherCores (s : State) (f : FaultInfo) : s.otherCores (s.faulted f) := fun _ hn =>
  (State.core_setCore_ne _ _ hn).trans (State.core_addRec _ _ _ _)

theorem State.faulted_otherThreads (s : State) (f : FaultInfo) : s.otherThreads (s.faulted f) := fun x hx => by
  rw [State.faulted, State.haltThread, thread_modThread, if_neg (fun h => hx h.2), State.thread, State.core_addRec]
  rfl

/-- The ring of the core's partition is handed the record of the fault (R300, R301). -/
theorem State.faulted_recs {s : State} {p : Nat} (h : s.partOfCore s.cur = some p) (f : FaultInfo) :
    ((s.faulted f).part p).recs = (s.part p).recs ++ [s.threadRec s.cur s.ctx f s.thr.pc] := by
  rw [State.faulted, State.haltThread, h]
  exact congrArg Part.recs (State.part_setPart _ _ _)

/-- The grades that the records of R305 carry. -/
theorem gradeOf_eq (c : BitVec 8) :
    gradeOf c = if c ∈ [0x0F, 0x20, 0x22, 0x24, 0x28] then 2 else if c = 0x26 then 1 else 0 := by
  simp only [gradeOf, Bool.or_eq_true, decide_eq_true_eq, or_assoc, List.mem_cons, List.not_mem_nil, or_false]
  rfl

/-- Settles O52: a fault changes one thread, which halts, and hands its partition the record. -/
theorem faultEntry : Obligations.FaultEntry := by
  intro s f t
  have hframe : t = { s with cores := t.cores, parts := t.parts } := s.faulted_frame f
  obtain ⟨c, hcore⟩ : ∃ c, t.core s.cur = { s.core s.cur with ctxs := c } := s.faulted_core f s.cur
  refine ⟨s.faulted_thr f, ⟨?mem, ?otag⟩, s.faulted_otherCores f, s.faulted_otherThreads f, ?rf, ?cregs, ?fifos, ?strm,
    ?mail, ?reqs, ?ops, ?record⟩
  case mem | otag | reqs | ops => rw [hframe]
  case rf | cregs | fifos | strm | mail => rw [hcore]
  case record =>
    intro p hp
    exact ⟨_, State.faulted_recs hp f, rfl, rfl, rfl, rfl, rfl, rfl, rfl, rfl, rfl, rfl, gradeOf_eq f.code⟩

end Sys2Proof.Machine
end

section
/-! Instruction words and instructions (R68 to R75): the fields that a decoder takes make up the word again, so what it
answers has that word; and every well-formed instruction is read back from its word. -/

namespace Sys2Proof
open Laws

/-! ### A word from its fields (R68, R69) -/

/-- Fields that stand side by side are one field. -/
theorem bits_append {hi lo m n : Nat} (l : BitVec 24) (h : hi = lo + n) :
    bits l hi m ++ bits l lo n = bits l lo (m + n) :=
  BitVec.extractLsb'_append_extractLsb'_eq_extractLsb' h

theorem ofBool_getLsbD {k : Nat} (x : BitVec k) (i : Nat) : BitVec.ofBool (x.getLsbD i) = x.extractLsb' i 1 := by
  ext j hj
  obtain rfl : j = 0 := by omega
  simp

theorem ofBool_flag (l : BitVec 24) (i : Nat) : BitVec.ofBool (flag l i) = bits l i 1 := ofBool_getLsbD l i

theorem bits_all (l : BitVec 24) : bits l 0 24 = l := slice_all l

theorem append_eq_zero {m n : Nat} {x : BitVec m} {y : BitVec n} (h : x ++ y = 0) : x = 0 ∧ y = 0 :=
  ⟨(append_high x y).symm.trans (by rw [h]; simp), (append_low x y).symm.trans (by rw [h]; simp)⟩

/-- Mark, OP and the low bits make up a word (R68). -/
theorem word_fields (w : IWord) : word (w.getLsbD 31) (w.extractLsb' 24 7) (w.extractLsb' 0 24) = w := by
  rw [word, ofBool_getLsbD, BitVec.extractLsb'_append_extractLsb'_eq_extractLsb' (by rfl),
    BitVec.extractLsb'_append_extractLsb'_eq_extractLsb' (by rfl)]
  exact slice_all w

/-! What the fields of each format make up again (R69). -/

section Formats
variable (l : BitVec 24)

theorem a3_fields : a3 (fD l) (fA l) (fB l) = l := by
  rw [a3, fD, fA, fB]
  repeat rw [bits_append l (by rfl)]
  exact bits_all l

theorem im16_fields : im16 (fD l) (f16 l) = l := by
  rw [im16, fD, f16]
  repeat rw [bits_append l (by rfl)]
  exact bits_all l

theorem vv_fields : vv (vD l) (vA l) (vB l) (vC l) (vT l) (bits l 3 2) (bits l 0 3) = l := by
  rw [vv, vD, vA, vB, vC, vT]
  repeat rw [bits_append l (by rfl)]
  exact bits_all l

theorem vx_fields : vx (vD l) (xA l) (xM l) (bits l 1 3) (flag l 0) = l := by
  rw [vx, vD, xA, xM, ofBool_flag]
  repeat rw [bits_append l (by rfl)]
  exact bits_all l

theorem at_fields : at_ (fD l) (fA l) (bits l 5 3) (bits l 1 4) (flag l 0) = l := by
  rw [at_, fD, fA, ofBool_flag]
  repeat rw [bits_append l (by rfl)]
  exact bits_all l

theorem mx_fields : mx (bits l 22 2) (flag l 21) (bits l 18 3) (bits l 14 4) (bits l 8 6) (fB l) = l := by
  rw [mx, fB, ofBool_flag]
  repeat rw [bits_append l (by rfl)]
  exact bits_all l

theorem mread_fields : vD l ++ bits l 18 2 ++ bits l 14 4 ++ bits l 8 6 ++ fB l = l := by
  rw [vD, fB]
  repeat rw [bits_append l (by rfl)]
  exact bits_all l

theorem rep_fields : vD l ++ bits l 14 6 ++ bits l 10 4 ++ bits l 6 4 ++ bits l 2 4 ++ bits l 0 2 = l := by
  rw [vD]
  repeat rw [bits_append l (by rfl)]
  exact bits_all l

/-- P and the selector of BMB and of BCR stand in the field D. -/
theorem fD_bmb : BitVec.ofBool (flag l 23) ++ bits l 22 1 ++ bits l 16 6 = fD l := by
  rw [ofBool_flag]
  repeat rw [bits_append l (by rfl)]
  rfl

theorem fD_bcr : BitVec.ofBool (flag l 23) ++ bits l 16 7 = fD l := by
  rw [ofBool_flag]
  repeat rw [bits_append l (by rfl)]
  rfl

/-- The halves of the fields of format A3. -/
theorem fD_halves : bits l 20 4 ++ bits l 16 4 = fD l := bits_append l rfl
theorem fA_halves : bits l 12 4 ++ bits l 8 4 = fA l := bits_append l rfl
theorem fB_halves : bits l 4 4 ++ bits l 0 4 = fB l := bits_append l rfl
theorem xM_halves : bits l 8 4 ++ bits l 4 4 = xM l := bits_append l rfl
theorem f16_halves : fA l ++ fB l = f16 l := bits_append l rfl
theorem mmas_halves : bits l 11 3 ++ bits l 8 3 = bits l 8 6 := bits_append l rfl

end Formats

/-! ### Codes -/

theorem elemType_of_code : ∀ c : BitVec 3, ∀ t ∈ ElemType.ofCode c, t.code = c := by decide
theorem maskSel_of_code : ∀ c : BitVec 2, (MaskSel.ofCode c).code = c := by decide
theorem maskReg_of_code : ∀ c : BitVec 4, ∀ m ∈ MaskReg.ofCode c, m.code = c := by decide
theorem fenceKind_of_code : ∀ c : BitVec 3, ∀ k ∈ FenceKind.ofCode c, k.code = c := by decide
theorem cvtType_of_code : ∀ c : BitVec 4, ∀ t ∈ CvtType.ofCode c, t.code = c := by decide
theorem matType_of_code : ∀ c : BitVec 4, ∀ t ∈ MatType.ofCode c, t.code = c := by decide

theorem vM_code (l : BitVec 24) : (vM l).code = bits l 3 2 := maskSel_of_code _

/-! ### What a decoder answers -/

/-- The answer r of a decoder to the word w is right: an instruction is well-formed, and w is its word. -/
structure Sound (w : IWord) (r : Except Reject Instr) : Prop where
  wf_encode : ∀ i, r = .ok i → i.wf = true ∧ encode i = some w

section
variable {w : IWord} {l : BitVec 24}

theorem Sound.error (e : Reject) : Sound w (.error e) := ⟨nofun⟩

/-- An instruction that packs its fields as l' answers the word of l when the fields are those of l. -/
theorem Sound.ok {sw : Bool} {op : BitVec 7} {l l' : BitVec 24} {i : Instr} (hwf : i.wf = true)
    (hword : encode i = some (word sw op l')) (hl : l' = l) : Sound (word sw op l) (.ok i) := by
  subst hl
  exact ⟨fun _ h => by cases h; exact ⟨hwf, hword⟩⟩

theorem Sound.whenZero_of {n : Nat} {z : BitVec n} {i : Instr} (h : z = 0 → Sound w (.ok i)) : Sound w (whenZero z i) := by
  rw [whenZero]
  split
  · next hz => exact h hz
  · exact .error _

theorem Sound.vvForm_of {o : VvOp} {k : ElemType → MaskSel → BitVec 3 → Except Reject Instr}
    (h : ∀ t, t.code = vT l → o.ok (bits l 0 3) t = true → Sound w (k t (vM l) (bits l 0 3))) : Sound w (vvForm o l k) := by
  rw [vvForm]
  split
  · exact .error _
  · next t ht =>
    split
    · next hok => exact h t (elemType_of_code _ t ht) hok
    · exact .error _

theorem Sound.vxForm_of {k : ElemType → Except Reject Instr} (h : ∀ t, t.code = bits l 1 3 → Sound w (k t)) :
    Sound w (vxForm l k) := by
  rw [vxForm]
  split
  · exact .error _
  · next t ht => exact h t (elemType_of_code _ t ht)

theorem Sound.selectors_of {z d a b : BitVec 4} {k : MaskReg → MaskReg → MaskReg → Instr}
    (h : ∀ md ma mb, z = 0 → md.code = d → ma.code = a → mb.code = b → Sound w (.ok (k md ma mb))) :
    Sound w (selectors z d a b k) := by
  rw [selectors]
  split
  · next md ma mb hd ha hb =>
    split
    · next hz => exact h md ma mb hz (maskReg_of_code _ md hd) (maskReg_of_code _ ma ha) (maskReg_of_code _ mb hb)
    · exact .error _
  · exact .error _

theorem Sound.selector2_of {z d a y : BitVec 4} {k : MaskReg → MaskReg → Instr}
    (h : ∀ md ma, z = 0 → y = 0 → md.code = d → ma.code = a → Sound w (.ok (k md ma))) :
    Sound w (selector2 z d a y k) := by
  rw [selector2]
  split
  · next md ma hd ha =>
    split
    · next hz =>
      obtain ⟨hz, hy⟩ := hz
      exact h md ma hz hy (maskReg_of_code _ md hd) (maskReg_of_code _ ma ha)
    · exact .error _
  · exact .error _

theorem Sound.selector1_of {m z : BitVec 4} {k : MaskReg → Instr}
    (h : ∀ ma, z = 0 → ma.code = m → Sound w (.ok (k ma))) : Sound w (selector1 m z k) := by
  rw [selector1]
  split
  · next ma ha =>
    split
    · next hz => exact h ma hz (maskReg_of_code _ ma ha)
    · exact .error _
  · exact .error _

end

section
variable {sw : Bool} {op : BitVec 7} {l : BitVec 24}

/-- A vector instruction of two sources (R132, R133, R138): C is unused. -/
theorem Sound.vv_of {o : VvOp} {mk : ElemType → MaskSel → BitVec 3 → Instr} (hwf : ∀ t m f, (mk t m f).wf = o.ok f t)
    (hword : ∀ t m f, encode (mk t m f) = some (word sw op (vv (vD l) (vA l) (vB l) 0 t.code m.code f))) :
    Sound (word sw op l) (vvForm o l fun t m f => whenZero (vC l) (mk t m f)) :=
  .vvForm_of fun _ ht hok => .whenZero_of fun hz => .ok ((hwf ..).trans hok) (hword ..) (by rw [← hz, ht, vM_code, vv_fields])

/-- A vector instruction of format VX that uses every field. -/
theorem Sound.vx_of {mk : ElemType → Instr} (hwf : ∀ t, (mk t).wf = true)
    (hword : ∀ t, encode (mk t) = some (word sw op (vx (vD l) (xA l) (xM l) t.code (flag l 0)))) :
    Sound (word sw op l) (vxForm l fun t => .ok (mk t)) :=
  .vxForm_of fun _ ht => .ok (hwf _) (hword _) (by rw [ht, vx_fields])

/-- An instruction of format A3 whose D is unused. -/
theorem Sound.zeroD {i : Instr} (hwf : i.wf = true) (hword : encode i = some (word sw op (a3 0 (fA l) (fB l)))) :
    Sound (word sw op l) (whenZero (fD l) i) :=
  .whenZero_of fun hz => .ok hwf hword (by rw [← hz, a3_fields])

/-- An instruction of format A3 whose B is unused. -/
theorem Sound.zeroB {i : Instr} (hwf : i.wf = true) (hword : encode i = some (word sw op (a3 (fD l) (fA l) 0))) :
    Sound (word sw op l) (whenZero (fB l) i) :=
  .whenZero_of fun hz => .ok hwf hword (by rw [← hz, a3_fields])

end

/-! ### The groups (R74) -/

section
variable {l : BitVec 24} {k : Nat}

/-- The function code of a group, from its value. -/
theorem ofNat_of_toNat {n : Nat} {c : BitVec n} (h : c.toNat = k) : BitVec.ofNat n k = c := by
  rw [← h, BitVec.ofNat_toNat, BitVec.setWidth_eq]

theorem a3_function (h : (fB l).toNat = k) : a3 (fD l) (fA l) (BitVec.ofNat 8 k) = l := by
  rw [ofNat_of_toNat h, a3_fields]

theorem at_function (h : (bits l 5 3).toNat = k) :
    at_ (fD l) (fA l) (BitVec.ofNat 3 k) (bits l 1 4) (flag l 0) = l := by
  rw [ofNat_of_toNat h, at_fields]

end

theorem decodeIntUnary_sound (sw : Bool) (l : BitVec 24) : Sound (word sw 0x21 l) (decodeIntUnary sw l) := by
  unfold decodeIntUnary
  split
  case h_12 => exact .error _
  all_goals exact .ok rfl rfl (a3_function ‹_›)

theorem decodeFpUnary_sound (sw : Bool) (l : BitVec 24) : Sound (word sw 0x2C l) (decodeFpUnary sw l) := by
  unfold decodeFpUnary
  split
  case h_14 => exact .error _
  all_goals exact .ok rfl rfl (a3_function ‹_›)

theorem decodeControl_sound (sw : Bool) (l : BitVec 24) : Sound (word sw 0x37 l) (decodeControl sw l) := by
  unfold decodeControl
  split
  case h_1 h | h_2 h => exact .whenZero_of fun hD => .ok rfl rfl ((congrArg (a3 · _ _) hD).symm.trans (a3_function h))
  case h_3 h =>
    refine .whenZero_of fun hz => ?_
    obtain ⟨hD, hA⟩ := BitVec.or_eq_zero_iff.1 hz
    exact .ok rfl rfl ((congrArg₂ (a3 · · _) hD hA).symm.trans (a3_function h))
  case h_4 => exact .error _

theorem decodeMask_sound (sw : Bool) (l : BitVec 24) : Sound (word sw 0x5D l) (decodeMask sw l) := by
  unfold decodeMask
  split
  case h_1 h | h_2 h | h_3 h | h_4 h =>
    exact .selectors_of fun md ma mb hz hd ha hb => .ok rfl rfl
      (by rw [← hz, hd, ha, hb, fD_halves, fA_halves]; exact a3_function h)
  case h_5 h =>
    refine .selector2_of fun md ma hz hy hd ha => .ok rfl rfl ?_
    have hD : (0 : BitVec 4) ++ md.code = fD l := by rw [← hz, hd, fD_halves]
    have hA : ma.code ++ (0 : BitVec 4) = fA l := by rw [← hy, ha, fA_halves]
    rw [hD, hA]
    exact a3_function h
  case h_6 h | h_7 h | h_9 h =>
    exact .selector1_of fun ma hz ha => .ok rfl rfl (by rw [← hz, ha, fA_halves]; exact a3_function h)
  case h_8 h => exact .selector1_of fun md hz hd => .ok rfl rfl (by rw [← hz, hd, fD_halves]; exact a3_function h)
  case h_10 => exact .error _

theorem decodeAmo_sound (sw : Bool) (l : BitVec 24) : Sound (word sw 0x69 l) (decodeAmo sw l) := by
  unfold decodeAmo
  split
  case h_9 => exact .error _
  all_goals exact .ok rfl rfl (at_function ‹_›)

theorem decodeRed_sound (sw : Bool) (l : BitVec 24) : Sound (word sw 0x6B l) (decodeRed sw l) := by
  unfold decodeRed
  split
  case h_6 => exact .error _
  all_goals exact .ok rfl rfl (at_function ‹_›)

/-- The lowest bit of format AT, where it is unused. -/
theorem flag_of_zero {l : BitVec 24} (h : bits l 0 1 = 0) : flag l 0 = false := by
  rw [← ofBool_flag] at h
  cases hf : flag l 0
  · rfl
  · rw [hf] at h; cases h

theorem decodeLineOp_sound (sw : Bool) (l : BitVec 24) : Sound (word sw 0x6D l) (decodeLineOp sw l) := by
  unfold decodeLineOp
  split
  case h_5 => exact .error _
  all_goals exact .whenZero_of fun hz => .ok rfl rfl (by rw [← flag_of_zero hz]; exact at_function ‹_›)

theorem decodeSystem_sound (sw : Bool) (l : BitVec 24) : Sound (word sw 0x7C l) (decodeSystem sw l) := by
  unfold decodeSystem
  split
  case h_1 h | h_2 h | h_4 h =>
    refine .whenZero_of fun hz => ?_
    obtain ⟨hD, hA⟩ := BitVec.or_eq_zero_iff.1 hz
    exact .ok rfl rfl ((congrArg₂ (a3 · · _) hD hA).symm.trans (a3_function h))
  case h_3 h => exact .whenZero_of fun hD => .ok rfl rfl ((congrArg (a3 · _ _) hD).symm.trans (a3_function h))
  case h_5 h | h_6 h => exact .ok rfl rfl (a3_function h)
  case h_7 => exact .error _

/-- What the decoder answers is right. Branch h_n is OP n; the OPs of one format that use the same fields are one case, each
other OP is a case of its own. -/
theorem decodeOp_sound (sw : Bool) (op : Nat) (l : BitVec 24) :
    Sound (word sw (BitVec.ofNat 7 op) l) (decodeOp sw op l) := by
  unfold decodeOp
  split
  case h_1 | h_2 | h_3 | h_4 | h_5 | h_6 | h_7 | h_8 | h_9 | h_10 | h_11 | h_12 | h_13 | h_14 | h_15 | h_16 | h_17 |
      h_18 | h_19 | h_20 | h_21 | h_22 | h_23 | h_24 | h_25 | h_26 | h_27 | h_28 | h_29 | h_30 | h_31 | h_34 | h_35 |
      h_36 | h_37 | h_38 | h_39 | h_40 | h_41 | h_42 | h_43 | h_45 | h_46 | h_47 | h_48 | h_49 | h_50 | h_57 | h_58 |
      h_59 | h_60 | h_61 | h_62 | h_63 | h_64 | h_65 | h_66 | h_67 | h_94 | h_111 | h_117 | h_119 =>
    exact .ok rfl rfl (a3_fields l)
  case h_68 | h_97 | h_102 | h_112 | h_114 | h_116 =>
    exact .zeroD rfl rfl
  case h_95 | h_96 | h_103 | h_110 | h_113 | h_115 | h_118 | h_120 =>
    exact .zeroB rfl rfl
  case h_32 | h_56 => exact .ok rfl rfl (im16_fields l)
  case h_33 => exact decodeIntUnary_sound sw l
  case h_44 => exact decodeFpUnary_sound sw l
  case h_51 => exact .whenZero_of fun hz => .ok rfl rfl (by rw [← hz, fD_bmb, im16_fields])
  case h_52 => exact .ok rfl rfl (by rw [fD_bcr, im16_fields])
  case h_53 | h_54 => exact .ok rfl rfl rfl
  case h_55 => exact decodeControl_sound sw l
  case h_69 | h_70 | h_71 | h_73 | h_74 | h_75 | h_76 | h_80 | h_81 | h_82 =>
    exact .vv_of (fun _ _ _ => rfl) (fun _ _ _ => rfl)
  case h_72 => exact .vvForm_of fun _ ht hok => .ok hok rfl (by rw [ht, vM_code, vv_fields])
  case h_77 =>
    refine .vvForm_of fun t ht hok => ?_
    split
    · exact .error _
    · next md hmd =>
      exact .whenZero_of fun hz => .ok hok rfl (by rw [← hz, maskReg_of_code _ md hmd, ht, vM_code, vv_fields])
  case h_78 =>
    split
    · next t ht hf =>
      refine .whenZero_of fun hz => .ok rfl rfl ?_
      rw [← hz, elemType_of_code _ t ht, vM_code, show (0 : BitVec 3) = _ from hf.symm, vv_fields]
    · exact .error _
  case h_79 =>
    split
    · next src dst hsrc hdst ht =>
      split
      · next hok =>
        refine .ok hok rfl ?_
        rw [cvtType_of_code _ src hsrc, cvtType_of_code _ dst hdst, show (0 : BitVec 3) = _ from ht.symm, vM_code,
          vv_fields]
      · exact .error _
    · exact .error _
  case h_83 => exact .vxForm_of fun _ ht => .whenZero_of fun hz => .ok rfl rfl (by rw [← hz, ht, vx_fields])
  case h_84 =>
    refine .vxForm_of fun _ ht => ?_
    split
    · exact .error _
    · next hf => exact .ok rfl rfl (by rw [ht, ← eq_false_of_ne_true hf, vx_fields])
  case h_85 | h_87 | h_88 | h_89 | h_90 =>
    exact .vx_of (fun _ => rfl) (fun _ => rfl)
  case h_86 =>
    split
    · next t ht hf =>
      refine .ok rfl rfl ?_
      rw [elemType_of_code _ t ht, vM_code, show (0 : BitVec 3) = _ from hf.symm, vv_fields]
    · exact .error _
  case h_91 | h_92 =>
    exact .vxForm_of fun _ ht => .whenZero_of fun hz => .ok rfl rfl (by rw [← hz, xM_halves, ht, vx_fields])
  case h_93 => exact decodeMask_sound sw l
  case h_98 => exact .whenZero_of fun hz => .ok rfl rfl hz.symm
  case h_99 | h_100 =>
    refine .whenZero_of fun hz => .ok rfl rfl ?_
    obtain ⟨hA, hB⟩ := append_eq_zero ((f16_halves l).trans hz)
    exact (congrArg₂ (a3 (fD l)) hA hB).symm.trans (a3_fields l)
  case h_101 =>
    refine .whenZero_of fun hz => .ok rfl rfl ?_
    obtain ⟨hD, hB⟩ := BitVec.or_eq_zero_iff.1 hz
    exact (congrArg₂ (a3 · (fA l)) hD hB).symm.trans (a3_fields l)
  case h_104 =>
    split
    · exact .error _
    · next k hk =>
      refine .whenZero_of fun hz => .ok rfl rfl ?_
      obtain ⟨hDA, hflag⟩ := append_eq_zero hz
      obtain ⟨hD, hA⟩ := append_eq_zero hDA
      rw [fenceKind_of_code _ k hk, ← flag_of_zero hflag]
      exact (congrArg₂ (at_ · · _ _ _) hD hA).symm.trans (at_fields l)
  case h_105 => exact decodeAmo_sound sw l
  case h_106 => exact .ok rfl rfl (by rw [fB_halves, a3_fields])
  case h_107 => exact decodeRed_sound sw l
  case h_108 =>
    split
    · exact .error _
    · next hsc =>
      refine .whenZero_of fun hz => .ok (decide_eq_true (Nat.le_of_not_lt hsc)) rfl ?_
      obtain ⟨hDfn, hflag⟩ := append_eq_zero hz
      obtain ⟨hD, hfn⟩ := append_eq_zero hDfn
      rw [← flag_of_zero hflag]
      exact (congrArg₂ (at_ · (fA l) · _ _) hD hfn).symm.trans (at_fields l)
  case h_109 => exact decodeLineOp_sound sw l
  case h_121 =>
    split
    · exact .error _
    · next t ht => exact .whenZero_of fun hz => .ok rfl rfl (by rw [← hz, matType_of_code _ t ht, mx_fields])
  case h_122 =>
    split
    · exact .error _
    · next t ht =>
      exact .whenZero_of fun hz => .ok rfl rfl (by rw [← hz, mmas_halves, matType_of_code _ t ht, mx_fields])
  case h_123 =>
    split
    · exact .error _
    · next t ht =>
      split
      · next hok => exact .whenZero_of fun hz => .ok hok rfl (by rw [← hz, cvtType_of_code _ t ht, mread_fields])
      · exact .error _
  case h_124 => exact decodeSystem_sound sw l
  case h_125 => exact .whenZero_of fun hz => .ok rfl rfl (by rw [← hz, rep_fields])
  case h_126 =>
    split
    · exact .error _
    · next hsw =>
      rw [eq_false_of_ne_true hsw]
      exact .ok rfl rfl rfl
  case h_127 => exact .error _

/-! ### Both directions -/

/-- The round trip of every constructor; an event row has no word. -/
theorem encoded_statement (i : Instr) : Encoded.Statement i := by
  cases i with
  | add => apply Encoded.add
  | sub => apply Encoded.sub
  | mul => apply Encoded.mul
  | mulh => apply Encoded.mulh
  | mulhu => apply Encoded.mulhu
  | div => apply Encoded.div
  | divu => apply Encoded.divu
  | rem => apply Encoded.rem
  | remu => apply Encoded.remu
  | and => apply Encoded.and
  | or => apply Encoded.or
  | xor => apply Encoded.xor
  | andn => apply Encoded.andn
  | shl => apply Encoded.shl
  | shr => apply Encoded.shr
  | shra => apply Encoded.shra
  | min => apply Encoded.min
  | max => apply Encoded.max
  | minu => apply Encoded.minu
  | maxu => apply Encoded.maxu
  | seteq => apply Encoded.seteq
  | setlt => apply Encoded.setlt
  | setltu => apply Encoded.setltu
  | sel => apply Encoded.sel
  | addi => apply Encoded.addi
  | andi => apply Encoded.andi
  | ori => apply Encoded.ori
  | xori => apply Encoded.xori
  | shli => apply Encoded.shli
  | shri => apply Encoded.shri
  | shrai => apply Encoded.shrai
  | movi => apply Encoded.movi
  | clz => apply Encoded.clz
  | ctz => apply Encoded.ctz
  | popc => apply Encoded.popc
  | sextB => apply Encoded.sextB
  | sextH => apply Encoded.sextH
  | sextW => apply Encoded.sextW
  | zextB => apply Encoded.zextB
  | zextH => apply Encoded.zextH
  | zextW => apply Encoded.zextW
  | bswap => apply Encoded.bswap
  | mov => apply Encoded.mov
  | faddD => apply Encoded.faddD
  | faddS => apply Encoded.faddS
  | fsubD => apply Encoded.fsubD
  | fmulD => apply Encoded.fmulD
  | fmulS => apply Encoded.fmulS
  | fdivD => apply Encoded.fdivD
  | ffmaD => apply Encoded.ffmaD
  | ffmaS => apply Encoded.ffmaS
  | fcmpeqD => apply Encoded.fcmpeqD
  | fcmpltD => apply Encoded.fcmpltD
  | fsqrtD => apply Encoded.fsqrtD
  | fsqrtS => apply Encoded.fsqrtS
  | fabsD => apply Encoded.fabsD
  | fnegD => apply Encoded.fnegD
  | fclassD => apply Encoded.fclassD
  | fcvtDS => apply Encoded.fcvtDS
  | fcvtSD => apply Encoded.fcvtSD
  | fcvtDL => apply Encoded.fcvtDL
  | fcvtLD => apply Encoded.fcvtLD
  | fcvtSH => apply Encoded.fcvtSH
  | fcvtHS => apply Encoded.fcvtHS
  | fcvtSBf => apply Encoded.fcvtSBf
  | fcvtBfS => apply Encoded.fcvtBfS
  | beq => apply Encoded.beq
  | bne => apply Encoded.bne
  | blt => apply Encoded.blt
  | bge => apply Encoded.bge
  | bltu => apply Encoded.bltu
  | bgeu => apply Encoded.bgeu
  | bmb => apply Encoded.bmb
  | bcr => apply Encoded.bcr
  | jmp => apply Encoded.jmp
  | call => apply Encoded.call
  | jr => apply Encoded.jr
  | callr => apply Encoded.callr
  | ret => apply Encoded.ret
  | loop => apply Encoded.loop
  | ldB => apply Encoded.ldB
  | ldH => apply Encoded.ldH
  | ldW => apply Encoded.ldW
  | ldD => apply Encoded.ldD
  | lduB => apply Encoded.lduB
  | lduH => apply Encoded.lduH
  | lduW => apply Encoded.lduW
  | stB => apply Encoded.stB
  | stH => apply Encoded.stH
  | stW => apply Encoded.stW
  | stD => apply Encoded.stD
  | pref => apply Encoded.pref
  | vadd => apply Encoded.vadd
  | vsub => apply Encoded.vsub
  | vmul => apply Encoded.vmul
  | vfma => apply Encoded.vfma
  | vmin => apply Encoded.vmin
  | vmax => apply Encoded.vmax
  | vlogic => apply Encoded.vlogic
  | vshift => apply Encoded.vshift
  | vcmp => apply Encoded.vcmp
  | vsel => apply Encoded.vsel
  | vcvt => apply Encoded.vcvt
  | vunary => apply Encoded.vunary
  | vred => apply Encoded.vred
  | vscan => apply Encoded.vscan
  | vbcast => apply Encoded.vbcast
  | vext => apply Encoded.vext
  | vins => apply Encoded.vins
  | vperm => apply Encoded.vperm
  | vld => apply Encoded.vld
  | vst => apply Encoded.vst
  | vlds => apply Encoded.vlds
  | vsts => apply Encoded.vsts
  | vgath => apply Encoded.vgath
  | vscat => apply Encoded.vscat
  | mand => apply Encoded.mand
  | mor => apply Encoded.mor
  | mxor => apply Encoded.mxor
  | mandn => apply Encoded.mandn
  | mnot => apply Encoded.mnot
  | mpopc => apply Encoded.mpopc
  | mfirst => apply Encoded.mfirst
  | mset => apply Encoded.mset
  | mget => apply Encoded.mget
  | spawn => apply Encoded.spawn
  | reap => apply Encoded.reap
  | repart => apply Encoded.repart
  | send => apply Encoded.send
  | waitm => apply Encoded.waitm
  | recvm => apply Encoded.recvm
  | clrf => apply Encoded.clrf
  | migrate => apply Encoded.migrate
  | trigger => apply Encoded.trigger
  | bar => apply Encoded.bar
  | fence => apply Encoded.fence
  | amoAdd => apply Encoded.amoAdd
  | amoMin => apply Encoded.amoMin
  | amoMax => apply Encoded.amoMax
  | amoMinu => apply Encoded.amoMinu
  | amoMaxu => apply Encoded.amoMaxu
  | amoAnd => apply Encoded.amoAnd
  | amoOr => apply Encoded.amoOr
  | amoXchg => apply Encoded.amoXchg
  | cas => apply Encoded.cas
  | redFaddOrd => apply Encoded.redFaddOrd
  | redFaddFast => apply Encoded.redFaddFast
  | redIadd => apply Encoded.redIadd
  | redMin => apply Encoded.redMin
  | redMax => apply Encoded.redMax
  | scopew => apply Encoded.scopew
  | clean => apply Encoded.clean
  | inval => apply Encoded.inval
  | discard => apply Encoded.discard
  | zero => apply Encoded.zero
  | reserve => apply Encoded.reserve
  | bankmode => apply Encoded.bankmode
  | copy => apply Encoded.copy
  | sbind => apply Encoded.sbind
  | bufinit => apply Encoded.bufinit
  | bufacq => apply Encoded.bufacq
  | bufrel => apply Encoded.bufrel
  | qpush => apply Encoded.qpush
  | qpop => apply Encoded.qpop
  | qsteal => apply Encoded.qsteal
  | mloadb => apply Encoded.mloadb
  | mma => apply Encoded.mma
  | mmas => apply Encoded.mmas
  | mread => apply Encoded.mread
  | nop => apply Encoded.nop
  | brk => apply Encoded.brk
  | trap => apply Encoded.trap
  | idle => apply Encoded.idle
  | rdctl => apply Encoded.rdctl
  | wrctl => apply Encoded.wrctl
  | rep => apply Encoded.rep
  | ext => apply Encoded.ext
  | _ => exact Encoded.of_event _ rfl

/-- Settles O46, by the round trip of every constructor. -/
theorem decodeOfEncode : Obligations.DecodeOfEncode := fun i w hwf hword => encoded_statement i hwf w hword

/-- Settles O47: the decoder's answer to a word is right, and the word is the one of its fields. -/
theorem encodeOfDecode : Obligations.EncodeOfDecode := by
  intro w i h
  have hsound := decodeOp_sound (w.getLsbD 31) (w.extractLsb' 24 7).toNat (w.extractLsb' 0 24)
  rw [BitVec.ofNat_toNat, BitVec.setWidth_eq, word_fields] at hsound
  exact hsound.wf_encode i h

/-- Settles O48: six of the words are the words of instructions; the OPs of the other two are reserved. -/
theorem decodeSpecWords : Obligations.DecodeSpecWords :=
  ⟨decodeOfEncode (.ext 0x012345) _ rfl rfl, decodeOfEncode (.movi false 0x0F 0xCDEF) _ rfl rfl,
   decodeOfEncode (.addi false 1 1 0x2C) _ rfl rfl, decodeOfEncode (.ldD false 2 9 0x38) _ rfl rfl,
   decodeOfEncode (.movi false 1 0xFFFF) _ rfl rfl, decodeOfEncode (.add true 3 2 1) _ rfl rfl, rfl, rfl⟩

end Sys2Proof
end

section
/-! What an issue slot runs (R68, R77, R82, R83, R149, R150): the instruction that the fetched word stands for. -/

namespace Sys2Proof.Machine

/-! ### The word of a slot -/

/-- A slot that chooses a thread runs it (R149). -/
theorem step_of_beginsSlot {s t : State} (h : s.beginsSlot t) : step s = runThread t := by
  obtain ⟨hpre, ⟨hagenda, hslot⟩ | ⟨n, rest, hagenda, hslot⟩⟩ := h
  · simp only [step, hpre, hagenda, List.isEmpty_nil, if_true, slotStep, hslot]
  · simp only [step, hpre, hagenda, List.isEmpty_nil, if_true, slotStep, hslot]

/-- The words after an EXT are read in the same slot (R79). -/
theorem step_of_extended {s : State} (hpre : s.thr.pre ≠ []) (hlost : ∀ n rest, s.agenda ≠ .lost n :: rest) :
    step s = runThread s := by
  rw [step, if_neg (by simpa using hpre), wordStep]
  split
  · next n rest hagenda => exact absurd hagenda (hlost n rest)
  · rfl

/-- A word that the fetch gives without a mark is read at the thread (R82). -/
theorem fetchInstr_word {s : State} {w : IWord} (h : s.fetchWord s.cur s.thr s.thr.opw = .ok (w, false)) :
    s.fetchInstr s.cur s.ctx = readWord s.thr w := by
  simp [State.fetchInstr, show s.thread s.cur s.ctx = s.thr from rfl, h]

/-- A poisoned word is consumed (R312). -/
theorem fetchInstr_poison {s : State} {w : IWord} (h : s.fetchWord s.cur s.thr s.thr.opw = .ok (w, true)) :
    s.fetchInstr s.cur s.ctx = .error .contain := by
  simp [State.fetchInstr, show s.thread s.cur s.ctx = s.thr from rfl, h]

/-- A fault of the walk is the fault of the fetch (R39). -/
theorem fetchInstr_walkFault {s : State} {e : WalkFault} (h : s.fetchWord s.cur s.thr s.thr.opw = .error e) :
    s.fetchInstr s.cur s.ctx
      = .error (.fault { code := e.code, va := s.thr.opw, vahi := s.thr.vahi, acc := 3, level := e.level }) := by
  simp [State.fetchInstr, show s.thread s.cur s.ctx = s.thr from rfl, h, AccKind.code]

theorem runThread_ok {s : State} {i : Instr} (h : s.fetchInstr s.cur s.ctx = .ok i) : runThread s = exec i s := by
  rw [runThread, h]

theorem runThread_fault {s : State} {f : FaultInfo} (h : s.fetchInstr s.cur s.ctx = .error (.fault f)) :
    runThread s = .next (s.faulted f) := by
  rw [runThread, h]
  exact finish_fault (act_stop _ _)

theorem runThread_contain {s : State} (h : s.fetchInstr s.cur s.ctx = .error .contain) :
    runThread s = .next (s.containCore s.cur s.ctx) := by
  rw [runThread, h]
  exact finish_contain (act_stop _ _)

theorem decoded_ok {w : IWord} {i : Instr} (h : decode w = .ok i) : decoded w = .ok i := by
  rw [decoded, h]

theorem decoded_error {w : IWord} {e : Reject} (h : decode w = .error e) : decoded w = .error illegalInstr := by
  rw [decoded, h]

/-- A word outside a frame, after an EXT or of an OP that no frame captures stands for itself (R82). -/
theorem readWord_plain {t : Ctx} {w : IWord} (h : t.repA = false ∨ t.pre ≠ [] ∨ arithmeticOp (opOf w) = false) :
    readWord t w = decoded w := by
  refine if_neg fun hcap => ?_
  simp only [Bool.and_eq_true, List.isEmpty_iff] at hcap
  obtain ⟨⟨hrep, hpre⟩, hop⟩ := hcap
  rcases h with h | h | h
  · simp [h] at hrep
  · exact h hpre
  · rw [opOf, hop] at h; cases h

section Captured
variable {t : Ctx} {w : IWord} (hrep : t.repA = true) (hpre : t.pre = []) (hop : arithmeticOp (opOf w) = true)
include hrep hpre hop

theorem captured_by_frame : (t.repA && t.pre.isEmpty && arithmeticOp (w.extractLsb' 24 7).toNat) = true := by
  rw [hrep, hpre]
  exact hop

/-- A captured word stands for the word as adjusted (R82, R83). -/
theorem readWord_adjusted {v : IWord} (hv : adjustWord w t.repFrm t.repJ = some v) : readWord t w = decoded v := by
  simp only [readWord, captured_by_frame hrep hpre hop, if_true, hv]

/-- A captured word whose field leaves its range is an illegal operand, if it holds an instruction with that field zero. -/
theorem readWord_stray_ok (hv : adjustWord w t.repFrm t.repJ = none) {i : Instr}
    (hi : decode (strayWord w t.repFrm t.repJ) = .ok i) : readWord t w = .error illegalOperand := by
  simp only [readWord, captured_by_frame hrep hpre hop, if_true, hv, decoded, hi]

/-- Otherwise it is an illegal instruction. -/
theorem readWord_stray_error (hv : adjustWord w t.repFrm t.repJ = none) {e : Reject}
    (he : decode (strayWord w t.repFrm t.repJ) = .error e) : readWord t w = .error illegalInstr := by
  simp only [readWord, captured_by_frame hrep hpre hop, if_true, hv, decoded, he]

end Captured

/-- A fetched word that stands for the word v is run as v, or is an illegal instruction where v holds none (R86). -/
theorem runThread_word {s : State} {w v : IWord} (hw : s.fetchWord s.cur s.thr s.thr.opw = .ok (w, false))
    (hv : readWord s.thr w = decoded v) :
    (∀ i, decode v = .ok i → runThread s = exec i s)
    ∧ ∀ e, decode v = .error e → runThread s = .next (s.faulted { code := 0x01 }) :=
  have hfetch := (fetchInstr_word hw).trans hv
  ⟨fun _ h => runThread_ok (hfetch.trans (decoded_ok h)), fun _ h => runThread_fault (hfetch.trans (decoded_error h))⟩

/-! ### Slots lost to bank arbitration, and events (R150) -/

/-- A lost slot takes one of the thread's tries, and does nothing else. -/
theorem step_lost {s t : State} {n : Nat} {rest : List Move} (hpre : s.thr.pre = []) (hagenda : s.agenda = .lost n :: rest)
    (hslot : ({ s with agenda := rest } : State).beginSlot n = (t, true)) (hlose : t.canLose = true) :
    step s = .next t.loseTry := by
  simp only [step, hpre, hagenda, List.isEmpty_nil, if_true, lostStep, hslot, whenEnabled, hlose]

/-- An event is run as it stands. -/
theorem step_event {s : State} {i : Instr} {rest : List Move} (hpre : s.thr.pre = []) (hagenda : s.agenda = .event i :: rest)
    (hevent : encode i = none) : step s = exec i { s with agenda := rest } := by
  simp only [step, hpre, hagenda, List.isEmpty_nil, if_true, isEvent, hevent, Option.isNone_none]

/-- Changing the running thread leaves every other one. -/
theorem modThr_otherThreads (s : State) (f : Ctx → Ctx) : s.otherThreads (s.modThr f) := fun x hx => by
  rw [State.modThr, thread_modThread, if_neg (fun h => hx h.2)]

theorem modThr_otherCores (s : State) (f : Ctx → Ctx) : s.otherCores (s.modThr f) := fun _ hn =>
  State.core_setCore_ne _ _ hn

theorem modThr_rf (s : State) (f : Ctx → Ctx) : ((s.modThr f).core s.cur).rf = (s.core s.cur).rf := by
  obtain ⟨c, hc⟩ := core_modThread s s.cur s.ctx s.cur f
  rw [State.modThr, hc]

/-- Settles O49: a slot runs its thread, the fetched word is read there, and an event is run as it stands. -/
theorem stepRunsDecoded : Obligations.StepRunsDecoded := by
  refine ⟨?word, ?poison, ?walkFault, ?afterExt, ?lost, ?event⟩
  case word =>
    intro s t w hbegin hfetch
    rw [step_of_beginsSlot hbegin]
    refine ⟨fun hplain => ?plain, fun hrep hpre hop =>
      ⟨fun v hv => ?adjusted, fun hv => ⟨fun i hi => ?strayOk, fun e he => ?strayError⟩⟩⟩
    case plain => exact runThread_word hfetch (readWord_plain (hplain.imp_right .inr))
    case adjusted => exact runThread_word hfetch (readWord_adjusted hrep hpre hop hv)
    case strayOk => exact runThread_fault ((fetchInstr_word hfetch).trans (readWord_stray_ok hrep hpre hop hv hi))
    case strayError => exact runThread_fault ((fetchInstr_word hfetch).trans (readWord_stray_error hrep hpre hop hv he))
  case poison =>
    intro s t w hbegin hfetch
    rw [step_of_beginsSlot hbegin, runThread_contain (fetchInstr_poison hfetch)]
  case walkFault =>
    intro s t f hbegin hfetch
    rw [step_of_beginsSlot hbegin, runThread_fault (fetchInstr_walkFault hfetch)]
  case afterExt =>
    intro s w hpre hlost hfetch
    rw [step_of_extended hpre hlost]
    exact runThread_word hfetch (readWord_plain (.inr (.inl hpre)))
  case lost =>
    intro s t n rest hpre hagenda hslot hlose
    exact ⟨t.loseTry, step_lost hpre hagenda hslot hlose, modThr_thr _ _, ⟨rfl, rfl⟩, modThr_otherCores _ _,
      modThr_otherThreads _ _, modThr_rf _ _, rfl⟩
  case event =>
    intro s i rest hpre hagenda hevent
    exact step_event hpre hagenda hevent

end Sys2Proof.Machine
end

section
/-! The functions of the integer instructions (R44, R100, R104): each is the arithmetic or bit count the spec names. -/

namespace Sys2Proof.Machine

/-- The pattern of an integer in w bits is that of the bit vector. -/
theorem toPattern_eq (w : Nat) (z : Int) : toPattern w z = (BitVec.ofInt w z).toNat := (BitVec.toNat_ofInt ..).symm

/-- The signed value of the low w bits is that of the bit vector. -/
theorem toSigned_eq (w n : Nat) : toSigned w n = (BitVec.ofNat w n).toInt := by
  rw [BitVec.toInt_eq_toNat_cond, BitVec.toNat_ofNat, toSigned]
  cases w with
  | zero => simp [Nat.mod_one]
  | succ w => rw [Nat.add_sub_cancel, Nat.pow_succ]; split <;> split <;> omega

theorem ofNat_toNat_self (x : Word) : BitVec.ofNat 64 x.toNat = x := (BitVec.ofNat_toNat ..).trans (BitVec.setWidth_eq x)

theorem add_eq_ofInt (x y : Word) : x + y = BitVec.ofInt 64 (x.toInt + y.toInt) := by
  rw [BitVec.ofInt_add, BitVec.ofInt_toInt, BitVec.ofInt_toInt]

theorem sub_eq_ofInt (x y : Word) : x - y = BitVec.ofInt 64 (x.toInt - y.toInt) := by
  rw [← BitVec.toInt_inj, BitVec.toInt_sub, BitVec.toInt_ofInt]

theorem mul_eq_ofInt (x y : Word) : x * y = BitVec.ofInt 64 (x.toInt * y.toInt) := by
  rw [BitVec.ofInt_mul, BitVec.ofInt_toInt, BitVec.ofInt_toInt]

/-- The high half of a signed product is bits 127:64 of the 128-bit product. -/
theorem mulHigh_eq (x y : Word) : mulHigh x y = (x.signExtend 128 * y.signExtend 128).extractLsb' 64 64 := by
  apply BitVec.eq_of_toNat_eq
  rw [mulHigh, BitVec.toNat_ofInt, BitVec.extractLsb'_toNat, Nat.shiftRight_eq_div_pow, BitVec.signExtend, BitVec.signExtend,
    ← BitVec.ofInt_mul, BitVec.toNat_ofInt]
  omega

theorem mulHighU_eq (x y : Word) : mulHighU x y = (x.setWidth 128 * y.setWidth 128).extractLsb' 64 64 := by
  have hx : x.toNat * y.toNat < 2 ^ 128 := by
    calc x.toNat * y.toNat < 2 ^ 64 * 2 ^ 64 := Nat.mul_lt_mul'' x.isLt y.isLt
      _ = 2 ^ 128 := by norm_num
  apply BitVec.eq_of_toNat_eq
  rw [mulHighU, BitVec.toNat_ofNat, BitVec.extractLsb'_toNat, BitVec.toNat_mul, BitVec.toNat_setWidth_of_le (by decide),
    BitVec.toNat_setWidth_of_le (by decide), Nat.mod_eq_of_lt hx, Nat.shiftRight_eq_div_pow]

theorem sdiv_eq_ofInt (x y : Word) : x.sdiv y = BitVec.ofInt 64 (x.toInt.tdiv y.toInt) := by
  rw [← BitVec.toInt_inj, BitVec.toInt_sdiv, BitVec.toInt_ofInt]

theorem srem_eq_ofInt (x y : Word) : x.srem y = BitVec.ofInt 64 (x.toInt - y.toInt * x.toInt.tdiv y.toInt) := by
  rw [← Int.tmod_def, ← BitVec.toInt_srem, BitVec.ofInt_toInt]

/-- The overflowing quotient is the one that the bit-vector division wraps to. -/
theorem divS_eq (x y : Word) : divS x y = if y = 0 then 0xFFFFFFFFFFFFFFFF else x.sdiv y := by
  rw [divS, sdiv_eq_ofInt]
  split
  · rfl
  split
  next h =>
    obtain ⟨rfl, rfl⟩ : x = minWord ∧ y = allOnes := by simpa using h
    decide
  · rfl

theorem divU_eq (x y : Word) : divU x y = if y = 0 then 0xFFFFFFFFFFFFFFFF else x / y := by
  have hquot : BitVec.ofNat 64 (x.toNat / y.toNat) = x / y := by
    rw [← BitVec.toNat_udiv]
    exact ofNat_toNat_self _
  rw [divU, hquot]
  rfl

/-- Division by zero leaves the dividend, and the overflowing case leaves zero, as the bit-vector remainder has it. -/
theorem remS_eq (x y : Word) : remS x y = x.srem y := by
  rw [remS, srem_eq_ofInt]
  split
  next h => rw [h]; simp
  split
  next h =>
    obtain ⟨rfl, rfl⟩ : x = minWord ∧ y = allOnes := by simpa using h
    decide
  · rfl

theorem remU_eq (x y : Word) : remU x y = x % y := by
  rw [remU]
  split
  next h => rw [h]; exact BitVec.umod_zero.symm
  · apply BitVec.eq_of_toNat_eq
    rw [BitVec.toNat_umod, BitVec.toNat_ofNat, Nat.mod_eq_of_lt]
    exact lt_of_le_of_lt (Nat.mod_le _ _) x.isLt

theorem shiftAmount_eq (y : Word) : shiftAmount y = amount y := by
  rw [amount, BitVec.extractLsb'_toNat]; rfl

/-- A shift left multiplies by a power of two. -/
theorem shiftL_eq (x y : Word) : shiftL x y = x * BitVec.ofNat 64 (2 ^ amount y) := by
  rw [shiftL, shiftAmount_eq, BitVec.shiftLeft_eq_mul_twoPow]
  congr 1
  apply BitVec.eq_of_toNat_eq
  rw [BitVec.toNat_twoPow, BitVec.toNat_ofNat]

/-- A logical shift right divides by a power of two. -/
theorem shiftR_eq (x y : Word) : shiftR x y = BitVec.ofNat 64 (x.toNat / 2 ^ amount y) := by
  apply BitVec.eq_of_toNat_eq
  rw [shiftR, shiftAmount_eq, BitVec.toNat_ushiftRight, Nat.shiftRight_eq_div_pow, BitVec.toNat_ofNat, Nat.mod_eq_of_lt]
  exact lt_of_le_of_lt (Nat.div_le_self _ _) x.isLt

/-- An arithmetic shift right divides the signed value by a power of two, rounding down. -/
theorem shiftRA_eq (x y : Word) : shiftRA x y = BitVec.ofInt 64 (x.toInt / (2 ^ amount y : Nat)) := by
  rw [shiftRA, shiftAmount_eq, ← Int.shiftRight_eq_div_pow, ← BitVec.toInt_sshiftRight, BitVec.ofInt_toInt]

theorem minS_eq (x y : Word) : minS x y = BitVec.ofInt 64 (min x.toInt y.toInt) := by
  rw [minS, min_def]; split <;> exact BitVec.ofInt_toInt.symm

theorem maxS_eq (x y : Word) : maxS x y = BitVec.ofInt 64 (max x.toInt y.toInt) := by
  rw [maxS, max_comm, max_def]; split <;> exact BitVec.ofInt_toInt.symm

theorem minU_eq (x y : Word) : minU x y = BitVec.ofNat 64 (min x.toNat y.toNat) := by
  rw [minU, min_def]; split <;> exact (ofNat_toNat_self _).symm

theorem maxU_eq (x y : Word) : maxU x y = BitVec.ofNat 64 (max x.toNat y.toNat) := by
  rw [maxU, max_comm, max_def]; split <;> exact (ofNat_toNat_self _).symm

theorem ofBit_decide (p : Prop) [Decidable p] : ofBit (decide p) = if p then 1 else 0 := by
  simp [ofBit]

theorem setEq_eq (x y : Word) : setEq x y = if x = y then 1 else 0 := ofBit_decide _

theorem setLt_eq (x y : Word) : setLt x y = if x.toInt < y.toInt then 1 else 0 := ofBit_decide _

theorem setLtU_eq (x y : Word) : setLtU x y = if x.toNat < y.toNat then 1 else 0 := ofBit_decide _

/-- A population count counts the positions of 1 bits. -/
theorem popCount_eq (x n : Nat) : popCount x n = ((List.range n).filter (fun i => x.testBit i)).length := by
  induction n with
  | zero => rfl
  | succ n ih =>
    rw [popCount, ih, List.range_succ, List.filter_append, List.length_append, List.filter_singleton]
    split <;> simp [*]

/-- Leading zeros are the positions from the top before the first 1 bit. -/
theorem leadingZeros_eq {w x : Nat} (hx : x < 2 ^ w) :
    leadingZeros w x = ((List.range w).reverse.takeWhile (fun i => !x.testBit i)).length := by
  induction w with
  | zero => simp [leadingZeros, show x = 0 by omega]
  | succ w ih =>
    rw [List.range_succ, List.reverse_append, List.reverse_singleton, List.singleton_append, List.takeWhile_cons]
    by_cases h : x < 2 ^ w
    · simp only [Nat.testBit_lt_two_pow h, Bool.not_false, if_true, List.length_cons, ← ih h]
      unfold leadingZeros
      split
      · rfl
      next h0 => have := (Nat.log2_lt h0).2 h; omega
    · have hlog : Nat.log2 x = w := (Nat.log2_eq_iff (by have := Nat.two_pow_pos w; omega)).2 ⟨by omega, hx⟩
      have hbit : x.testBit w = true := Nat.testBit_of_two_pow_le_and_two_pow_add_one_gt (not_lt.1 h) hx
      simp [hbit, leadingZeros, hlog]
      have := Nat.two_pow_pos w; omega

/-- The first position that a test accepts comes after those it refuses. -/
theorem find?_range'_getD (p : Nat → Bool) (a n : Nat) :
    ((List.range' a n).find? p).getD (a + n) = a + ((List.range' a n).takeWhile (fun i => !p i)).length := by
  induction n generalizing a with
  | zero => rfl
  | succ n ih =>
    rw [List.range'_succ, List.find?_cons, List.takeWhile_cons]
    cases hp : p a with
    | true => rfl
    | false =>
      simp only [Bool.not_false, if_true, List.length_cons, Nat.add_comm n, ← Nat.add_assoc, ih]
      omega

/-- Trailing zeros are the positions from the bottom before the first 1 bit. -/
theorem trailingZeros_eq (w x : Nat) : trailingZeros w x = ((List.range w).takeWhile (fun i => !x.testBit i)).length := by
  rw [trailingZeros, List.range_eq_range']
  simpa using find?_range'_getD (fun i => x.testBit i) 0 w

theorem clzF_eq (x : Word) :
    clzF x = BitVec.ofNat 64 ((List.range 64).reverse.takeWhile (fun i => !x.getLsbD i)).length :=
  congrArg (BitVec.ofNat 64) (leadingZeros_eq x.isLt)

theorem ctzF_eq (x : Word) : ctzF x = BitVec.ofNat 64 ((List.range 64).takeWhile (fun i => !x.getLsbD i)).length :=
  congrArg (BitVec.ofNat 64) (trailingZeros_eq 64 x.toNat)

theorem popcF_eq (x : Word) : popcF x = BitVec.ofNat 64 ((List.range 64).filter (fun i => x.getLsbD i)).length :=
  congrArg (BitVec.ofNat 64) (popCount_eq x.toNat 64)

theorem sextF_eq (w : Nat) (x : Word) : sextF w x = (x.extractLsb' 0 w).signExtend 64 := by
  have hlow : x.setWidth w = x.extractLsb' 0 w := BitVec.eq_of_toNat_eq (by simp)
  rw [sextF, hlow]

theorem zextF_eq {w : Nat} (hw : w ≤ 64) (x : Word) : zextF w x = BitVec.ofNat 64 (x.toNat % 2 ^ w) := by
  apply BitVec.eq_of_toNat_eq
  rw [zextF, BitVec.toNat_setWidth_of_le hw, BitVec.toNat_setWidth, BitVec.toNat_ofNat]
  exact (Nat.mod_eq_of_lt (lt_of_le_of_lt (Nat.mod_le _ _) x.isLt)).symm

end Sys2Proof.Machine
end

section
/-! Integer instructions (R100 to R104): each reads its fields in order and writes a function of what it read. -/

namespace Sys2Proof.Machine

/-- An arithmetic instruction needs only that no prefix stands before it (R75, R86). -/
theorem meets_arith {s : State} (h : s.thr.pre = []) : s.meets { arith := true } :=
  ⟨.inr h, .inl ⟨rfl, h⟩, nofun, nofun⟩

/-- One that takes prefixes needs only that a frame does not meet them (R73, R81, R86). -/
theorem meets_arithExt {s : State} (h : s.thr.pre = [] ∨ s.thr.repA = false) : s.meets { ext := true, arith := true } :=
  ⟨.inl rfl, h.imp_left (⟨rfl, ·⟩), nofun, nofun⟩

/-- R100: both sources are read in order, and d takes the function of what they gave. -/
theorem regOp_ok {s : State} {d a b : Reg} {f : Word → Word → Word} (huse : s.canUse [a, b] [d])
    (hclean : unmarked d = true → (s.value a).p = false ∧ ((s.afterRead a).value b).p = false) (sw : Bool) :
    regOp f sw d a b s = .ok ((), (((s.afterRead a).afterRead b).afterWrite d
      (f (s.value a).v ((s.afterRead a).value b).v) ((s.value a).p || ((s.afterRead a).value b).p)).moved sw) := by
  obtain ⟨⟨k, ha⟩, hb⟩ := has_two huse
  have htakes := takes_afterRead (a := b) (takes_afterRead (a := a) (canUse_takes huse List.mem_cons_self))
  rw [regOp, act_bind_ok (operands_ok huse), act_bind_ok (readReg_ok ha), act_bind_ok (readReg_ok hb),
    act_bind_ok (setReg_ok htakes fun hd => by simp [hclean hd])]
  rfl

/-- An instruction whose shape takes a function is the shape of any equal function. -/
theorem exec_congr {α : Type} {i : Instr} {form : Form} (op : α → Act Unit) {g f : α} (hg : g = f)
    (he : exec i = instr form (op g)) : exec i = instr form (op f) := hg ▸ he

/-- Every integer register instruction has the shape of R100 with the function the spec names. -/
theorem exec_integerRegister {i : Instr} {sw : Bool} {d a b : Reg} {f : Word → Word → Word}
    (h : integerRegister i = some (sw, d, a, b, f)) : exec i = instr { arith := true } (regOp f sw d a b) := by
  have shape {g : Word → Word → Word} (hg : ∀ x y, g x y = f x y) :=
    exec_congr (i := i) (form := { arith := true }) (regOp · sw d a b) (funext₂ hg)
  unfold integerRegister at h
  split at h <;> cases h
  · exact shape add_eq_ofInt rfl
  · exact shape sub_eq_ofInt rfl
  · exact shape mul_eq_ofInt rfl
  · exact shape mulHigh_eq rfl
  · exact shape mulHighU_eq rfl
  · exact shape divS_eq rfl
  · exact shape divU_eq rfl
  · exact shape remS_eq rfl
  · exact shape remU_eq rfl
  · rfl
  · rfl
  · rfl
  · rfl
  · exact shape shiftL_eq rfl
  · exact shape shiftR_eq rfl
  · exact shape shiftRA_eq rfl
  · exact shape minS_eq rfl
  · exact shape maxS_eq rfl
  · exact shape minU_eq rfl
  · exact shape maxU_eq rfl
  · exact shape setEq_eq rfl
  · exact shape setLt_eq rfl
  · exact shape setLtU_eq rfl

/-- Every integer immediate instruction has the shape of R102. -/
theorem exec_integerImmediate {i : Instr} {sw : Bool} {d a : Reg} {k : BitVec 8} {f : Word → Word → Word}
    (h : integerImmediate i = some (sw, d, a, k, f)) :
    exec i = instr { ext := true, arith := true } (immOp f sw d a k) := by
  have shape {g : Word → Word → Word} (hg : ∀ x y, g x y = f x y) :=
    exec_congr (i := i) (form := { ext := true, arith := true }) (immOp · sw d a k) (funext₂ hg)
  unfold integerImmediate at h
  split at h <;> cases h
  · rfl
  · rfl
  · rfl
  · rfl
  · exact shape shiftL_eq rfl
  · exact shape shiftR_eq rfl
  · exact shape shiftRA_eq rfl

/-- Every instruction of the integer unary group has the shape of R104. -/
theorem exec_integerUnary {i : Instr} {sw : Bool} {d a : Reg} {f : Word → Word}
    (h : integerUnary i = some (sw, d, a, f)) : exec i = instr { arith := true } (unaryOp f sw d a) := by
  have shape {g : Word → Word} (hg : ∀ x, g x = f x) :=
    exec_congr (i := i) (form := { arith := true }) (unaryOp · sw d a) (funext hg)
  unfold integerUnary at h
  split at h <;> cases h
  · exact shape clzF_eq rfl
  · exact shape ctzF_eq rfl
  · exact shape popcF_eq rfl
  · exact shape (sextF_eq 8) rfl
  · exact shape (sextF_eq 16) rfl
  · exact shape (sextF_eq 32) rfl
  · exact shape (zextF_eq (by decide)) rfl
  · exact shape (zextF_eq (by decide)) rfl
  · exact shape (zextF_eq (by decide)) rfl
  · rfl
  · rfl

/-- R102: the source and the extended immediate. -/
theorem immOp_ok {s : State} {d a : Reg} {f : Word → Word → Word} (huse : s.canUse [a] [d])
    (hclean : unmarked d = true → (s.value a).p = false) (sw : Bool) (k : BitVec 8) :
    immOp f sw d a k s
      = .ok ((), ((s.afterRead a).afterWrite d (f (s.value a).v (s.thr.imm k)) (s.value a).p).moved sw) := by
  have htakes := takes_afterRead (a := a) (canUse_takes huse List.mem_cons_self)
  rw [immOp, act_bind_ok (operands_ok huse), act_get_bind, act_bind_ok (readReg_ok (has_one huse)),
    act_bind_ok (setReg_ok htakes hclean)]
  rfl

/-- R104: one source. -/
theorem unaryOp_ok {s : State} {d a : Reg} {f : Word → Word} (huse : s.canUse [a] [d])
    (hclean : unmarked d = true → (s.value a).p = false) (sw : Bool) :
    unaryOp f sw d a s = .ok ((), ((s.afterRead a).afterWrite d (f (s.value a).v) (s.value a).p).moved sw) := by
  have htakes := takes_afterRead (a := a) (canUse_takes huse List.mem_cons_self)
  rw [unaryOp, act_bind_ok (operands_ok huse), act_bind_ok (readReg_ok (has_one huse)), act_bind_ok (setReg_ok htakes hclean)]
  rfl

/-- Settles O1: the shape of R100 with each function, and SEL, whose condition is its destination. -/
theorem integerRegisterResult : Obligations.IntegerRegisterResult := by
  refine ⟨?two, ?sel, ?selPort⟩
  case two =>
    intro s i sw d a b f hi hpre huse x y hclean
    rw [exec_integerRegister hi]
    exact instr_ok (meets_arith hpre) (regOp_ok huse hclean sw)
  case sel =>
    intro s sw d a b hpre hd huse x y c hclean
    obtain ⟨⟨j, ha⟩, ⟨k, hb⟩, hc⟩ := has_three huse
    have hport : (!(decide (0xA0 ≤ d.toNat) && decide (d.toNat ≤ 0xAF))) = true := by
      rw [← Bool.decide_and, decide_eq_false hd, Bool.not_false]
    have htakes := takes_afterRead (a := b) (takes_afterRead (a := a) (canUse_takes huse List.mem_cons_self))
    refine instr_ok (meets_arith hpre) ?_
    rw [need_bind_true hport, act_bind_ok (operands_ok huse), act_bind_ok (readReg_ok ha), act_bind_ok (readReg_ok hb),
      act_bind_ok (readReg_ok hc), afterRead_plain _ hd, act_bind_ok (setReg_ok htakes fun h => by simp [x, y, c, hclean h])]
    rfl
  case selPort =>
    intro s sw d a b hpre hlo hhi
    have hport : (!(decide (0xA0 ≤ d.toNat) && decide (d.toNat ≤ 0xAF))) = false := by simp [hlo, hhi]
    exact instr_fault (meets_arith hpre) (need_bind_false hport _ _ _)

/-- Settles O2: the shapes of R102 to R104 with each function. -/
theorem integerImmediateUnaryResult : Obligations.IntegerImmediateUnaryResult := by
  refine ⟨⟨?immediate, ?movi⟩, ?unary⟩
  case immediate =>
    intro s i sw d a k f hi hform huse hclean
    rw [exec_integerImmediate hi]
    exact instr_ok (meets_arithExt hform) (immOp_ok huse hclean sw k)
  case movi =>
    intro s sw d k hform huse
    refine instr_ok (meets_arithExt hform) ?_
    rw [act_bind_ok (operands_ok huse), act_get_bind,
      act_bind_ok (setReg_ok (canUse_takes huse List.mem_cons_self) fun _ => rfl)]
    rfl
  case unary =>
    intro s i sw d a f hi hpre huse hclean
    rw [exec_integerUnary hi]
    exact instr_ok (meets_arith hpre) (unaryOp_ok huse hclean sw)

end Sys2Proof.Machine
end

section
/-! Scalar floating point (R98, R99, R105 to R108): the flags enter at issue, or with the outstanding result. -/

namespace Sys2Proof.Machine

/-- A change of the thread that keeps its window leaves a destination able to take its write. -/
theorem takes_modThr {s : State} {d : Reg} (h : s.takes d) {f : Ctx → Ctx} (hf : (f s.thr).size = s.thr.size) :
    (s.modThr f).takes d := by
  obtain ⟨c, hc⟩ := core_modThread s s.cur s.ctx s.cur f
  exact takes_congr h (by rw [modThr_thr, hf]) ((congrArg Core.strm hc :))

theorem takes_raised {s : State} {d : Reg} (h : s.takes d) (f : Flags) : (s.raised f).takes d := takes_modThr h rfl

theorem narrow_word (x : Word) : narrow 64 x = x.toNat := Nat.mod_eq_of_lt x.isLt

theorem compareResult_eq (r : Bool × Flags) : compareResult r = (r.1.toNat, r.2) := by
  obtain ⟨b, f⟩ := r
  cases b <;> rfl

/-- The instructions of R105 but the division: an operation on the low bits of two sources. -/
theorem exec_floatTwo {i : Instr} {sw : Bool} {d a b : Reg} {f : BitVec 2 → Word → Word → Nat × Flags}
    (h : floatTwo i = some (sw, d, a, b, f)) :
    ∃ w g, exec i = instr { arith := true } (fpOp2 w g sw d a b)
      ∧ ∀ rm x y, g rm (narrow w x) (narrow w y) = f rm x y := by
  unfold floatTwo at h
  split at h <;> cases h
  · exact ⟨64, fpAdd fmt64, rfl, fun rm x y => by rw [narrow_word, narrow_word]⟩
  · exact ⟨32, fpAdd fmt32, rfl, fun rm x y => rfl⟩
  · exact ⟨64, fpSub fmt64, rfl, fun rm x y => by rw [narrow_word, narrow_word]⟩
  · exact ⟨64, fpMul fmt64, rfl, fun rm x y => by rw [narrow_word, narrow_word]⟩
  · exact ⟨32, fpMul fmt32, rfl, fun rm x y => rfl⟩
  · exact ⟨64, _, rfl, fun rm x y => by rw [narrow_word, narrow_word, compareResult_eq]⟩
  · exact ⟨64, _, rfl, fun rm x y => by rw [narrow_word, narrow_word, compareResult_eq]⟩

/-- The single-cycle instructions of R107 and R108. -/
theorem exec_floatOne {i : Instr} {sw : Bool} {d a : Reg} {f : BitVec 2 → Word → Nat × Flags}
    (h : floatOne i = some (sw, d, a, f)) : exec i = instr { arith := true } (fpOp1 f sw d a) := by
  unfold floatOne at h
  split at h <;> cases h <;> rfl

/-- The fused multiply-adds of R106. -/
theorem exec_floatFma {i : Instr} {sw : Bool} {d a b : Reg} {w : Nat} {m : Fmt}
    (h : floatFma i = some (sw, d, a, b, w, m)) : exec i = instr { arith := true } (fpFmaOp w m sw d a b) := by
  unfold floatFma at h
  split at h <;> cases h <;> rfl

/-- Flags of a single-cycle result enter at issue (R99). -/
theorem orFlags_bind {β : Type} (f : Flags) (g : Unit → Act β) (s : State) : (orFlags f >>= g) s = g () (s.raised f) := rfl

/-- An outstanding result takes value and flags with it (R20, R99). -/
theorem later_bind {β : Type} (d : Reg) (v : Word) (p : Bool) (f : Flags) (g : Unit → Act β) (s : State) :
    (later d v p f >>= g) s = g () (s.addOutst s.cur s.ctx .other [.reg d v p] f true) := rfl

/-- R105: both sources are read, the flags enter, and d takes the value. -/
theorem fpOp2_ok {s : State} {d a b : Reg} {w : Nat} {g : BitVec 2 → Nat → Nat → Nat × Flags}
    {f : BitVec 2 → Word → Word → Nat × Flags} (hf : ∀ rm x y, g rm (narrow w x) (narrow w y) = f rm x y)
    (huse : s.canUse [a, b] [d])
    (hclean : unmarked d = true → (s.value a).p = false ∧ ((s.afterRead a).value b).p = false) (sw : Bool) :
    fpOp2 w g sw d a b s = .ok ((), ((((s.afterRead a).afterRead b).raised
        (f s.thr.rm (s.value a).v ((s.afterRead a).value b).v).2).afterWrite d
        (BitVec.ofNat 64 (f s.thr.rm (s.value a).v ((s.afterRead a).value b).v).1)
        ((s.value a).p || ((s.afterRead a).value b).p)).moved sw) := by
  obtain ⟨⟨k, ha⟩, hb⟩ := has_two huse
  have htakes := takes_raised (takes_afterRead (a := b) (takes_afterRead (a := a) (canUse_takes huse List.mem_cons_self)))
  rw [fpOp2, act_bind_ok (operands_ok huse), act_get_bind, act_bind_ok (readReg_ok ha), act_bind_ok (readReg_ok hb)]
  simp only [hf]
  rw [orFlags_bind, act_bind_ok (setReg_ok (htakes _) fun hd => by simp [hclean hd])]
  rfl

/-- R107: one source is read, the flags enter, and d takes the value. -/
theorem fpOp1_ok {s : State} {d a : Reg} {f : BitVec 2 → Word → Nat × Flags} (huse : s.canUse [a] [d])
    (hclean : unmarked d = true → (s.value a).p = false) (sw : Bool) :
    fpOp1 f sw d a s = .ok ((), (((s.afterRead a).raised (f s.thr.rm (s.value a).v).2).afterWrite d
        (BitVec.ofNat 64 (f s.thr.rm (s.value a).v).1) (s.value a).p).moved sw) := by
  have htakes := takes_raised (takes_afterRead (a := a) (canUse_takes huse List.mem_cons_self))
  rw [fpOp1, act_bind_ok (operands_ok huse), act_get_bind, act_bind_ok (readReg_ok (has_one huse)), orFlags_bind,
    act_bind_ok (setReg_ok (htakes _) hclean)]
  rfl

/-- R97, R107: one source is read, and the result is outstanding. -/
theorem fpOut1_ok {s : State} {d a : Reg} {f : BitVec 2 → Word → Nat × Flags} (hout : outWritable s.thr.size d = true)
    (huse : s.canUse [a] [d]) (sw : Bool) :
    fpOut1 f sw d a s = .ok ((), ((s.afterRead a).addOutst s.cur s.ctx .other
        [.reg d (BitVec.ofNat 64 (f s.thr.rm (s.value a).v).1) (s.value a).p] (f s.thr.rm (s.value a).v).2 true).moved sw) := by
  rw [fpOut1, act_get_bind, need_bind_true hout, act_bind_ok (operands_ok huse), act_get_bind,
    act_bind_ok (readReg_ok (has_one huse)), later_bind, afterRead_cur, afterRead_ctx]
  rfl

/-- Settles O3: the shapes of R105 to R108, in one slot or as an outstanding result. -/
theorem scalarFloatResult : Obligations.ScalarFloatResult := by
  refine ⟨⟨?two, ?one, ?fma⟩, ?div, ?sqrt⟩
  case two =>
    intro s i sw d a b f hi hpre huse x y r hclean
    obtain ⟨w, g, hexec, hf⟩ := exec_floatTwo hi
    rw [hexec]
    exact instr_ok (meets_arith hpre) (fpOp2_ok hf huse hclean sw)
  case one =>
    intro s i sw d a f hi hpre huse x r hclean
    rw [exec_floatOne hi]
    exact instr_ok (meets_arith hpre) (fpOp1_ok huse hclean sw)
  case fma =>
    intro s i sw d a b w m hi hpre huse x y z r hclean
    obtain ⟨⟨j, ha⟩, ⟨k, hb⟩, hd⟩ := has_three huse
    have htakes := takes_raised (takes_afterRead (a := d) (takes_afterRead (a := b) (takes_afterRead (a := a)
      (canUse_takes huse List.mem_cons_self))))
    rw [exec_floatFma hi]
    refine instr_ok (meets_arith hpre) ?_
    rw [fpFmaOp, act_bind_ok (operands_ok huse), act_get_bind, act_bind_ok (readReg_ok ha), act_bind_ok (readReg_ok hb),
      act_bind_ok (readReg_ok hd), orFlags_bind, act_bind_ok (setReg_ok (htakes _) fun h => by simp [x, y, z, hclean h])]
    rfl
  case div =>
    intro s sw d a b hpre hout huse x y r
    obtain ⟨⟨k, ha⟩, hb⟩ := has_two huse
    refine instr_ok (meets_arith hpre) ?_
    rw [act_get_bind, need_bind_true hout, act_bind_ok (operands_ok huse), act_get_bind, act_bind_ok (readReg_ok ha),
      act_bind_ok (readReg_ok hb), later_bind]
    simp only [afterRead_cur, afterRead_ctx]
    rfl
  case sqrt =>
    intro s sw d a hpre hout huse x out
    exact ⟨instr_ok (meets_arith hpre) (fpOut1_ok hout huse sw), instr_ok (meets_arith hpre) (fpOut1_ok hout huse sw)⟩

end Sys2Proof.Machine
end

section
/-! Conditional branches (R109 to R112): a taken transfer, or the next word. -/

namespace Sys2Proof.Machine

/-- A branch, a load or a store takes prefixes, and no frame captures it (R73, R81). -/
theorem meets_ext {s : State} (h : s.thr.repA = false) : s.meets { ext := true } := ⟨.inl rfl, .inr h, nofun, nofun⟩

/-- Every conditional branch of R110 has one shape with the condition the spec names. -/
theorem exec_branchOf {i : Instr} {sw : Bool} {a b : Reg} {off : BitVec 8} {c : Word → Word → Bool}
    (h : branchOf i = some (sw, a, b, off, c)) : exec i = instr brForm (branchOp c sw a b off) := by
  have shape {g : Word → Word → Bool} (hg : ∀ x y, g x y = c x y) :=
    exec_congr (i := i) (form := brForm) (branchOp · sw a b off) (funext₂ hg)
  unfold branchOf at h
  split at h <;> cases h
  · rfl
  · exact shape (fun x y => (decide_not (p := x = y)).symm) rfl
  · rfl
  · exact shape (fun x y => (decide_eq_decide.2 not_lt.symm).trans (decide_not (p := x.toInt < y.toInt))) rfl
  · rfl
  · exact shape (fun x y => (decide_eq_decide.2 not_lt.symm).trans (decide_not (p := x.toNat < y.toNat))) rfl

/-- The end of a branch: a transfer, or the next word (R109). -/
theorem branch_ok {s : State} (b : Bool) (sw : Bool) (target : Word) :
    (if b then transfer sw target else retire sw) s = .ok ((), if b then s.jumped sw target else s.moved sw) := by
  cases b <;> rfl

/-- Settles O5: the branches on two registers, on a mask bit and on a condition register. -/
theorem branchResult : Obligations.BranchResult := by
  refine ⟨?registers, ?mask, ?condition⟩
  case registers =>
    intro s i sw a b off c hi hrep huse x y hx hy u
    obtain ⟨⟨k, ha⟩, hb⟩ := has_two huse
    rw [exec_branchOf hi]
    refine instr_ok (meets_ext hrep) ?_
    rw [branchOp, act_bind_ok (operands_ok huse), act_get_bind, act_bind_ok (readUse_ok ha hx), act_bind_ok (readUse_ok hb hy)]
    exact branch_ok _ _ _
  case mask =>
    intro s sw p k off hrep hclean
    refine instr_ok (meets_ext hrep) ?_
    rw [act_get_bind, need_bind_true (by rw [hclean, Bool.not_false])]
    rw [branch_ok]
    simp only [beq_iff_eq]
    rfl
  case condition =>
    intro s sw p b n off hrep hcond
    refine instr_ok (meets_ext hrep) ?_
    rw [act_get_bind]
    simp only [hcond]
    rw [branch_ok]
    simp only [beq_iff_eq]
    rfl

end Sys2Proof.Machine
end

section
/-! NOP, PREF, REP, EXT, BRK, TRAP and IDLE (R77 to R83, R119 to R124, R174). -/

namespace Sys2Proof.Machine

/-- An instruction that stands alone meets every form but those that need privilege or a context (R73, R81). -/
theorem meets_of_plain {s : State} (h : s.plain) {f : Form} (hpriv : f.priv = false) (hctx : f.ctx = none) : s.meets f :=
  ⟨.inr h.1, .inr h.2, by simp [hpriv], by simp [hctx]⟩

/-- Without prefixes the opcode word stands at PC (R79). -/
theorem opw_of_plain {t : Ctx} (h : t.pre = []) : t.opw = t.pc := by
  rw [Ctx.opw, h]
  exact BitVec.add_zero t.pc

/-- REP opens a frame at the next word (R80, R83). -/
theorem exec_rep {s : State} (h : s.plain) (sw : Bool) (len : BitVec 4) (times : BitVec 6) (sd sa sb : BitVec 4) :
    exec (.rep sw len times sd sa sb) s = .next (s.modThr (fun t =>
      ({ t with repA := true, repFrm := len ++ times ++ sd ++ sa ++ sb ++ (0 : BitVec 2), repJ := 0, repI := 0,
                pc := t.pc + 4 }).settle sw)) := by
  refine (instr_ok (meets_of_plain h rfl rfl) (act_onState _ _)).trans (congrArg Host.Outcome.next (modThr_congr ?_))
  simp only [opw_of_plain h.1]
  rw [← h.1]

/-- Settles O10: NOP and PREF move on, REP opens a frame, and EXT adds a payload while two fit. -/
theorem nopPrefetchFramePrefix : Obligations.NopPrefetchFramePrefix := by
  refine ⟨⟨?nop, ?pref⟩, ?rep, ?ext⟩
  case nop =>
    intro s sw hpre hrep
    exact instr_ok (meets_of_plain ⟨hpre, hrep⟩ rfl rfl) rfl
  case pref =>
    intro s sw a k hrep huse hclean
    refine instr_ok (meets_ext hrep) ?_
    rw [act_bind_ok (operands_ok huse), act_bind_ok (readUse_ok (has_one huse) hclean)]
    rfl
  case rep =>
    intro s sw len times sd sa sb hplain
    exact exec_rep hplain sw len times sd sa sb
  case ext =>
    intro s p
    constructor
    · intro h
      exact finish_ok ((act_get_bind _ s).trans (need_bind_true (decide_eq_true h) _ _ _))
    · intro h
      exact finish_fault ((act_get_bind _ s).trans (need_bind_false (decide_eq_false (not_lt.2 h)) _ _ _))

/-! ### IDLE (R124, R174) -/

/-- The registers after a barge ends: those of its window are clear (R174). -/
theorem reg_endBarge (s : State) (n x : Nat) : ((s.endBarge n x).core n).reg = fun i =>
    if (s.thread n x).base ≤ i ∧ i < (s.thread n x).base + (s.thread n x).size then RegEntry.clear
    else (s.core n).reg i := by
  funext i
  rw [State.endBarge, core_modCore, if_pos rfl]
  exact clearRegs_get _ _ _ _

/-- The context after a barge ends: EMPTY, with its window and its place in the store of returns (R148, R174). -/
theorem thread_endBarge (s : State) (n x : Nat) : (s.endBarge n x).thread n x = { Ctx.free with
    st := .empty, base := (s.thread n x).base, size := (s.thread n x).size, bargeCtx := true, rbase := (s.thread n x).rbase,
    rlim := (s.thread n x).rlim, recNo := (s.thread n x).recNo, tag := (s.thread n x).tag } := by
  rw [State.endBarge, State.thread, core_modCore, if_pos rfl]
  exact Core.ctx_setCtx _ _ _

/-- What IDLE does: it takes a pending wake, ends its barge, or leaves the thread IDLING (R124, R174). -/
def State.idled (s : State) (sw : Bool) : State :=
  if s.thr.wake then (s.modThr (fun t => { t with wake := false })).moved sw
  else if s.thr.barge && s.thr.outst.isEmpty && !s.unjoined s.cur s.ctx then s.endBarge s.cur s.ctx
  else s.modThr (fun t => { t with st := .idling, pre := [] })

/-- IDLE, when no outstanding result holds it, does one of the three things of R124. -/
theorem exec_idle {s : State} (hplain : s.plain) {sw : Bool} (hsw : sw = true → s.thr.outst = []) :
    exec (.idle sw) s = .next (s.idled sw) := by
  have hgo : (!sw || s.thr.outst.isEmpty) = true := by
    cases sw with
    | false => rfl
    | true => simp [hsw rfl]
  refine instr_ok (meets_of_plain hplain rfl rfl) ?_
  rw [act_get_bind, need_bind_true hgo, State.idled]
  split
  · rfl
  · split <;> rfl

/-- Settles O27: two faults, and the three cases of IDLE. -/
theorem breakTrapIdle : Obligations.BreakTrapIdle := by
  refine ⟨fun s sw hplain => ⟨?brk, fun a hclean => ?trap⟩, fun s sw hplain hsw => ?idle⟩
  case brk => exact instr_fault (meets_of_plain hplain rfl rfl) rfl
  case trap =>
    obtain ⟨huse, hmarks⟩ := hclean
    refine instr_fault (meets_of_plain hplain rfl rfl) ?_
    rw [act_bind_ok (operands_ok huse), act_bind_ok (readUse_ok (has_one huse) (hmarks 0 a rfl))]
    rfl
  case idle =>
    intro ends
    have hends : (s.thr.barge && s.thr.outst.isEmpty && !s.unjoined s.cur s.ctx) = true ↔ ends := by
      simp [ends, and_assoc]
    rw [exec_idle hplain hsw, State.idled]
    refine ⟨fun hwake => ?_, fun hwake hstay => ?_, fun hwake hend => ⟨s.endBarge s.cur s.ctx, ?_, ?_⟩⟩
    · rw [if_pos hwake]
    · rw [if_neg (by simp [hwake]), if_neg (mt hends.1 hstay)]
    · rw [if_neg (by simp [hwake]), if_pos (hends.2 hend)]
    · have hthr : (s.endBarge s.cur s.ctx).thr = _ := thread_endBarge s s.cur s.ctx
      rw [hthr]
      refine ⟨rfl, rfl, rfl, rfl, rfl, ⟨rfl, rfl⟩, fun r hr => ?_⟩
      rw [reg_endBarge]
      exact if_pos ⟨Nat.le_add_right _ _, Nat.add_lt_add_left hr _⟩

end Sys2Proof.Machine
end

section
/-! Scalar loads and stores (R116, R117, R242): at once in the local window, a request outside it. -/

namespace Sys2Proof.Machine

/-- A load extends the bytes it reads as the bit vector does (R116). -/
theorem loaded_eq (size : Nat) (signed : Bool) (v : Nat) : loaded size signed v = loadValue size signed v := by
  rw [loaded, loadValue, toSigned_eq]
  rfl

/-- The local window is the top 64 KiB of the address space (R40). -/
theorem inLocalWindow_iff (ea : Word) : inLocalWindow ea = true ↔ 0xFFFFFFFFFFFF0000 ≤ ea.toNat := by
  unfold inLocalWindow
  simp

/-- The loads of R116 differ in their bytes and sign alone. -/
theorem exec_loadOf {i : Instr} {sw : Bool} {d a : Reg} {k : BitVec 8} {size : Nat} {signed : Bool}
    (h : loadOf i = some (sw, d, a, k, size, signed)) : exec i = instr { ext := true } (loadOp size signed sw d a k) := by
  unfold loadOf at h
  split at h <;> cases h <;> rfl

/-- The stores of R116 differ in their bytes alone. -/
theorem exec_storeOf {i : Instr} {sw : Bool} {d a : Reg} {k : BitVec 8} {size : Nat}
    (h : storeOf i = some (sw, d, a, k, size)) : exec i = instr { ext := true } (storeOp size sw d a k) := by
  unfold storeOf at h
  split at h <;> cases h <;> rfl

/-- A destination of an outstanding result takes a write (R97). -/
theorem takes_of_outWritable {s : State} {d : Reg} (h : outWritable s.thr.size d = true) : s.takes d := by
  simp only [outWritable, Bool.and_eq_true, decide_eq_true_eq] at h
  obtain ⟨hlow, hw⟩ := h
  refine ⟨hw, fun n _ hn => ?_⟩
  rw [streamOf, if_neg (by omega)] at hn
  cases hn

/-- A request sent from `u` is one that `s` could send: memory, the requests before it, and whose it is are the same. -/
structure SameSender (u s : State) : Prop where
  mem : u.mem = s.mem
  otag : u.otag = s.otag
  reqs : u.reqs = s.reqs
  cur : u.cur = s.cur
  ctx : u.ctx = s.ctx
  root : (u.core u.cur).root = (s.core s.cur).root
  vahi : u.thr.vahi = s.thr.vahi
  priv : u.thr.priv = s.thr.priv

theorem SameSender.trans {u v w : State} (h : SameSender u v) (h' : SameSender v w) : SameSender u w :=
  ⟨h.mem.trans h'.mem, h.otag.trans h'.otag, h.reqs.trans h'.reqs, h.cur.trans h'.cur, h.ctx.trans h'.ctx,
    h.root.trans h'.root, h.vahi.trans h'.vahi, h.priv.trans h'.priv⟩

/-- Reading a field leaves a sender the same. -/
theorem sameSender_afterRead (s : State) (r : Reg) : SameSender (s.afterRead r) s :=
  ⟨afterRead_mem s r, afterRead_otag s r, afterRead_reqs s r, afterRead_cur s r, afterRead_ctx s r, by simp, by simp,
    by simp⟩

/-- A change of the thread that keeps its address extension and its privilege leaves a sender the same. -/
theorem sameSender_modThr (s : State) {f : Ctx → Ctx} (hvahi : (f s.thr).vahi = s.thr.vahi)
    (hpriv : (f s.thr).priv = s.thr.priv) : SameSender (s.modThr f) s := by
  obtain ⟨c, hc⟩ := core_modThread s s.cur s.ctx s.cur f
  exact ⟨rfl, rfl, rfl, rfl, rfl, (congrArg Core.root hc :), by rw [modThr_thr, hvahi], by rw [modThr_thr, hpriv]⟩

/-- One more outstanding result leaves a sender the same. -/
theorem sameSender_addOutst (s : State) (k : OutKind) (ps : List Piece) (f : Flags) (ready : Bool) :
    SameSender (s.addOutst s.cur s.ctx k ps f ready) s := by
  obtain ⟨hmem, hotag, hreqs, hcur, hctx, hroot, hvahi, hpriv⟩ :=
    sameSender_modThr s (f := fun t => { t with outst := t.outst ++ [⟨s.fresh, k, ps, f, ready⟩] }) rfl rfl
  exact ⟨hmem, hotag, hreqs, hcur, hctx, hroot, hvahi, hpriv⟩

/-- A request sent as the instruction moves on. -/
theorem SameSender.sends {u s : State} (h : SameSender u s) (k : ReqKind) (ls : List Lane) (v : Bool) (sc : Scope)
    (idx : BitVec 4) (out : Option Nat) (oprs : List Word) (sw : Bool) :
    s.sends ((u.addReq k ls v sc idx out oprs).moved sw) k ls out := by
  obtain ⟨r, ps, cs, heq, -, -, hcore, hctx, hkind, hlanes, hout, hheld, hroot, hvahi, hpriv, -⟩ :=
    addReq_frame u k ls v sc idx out oprs
  rw [heq]
  exact ⟨h.mem, h.otag, r, congrArg (· ++ [r]) h.reqs, hcore.trans h.cur, hctx.trans h.ctx, hkind, hlanes, hout, hheld,
    hroot.trans h.root, hvahi.trans h.vahi, hpriv.trans h.priv⟩

theorem settle_pc (t : Ctx) (sw : Bool) : (t.settle sw).pc = t.pc := by
  obtain ⟨x, p, h⟩ := settle_cases t sw
  rw [h]

theorem settle_outst (t : Ctx) (sw : Bool) : (t.settle sw).outst = t.outst := by
  obtain ⟨x, p, h⟩ := settle_cases t sw
  rw [h]

theorem advance_outst (t : Ctx) : t.advance.outst = t.outst := by
  obtain ⟨pc, pre, a, f, j, i, lc0, lc1, d, n, h⟩ := advance_frame t
  rw [h]

/-- Moving on keeps what is outstanding, and goes where the thread goes on. -/
theorem moved_outst (s : State) (sw : Bool) : (s.moved sw).thr.outst = s.thr.outst := by
  rw [moved_thr, settle_outst, advance_outst]

theorem moved_pc (s : State) (sw : Bool) : (s.moved sw).thr.pc = s.thr.advance.pc := by
  rw [moved_thr, settle_pc]

/-- R116, R117: a load whose address is aligned. -/
theorem loadOp_ok {s : State} {d a : Reg} {size : Nat} (hout : outWritable s.thr.size d = true) (huse : s.canUse [a] [])
    (hclean : (s.value a).p = false) {k : BitVec 8} (halign : (s.address (s.value a).v size k).toNat % size = 0)
    (signed sw : Bool) :
    loadOp size signed sw d a k s = .ok ((), if inLocalWindow (s.address (s.value a).v size k) then
        ((s.afterRead a).afterWrite d
          (loadValue size signed (s.localRead s.cur (s.address (s.value a).v size k) size).1)
          (s.localRead s.cur (s.address (s.value a).v size k) size).2).moved sw
      else (((s.afterRead a).addOutst s.cur s.ctx .load [.reg d 0 false] 0 false).addReq (.load d signed)
          [Lane.start 0 (s.address (s.value a).v size k) size 0] false .thread 0 (some s.fresh) [(s.value a).v]).moved sw) := by
  have halign : alignedTo (s.address (s.value a).v size k) size = true := beq_iff_eq.2 halign
  have htakes : (s.afterRead a).takes d := takes_afterRead (takes_of_outWritable hout)
  have hmark : ∀ p, unmarked d = true → p = false := by
    simp only [outWritable, Bool.and_eq_true, decide_eq_true_eq] at hout
    simp only [unmarked, decide_eq_true_eq]
    omega
  rw [loadOp, act_get_bind, need_bind_true hout, act_bind_ok (operands_ok huse), act_get_bind,
    act_bind_ok (readUse_ok (has_one huse) hclean)]
  refine (need_bind_true halign _ _ _).trans ?_
  change (if inLocalWindow (s.address (s.value a).v size k) then _ else _ : Act Unit) _ = _
  split
  · rw [act_get_bind, afterRead_cur, afterRead_localRead, ← loaded_eq]
    exact act_bind_ok (setReg_ok htakes (hmark _))
  · rw [act_onState_bind]
    simp only [afterRead_cur, afterRead_ctx, afterRead_fresh]
    rfl

/-- Settles O8: the value at once in the local window, or one request and one outstanding result. -/
theorem loadResult : Obligations.LoadResult := by
  intro s i sw d a k size signed hi hrep hout huse hclean ea halign
  have hexec := instr_ok (meets_ext hrep) (loadOp_ok hout huse hclean halign signed sw)
  rw [← exec_loadOf hi] at hexec
  refine ⟨fun hlocal => ?inside, fun haway => ⟨_, hexec, ?_⟩⟩
  case inside => rw [hexec, if_pos ((inLocalWindow_iff _).2 hlocal)]
  rw [if_neg (mt (inLocalWindow_iff _).1 (not_le.2 haway))]
  have houtst : ((s.afterRead a).addOutst s.cur s.ctx .load [.reg d 0 false] 0 false)
      = (s.afterRead a).addOutst (s.afterRead a).cur (s.afterRead a).ctx .load [.reg d 0 false] 0 false := by
    rw [afterRead_cur, afterRead_ctx]
  rw [houtst]
  refine ⟨((sameSender_addOutst _ _ _ _ _).trans (sameSender_afterRead s a)).sends _ _ _ _ _ _ _ _, ?_, ?_⟩
  · rw [moved_outst, addReq_thr, addOutst_thr, afterRead_thr, afterRead_fresh]
  · rw [moved_pc, addReq_thr, addOutst_thr, afterRead_thr]
    exact FlowEq.pc_eq (by constructor <;> rfl)

/-- With no release pending nothing holds an instruction (R242). -/
theorem heldGate_ok {s : State} (h : s.thr.releases = []) : heldGate s = .ok ((), s.gated) := by
  rw [heldGate, act_get_bind]
  simp only [h, List.all_nil, if_true, List.foldl_nil]
  rfl

theorem gated_thr (s : State) : s.gated.thr = { s.thr with releases := [] } := modThr_thr s _

theorem gated_core (s : State) : ∃ c, s.gated.core s.cur = { s.core s.cur with ctxs := c } :=
  core_modThread s s.cur s.ctx s.cur _

/-- What a thread waits for before a held instruction changes no operand. -/
theorem gated_value (s : State) (r : Reg) : s.gated.value r = s.value r := by
  obtain ⟨c, hc⟩ := gated_core s
  have hcur : s.gated.core s.gated.cur = _ := hc
  simp only [State.value, gated_thr, hcur]
  rfl

theorem has_gated {s : State} {r : Reg} {k : Nat} (h : s.has r k) : s.gated.has r k := by
  obtain ⟨c, hc⟩ := gated_core s
  have hcur : s.gated.core s.gated.cur = _ := hc
  simp only [State.has, gated_thr, hcur]
  exact h

theorem gated_setCore (s : State) (c : Core) :
    (s.setCore s.cur c).gated = s.gated.setCore s.cur (c.modCtx s.ctx (fun t => { t with releases := [] })) := by
  simp only [State.gated, State.modThr, State.modThread, State.modCore, setCore_setCore, State.core_setCore,
    State.setCore_cur, State.setCore_ctx]

/-- Reading a field and dropping the releases do not touch each other. -/
theorem gated_afterRead (s : State) (r : Reg) : s.gated.afterRead r = (s.afterRead r).gated := by
  have hcore : s.gated.core s.gated.cur = (s.core s.cur).modCtx s.ctx (fun t => { t with releases := [] }) :=
    State.core_setCore s s.cur _
  have hbinding : ∀ k, ((s.core s.cur).modCtx s.ctx (fun t => { t with releases := [] })).binding k
      = (s.core s.cur).binding k := fun _ => rfl
  simp only [State.afterRead, hcore, hbinding]
  by_cases hlow : r.toNat < 0xA0
  · rw [if_pos hlow, if_pos hlow]
  rw [if_neg hlow, if_neg hlow]
  cases inFifo r.toNat with
  | some p =>
    dsimp only
    rw [gated_setCore]
    rfl
  | none =>
    cases streamOf r.toNat with
    | none => rfl
    | some k =>
      dsimp only
      cases (s.core s.cur).binding k with
      | input b =>
        dsimp only
        rw [gated_setCore]
        rfl
      | unbound => rfl
      | output id => rfl

/-- R116, R117, R242: a store that no release holds and whose address is aligned. -/
theorem storeOp_ok {s : State} {d a : Reg} {size : Nat} (huse : s.canUse [a, d] []) (hrel : s.thr.releases = [])
    (ha : (s.value a).p = false) (hd : ((s.afterRead a).value d).p = false) {k : BitVec 8}
    (halign : (s.address (s.value a).v size k).toNat % size = 0) (sw : Bool) :
    storeOp size sw d a k s = .ok ((), if inLocalWindow (s.address (s.value a).v size k) then
        ((((s.gated.afterRead a).afterRead d).noteStore s.cur s.ctx (s.address (s.value a).v size k) size).localWrite s.cur
          (s.address (s.value a).v size k) size (((s.afterRead a).value d).v.toNat % 2 ^ (8 * size))).moved sw
      else (((s.gated.afterRead a).afterRead d).addReq .store
          [Lane.start 0 (s.address (s.value a).v size k) size ((s.afterRead a).value d).v] false .thread 0 none
          [(s.value a).v, ((s.afterRead a).value d).v]).moved sw) := by
  obtain ⟨⟨j, hasA⟩, hasD⟩ := has_two huse
  have halign : alignedTo (s.address (s.value a).v size k) size = true := beq_iff_eq.2 halign
  have hreadA := readUse_ok (has_gated hasA) (by rwa [gated_value])
  have hreadD := readUse_ok (has_gated hasD) (by rwa [gated_value])
  rw [gated_value] at hreadA hreadD
  rw [← gated_afterRead] at hreadD
  rw [storeOp, act_bind_ok (operands_ok huse), act_bind_ok (heldGate_ok hrel), act_get_bind, act_bind_ok hreadA,
    act_bind_ok hreadD, gated_thr]
  refine (need_bind_true halign _ _ _).trans ?_
  change (if inLocalWindow (s.address (s.value a).v size k) then _ else _ : Act Unit) _ = _
  split
  · rw [act_onState_bind]
    simp only [afterRead_cur, afterRead_ctx]
    rfl
  · rfl

/-- Settles O9: the bytes at once in the local window, or one request. -/
theorem storeResult : Obligations.StoreResult := by
  intro s i sw d a k size hi hrep hrel huse ha hd ea v halign
  have hexec := instr_ok (meets_ext hrep) (storeOp_ok huse hrel ha hd halign sw)
  rw [← exec_storeOf hi] at hexec
  refine ⟨fun hlocal => ?inside, fun haway => ⟨_, hexec, ?_⟩⟩
  case inside => rw [hexec, if_pos ((inLocalWindow_iff _).2 hlocal)]
  rw [if_neg (mt (inLocalWindow_iff _).1 (not_le.2 haway))]
  have hgated : SameSender s.gated s := sameSender_modThr s rfl rfl
  have hsender := ((sameSender_afterRead (s.gated.afterRead a) d).trans (sameSender_afterRead s.gated a)).trans hgated
  refine ⟨hsender.sends _ _ _ _ _ _ _ _, ?_, ?_⟩
  · rw [moved_pc, addReq_thr, afterRead_thr, afterRead_thr, gated_thr]
    exact FlowEq.pc_eq (by constructor <;> rfl)
  · rw [moved_outst, addReq_thr, afterRead_thr, afterRead_thr, gated_thr]

end Sys2Proof.Machine
end
section
/-! Lane-wise vector instructions (R45, R129 to R132): each lane function is the one of the spec on lanes that fit. -/

namespace Sys2Proof.Machine

/-! ### Lanes as integers (R45) -/

theorem toPattern_eq_laneBits (w : Nat) (z : Int) : toPattern w z = laneBits w z := toPattern_eq w z

theorem sLane_eq (t : ElemType) (a : Nat) : sLane t a = signedLane t.width a := toSigned_eq t.width a

theorem laneBits_signedLane {w a : Nat} (ha : a < 2 ^ w) : laneBits w (signedLane w a) = a := by
  rw [laneBits, signedLane, BitVec.ofInt_toInt, BitVec.toNat_ofNat, Nat.mod_eq_of_lt ha]

theorem laneBits_add (w a b : Nat) : laneBits w (signedLane w a + signedLane w b) = (a + b) % 2 ^ w := by
  rw [laneBits, signedLane, signedLane, BitVec.ofInt_add, BitVec.ofInt_toInt, BitVec.ofInt_toInt, ← BitVec.ofNat_add,
    BitVec.toNat_ofNat]

theorem laneBits_mul (w a b : Nat) : laneBits w (signedLane w a * signedLane w b) = a * b % 2 ^ w := by
  rw [laneBits, signedLane, signedLane, BitVec.ofInt_mul, BitVec.ofInt_toInt, BitVec.ofInt_toInt, ← BitVec.ofNat_mul,
    BitVec.toNat_ofNat]

theorem laneBits_sub {w a b : Nat} (hb : b < 2 ^ w) :
    laneBits w (signedLane w a - signedLane w b) = (a + (2 ^ w - b)) % 2 ^ w := by
  have hsub : BitVec.ofInt w (signedLane w a - signedLane w b) = BitVec.ofNat w a - BitVec.ofNat w b := by
    rw [← BitVec.toInt_inj, BitVec.toInt_ofInt, BitVec.toInt_sub, signedLane, signedLane]
  rw [laneBits, hsub, BitVec.toNat_sub, BitVec.toNat_ofNat, BitVec.toNat_ofNat, Nat.mod_eq_of_lt hb, Nat.add_mod_mod,
    Nat.add_comm]

theorem saturate_eq (w : Nat) (z : Int) : saturate w z = clampSigned w z := by
  have hpos := Nat.two_pow_pos (w - 1)
  rw [saturate, clampSigned, intMin, intMax, max_def, min_def]
  split <;> split <;> split <;> omega

theorem clampU_add (w a b : Nat) : clampU w ((a : Int) + b) = min (a + b) (2 ^ w - 1) := by
  rw [clampU, if_neg (by omega)]
  rfl

theorem clampU_sub {w a b : Nat} (ha : a < 2 ^ w) : clampU w ((a : Int) - b) = a - b := by
  rw [clampU]
  split <;> omega

theorem xor_two_pow_of_lt {k a : Nat} (h : a < 2 ^ k) : a ^^^ 2 ^ k = a + 2 ^ k := by
  have hor : 2 ^ k + a = 2 ^ k ||| a := by simpa using Nat.two_pow_add_eq_or_of_lt h 1
  rw [Nat.add_comm, hor]
  apply Nat.eq_of_testBit_eq
  intro j
  rw [Nat.testBit_xor, Nat.testBit_or, Nat.testBit_two_pow]
  by_cases hj : k = j
  · subst hj; simp [Nat.testBit_lt_two_pow h]
  · simp [hj]

theorem signInverted_eq {t : ElemType} {a : Nat} (ha : a < 2 ^ t.width) : signInverted t a = a ^^^ 2 ^ (t.width - 1) := by
  have hw : t.width = (t.width - 1) + 1 := by cases t <;> rfl
  rw [hw, Nat.pow_succ] at ha
  rw [signInverted]
  split
  next h => exact (xor_two_pow_of_lt h).symm
  next h =>
    have hlow : (a - 2 ^ (t.width - 1)) ^^^ 2 ^ (t.width - 1) = a := by
      rw [xor_two_pow_of_lt (by omega)]
      omega
    calc a - 2 ^ (t.width - 1) = (a - 2 ^ (t.width - 1)) ^^^ 2 ^ (t.width - 1) ^^^ 2 ^ (t.width - 1) :=
          by rw [Nat.xor_assoc, Nat.xor_self, Nat.xor_zero]
      _ = a ^^^ 2 ^ (t.width - 1) := by rw [hlow]

/-! ### The lane functions of R132 -/

theorem laneAdd_eq (t : ElemType) (f : BitVec 3) (rm : BitVec 2) (a b : Nat) : laneAdd t f rm a b =
    if !t.isInt then fpAdd (elemFmt t) rm a b
    else if f = 0 then ((a + b) % 2 ^ t.width, 0)
    else if f = 1 then (laneBits t.width (clampSigned t.width (signedLane t.width a + signedLane t.width b)), 0)
    else (min (a + b) (2 ^ t.width - 1), 0) := by
  cases h : t.isInt with
  | false => simp [laneAdd, h]
  | true =>
    simp only [laneAdd, addForms, wrapLane, h, if_true, Bool.not_true, Bool.false_eq_true, if_false, sLane_eq, saturate_eq,
      clampU_add, toPattern_eq_laneBits, laneBits_add]

theorem laneSub_eq (t : ElemType) (f : BitVec 3) (rm : BitVec 2) {a b : Nat} (ha : a < 2 ^ t.width) (hb : b < 2 ^ t.width) :
    laneSub t f rm a b =
      if !t.isInt then fpSub (elemFmt t) rm a b
      else if f = 0 then ((a + (2 ^ t.width - b)) % 2 ^ t.width, 0)
      else if f = 1 then (laneBits t.width (clampSigned t.width (signedLane t.width a - signedLane t.width b)), 0)
      else (a - b, 0) := by
  cases h : t.isInt with
  | false => simp [laneSub, h]
  | true =>
    simp only [laneSub, addForms, wrapLane, h, if_true, Bool.not_true, Bool.false_eq_true, if_false, sLane_eq, saturate_eq,
      clampU_sub ha, toPattern_eq_laneBits, laneBits_sub hb]

theorem laneMul_eq (t : ElemType) (f : BitVec 3) (rm : BitVec 2) (a b : Nat) : laneMul t f rm a b =
    if !t.isInt then fpMul (elemFmt t) rm a b
    else if f = 0 then (a * b % 2 ^ t.width, 0)
    else if f = 1 then (laneBits t.width (signedLane t.width a * signedLane t.width b / (2 ^ t.width : Nat)), 0)
    else (a * b / 2 ^ t.width, 0) := by
  cases h : t.isInt with
  | false => simp [laneMul, h]
  | true =>
    simp only [laneMul, wrapLane, h, if_true, Bool.not_true, Bool.false_eq_true, if_false, sLane_eq, toPattern_eq_laneBits,
      laneBits_mul]

theorem codes_upto_three : ∀ f : BitVec 3, f.toNat ≤ 3 → f = 0 ∨ f = 1 ∨ f = 2 ∨ f = 3 := by decide

theorem laneFma_eq {t : ElemType} {f : BitVec 3} (hf : f.toNat ≤ 3) (rm : BitVec 2) (a b c : Nat) :
    laneFma t f rm a b c =
      if !t.isInt then fpFma (elemFmt t) rm (f == 1 || f == 3) (f == 2 || f == 3) a b c
      else (laneBits t.width
        (if f = 0 then signedLane t.width a * signedLane t.width b + signedLane t.width c
         else if f = 1 then -(signedLane t.width a * signedLane t.width b) + signedLane t.width c
         else if f = 2 then signedLane t.width a * signedLane t.width b - signedLane t.width c
         else -(signedLane t.width a * signedLane t.width b) - signedLane t.width c), 0) := by
  rw [laneFma]
  simp only [sLane_eq, wrapLane, toPattern_eq_laneBits]
  rcases codes_upto_three f hf with rfl | rfl | rfl | rfl
  · cases t.isInt <;> rfl
  · cases t.isInt <;> rfl
  · cases t.isInt <;> rfl
  · cases t.isInt <;> rfl

theorem laneMin_eq (t : ElemType) (f : BitVec 3) {a b : Nat} (ha : a < 2 ^ t.width) (hb : b < 2 ^ t.width) :
    laneMinMax false t f a b =
      if !t.isInt then fpMinMax (elemFmt t) false a b
      else if f = 0 then (laneBits t.width (min (signedLane t.width a) (signedLane t.width b)), 0)
      else (min a b, 0) := by
  rw [laneMinMax]
  cases t.isInt with
  | false => rfl
  | true =>
    simp only [sLane_eq, if_true, Bool.not_true, Bool.false_eq_true, if_false, min_def, beq_false]
    split
    · by_cases h : signedLane t.width a ≤ signedLane t.width b <;> simp [h, laneBits_signedLane, ha, hb]
    · by_cases h : a ≤ b <;> simp [h]

theorem laneMax_eq (t : ElemType) (f : BitVec 3) {a b : Nat} (ha : a < 2 ^ t.width) (hb : b < 2 ^ t.width) :
    laneMinMax true t f a b =
      if !t.isInt then fpMinMax (elemFmt t) true a b
      else if f = 0 then (laneBits t.width (max (signedLane t.width a) (signedLane t.width b)), 0)
      else (max a b, 0) := by
  rw [laneMinMax]
  cases t.isInt with
  | false => rfl
  | true =>
    simp only [sLane_eq, if_true, Bool.not_true, Bool.false_eq_true, if_false, max_def, beq_true]
    split
    · by_cases h : signedLane t.width a ≤ signedLane t.width b <;> simp [h, laneBits_signedLane, ha, hb]
    · by_cases h : a ≤ b <;> simp [h]

theorem codes_upto_four : ∀ f : BitVec 3, f.toNat ≤ 4 → f = 0 ∨ f = 1 ∨ f = 2 ∨ f = 3 ∨ f = 4 := by decide

theorem toNat_not_ofNat {w a : Nat} (ha : a < 2 ^ w) : (~~~(BitVec.ofNat w a)).toNat = a ^^^ (2 ^ w - 1) := by
  rw [BitVec.not_def, BitVec.toNat_xor, BitVec.toNat_allOnes, BitVec.toNat_ofNat, Nat.mod_eq_of_lt ha, Nat.xor_comm]

theorem laneLogic_eq {t : ElemType} {f : BitVec 3} (hf : f.toNat ≤ 4) {a b : Nat} (ha : a < 2 ^ t.width)
    (hb : b < 2 ^ t.width) : laneLogic t f a b =
      (if f = 0 then a &&& b else if f = 1 then a ||| b else if f = 2 then a ^^^ b
       else if f = 3 then a &&& (b ^^^ (2 ^ t.width - 1)) else a ^^^ (2 ^ t.width - 1), 0) := by
  have hx : (BitVec.ofNat t.width a).toNat = a := (BitVec.toNat_ofNat ..).trans (Nat.mod_eq_of_lt ha)
  have hy : (BitVec.ofNat t.width b).toNat = b := (BitVec.toNat_ofNat ..).trans (Nat.mod_eq_of_lt hb)
  rcases codes_upto_four f hf with rfl | rfl | rfl | rfl | rfl
  · exact congrArg (·, 0) ((BitVec.toNat_and ..).trans (by rw [hx, hy]; rfl))
  · exact congrArg (·, 0) ((BitVec.toNat_or ..).trans (by rw [hx, hy]; rfl))
  · exact congrArg (·, 0) ((BitVec.toNat_xor ..).trans (by rw [hx, hy]; rfl))
  · exact congrArg (·, 0) ((BitVec.toNat_and ..).trans (by rw [hx, toNat_not_ofNat hb]; rfl))
  · exact congrArg (·, 0) (toNat_not_ofNat ha)

theorem codes_upto_two : ∀ f : BitVec 3, f.toNat ≤ 2 → f = 0 ∨ f = 1 ∨ f = 2 := by decide

theorem laneShift_eq {t : ElemType} {f : BitVec 3} (hf : f.toNat ≤ 2) {a : Nat} (ha : a < 2 ^ t.width) (b : Nat) :
    laneShift t f a b =
      (if f = 0 then a * 2 ^ (b % t.width) % 2 ^ t.width else if f = 1 then a / 2 ^ (b % t.width)
       else laneBits t.width (signedLane t.width a / (2 ^ (b % t.width) : Nat)), 0) := by
  have hx : (BitVec.ofNat t.width a).toNat = a := (BitVec.toNat_ofNat ..).trans (Nat.mod_eq_of_lt ha)
  rcases codes_upto_two f hf with rfl | rfl | rfl
  · exact congrArg (·, 0) ((BitVec.toNat_shiftLeft ..).trans (by rw [hx, Nat.shiftLeft_eq]; rfl))
  · exact congrArg (·, 0) ((BitVec.toNat_ushiftRight ..).trans (by rw [hx, Nat.shiftRight_eq_div_pow]; rfl))
  · refine congrArg (·, 0) ?_
    show (BitVec.ofInt _ _).toNat = (BitVec.ofInt _ _).toNat
    rw [Int.shiftRight_eq_div_pow]
    rfl

theorem laneUnary_eq {t : ElemType} {f : BitVec 3} (hf : f.toNat ≤ 4) (rm : BitVec 2) {a : Nat} (ha : a < 2 ^ t.width) :
    laneUnary t f rm a =
      if f = 0 then (if t.isInt then laneBits t.width (signedLane t.width a).natAbs else a % 2 ^ (t.width - 1), 0)
      else if f = 1 then (if t.isInt then laneBits t.width (-signedLane t.width a) else a ^^^ 2 ^ (t.width - 1), 0)
      else if f = 2 then fpSqrt (elemFmt t) rm a
      else if f = 3 then (((List.range t.width).reverse.takeWhile (fun i => !a.testBit i)).length, 0)
      else (((List.range t.width).filter (fun i => a.testBit i)).length, 0) := by
  rw [← leadingZeros_eq ha, ← popCount_eq, ← signInverted_eq ha, laneUnary]
  simp only [sLane_eq, wrapLane, toPattern_eq_laneBits]
  rcases codes_upto_four f hf with rfl | rfl | rfl | rfl | rfl
  · cases t.isInt <;> rfl
  · cases t.isInt <;> rfl
  · rfl
  · rfl
  · rfl

/-- The function codes of VUNARY end at 4, whatever the type. -/
theorem unary_code_le {f : BitVec 3} {t : ElemType} (h : VvOp.unary.ok f t = true) : f.toNat ≤ 4 := by
  have hsmall : f.toNat ≤ 1 ∨ f = 2 ∨ f = 3 ∨ f = 4 := by
    simp only [VvOp.ok, Bool.or_eq_true, Bool.and_eq_true, decide_eq_true_eq, beq_iff_eq] at h
    tauto
  rcases hsmall with h | rfl | rfl | rfl
  · omega
  all_goals decide

/-! ### An instruction of independent lanes -/

/-- Two lane functions agree on lanes of `w` bits. -/
def AgreeOnLanes (w : Nat) (g f : BitVec 2 → Nat → Nat → Nat → Nat × Flags) : Prop :=
  ∀ rm a b c, a < 2 ^ w → b < 2 ^ w → c < 2 ^ w → g rm a b c = f rm a b c

/-- Each instruction with a lane function runs one that agrees with it (R132). -/
theorem exec_of_laneFunction {i : Instr} {sw : Bool} {vd : VReg} {srcs : List VReg} {ty : ElemType} {m : MaskSel}
    {f : BitVec 2 → Nat → Nat → Nat → Nat × Flags} (h : laneFunction i = some (sw, vd, srcs, ty, m, f))
    (hwf : i.wf = true) :
    ∃ g, exec i = instr vvForm (lanewise sw ty vd srcs m g) ∧ AgreeOnLanes ty.width g f := by
  cases i <;> cases h
  case vadd => exact ⟨_, rfl, fun rm a b _ _ _ _ => laneAdd_eq _ _ rm a b⟩
  case vsub => exact ⟨_, rfl, fun rm _ _ _ ha hb _ => laneSub_eq _ _ rm ha hb⟩
  case vmul => exact ⟨_, rfl, fun rm a b _ _ _ _ => laneMul_eq _ _ rm a b⟩
  case vfma => exact ⟨_, rfl, fun rm a b c _ _ _ => laneFma_eq (of_decide_eq_true hwf) rm a b c⟩
  case vmin => exact ⟨_, rfl, fun _ _ _ _ ha hb _ => laneMin_eq _ _ ha hb⟩
  case vmax => exact ⟨_, rfl, fun _ _ _ _ ha hb _ => laneMax_eq _ _ ha hb⟩
  case vlogic => exact ⟨_, rfl, fun _ _ _ _ ha hb _ => laneLogic_eq (of_decide_eq_true hwf) ha hb⟩
  case vshift =>
    exact ⟨_, rfl, fun _ _ b _ ha _ _ => laneShift_eq (of_decide_eq_true (Bool.and_elim_left hwf)) ha b⟩
  case vunary => exact ⟨_, rfl, fun rm _ _ _ ha _ _ => laneUnary_eq (unary_code_le hwf) rm ha⟩

theorem laneOf_sourceData (s : State) (srcs : List VReg) (w n k : Nat) :
    laneOf (((srcs[n]?).map (fun v => (s.vec v).data)).getD 0) w k = s.srcLane srcs w n k := by
  rw [State.srcLane]
  cases srcs[n]? with
  | none => exact laneOf_zero w k
  | some v => rfl

theorem srcLane_lt (s : State) (srcs : List VReg) (w n k : Nat) : s.srcLane srcs w n k < 2 ^ w := by
  rw [← laneOf_sourceData]
  exact laneOf_lt ..

/-- The destination keeps lanes, and is read for them, unless every lane is active (R129). -/
theorem allActive_iff (s : State) (m : MaskSel) (n : Nat) : s.thr.allActive m n = true ↔ (s.lanes m n).length = n := by
  have hlen := List.length_filter_eq_length_iff (p := s.thr.active m) (l := List.range n)
  rw [List.length_range] at hlen
  rw [State.lanes, hlen, Ctx.allActive, List.all_eq_true]

theorem nodup_lanes (s : State) (m : MaskSel) (n : Nat) : (s.lanes m n).Nodup := List.nodup_range.filter _

theorem mem_lanes {s : State} {m : MaskSel} {n k : Nat} (hk : k < n) : k ∈ s.lanes m n ↔ s.thr.active m k = true := by
  simp [State.lanes, hk]

/-- The lanes `is` written from a function of the source lanes. -/
def State.laneWrites (s : State) (srcs : List VReg) (w : Nat) (f : BitVec 2 → Nat → Nat → Nat → Nat × Flags)
    (is : List Nat) : List LaneWrite :=
  is.map (fun k => (k, f s.thr.rm (s.srcLane srcs w 0 k) (s.srcLane srcs w 1 k) (s.srcLane srcs w 2 k)))

theorem laneWrites_lanes (s : State) (srcs : List VReg) (w : Nat) (f : BitVec 2 → Nat → Nat → Nat → Nat × Flags)
    (is : List Nat) : (s.laneWrites srcs w f is).map Prod.fst = is := by
  simp [State.laneWrites, Function.comp_def]

/-- A lane-wise instruction leaves one outstanding result: the destination with the active lanes written (R129, R130). -/
theorem lanewise_ok {s : State} {ty : ElemType} {vd : VReg} {srcs reads : List VReg} {m : MaskSel}
    {g f : BitVec 2 → Nat → Nat → Nat → Nat × Flags} (hagree : AgreeOnLanes ty.width g f)
    (hreads : (if !s.thr.allActive m ty.lanes then srcs ++ [vd] else srcs) = reads) (hroom : s.vectorRoom)
    (huse : s.canUseVectors reads [vd] [] []) (sw : Bool) :
    let ws := s.laneWrites srcs ty.width f (s.lanes m ty.lanes)
    lanewise sw ty vd srcs m g s = .ok ((), (s.queued .other
      (resultPieces vd ty.width (applyLanes ty.width (s.vec vd).data ws).1 (s.lanes m ty.lanes)
        (fun _ => s.vectorPoison reads m)) (unionFlags (ws.map (fun x => x.2.2)))).moved sw) := by
  intro ws
  have hrun : lanewise sw ty vd srcs m g s = _ := vvOp_ok (ws := ws) hreads
    (List.map_congr_left fun k _ => by
      simp only [State.vecInputs, laneOf_sourceData]
      rw [hagree _ _ _ _ (srcLane_lt ..) (srcLane_lt ..) (srcLane_lt ..)]) hroom huse sw
  rwa [laneWrites_lanes] at hrun

/-- Distinct lanes written from a function: each takes its value, and the others keep theirs. -/
theorem laneOf_applyLanes_map (w old : Nat) {is : List Nat} (hnd : is.Nodup) (lane : Nat → Nat × Flags) (k : Nat) :
    laneOf (applyLanes w old (is.map (fun j => (j, lane j)))).1 w k =
      if k ∈ is then (lane k).1 % 2 ^ w else laneOf old w k := by
  have hfst : (is.map (fun j => (j, lane j))).map Prod.fst = is := by simp [Function.comp_def]
  obtain ⟨hkeep, hset⟩ := applyLanes_lane w old (is.map (fun j => (j, lane j))) (hfst.symm ▸ hnd) k
  split
  next hk => exact hset _ (List.mem_map_of_mem hk) rfl
  next hk => exact hkeep (hfst.symm ▸ hk)

/-- Settles O11: the lane function that the instruction runs agrees with the one of R132 on lanes that fit. -/
theorem vectorLanesResult : Obligations.VectorLanesResult := by
  intro s i sw vd srcs ty m f hi hwf hpre hroom w is reads lane huse
  obtain ⟨g, hexec, hagree⟩ := exec_of_laneFunction hi hwf
  have hreads : (if !s.thr.allActive m ty.lanes then srcs ++ [vd] else srcs) = reads := by
    simp only [Bool.not_eq_true', ← Bool.not_eq_true, allActive_iff, ite_not]
    rfl
  have hrun := lanewise_ok hagree hreads hroom huse sw
  simp only [State.laneWrites, List.map_map, Function.comp_def] at hrun
  refine ⟨_, hexec ▸ instr_ok (meets_vvForm hpre) hrun, fun k hk => ?_⟩
  rw [laneOf_applyLanes_map _ _ (nodup_lanes ..)]
  exact if_congr (mem_lanes hk) rfl rfl

end Sys2Proof.Machine
end
section
/-! Events of memory (R118, R142, R203, R210, R217, R233, R306, R341, R342): a lane performed at its endpoint, a fault after
issue, and the lines that leave a cache. -/

namespace Sys2Proof.Machine

/-! ### Lines that leave a cache (R203, R341) -/

/-- A step that establishes a property of its key, and keeps it of every key, establishes it of each key of a list. -/
theorem foldl_establishes {P : State → Nat → Prop} {f : State → Nat → State} (hself : ∀ s k, P (f s k) k)
    (hkeep : ∀ s k j, P s j → P (f s k) j) (l : List Nat) (s : State) :
    (∀ j, P s j → P (l.foldl f s) j) ∧ ∀ j ∈ l, P (l.foldl f s) j := by
  induction l generalizing s with
  | nil => exact ⟨fun _ h => h, nofun⟩
  | cons k l ih =>
    obtain ⟨hold, hlist⟩ := ih (f s k)
    refine ⟨fun j hj => hold j (hkeep s k j hj), fun j hj => ?_⟩
    rcases List.mem_cons.1 hj with rfl | hj
    · exact hold j (hself s j)
    · exact hlist j hj

theorem Tab.find_erase_none {α : Type} {t : Tab α} {j : Nat} (h : Tab.find t j = none) (k : Nat) :
    Tab.find (Tab.erase t k) j = none := by
  by_cases hj : j = k
  · rw [hj, Tab.find_erase_self]
  · rw [Tab.find_erase_ne t hj, h]

/-- Cleaning the copies of a sector brings none into a first-level cache. -/
theorem find_l1_cleanCopies {t : Tab Core} {n j : Nat} (h : Tab.find (Tab.getD t n Core.clear).l1 j = none) (k : Nat) :
    Tab.find (Tab.getD (cleanCopies k t) n Core.clear).l1 j = none := by
  induction t with
  | nil => exact h
  | cons e t ih =>
    obtain ⟨m, c⟩ := e
    simp only [Tab.getD, cleanCopies, Tab.find] at h ih ⊢
    by_cases hm : m = n
    · simp only [hm, if_true, Option.getD_some] at h ⊢
      split
      next x hx =>
        have hne : j ≠ k := fun hj => by rw [hj, hx] at h; cases h
        split
        · exact (Tab.find_set_ne c.l1 _ hne).trans h
        · exact h
      next => exact h
    · simp only [hm, if_false] at h ⊢
      exact ih h

theorem find_l1_recall {s : State} {c j : Nat} (h : Tab.find (s.core c).l1 j = none) (k : Nat) :
    Tab.find ((s.recall k).core c).l1 j = none := by
  rw [State.recall]
  split
  · exact find_l1_cleanCopies h k
  · exact h

theorem core_storeSector (s : State) (k : Nat) (x : SectorVal) (n : Nat) : (s.storeSector k x).core n = s.core n := by
  obtain ⟨m, o, p, cd, h⟩ := storeSector_frame s k x
  rw [h]
  rfl

theorem core_putL1 (s : State) (n k : Nat) (x : L1Sector) :
    (s.putL1 n k x).core n = { s.core n with l1 := Tab.set (s.core n).l1 k x } := Tab.getD_set_self ..

theorem core_dropL1 (s : State) (n k : Nat) :
    (s.dropL1 n k).core n = { s.core n with l1 := Tab.erase (s.core n).l1 k } := Tab.getD_set_self ..

theorem find_l1_flushOwn {s : State} {c j : Nat} (h : Tab.find (s.core c).l1 j = none) (k : Nat) :
    Tab.find ((s.flushOwn c k).core c).l1 j = none := by
  rw [State.flushOwn]
  split
  next x hx =>
    have hne : j ≠ k := fun hj => by rw [hj, State.core, hx] at h; cases h
    split
    · rw [core_putL1, core_storeSector]
      exact (Tab.find_set_ne _ _ hne).trans h
    · exact h
  next => exact h

theorem find_l1_evictL1_self (s : State) (c k : Nat) : Tab.find ((s.evictL1 c k).core c).l1 k = none := by
  rw [State.evictL1]
  split
  next h => exact h
  next => rw [core_dropL1, Tab.find_erase_self]

theorem find_l1_evictL1 {s : State} {c j : Nat} (h : Tab.find (s.core c).l1 j = none) (k : Nat) :
    Tab.find ((s.evictL1 c k).core c).l1 j = none := by
  rw [State.evictL1]
  split
  next => exact h
  next =>
    rw [core_dropL1]
    apply Tab.find_erase_none
    split
    · split
      · exact find_l1_recall h k
      · exact h
    · exact find_l1_flushOwn h k

/-- After an eviction the core's L1 holds no sector of the line (R203). -/
theorem find_l1_evictLine (s : State) (c line : Nat) :
    ∀ k ∈ lineSectors line, Tab.find (((lineSectors line).foldl (fun s k => s.evictL1 c k) s).core c).l1 k = none :=
  (foldl_establishes (P := fun s k => Tab.find (s.core c).l1 k = none) (fun s k => find_l1_evictL1_self s c k)
    (fun _ k _ h => find_l1_evictL1 h k) _ s).2

theorem find_l2_flushHome {s : State} {j : Nat} (h : Tab.find s.l2 j = none) (k : Nat) :
    Tab.find (s.flushHome k).l2 j = none := by
  rw [State.flushHome]
  split
  next x hx =>
    have hne : j ≠ k := fun hj => by rw [hj, hx] at h; cases h
    split
    · exact (Tab.find_set_ne s.l2 _ hne).trans h
    · exact h
  next => exact h

/-- The slices hold none of the sectors that they write back and drop (R341). -/
theorem find_l2_dropHomes (l : List Nat) (s : State) :
    ∀ k ∈ l, Tab.find (l.foldl (fun s k => (s.flushHome k).dropHome k) s).l2 k = none :=
  (foldl_establishes (P := fun s k => Tab.find s.l2 k = none) (fun s k => Tab.find_erase_self (s.flushHome k).l2 k)
    (fun _ k _ h => Tab.find_erase_none (find_l2_flushHome h k) k) l s).2

/-! ### Walks and acknowledgements (R217, R218, R233) -/

/-- The newest entry of a TLB is the one added last. -/
theorem getLast?_addTlb {size : Nat} (h : 0 < size) (l : List TlbEntry) (e : TlbEntry) :
    (addTlb size l e).getLast? = some e := by
  rw [addTlb, List.getLast?_drop, if_neg (by rw [List.length_append, List.length_singleton]; omega), List.getLast?_concat]

theorem removeAt_eq_take_drop {α : Type} (l : List α) (i : Nat) : removeAt l i = l.take i ++ l.drop (i + 1) := by
  induction l generalizing i with
  | nil => simp [removeAt]
  | cons h l ih =>
    cases i with
    | zero => rfl
    | succ i => exact congrArg (h :: ·) (ih i)

/-! ### A fault after issue (R25, R118, R306) -/

theorem thread_addRec (s : State) (p : Option Nat) (x : FaultRec) (n y : Nat) : (s.addRec p x).thread n y = s.thread n y := by
  rw [State.thread, State.core_addRec]
  rfl

/-- A thread halted by a fault after issue: the instruction and the code of the fault are kept (R302). -/
def State.haltedLate (s : State) (r : Req) (f : FaultInfo) : Prop :=
  let t := s.thread r.core r.ctx
  t.st = .halted ∧ t.late = true ∧ t.ipc = r.ipc ∧ t.hcode = f.code

theorem haltThread_haltedLate (s : State) (r : Req) (f : FaultInfo) :
    (s.haltThread r.core r.ctx f r.ipc true).haltedLate r f := by
  rw [State.haltedLate, State.haltThread, thread_modThread, if_pos ⟨rfl, rfl⟩]
  exact ⟨rfl, rfl, rfl, rfl⟩

theorem haltThread_sameMemory (s : State) (n x : Nat) (f : FaultInfo) (ipc : Word) (late : Bool) :
    s.sameMemory (s.haltThread n x f ipc late) := by
  rw [State.haltThread]
  cases s.partOfCore n <;> exact ⟨rfl, rfl⟩

/-- A running thread whose access fails after issue halts, and stores nothing. -/
theorem lateFault_of_runnable {s : State} {r : Req} (h : (s.thread r.core r.ctx).st = .runnable) (f : FaultInfo) :
    (s.lateFault r f).haltedLate r f ∧ s.sameMemory (s.lateFault r f) := by
  unfold State.lateFault
  extract_lets back ids u v t
  have hst : t.st = .runnable := by
    show (v.thread r.core r.ctx).st = _
    rw [thread_modThread, if_pos ⟨rfl, rfl⟩]
    exact h
  have hhalt := haltThread_haltedLate v r f
  have hmem : s.sameMemory (v.haltThread r.core r.ctx f r.ipc true) := haltThread_sameMemory v ..
  rw [if_neg (by simp [hst])]
  split
  · refine ⟨?_, hmem⟩
    rw [State.haltedLate, thread_modThread, if_pos ⟨rfl, rfl⟩]
    exact hhalt
  · exact ⟨hhalt, hmem⟩

/-! ### The event of one lane (R118, R142, R210, R233) -/

section Lane

variable {s : State} {id i : Nat} {r : Req} {l : Lane} {lf : Leaf} {pa : Nat}

/-- A lane that may go, of a request that meets a fault: the fault, where the event is that of the place that raises it. -/
theorem accessEvent_fault {f : FaultInfo} {bank : Bool} (hreq : s.findReq id = some r) (hlane : r.lanes[i]? = some l)
    (hkind : r.kind.isAccess = true) (hdone : l.done = false) (hgoes : s.goes r = true) (hfault : s.firstFault r = some f)
    (hbank : (f.code == cBANK_MODE) = bank) (fill : Bool) (victim : Option Nat) :
    accessEvent id i bank fill victim s = .next (s.lateFault r f) := by
  simp only [accessEvent, hreq, hlane, hkind, hdone, hgoes, hfault, hbank, whenEnabled, Bool.not_true, Bool.or_self,
    Bool.false_eq_true, if_false, beq_self_eq_true, if_true]

variable (h : s.laneReady id i r l lf pa)
include h

theorem accessEvent_ready (bank fill : Bool) (victim : Option Nat) :
    accessEvent id i bank fill victim s = s.accessLane r i l bank fill victim := by
  obtain ⟨hreq, hlane, hkind, hdone, hgoes, hfault, -⟩ := h
  simp only [accessEvent, hreq, hlane, hkind, hdone, hgoes, hfault, Bool.not_true, Bool.or_self, Bool.false_eq_true, if_false]

/-- Outside the basin window a lane is performed once its line is within reach and the L1 has room for what it keeps. -/
theorem memoryAccess_ready {fill : Bool} {victim : Option Nat} {u : State} (hpa : paKind pa ≠ .basin)
    (hroom : entersL1 r.kind.isWrite fill lf pa = true → s.l1Room r.core (pa / 64) = true)
    (hreach : s.reach r.kind.isWrite lf pa victim = some u) :
    exec (.memoryAccess id i fill victim) s = .next (u.doLane r i l lf pa fill) := by
  refine (accessEvent_ready h false fill victim).trans ?_
  obtain ⟨-, -, -, -, -, -, htarget, hperm, hfabric⟩ := h
  have hroom' : (entersL1 r.kind.isWrite fill lf pa && !s.l1Room r.core (pa / 64)) = false := by
    cases he : entersL1 r.kind.isWrite fill lf pa with
    | false => rfl
    | true => rw [hroom he]; rfl
  simp only [State.accessLane, htarget, hperm, hfabric, beq_false_of_ne hpa, hroom', hreach, Bool.not_true, Bool.false_eq_true,
    if_false, Bool.false_or]

/-- In the basin window the bank performs a lane, unless it switches its mode (R210). -/
theorem bankAccess_ready (hpa : paKind pa = .basin) (hwaits : (s.bankOf pa).waits = false) :
    exec (.bankAccess id i) s = .next (s.doLane r i l lf pa false) := by
  refine (accessEvent_ready h true false none).trans ?_
  obtain ⟨-, -, -, -, -, -, htarget, hperm, hfabric⟩ := h
  simp only [State.accessLane, htarget, hperm, hfabric, hpa, hwaits, whenEnabled, beq_self_eq_true, Bool.not_true,
    Bool.not_false, Bool.and_self, Bool.false_eq_true, if_false, if_true]

/-- A core-local place not named through a home slice is always within reach. -/
theorem memoryAccess_coreLocal (hpa : paKind pa = .coreLocal) (hc : lf.c = false) (fill : Bool) :
    exec (.memoryAccess id i fill none) s = .next (s.doLane r i l lf pa fill) := by
  refine memoryAccess_ready h (by rw [hpa]; decide) (fun he => ?_) (by rw [State.reach, if_neg (by simp [hc])])
  rw [entersL1, hpa] at he
  simp at he

end Lane

/-! ### Answers to outstanding results (R20, R319) -/

/-- Every result of a thread with the number `id` is ready with the value v in its registers. -/
def Ctx.answeredWith (t : Ctx) (id : Nat) (v : Word) : Prop :=
  ∀ o ∈ t.outst, o.id = id → o.ready = true ∧ ∀ r w q, Piece.reg r w q ∈ o.pieces → w = v

theorem value_of_mem_answered {v w : Word} {p q : Bool} {r : BitVec 8} {l : List Piece}
    (h : Piece.reg r w q ∈ answered v p l) : w = v := by
  induction l with
  | nil => exact absurd h List.not_mem_nil
  | cons x l ih =>
    cases x with
    | reg n x q' =>
      rcases List.mem_cons.1 h with h | h
      · cases h; rfl
      · exact ih h
    | mask b x q' =>
      rcases List.mem_cons.1 h with h | h
      · cases h
      · exact ih h

/-- An answer of v leaves its result with v, and those that have v with v. -/
theorem answeredWith_answerOutst {t : Ctx} {id : Nat} {v : Word} {k : Nat} (h : k = id ∨ t.answeredWith id v) (p : Bool) :
    (t.answerOutst k v p).answeredWith id v := by
  intro o' ho' hid
  obtain ⟨o, ho, rfl⟩ := List.mem_map.1 ho'
  by_cases hk : o.id = k
  · rw [if_pos hk]
    exact ⟨rfl, fun _ _ _ hr => value_of_mem_answered hr⟩
  · rw [if_neg hk] at hid ⊢
    rcases h with rfl | h
    · exact absurd hid hk
    · exact h o ho hid

theorem answerTo_frame (s : State) (n x id : Nat) (f : Ctx → Nat → Ctx) :
    ∃ c g m, s.answerTo n x id f = { s with cores := c, regions := g, mirrors := m } := by
  unfold State.answerTo
  extract_lets u
  split <;> exact ⟨_, _, _, rfl⟩

/-- Of a thread, what the answer of a result establishes and any further answer keeps holds afterwards (R319). -/
theorem thread_answerTo {P : Ctx → Prop} {s : State} {n x id : Nat} {f : Ctx → Nat → Ctx} (hset : P (f (s.thread n x) id))
    (hkeep : ∀ t k, P t → P (f t k)) : P ((s.answerTo n x id f).thread n x) := by
  have hfirst : P ((s.modThread n x (fun t => f t id)).thread n x) := by
    rw [thread_modThread, if_pos ⟨rfl, rfl⟩]
    exact hset
  unfold State.answerTo
  extract_lets u
  split
  next m y id2 _ =>
    show P ((u.modThread m y (fun t => f t id2)).thread n x)
    rw [thread_modThread]
    split
    next hmy =>
      obtain ⟨rfl, rfl⟩ := hmy
      exact hkeep _ _ hfirst
    next => exact hfirst
  next => exact hfirst

/-! ### A request of one lane that ends (R233) -/

theorem id_of_findReq {s : State} {id : Nat} {r : Req} (h : s.findReq id = some r) : r.id = id :=
  beq_iff_eq.1 (List.find?_some (p := fun q : Req => q.id == id) h)

theorem findReq_modReq {s : State} {id : Nat} {r : Req} {f : Req → Req} (h : s.findReq id = some r)
    (hf : ∀ q, (f q).id = q.id) : (s.modReq id f).findReq id = some (f r) := by
  have hid : ((fun q : Req => q.id == id) ∘ fun q => if q.id = id then f q else q) = fun q => q.id == id := by
    funext q
    simp only [Function.comp_apply]
    split
    · rw [hf]
    · rfl
  rw [State.findReq, State.modReq, List.find?_map, hid]
  exact (congrArg (Option.map _) h).trans (congrArg some (if_pos (id_of_findReq h)))

/-- A request whose lane i is performed. -/
def Req.withLane (r : Req) (i : Nat) (v : Word) (p : Bool) : Req :=
  { r with lanes := match r.lanes[i]? with
      | some l => setAt r.lanes i { l with done := true, got := v, gotPoison := p }
      | none => r.lanes }

theorem lanes_withLane_single {r : Req} {l : Lane} (h : r.lanes = [l]) (v : Word) (p : Bool) :
    (r.withLane 0 v p).lanes = [{ l with done := true, got := v, gotPoison := p }] := by
  simp only [Req.withLane, h, List.getElem?_cons_zero, setAt]

/-- A request of one lane ends when its lane is performed; a write's acknowledgement sets out. -/
theorem finishLane_single {s : State} {r : Req} {l : Lane} (hreq : s.findReq r.id = some r) (hl : r.lanes = [l])
    (v : Word) (p : Bool) (chip : Nat) :
    let u := s.modReq r.id (fun q => q.withLane 0 v p)
    s.finishLane r.id 0 v p chip =
      (if r.kind.isWrite then u.modThread r.core r.ctx (fun t => { t with unacked := t.unacked ++ [⟨r.id, chip⟩] })
        else u).completeReq (r.withLane 0 v p) := by
  intro u
  have hfound : u.findReq r.id = some (r.withLane 0 v p) := findReq_modReq hreq (fun _ => rfl)
  unfold State.finishLane
  extract_lets w
  split
  next hnone => exact absurd (hfound.symm.trans hnone) (Option.some_ne_none _)
  next q hq =>
    obtain rfl : r.withLane 0 v p = q := Option.some.inj (hfound.symm.trans hq)
    rw [lanes_withLane_single hl]
    rfl

theorem findReq_removeReq (s : State) (r : Req) : (s.removeReq r).findReq r.id = none := by
  rw [State.findReq, State.removeReq, List.find?_eq_none]
  intro q hq
  rw [List.mem_filter, Bool.and_eq_true, bne_iff_ne] at hq
  exact fun h => hq.2.1 (beq_iff_eq.1 h)

/-- A load that ends answers its result (R20, R117): the request is gone, and nothing is stored. -/
theorem completeReq_load {s : State} {r : Req} {l : Lane} {d : Reg} {sg : Bool} {o : Nat} (hk : r.kind = .load d sg)
    (ho : r.out = some o) (hl : r.lanes = [l]) :
    s.sameMemory (s.completeReq r) ∧ (s.completeReq r).findReq r.id = none
      ∧ (s.completeReq r).answered r.core r.ctx o (loaded l.size sg l.got.toNat) := by
  have hrun : s.completeReq r = (s.removeReq r).answerTo r.core r.ctx o
      (fun t i => t.answerOutst i (loaded l.size sg l.got.toNat) l.gotPoison) := by
    simp only [State.completeReq, hk, ho, hl, List.headD_cons]
  rw [hrun]
  refine ⟨?_, ?_, ?_⟩
  · obtain ⟨c, g, m, hframe⟩ := answerTo_frame (s.removeReq r) r.core r.ctx o
      (fun t i => t.answerOutst i (loaded l.size sg l.got.toNat) l.gotPoison)
    rw [hframe]
    exact ⟨rfl, rfl⟩
  · obtain ⟨c, g, m, hframe⟩ := answerTo_frame (s.removeReq r) r.core r.ctx o
      (fun t i => t.answerOutst i (loaded l.size sg l.got.toNat) l.gotPoison)
    rw [hframe]
    exact findReq_removeReq s r
  · exact thread_answerTo (P := fun t => t.answeredWith o (loaded l.size sg l.got.toNat))
      (answeredWith_answerOutst (.inl rfl) _) (fun _ _ h => answeredWith_answerOutst (.inr h) _)

/-- A store that ends leaves memory and the acknowledgements of its thread. -/
theorem completeReq_store {r : Req} (hk : r.kind = .store) (s : State) :
    (s.completeReq r).mem = s.mem ∧ (s.completeReq r).findReq r.id = none
      ∧ ((s.completeReq r).thread r.core r.ctx).unacked = (s.thread r.core r.ctx).unacked := by
  cases ho : r.out with
  | none =>
    have hrun : s.completeReq r = s.removeReq r := by simp only [State.completeReq, hk, ho]
    rw [hrun]
    exact ⟨rfl, findReq_removeReq s r, rfl⟩
  | some o =>
    have hrun : s.completeReq r = (s.removeReq r).answerTo r.core r.ctx o (fun t i => t.changeOutst i (fun p => p)) := by
      simp only [State.completeReq, hk, ho]
    obtain ⟨c, g, m, hframe⟩ := answerTo_frame (s.removeReq r) r.core r.ctx o (fun t i => t.changeOutst i (fun p => p))
    refine ⟨?_, ?_, ?_⟩
    · rw [hrun, hframe]
      rfl
    · rw [hrun, hframe]
      exact findReq_removeReq s r
    · rw [hrun]
      exact thread_answerTo (P := fun t => t.unacked = (s.thread r.core r.ctx).unacked) rfl (fun _ _ h => h)

theorem findReq_physWrite (s : State) (t : Tag) (pa n v id : Nat) : (s.physWrite t pa n v).findReq id = s.findReq id := by
  rw [State.physWrite_frame]
  rfl

theorem mem_physWrite_modThread (s : State) (c x : Nat) (f : Ctx → Ctx) (t : Tag) (pa n v : Nat) :
    ((s.modThread c x f).physWrite t pa n v).mem = (s.physWrite t pa n v).mem := by
  rw [show s.modThread c x f = { s with cores := (s.modThread c x f).cores } from rfl, State.physWrite_withCores]

theorem thread_physWrite (s : State) (t : Tag) (pa n v c x : Nat) : (s.physWrite t pa n v).thread c x = s.thread c x := by
  rw [State.thread, State.physWrite_core]
  rfl

theorem unacked_notePerformed (s : State) (r : Req) (size : Nat) (lf : Leaf) (pa : Nat) :
    ((s.notePerformed r size lf pa).thread r.core r.ctx).unacked = (s.thread r.core r.ctx).unacked := by
  rw [State.notePerformed, thread_modThread, if_pos ⟨rfl, rfl⟩]

section CoreLocal

variable {s : State} {r : Req} {l : Lane} {lf : Leaf} {pa : Nat} (hreq : s.findReq r.id = some r) (hl : r.lanes = [l])
  (hpa : paKind pa = .coreLocal)
include hreq hl hpa

/-- A load performed in a core-local memory gives its bytes (R116, R233). -/
theorem doLane_load {d : Reg} {sg : Bool} {o : Nat} (hk : r.kind = .load d sg) (ho : r.out = some o) (fill : Bool) :
    let t := s.doLane r 0 l lf pa fill
    s.sameMemory t ∧ t.findReq r.id = none
      ∧ t.answered r.core r.ctx o (loadValue l.size sg (s.physRead (s.slotTag lf.key) pa l.size % 2 ^ 64)) := by
  intro t
  have hrun : t = s.finishLane r.id 0 (BitVec.ofNat 64 (s.physRead (s.slotTag lf.key) pa l.size))
      (s.physPoison (s.slotTag lf.key) pa l.size) (s.destChiplet r.core lf pa) := by
    simp only [t, State.doLane, hk, ReqKind.isWrite, State.endRead, hpa, Bool.false_eq_true, if_false]
  rw [finishLane_single hreq hl, if_neg (by rw [hk]; exact Bool.false_ne_true)] at hrun
  obtain ⟨hmem, hgone, hvalue⟩ := completeReq_load (s := s.modReq r.id (fun q => q.withLane 0
      (BitVec.ofNat 64 (s.physRead (s.slotTag lf.key) pa l.size)) (s.physPoison (s.slotTag lf.key) pa l.size)))
    (r := r.withLane 0 _ _) hk ho (lanes_withLane_single hl _ _)
  rw [← hrun] at hmem hgone hvalue
  rw [loaded_eq, BitVec.toNat_ofNat] at hvalue
  exact ⟨⟨hmem.1, hmem.2⟩, hgone, hvalue⟩

/-- A store performed in a core-local memory writes its bytes, and its acknowledgement sets out (R116, R233). -/
theorem doLane_store (hk : r.kind = .store) (fill : Bool) :
    let t := s.doLane r 0 l lf pa fill
    t.findReq r.id = none ∧ t.mem = (s.physWrite (s.slotTag lf.key) pa l.size l.data.toNat).mem
      ∧ (t.thread r.core r.ctx).unacked.length = (s.thread r.core r.ctx).unacked.length + 1 := by
  intro t
  let u := (s.notePerformed r l.size lf pa).physWrite (s.slotTag lf.key) pa l.size l.data.toNat
  let ack : Ctx → Ctx := fun c => { c with unacked := c.unacked ++ [⟨r.id, s.destChiplet r.core lf pa⟩] }
  have hrun : t = u.finishLane r.id 0 0 false (s.destChiplet r.core lf pa) := by
    simp only [t, State.doLane, hk, ReqKind.isWrite, State.endWrite, hpa, if_true]
    rfl
  rw [finishLane_single (s := u) ((findReq_physWrite ..).trans hreq) hl, if_pos (by rw [hk]; rfl)] at hrun
  obtain ⟨hmem, hgone, hunacked⟩ := completeReq_store (r := r.withLane 0 0 false) hk
    ((u.modReq r.id (fun q => q.withLane 0 0 false)).modThread r.core r.ctx ack)
  have hbefore : (u.thread r.core r.ctx).unacked = (s.thread r.core r.ctx).unacked :=
    (congrArg Ctx.unacked (thread_physWrite ..)).trans (unacked_notePerformed ..)
  have hafter : (t.thread r.core r.ctx).unacked =
      (u.thread r.core r.ctx).unacked ++ [⟨r.id, s.destChiplet r.core lf pa⟩] := by
    rw [hrun]
    refine hunacked.trans ?_
    show Ctx.unacked (State.thread _ r.core r.ctx) = _
    rw [thread_modThread, if_pos ⟨rfl, rfl⟩]
    rfl
  refine ⟨hrun ▸ hgone, hrun ▸ hmem.trans (mem_physWrite_modThread ..), ?_⟩
  rw [hafter, hbefore, List.length_append]
  rfl

end CoreLocal

/-! ### The events -/

/-- A walk that serves some access enters its leaf into the TLBs of the core and of its chiplet (R217, R218). The kernel would
evaluate the walk to compare the event with its definition applied, so the definition is unfolded as a function, and the
address made a variable, first. -/
theorem execPageWalk_ok {s : State} {c : Nat} {vahi : BitVec 8} {va : Word} {l : Leaf} {seen : List Nat}
    (hwalk : s.walk (s.core c).root.slot (virtual vahi va) 4 0 (s.core c).root.table [] = .ok (l, seen))
    (hserves : l.serves (virtual vahi va) = true) :
    ∃ e : TlbEntry, e.root = (s.core c).root ∧ e.leaf = l ∧ execPageWalk c vahi va s =
      .next ((s.modCore c (fun k => { k with tlb := addTlb Config.coreTlb k.tlb e })).modChip (c / 8)
        (fun h => { h with tlb := addTlb Config.chipletTlb h.tlb e })) := by
  obtain ⟨event, hevent⟩ : ∃ event, event = execPageWalk := ⟨_, rfl⟩
  rw [← hevent]
  delta execPageWalk at hevent
  subst hevent
  beta_reduce
  generalize virtual vahi va = a at hwalk hserves ⊢
  simp only [hwalk, hserves, whenEnabled, if_true]
  exact ⟨⟨_, _, l, seen⟩, rfl, rfl, rfl⟩

theorem getLast?_tlb_modCore (s : State) (c : Nat) (e : TlbEntry) :
    ((s.modCore c (fun k => { k with tlb := addTlb Config.coreTlb k.tlb e })).core c).tlb.getLast? = some e := by
  rw [core_modCore, if_pos rfl]
  exact getLast?_addTlb (by decide) _ e

/-- Settles O32, one clause after the other. -/
theorem accessEvents : Obligations.AccessEvents := by
  refine ⟨?performed, ?coreLocal, ?fault, ?acknowledged, ?walk, ?evicted, ?rehomed, ?released⟩
  case performed =>
    intro s id i fill victim r l lf pa h
    exact ⟨fun u hpa hroom hreach => memoryAccess_ready h hpa hroom hreach, fun hpa hwaits => bankAccess_ready h hpa hwaits⟩
  case coreLocal =>
    intro s id fill sg d o r l lf pa h hl hpa hc
    have hexec := memoryAccess_coreLocal h hpa hc fill
    obtain ⟨hreq, -⟩ := h
    obtain rfl := id_of_findReq hreq
    exact ⟨fun hk ho => ⟨_, hexec, doLane_load hreq hl hpa hk ho fill⟩,
      fun hk => ⟨_, hexec, doLane_store hreq hl hpa hk fill⟩⟩
  case fault =>
    intro s id i fill victim r l f hreq hlane hkind hdone hgoes hfault hrun
    obtain ⟨⟨hst, hlate, hipc, hcode⟩, hmem⟩ := lateFault_of_runnable hrun f
    refine ⟨s.lateFault r f, ?_, hst, hlate, hipc, hcode, hmem⟩
    split
    next hbank => exact accessEvent_fault hreq hlane hkind hdone hgoes hfault (beq_iff_eq.2 hbank) false none
    next hbank => exact accessEvent_fault hreq hlane hkind hdone hgoes hfault (beq_false_of_ne hbank) fill victim
  case acknowledged =>
    intro s c x i hi
    show execAcknowledgement c x i s = _
    simp only [execAcknowledgement, whenEnabled, decide_eq_true hi, if_true, removeAt_eq_take_drop]
  case walk =>
    intro s c vahi va l seen r a hwalk hserves
    obtain ⟨e, hroot, hleaf, hexec⟩ := execPageWalk_ok hwalk hserves
    exact ⟨_, e, hexec, getLast?_tlb_modCore s c e, hroot, hleaf, rfl, rfl⟩
  case evicted =>
    intro s c line ⟨k, hk, hheld⟩
    have hany : (lineSectors line).any (fun k => (Tab.find (s.core c).l1 k).isSome) = true :=
      List.any_eq_true.2 ⟨k, hk, Option.isSome_iff_ne_none.2 hheld⟩
    exact ⟨_, if_pos hany, find_l1_evictLine s c line⟩
  case rehomed =>
    intro s id i h r l lf pa hreq hlane hhome hdone htarget hne hfirst
    show execRehome ⟨id, i⟩ s = _
    simp only [execRehome, hreq, hlane, hhome, Option.join_some, htarget, hdone, hfirst, decide_eq_true hne, whenEnabled,
      Bool.not_false, Bool.and_self, if_true]
  case released =>
    intro s line hmoved
    have hany : (!(s.movedSectors line).isEmpty) = true := by simpa using hmoved
    exact ⟨_, if_pos hany, find_l2_dropHomes _ _⟩

end Sys2Proof.Machine
end
section
/-! The mask group (R145): functions of masks, and masks to and from operand registers. -/

namespace Sys2Proof.Machine

/-- The mask functions of two masks have one shape. -/
theorem exec_maskFunction {i : Instr} {sw : Bool} {md ma mb : MaskReg} {f : BitVec 32 → BitVec 32 → BitVec 32}
    (h : maskFunction i = some (sw, md, ma, mb, f)) : exec i = instr { arith := true } (maskOp2 f sw md ma mb) := by
  unfold maskFunction at h
  split at h <;> cases h <;> rfl

/-- The mask functions that write an operand register have one shape, with the function the spec names. -/
theorem exec_maskToRegister {i : Instr} {sw : Bool} {d : Reg} {ma : MaskReg} {f : BitVec 32 → Word}
    (h : maskToRegister i = some (sw, d, ma, f)) : exec i = instr { arith := true } (maskToReg f sw d ma) := by
  have shape {g : BitVec 32 → Word} (hg : ∀ x, g x = f x) :=
    exec_congr (i := i) (form := { arith := true }) (maskToReg · sw d ma) (funext hg)
  unfold maskToRegister at h
  split at h <;> cases h
  · exact shape (fun x => congrArg (BitVec.ofNat 64) (popCount_eq x.toNat 32)) rfl
  · exact shape (fun x => congrArg (BitVec.ofNat 64) (trailingZeros_eq 32 x.toNat)) rfl
  · exact shape (fun x => BitVec.eq_of_toNat_eq (by simp)) rfl

/-- The low half of a register is what MSET writes. -/
theorem setWidth_eq_extractLsb' (x : Word) : x.setWidth 32 = x.extractLsb' 0 32 := BitVec.eq_of_toNat_eq (by simp)

/-- Settles O4: a mask from masks, a register from a mask, and a mask from a register. -/
theorem maskGroupResult : Obligations.MaskGroupResult := by
  refine ⟨?masks, ?register, ?set⟩
  case masks =>
    intro s i sw md ma mb f hi hpre
    rw [exec_maskFunction hi]
    exact instr_ok (meets_arith hpre) rfl
  case register =>
    intro s i sw d ma f hi hpre huse hclean
    rw [exec_maskToRegister hi]
    refine instr_ok (meets_arith hpre) ?_
    rw [maskToReg, act_bind_ok (operands_ok huse), act_get_bind,
      act_bind_ok (setReg_ok (canUse_takes huse List.mem_cons_self) hclean)]
    rfl
  case set =>
    intro s sw md a hpre huse
    refine instr_ok (meets_arith hpre) ?_
    rw [act_bind_ok (operands_ok huse), act_bind_ok (readReg_ok (has_one huse)), act_onState_bind]
    simp only [setWidth_eq_extractLsb']
    rfl

end Sys2Proof.Machine
end
section
/-! Vector instructions that choose, convert, compare and move lanes (R133 to R139). -/

namespace Sys2Proof.Machine

/-! ### Lanes written from a function -/

/-- Lanes that raise no flag. -/
theorem unionFlags_zeros {α : Type} (is : List α) : unionFlags (is.map (fun _ => 0)) = 0 := by
  rw [unionFlags, List.foldl_map]
  simp

/-- A lane fits its width already. -/
theorem laneOf_mod (d w k : Nat) : laneOf d w k % 2 ^ w = laneOf d w k := Nat.mod_mod ..

/-- The union of the flags of lanes written from a function. -/
theorem unionFlags_map {is : List Nat} (lane : Nat → Nat × Flags) :
    unionFlags ((is.map (fun k => (k, lane k))).map (fun x : LaneWrite => x.2.2))
      = unionFlags (is.map (fun k => (lane k).2)) := by
  rw [List.map_map]
  rfl

/-- An instruction of format VV that writes the distinct lanes `is` from a function leaves one outstanding result that holds
them, and the other lanes of its destination (R129, R130). -/
theorem exec_vvOp_lanes {s : State} {i : Instr} {sw : Bool} {w : Nat} {vd : VReg} {srcs reads : List VReg} {m : MaskSel}
    {merge : Ctx → Bool} {f : Ctx → VIn → List LaneWrite} {is : List Nat} (hpre : s.thr.pre = [])
    (hexec : exec i s = instr vvForm (vvOp sw w vd srcs m merge f) s) (lane : Nat → Nat × Flags) (hnd : is.Nodup)
    (hreads : (if merge s.thr then srcs ++ [vd] else srcs) = reads)
    (hws : f s.thr (s.vecInputs srcs) = is.map (fun k => (k, lane k))) (hroom : s.vectorRoom)
    (huse : s.canUseVectors reads [vd] [] []) :
    ∃ d, exec i s = .next ((s.queued .other (resultPieces vd w d is (fun _ => s.vectorPoison reads m))
        (unionFlags (is.map (fun k => (lane k).2)))).moved sw)
      ∧ ∀ k, laneOf d w k = if k ∈ is then (lane k).1 % 2 ^ w else laneOf (s.vec vd).data w k := by
  have hrun := vvOp_ok (w := w) (m := m) hreads hws hroom huse sw
  rw [unionFlags_map, List.map_map, show Prod.fst ∘ (fun k => (k, lane k)) = id from rfl, List.map_id] at hrun
  exact ⟨_, hexec.trans (instr_ok (meets_vvForm hpre) hrun), laneOf_applyLanes_map w _ hnd lane⟩

/-! ### VSEL and VPERM (R134, R135) -/

/-- The sources of a lane-wise instruction: its destination too, unless every lane is active. -/
theorem mergedReads_eq (s : State) (m : MaskSel) (n : Nat) (srcs : List VReg) (vd : VReg) :
    (if !s.thr.allActive m n then srcs ++ [vd] else srcs) = if (s.lanes m n).length = n then srcs else srcs ++ [vd] := by
  simp only [Bool.not_eq_true', ← Bool.not_eq_true, allActive_iff, ite_not]

/-! ### VCVT (R136, R137) -/

theorem cvtType_width_dvd (x : CvtType) : x.width ∣ 512 := by cases x <;> decide

/-- The lanes that the wider type has in a vector fill it with that type alone. -/
theorem width_mul_lt_iff {x w : Nat} (hw : w ∣ 512) : x * (512 / w) < 512 ↔ x < w := by
  have hfill : w * (512 / w) = 512 := Nat.mul_div_cancel' hw
  have hpos : 0 < 512 / w := Nat.pos_of_ne_zero fun h => by simp [h] at hfill
  calc x * (512 / w) < 512 ↔ x * (512 / w) < w * (512 / w) := by rw [hfill]
    _ ↔ x < w := Nat.mul_lt_mul_right hpos

theorem max_width_dvd (x y : CvtType) : max x.width y.width ∣ 512 := by
  rcases max_choice x.width y.width with h | h <;> rw [h]
  · exact cvtType_width_dvd x
  · exact cvtType_width_dvd y

/-- Only the narrower of two types has a part. -/
theorem narrow_left_iff (x y : CvtType) : x.width * (512 / max x.width y.width) < 512 ↔ x.width < y.width := by
  rw [width_mul_lt_iff (max_width_dvd x y), lt_max_iff, or_iff_right (lt_irrefl _)]

theorem narrow_right_iff (x y : CvtType) : y.width * (512 / max x.width y.width) < 512 ↔ y.width < x.width :=
  max_comm x.width y.width ▸ narrow_left_iff y x

/-- Lanes that stand side by side from a place on, in the order of the lanes they come from. -/
theorem mem_placed {is : List Nat} {into k : Nat} : into + k ∈ is.map (fun j => into + j) ↔ k ∈ is := by simp

theorem map_placed {α : Type} (is : List Nat) (into : Nat) (g : Nat → α) :
    (is.map (fun k => into + k)).map (fun q => (q, g (q - into))) = is.map (fun k => (into + k, g k)) := by
  simp [Function.comp_def]

theorem nodup_placed {is : List Nat} (h : is.Nodup) (into : Nat) : (is.map (fun k => into + k)).Nodup :=
  h.map (add_right_injective into)

/-- Settles O12: the three write the lanes that R134 to R137 name, each from a function of its sources. -/
theorem vectorSelectPermuteConvert : Obligations.VectorSelectPermuteConvert := by
  refine ⟨?select, ?permute, ?convert⟩
  case select =>
    intro s sw vd va vb ty m hpre hroom huse
    obtain ⟨d, hrun, hlane⟩ := exec_vvOp_lanes (i := .vsel sw vd va vb ty m) hpre rfl
      (fun k => (if s.thr.active m k then laneOf (s.vec va).data ty.width k else laneOf (s.vec vb).data ty.width k, 0))
      List.nodup_range rfl rfl hroom huse
    rw [unionFlags_zeros] at hrun
    refine ⟨d, hrun, fun k hk => ?_⟩
    rw [hlane, if_pos (List.mem_range.2 hk)]
    split <;> exact laneOf_mod ..
  case permute =>
    intro s sw vd va vb vc ty m hpre hroom w n is reads huse
    obtain ⟨d, hrun, hlane⟩ := exec_vvOp_lanes (i := .vperm sw vd va vb vc ty m) hpre rfl
      (fun k =>
        let c := laneOf (s.vec vc).data w k
        (if c < n then laneOf (s.vec va).data w c else if c < 2 * n then laneOf (s.vec vb).data w (c - n) else 0, 0))
      (nodup_lanes s m n) (mergedReads_eq s m n _ vd) rfl hroom huse
    rw [unionFlags_zeros] at hrun
    refine ⟨d, hrun, fun k hk => ?_⟩
    rw [hlane]
    refine if_congr (mem_lanes hk) ?_ rfl
    dsimp only
    split
    · exact laneOf_mod ..
    split
    · exact laneOf_mod ..
    · exact Nat.zero_mod _
  case convert =>
    intro s sw vd va src dst m p hpre hroom hwf n is reads from_ into lane huse
    have hsrc : (if src.width * n < 512 then p.toNat * n else 0) = from_ := if_congr (narrow_left_iff src dst) rfl rfl
    have hdst : (if dst.width * n < 512 then p.toNat * n else 0) = into := if_congr (narrow_right_iff src dst) rfl rfl
    have hreads : (if decide (dst.width * n < 512) || !s.thr.allActive m n then [va] ++ [vd] else [va]) = reads := by
      simp only [Bool.or_eq_true, Bool.not_eq_true', ← Bool.not_eq_true, allActive_iff, decide_eq_true_eq, reads, ← not_le,
        ← not_and_or, ite_not]
      rfl
    obtain ⟨d, hrun, hlane⟩ := exec_vvOp_lanes (i := .vcvt sw vd va src dst m p) hpre rfl (fun q => lane (q - into))
      (nodup_placed (nodup_lanes s m n) into) hreads
      (by rw [map_placed]; simp only [lane, ← hsrc, ← hdst]; rfl) hroom huse
    rw [List.map_map] at hrun
    simp only [Function.comp_def, Nat.add_sub_cancel_left] at hrun
    refine ⟨d, hrun, fun k hk => ?_, fun q _ hq => ?_⟩
    · rw [hlane, Nat.add_sub_cancel_left]
      exact if_congr (mem_placed.trans (mem_lanes hk)) rfl rfl
    · rw [hlane, if_neg]
      intro hmem
      obtain ⟨k, hk, rfl⟩ := List.mem_map.1 hmem
      exact hq ⟨Nat.le_add_right .., Nat.add_lt_add_left (List.mem_range.1 (List.mem_of_mem_filter hk)) _⟩

end Sys2Proof.Machine
end
section
/-! The vector queue (R130, R170): the state that an instruction issues from once its operands are read, and what entering the
queue leaves. -/

namespace Sys2Proof.Machine

/-! ### The state that an instruction issues from -/

/-- u is s with operands read and no release pending: all that the issue looks at is as before. -/
structure OperandsRead (u s : State) : Prop where
  cur : u.cur = s.cur
  ctx : u.ctx = s.ctx
  reqs : u.reqs = s.reqs
  fresh : u.fresh = s.fresh
  poison : u.poison = s.poison
  same : SameMem u s
  core : ∃ f t c, u.core s.cur = { s.core s.cur with fifos := f, strm := t, ctxs := c }
  thr : ∃ r, u.thr = { s.thr with releases := r }

theorem OperandsRead.trans {u v w : State} (h : OperandsRead u v) (h' : OperandsRead v w) : OperandsRead u w := by
  obtain ⟨f, t, c, hcore⟩ := h.core
  obtain ⟨f', t', c', hcore'⟩ := h'.core
  obtain ⟨r, hthr⟩ := h.thr
  obtain ⟨r', hthr'⟩ := h'.thr
  rw [h'.cur, hcore'] at hcore
  rw [hthr'] at hthr
  exact ⟨h.cur.trans h'.cur, h.ctx.trans h'.ctx, h.reqs.trans h'.reqs, h.fresh.trans h'.fresh, h.poison.trans h'.poison,
    h.same.trans h'.same, ⟨f, t, c, hcore⟩, ⟨r, hthr⟩⟩

theorem operandsRead_refl (s : State) : OperandsRead s s :=
  ⟨rfl, rfl, rfl, rfl, rfl, SameMem.refl s, ⟨_, _, _, rfl⟩, ⟨_, rfl⟩⟩

theorem tagCurrent_afterRead (s : State) (r : Reg) (g : Tag) : (s.afterRead r).tagCurrent g = s.tagCurrent g := by
  obtain ⟨c, h, -⟩ := afterRead_frame s r
  rw [h]
  rfl

theorem operandsRead_afterRead (s : State) (r : Reg) : OperandsRead (s.afterRead r) s := by
  obtain ⟨f, t, hcore⟩ := afterRead_core s r s.cur
  exact ⟨afterRead_cur s r, afterRead_ctx s r, afterRead_reqs s r, afterRead_fresh s r, afterRead_poison s r,
    ⟨afterRead_mem s r, afterRead_otag s r, tagCurrent_afterRead s r, afterRead_jobTag s r⟩, ⟨f, t, _, hcore⟩,
    ⟨_, afterRead_thr s r⟩⟩

theorem operandsRead_gated (s : State) : OperandsRead s.gated s := by
  obtain ⟨c, hcore⟩ := gated_core s
  exact ⟨rfl, rfl, rfl, rfl, rfl, sameMem_modThread s s.cur s.ctx _, ⟨_, _, c, hcore⟩, ⟨_, gated_thr s⟩⟩

section
variable {u s : State} (h : OperandsRead u s)
include h

theorem OperandsRead.sameSender : SameSender u s := by
  obtain ⟨f, t, c, hcore⟩ := h.core
  obtain ⟨r, hthr⟩ := h.thr
  exact ⟨h.same.mem, h.same.otag, h.reqs, h.cur, h.ctx, by rw [h.cur, hcore], by rw [hthr], by rw [hthr]⟩

theorem OperandsRead.readVec (v : VReg) : u.readVec u.cur s.thr v = s.vec v := by
  obtain ⟨f, t, c, hcore⟩ := h.core
  rw [State.vec, State.readVec, State.readVec, h.cur, hcore]
  rfl

theorem OperandsRead.vec (v : VReg) : u.vec v = s.vec v := by
  obtain ⟨r, hthr⟩ := h.thr
  rw [State.vec, hthr]
  exact h.readVec v

theorem OperandsRead.vq : (u.core s.cur).vq = (s.core s.cur).vq := by
  obtain ⟨f, t, c, hcore⟩ := h.core
  rw [hcore]

theorem OperandsRead.vectorRoom (hroom : s.vectorRoom) : u.vectorRoom := by
  rw [State.vectorRoom, h.cur, h.vq]
  exact hroom

theorem OperandsRead.localRead (ea : Word) (k : Nat) : u.localRead u.cur ea k = s.localRead s.cur ea k := by
  rw [State.localRead, State.localRead, h.same.job, h.cur, physRead_congr h.same.mem h.same.otag,
    physPoison_congr h.poison h.same.otag]

theorem OperandsRead.outst : u.thr.outst = s.thr.outst := by
  obtain ⟨r, hthr⟩ := h.thr
  rw [hthr]

theorem OperandsRead.flowEq : FlowEq u.thr s.thr := by
  obtain ⟨r, hthr⟩ := h.thr
  rw [hthr]
  constructor <;> rfl

end

/-! ### Issuing -/

theorem queued_thr (s : State) (k : OutKind) (ps : List Piece) (f : Flags) :
    (s.queued k ps f).thr = { s.thr with outst := s.thr.outst ++ [⟨s.fresh, k, ps, f, false⟩] } :=
  (thr_modCore _ _ _ rfl).trans (addOutst_thr s k ps f false)

theorem vq_queued (s : State) (k : OutKind) (ps : List Piece) (f : Flags) :
    ((s.queued k ps f).core s.cur).vq = (s.core s.cur).vq ++ [⟨s.ctx, s.fresh⟩] := by
  obtain ⟨c, hc⟩ := core_modThread s s.cur s.ctx s.cur
    (fun t => { t with outst := t.outst ++ [⟨s.fresh, k, ps, f, false⟩] })
  rw [State.queued, core_modCore, if_pos rfl]
  exact congrArg (fun x : Core => x.vq ++ [⟨s.ctx, s.fresh⟩]) hc

theorem sameSender_modCore (s : State) (n : Nat) {f : Core → Core} (hctxs : (f (s.core n)).ctxs = (s.core n).ctxs)
    (hroot : (f (s.core n)).root = (s.core n).root) : SameSender (s.modCore n f) s := by
  refine ⟨rfl, rfl, rfl, rfl, rfl, ?_, by rw [thr_modCore s n f hctxs], by rw [thr_modCore s n f hctxs]⟩
  show ((s.modCore n f).core s.cur).root = _
  rw [core_modCore]
  split
  next hn => rw [hroot, hn]
  next => rfl

theorem sameSender_queued (s : State) (k : OutKind) (ps : List Piece) (f : Flags) : SameSender (s.queued k ps f) s :=
  (sameSender_modCore (s.addOutst s.cur s.ctx k ps f false) s.cur rfl rfl).trans (sameSender_addOutst s k ps f false)

theorem vq_moved (s : State) (sw : Bool) (n : Nat) : ((s.moved sw).core n).vq = (s.core n).vq := by
  obtain ⟨c, hc⟩ := core_modThread s s.cur s.ctx n (fun t => t.advance.settle sw)
  exact (congrArg Core.vq hc :)

theorem vq_addReq (s : State) (k : ReqKind) (lanes : List Lane) (vector : Bool) (sc : Scope) (scIdx : BitVec 4)
    (out : Option Nat) (oprs : List Word) (n : Nat) :
    ((s.addReq k lanes vector sc scIdx out oprs).core n).vq = (s.core n).vq := by
  obtain ⟨r, ps, cs, heq, hcores, -⟩ := addReq_frame s k lanes vector sc scIdx out oprs
  rw [heq]
  rcases hcores with rfl | ⟨m, rfl⟩
  · rfl
  · show ((s.setCore s.cur { s.core s.cur with pairNo := m }).core n).vq = _
    rw [core_setCore_if]
    split
    next hn => rw [hn]
    next => rfl

end Sys2Proof.Machine
end
section
/-! Compares of lanes, and moves between lanes and operand registers (R133, R139). -/

namespace Sys2Proof.Machine

/-! ### VCMP (R133) -/

theorem codes_of_three_bits :
    ∀ f : BitVec 3, f = 0 ∨ f = 1 ∨ f = 2 ∨ f = 3 ∨ f = 4 ∨ f = 5 ∨ f = 6 ∨ f = 7 := by decide

theorem laneCmp_eq (t : ElemType) (f : BitVec 3) (a b : Nat) : laneCmp t f a b = laneCondition t f a b := by
  rw [laneCmp, laneCondition]
  simp only [sLane_eq]
  rcases codes_of_three_bits f with rfl | rfl | rfl | rfl | rfl | rfl | rfl | rfl
  all_goals cases t.isInt <;> rfl

/-- A bit of a fold of single bits is one it began with, or one of the places of the fold. -/
theorem getLsbD_foldl_bits (start : Nat) {b : Nat} (hb : b < 64) (is : List Nat) (r : Word) :
    (is.foldl (fun r i => r ||| (1 <<< (start + i) : Word)) r).getLsbD b = true
      ↔ r.getLsbD b = true ∨ ∃ k ∈ is, b = start + k := by
  have hone : ∀ n : Nat, ((1 <<< n : Nat) : Word).getLsbD b = true ↔ b = n := by
    intro n
    rw [BitVec.natCast_eq_ofNat, BitVec.getLsbD_ofNat, Nat.one_shiftLeft, Nat.testBit_two_pow, decide_eq_true hb, Bool.true_and,
      decide_eq_true_iff, eq_comm]
  induction is generalizing r with
  | nil => simp
  | cons i is ih => simp only [List.foldl_cons, ih, BitVec.getLsbD_or, Bool.or_eq_true, hone, List.exists_mem_cons_iff, or_assoc]

/-- The bits of lanes in a mask stand from the start of the mask on (R18). -/
theorem getLsbD_maskBits (md : MaskReg) (is : List Nat) {b : Nat} (hb : b < 64) :
    (maskBits md is).getLsbD b = true ↔ ∃ k ∈ is, b = maskStart md + k := by
  have hstart : maskShift md = maskStart md := by cases md <;> rfl
  rw [maskBits, hstart, getLsbD_foldl_bits _ hb]
  simp

/-- The bits of those lanes whose condition holds. -/
theorem getLsbD_maskBits_filter (md : MaskReg) (is : List Nat) (q : Nat → Bool) {b : Nat} (hb : b < 64) :
    (maskBits md (is.filter q)).getLsbD b = true ↔ ∃ k ∈ is, b = maskStart md + k ∧ q k = true := by
  rw [getLsbD_maskBits md _ hb]
  simp only [List.mem_filter, and_assoc, and_comm (a := b = _)]

/-- The lanes of a list of tested lanes whose test holds. -/
theorem tested_lanes (is : List Nat) (cond : Nat → Bool × Flags) :
    ((is.map (fun k => (k, cond k))).filter (fun r => r.2.1)).map Prod.fst = is.filter (fun k => (cond k).1) := by
  rw [List.filter_map, List.map_map]
  exact List.map_id _

/-- VCMP leaves one outstanding result: the bits of the active lanes in a mask, one where the condition holds (R133). -/
theorem exec_vcmp {s : State} {va vb : VReg} (hpre : s.thr.pre = []) (hroom : s.vectorRoom)
    (huse : s.canUseVectors [va, vb] [] [] []) (sw : Bool) (md : MaskReg) (ty : ElemType) (m : MaskSel) (f : BitVec 3) :
    let is := s.lanes m ty.lanes
    let cond := fun k => laneCondition ty f (laneOf (s.vec va).data ty.width k) (laneOf (s.vec vb).data ty.width k)
    exec (.vcmp sw md va vb ty m f) s = .next ((s.queued .other
      (if is = [] then [] else [.mask (maskBits md is) (maskBits md (is.filter (fun k => (cond k).1)))
        (s.vectorPoison [va, vb] m || (decide (is.length < 32) && s.thr.maskPoison md))])
      (unionFlags (is.map (fun k => (cond k).2)))).moved sw) := by
  intro is cond
  have hpoison : ((s.vec va).anyPoison || (s.vec vb).anyPoison || s.thr.govPoison m) = s.vectorPoison [va, vb] m := by
    simp [State.vectorPoison, VVal.anyPoison]
  refine instr_ok (meets_vvForm hpre) ?_
  rw [act_bind_ok (vecOperands_ok huse), act_get_bind]
  simp only [laneCmp_eq]
  rw [← hpoison, unionFlags, List.foldl_map, List.foldl_map, ← tested_lanes]
  simp only [← List.isEmpty_iff]
  exact act_bind_ok (enqueueVec_ok hroom _ _ _)

/-! ### VBCAST, VINS and VEXT (R139) -/

/-- The low bits of a register go to the active ones among the lanes named; the others keep their values (R129, R139). -/
theorem insertOp_ok {s : State} {v : VReg} {xa : Reg} {ty : ElemType} {k : Bool} {ls : List Nat} (hnd : ls.Nodup)
    (hroom : s.vectorRoom) :
    let is := ls.filter (fun j => s.thr.active (selK k) j)
    let reads := if is.length < ty.lanes then [v] else []
    s.canUseVectors reads [v] [xa] [] → ∀ sw, ∃ d, insertOp sw v xa ty k ls s = .ok ((), ((s.afterRead xa).queued .other
        (resultPieces v ty.width d is (fun _ => (s.value xa).p || s.vectorPoison reads (selK k))) 0).moved sw)
      ∧ ∀ j, laneOf d ty.width j
        = if j ∈ is then (s.value xa).v.toNat % 2 ^ ty.width else laneOf (s.vec v).data ty.width j := by
  intro is reads huse sw
  have hread := operandsRead_afterRead s xa
  have hpoison : ((s.value xa).p || s.thr.govPoison (selK k) || (decide (is.length < ty.lanes) && (s.vec v).anyPoison))
      = ((s.value xa).p || s.vectorPoison reads (selK k)) := by
    simp only [State.vectorPoison, reads, VVal.anyPoison, Bool.or_assoc]
    by_cases h : is.length < ty.lanes <;> simp [h, Bool.or_comm]
  have hfields : s.canUse [xa] [] := by
    obtain ⟨-, -, hfields, -⟩ := huse
    exact hfields
  let ws : List LaneWrite := is.map (fun i => (i, narrow ty.width (s.value xa).v, 0))
  have hfst : ws.map Prod.fst = is := (List.map_map ..).trans (List.map_id is)
  refine ⟨(applyLanes ty.width (s.vec v).data ws).1, ?_, fun j => ?_⟩
  · rw [← hfst, ← lanePieces_eq_resultPieces, ← hpoison]
    have hreads : (if decide (is.length < ty.lanes) then [v] else []) = reads := by simp [reads]
    rw [insertOp, act_get_bind]
    refine (act_bind_ok (hreads ▸ vecOperands_ok huse)).trans ?_
    rw [act_bind_ok (readReg_ok (has_one hfields)), act_get_bind, hread.readVec]
    exact act_bind_ok (enqueueVec_ok (hread.vectorRoom hroom) _ _ _)
  · rw [laneOf_applyLanes_map _ _ (hnd.filter _) (fun _ => (narrow ty.width (s.value xa).v, 0)), narrow, Nat.mod_mod]

/-- Settles O14: a mask of the compared lanes, a register to lanes, and a lane to a register. -/
theorem vectorCompareAndMove : Obligations.VectorCompareAndMove := by
  refine ⟨?compare, ?insert, ?extract⟩
  case compare =>
    intro s sw md va vb ty m f hpre hroom huse w is cond p
    exact ⟨_, _, exec_vcmp hpre hroom huse sw md ty m f,
      fun b hb => ⟨getLsbD_maskBits md is hb, getLsbD_maskBits_filter md is _ hb⟩⟩
  case insert =>
    intro s i sw k v xa ty ls hi hpre hroom w is reads huse
    rcases hi with ⟨rfl, rfl⟩ | ⟨l, rfl, rfl, hl⟩
    · obtain ⟨d, hrun, hlane⟩ := insertOp_ok List.nodup_range hroom huse sw
      exact ⟨d, instr_ok (meets_vvForm hpre) hrun, fun j _ => hlane j⟩
    · obtain ⟨d, hrun, hlane⟩ := insertOp_ok (List.nodup_singleton _) hroom huse sw
      exact ⟨d, instr_ok (meets_vvForm hpre) ((need_bind_true (decide_eq_true hl) _ _ _).trans hrun), fun j _ => hlane j⟩
  case extract =>
    intro s sw v xa l ty hl hout hpre hroom huse e
    refine instr_ok (meets_vvForm hpre) ?_
    rw [need_bind_true (decide_eq_true hl), act_get_bind, need_bind_true hout, act_bind_ok (vecOperands_ok huse), act_get_bind]
    rw [toSigned_eq]
    exact act_bind_ok (enqueueVec_ok hroom _ _ _)

end Sys2Proof.Machine
end
section
/-! Vector loads and gathers (R140 to R144): what each lane names, what it finds at issue, and the request for the rest. -/

namespace Sys2Proof.Machine

/-! ### What the lanes of an access name -/

/-- The active lanes of an access with what each names. -/
def State.laneTargets (s : State) (x : VectorAccess) : List (Nat × LaneTarget) :=
  (s.accessLanes x).map (fun k => (k, x.target k))

theorem nodup_accessLanes (s : State) (x : VectorAccess) : (s.accessLanes x).Nodup := nodup_lanes ..

theorem awayLanes_eq (s : State) (x : VectorAccess) (data : Nat → Nat) :
    s.awayLanes x data = remoteLanes (x.ty.width / 8) data (s.laneTargets x) := by
  rw [State.awayLanes, remoteLanes, State.laneTargets, List.filterMap_map]
  refine List.filterMap_congr fun k _ => ?_
  cases h : x.target k <;> simp only [Function.comp_apply, h, inLocalWindow, decide_eq_true_eq]

/-- What a load lane finds at issue, with its mark: nothing where its place is outside the local window (R141, R143). -/
def State.laneFound (s : State) (w : Nat) : LaneTarget → Option (Nat × Bool)
  | .access ea => if inLocalWindow ea then some (s.localRead s.cur ea (w / 8)) else none
  | .out => some (0, false)
  | .poisoned => some (0, true)

theorem laneFound_access (s : State) (w : Nat) (ea : Word) : s.laneFound w (.access ea)
    = if 0xFFFFFFFFFFFF0000 ≤ ea.toNat then some (s.localRead s.cur ea (w / 8)) else none := by
  simp only [State.laneFound, inLocalWindow_iff]

theorem lanesAtIssue_eq (s : State) (w : Nat) (target : Nat → LaneTarget) (is : List Nat) :
    s.lanesAtIssue s.cur w (is.map (fun k => (k, target k)))
      = (is.filter (fun k => (s.laneFound w (target k)).isSome)).map
          (fun k => (k, (s.laneFound w (target k)).getD (0, false))) := by
  induction is with
  | nil => rfl
  | cons k is ih =>
    rw [State.lanesAtIssue] at ih ⊢
    rw [List.map_cons, List.filterMap_cons, List.filter_cons, ih]
    cases hk : target k with
    | out => simp [hk, State.laneFound]
    | poisoned => simp [hk, State.laneFound]
    | access ea => cases hea : inLocalWindow ea <;> simp [hk, State.laneFound, hea]

theorem OperandsRead.laneFound {u s : State} (h : OperandsRead u s) (w : Nat) (g : LaneTarget) :
    u.laneFound w g = s.laneFound w g := by
  cases g with
  | access ea => rw [State.laneFound, State.laneFound, h.localRead]
  | out => rfl
  | poisoned => rfl

/-! ### Issuing a load (R141, R170) -/

/-- The pieces of a load: the lanes found at issue and the marks of their registers over the old value. -/
def State.loadPieces (s : State) (v : VReg) (w : Nat) (ts : List (Nat × LaneTarget)) (poison : Bool) : List Piece :=
  let now := s.lanesAtIssue s.cur w ts
  lanePieces v w (applyLanes w (s.vec v).data (now.map (fun x => (x.1, x.2.1, 0)))).1 (ts.map (fun x => (x.1, 0, 0)))
    (fun j => poison || now.any (fun x => x.2.2 && x.1 * w / 64 == j))

/-- A load enters the vector queue with its pieces; the lanes outside the local window go as one request. -/
def State.loadIssued (s : State) (v : VReg) (w : Nat) (ts : List (Nat × LaneTarget)) (extra : List Piece) (poison : Bool)
    (oprs : List Word) : State :=
  let u := s.queued .load (s.loadPieces v w ts poison ++ extra) 0
  let ls := remoteLanes (w / 8) (fun _ => 0) ts
  if ls = [] then u else u.addReq (.vload v w) ls true .thread 0 (some s.fresh) oprs

theorem issueVecLoad_ok {s : State} (hroom : s.vectorRoom) (sw : Bool) (v : VReg) (w : Nat) (ts : List (Nat × LaneTarget))
    (extra : List Piece) (poison : Bool) (oprs : List Word) :
    issueVecLoad sw v w ts extra poison oprs s = .ok ((), (s.loadIssued v w ts extra poison oprs).moved sw) := by
  rw [issueVecLoad, act_get_bind]
  refine (act_bind_ok (enqueueVec_ok hroom _ _ _)).trans ?_
  rw [State.loadIssued]
  cases remoteLanes (w / 8) (fun _ => 0) ts <;> rfl

section
variable {u s : State} (h : OperandsRead u s) (v : VReg) (w : Nat) (ts : List (Nat × LaneTarget)) (extra : List Piece)
  (poison : Bool) (oprs : List Word) (sw : Bool)
include h

theorem loadIssued_owes : s.owes ((u.loadIssued v w ts extra poison oprs).moved sw)
    ⟨s.fresh, .load, u.loadPieces v w ts poison ++ extra, 0, false⟩ := by
  have hthr : (u.loadIssued v w ts extra poison oprs).thr
      = { u.thr with outst := u.thr.outst ++ [⟨u.fresh, .load, u.loadPieces v w ts poison ++ extra, 0, false⟩] } := by
    rw [State.loadIssued, apply_ite State.thr, addReq_thr, ite_self, queued_thr]
  refine ⟨?_, ?_⟩
  · rw [moved_outst, hthr, ← h.outst, ← h.fresh]
  · have hflow := h.flowEq
    rw [moved_pc, hthr, ← hflow.pc_eq]
    exact FlowEq.pc_eq (by constructor <;> rfl)

theorem loadIssued_vq : (((u.loadIssued v w ts extra poison oprs).moved sw).core s.cur).vq
    = (s.core s.cur).vq ++ [⟨s.ctx, s.fresh⟩] := by
  rw [vq_moved, State.loadIssued, apply_ite (fun t : State => (t.core s.cur).vq), vq_addReq, ite_self, ← h.cur, vq_queued,
    h.cur, h.vq, h.ctx, h.fresh]

theorem loadIssued_sends :
    let t := (u.loadIssued v w ts extra poison oprs).moved sw
    let ls := remoteLanes (w / 8) (fun _ => 0) ts
    if ls = [] then t.reqs = s.reqs ∧ t.mem = s.mem ∧ t.otag = s.otag else s.sends t (.vload v w) ls (some s.fresh) := by
  intro t ls
  have hsender := (sameSender_queued u .load (u.loadPieces v w ts poison ++ extra) 0).trans h.sameSender
  split
  next hnone =>
    obtain ⟨hmem, hotag, hreqs, -⟩ := hsender
    have hissued : u.loadIssued v w ts extra poison oprs = _ := if_pos hnone
    simp only [t, hissued]
    exact ⟨hreqs, hmem, hotag⟩
  next hsome =>
    have hissued : u.loadIssued v w ts extra poison oprs = _ := if_neg hsome
    simp only [t, hissued, ← h.fresh]
    exact hsender.sends ..

end

/-! ### What a load finds at issue -/

/-- The bits of a load's registers at issue: the old value with the lanes found (R130, R141). -/
def State.foundData (s : State) (v : VReg) (w : Nat) (is : List Nat) (target : Nat → LaneTarget) : Nat :=
  (applyLanes w (s.vec v).data ((is.filter (fun k => (s.laneFound w (target k)).isSome)).map
    (fun k => (k, ((s.laneFound w (target k)).getD (0, false)).1, 0)))).1

/-- The pieces of a load whose lanes `is` name `target`: the registers that hold those lanes, a mark where a lane found one. -/
theorem loadPieces_eq {u s : State} (h : OperandsRead u s) (v : VReg) (w : Nat) (is : List Nat) (target : Nat → LaneTarget)
    (poison : Bool) : u.loadPieces v w (is.map (fun k => (k, target k))) poison
      = resultPieces v w (s.foundData v w is target) is (fun j =>
          poison || is.any (fun k => decide (k * w / 64 = j) && ((s.laneFound w (target k)).getD (0, false)).2)) := by
  have hmark : ∀ j k, ((s.laneFound w (target k)).isSome && (((s.laneFound w (target k)).getD (0, false)).2 && k * w / 64 == j))
      = (decide (k * w / 64 = j) && ((s.laneFound w (target k)).getD (0, false)).2) := by
    intro j k
    cases s.laneFound w (target k) with
    | none => simp
    | some r => simp [Bool.and_comm, beq_eq_decide]
  rw [State.loadPieces, State.foundData, lanesAtIssue_eq, lanePieces_eq_resultPieces]
  simp only [h.laneFound, h.vec, List.map_map, List.any_map, List.any_filter, Function.comp_def, hmark, List.map_id']

/-- A lane of a load holds what it found at issue, and its old value where it found nothing or is inactive (R130, R141). -/
theorem laneOf_foundData (s : State) (v : VReg) (w : Nat) {is : List Nat} (hnd : is.Nodup) (target : Nat → LaneTarget)
    (k : Nat) : laneOf (s.foundData v w is target) w k
      = if k ∈ is then ((s.laneFound w (target k)).map (fun r => r.1 % 2 ^ w)).getD (laneOf (s.vec v).data w k)
        else laneOf (s.vec v).data w k := by
  rw [State.foundData, laneOf_applyLanes_map w _ (hnd.filter _) (fun k => (((s.laneFound w (target k)).getD (0, false)).1, 0))]
  cases h : s.laneFound w (target k) <;> simp [List.mem_filter, h]

/-! ### The returned mask (R143) -/

theorem laneTargets_lanes (s : State) (x : VectorAccess) : (s.laneTargets x).map Prod.fst = s.accessLanes x :=
  (List.map_map ..).trans (List.map_id _)

theorem maskPiece_nil {s : State} {i : Instr} {x : VectorAccess} (h : returnsMask i = false) : s.maskPiece i x [] := by
  rw [State.maskPiece, if_neg (by simp [h])]

/-- A gather or scatter returns a bit of m1 for each active lane, one where the lane made no access. -/
theorem maskPiece_returnedMask {s : State} {i : Instr} {x : VectorAccess} (h : returnsMask i = true) :
    s.maskPiece i x (returnedMask (s.laneTargets x) (s.thr.returnPoison x.k (s.laneTargets x))) := by
  have hnone : (s.laneTargets x).isEmpty = true ↔ s.accessLanes x = [] := by simp [State.laneTargets]
  rw [State.maskPiece, returnedMask]
  by_cases hlanes : s.accessLanes x = []
  · rw [if_neg (by simp [hlanes]), if_pos (hnone.2 hlanes)]
  · rw [if_pos ⟨h, hlanes⟩, if_neg (mt hnone.1 hlanes), laneTargets_lanes, Ctx.returnPoison]
    have hidle : ((s.laneTargets x).filter (fun y => y.2 == .out || y.2 == .poisoned)).map Prod.fst
        = (s.accessLanes x).filter (fun k => x.target k == .out || x.target k == .poisoned) := by
      rw [State.laneTargets, List.filter_map, List.map_map]
      exact List.map_id _
    rw [hidle, State.laneTargets, List.length_map]
    refine ⟨_, _, rfl, fun b hb => ⟨getLsbD_maskBits .m1 _ hb, ?_⟩⟩
    rw [getLsbD_maskBits_filter .m1 _ _ hb]
    simp only [Bool.or_eq_true, beq_iff_eq]
    rfl

/-! ### The operands of an access (R140, R143) -/

/-- Instruction i issues its access from a state with its operands read, with its returned mask among the pieces. -/
def State.issues (s : State) (i : Instr) (x : VectorAccess) (issue : List Piece → List Word → Act Unit) : Prop :=
  ∃ u ps oprs, OperandsRead u s ∧ s.maskPiece i x ps ∧ ∀ t, issue ps oprs u = .ok ((), t) → exec i s = .next t

/-- A destination is read for its lanes unless every lane is active (R130). -/
theorem mergeReads_eq (s : State) (ty : ElemType) (k : Bool) (v : VReg) :
    mergeReads s.thr ty k v = if (s.lanes (selK k) ty.lanes).length = ty.lanes then [] else [v] := by
  simp only [mergeReads, allActive_iff]

theorem mergePoison_eq {u s : State} (h : OperandsRead u s) (ty : ElemType) (k : Bool) (v : VReg) :
    u.mergePoison s.thr ty k v = s.vectorPoison (mergeReads s.thr ty k v) (selK k) := by
  rw [State.mergePoison, mergeReads, State.vectorPoison, h.readVec]
  cases s.thr.allActive (selK k) ty.lanes
  · simp [VVal.anyPoison, Bool.or_comm]
  · simp

/-- Aligned lanes raise no fault (R140). -/
theorem misalignedLane_none {size : Nat} {is : List Nat} {target : Nat → LaneTarget}
    (h : ∀ k ∈ is, ∀ ea, target k = .access ea → ea.toNat % size = 0) :
    misalignedLane size (is.map (fun k => (k, target k))) = none := by
  refine firstSome_none _ _ fun y hy => ?_
  obtain ⟨k, hk, rfl⟩ := List.mem_map.1 hy
  cases hea : target k with
  | access ea => simp [alignedTo, h k hk ea hea]
  | out => rfl
  | poisoned => rfl

theorem canUse_of_canUseVectors {s : State} {reads writes : List VReg} {srcs dsts : List Reg}
    (h : s.canUseVectors reads writes srcs dsts) : s.canUse srcs dsts := by
  obtain ⟨-, -, hfields, -⟩ := h
  exact hfields

theorem indexLanes_eq (s : State) (ty : ElemType) (k : Bool) (a0 a1 : Word) (ix : VVal) :
    indexLanes s.thr ty k a0 a1 ix
      = (s.lanes (selK k) ty.lanes).map (fun j => (j, indexTarget ty.width a0 a1 ix j)) := by
  simp only [indexLanes, toSigned_eq]
  rfl

/-- The operands of a gather or scatter are window registers, which keep their values when read (R143). -/
theorem indexOperands_ok {s : State} {reads dsts : List VReg} {xa : Reg} {vi : VReg} {ty : ElemType} {k : Bool}
    (hsize : xa.toNat + 2 ≤ s.thr.size) (hwindow : xa.toNat + 2 ≤ 0x80)
    (huse : s.canUseVectors (vi :: reads) dsts [xa, xa + 1] []) (h0 : (s.value xa).p = false)
    (h1 : (s.value (xa + 1)).p = false) (halign : (s.value xa).v.toNat % (ty.width / 8) = 0)
    (hpoison : (s.value (xa + 1)).v.getLsbD 63 = true → ∀ j ∈ s.lanes (selK k) ty.lanes,
      indexTarget ty.width (s.value xa).v (s.value (xa + 1)).v (s.vec vi) j ≠ .poisoned) (acc : AccKind) :
    indexOperands reads dsts xa vi ty k acc s = .ok (((s.lanes (selK k) ty.lanes).map (fun j =>
      (j, indexTarget ty.width (s.value xa).v (s.value (xa + 1)).v (s.vec vi) j)), (s.value xa).v, (s.value (xa + 1)).v),
      s) := by
  have hkeep : s.afterRead xa = s := afterRead_plain s (by omega)
  have hkeep' : s.afterRead (xa + 1) = s := afterRead_plain s (by bv_omega)
  obtain ⟨⟨n, hasA⟩, hasB⟩ := has_two (canUse_of_canUseVectors huse)
  rw [hkeep] at hasB
  have hread0 := readUse_ok hasA h0
  have hread1 := readUse_ok hasB h1
  rw [hkeep] at hread0
  rw [hkeep'] at hread1
  have halign : alignedTo (s.value xa).v (ty.width / 8) = true := beq_iff_eq.2 halign
  have hgroup : groupInWindow s.thr.size 2 xa = true := by simp [groupInWindow, hsize, hwindow]
  rw [indexOperands, act_get_bind, need_bind_true hgroup, act_bind_ok (vecOperands_ok huse), act_bind_ok hread0,
    act_bind_ok hread1, need_bind_true halign, act_get_bind]
  rw [indexLanes_eq, show s.readVec s.cur s.thr vi = s.vec vi from rfl]
  dsimp only
  cases hfind : ((s.lanes (selK k) ty.lanes).map (fun j =>
      (j, indexTarget ty.width (s.value xa).v (s.value (xa + 1)).v (s.vec vi) j))).find? (fun y => y.2 == .poisoned) with
  | none => rfl
  | some y =>
    obtain ⟨j, hj, rfl⟩ := List.mem_map.1 (List.mem_of_find?_eq_some hfind)
    have hmark : indexTarget ty.width (s.value xa).v (s.value (xa + 1)).v (s.vec vi) j = .poisoned :=
      by simpa using List.find?_some hfind
    have hpf : (!gatherPf (s.value (xa + 1)).v) = true := by
      rw [Bool.not_eq_true', ← Bool.not_eq_true]
      exact fun hpf => hpoison hpf j hj hmark
    exact need_bind_true hpf _ _ _

/-! ### Vector loads -/

/-- The registers that a load merges into: its own, unless every lane is active (R130). -/
def State.mergedInto (s : State) (x : VectorAccess) : List VReg :=
  if (s.accessLanes x).length = x.ty.lanes then [] else [x.v]

/-- Every vector load that can issue issues its lanes (R140, R143). -/
theorem vectorLoad_issues {s : State} {i : Instr} {x : VectorAccess} (hi : s.vectorLoad i = some x)
    (hrep : s.thr.repA = false) (huse : s.canUseVectors (x.reads ++ s.mergedInto x) [x.v] x.xs []) (hok : s.accessOk i x) :
    s.issues i x (fun ps oprs => issueVecLoad x.sw x.v x.ty.width (s.laneTargets x) ps
      (s.vectorPoison (s.mergedInto x) (selK x.k)) oprs) := by
  unfold State.vectorLoad at hi
  split at hi <;> cases hi
  next sw v xa off ty k =>
    obtain ⟨hclean, halign⟩ := hok
    have hread := operandsRead_afterRead s xa
    have hmerge := mergeReads_eq s ty k v
    refine ⟨s.afterRead xa, [], [(s.value xa).v], hread, maskPiece_nil rfl, fun t ht => instr_ok (meets_ext hrep) ?_⟩
    have halign : alignedTo (effective (s.value xa).v 64 (s.thr.imm off)) 64 = true := beq_iff_eq.2 halign
    rw [act_get_bind, act_bind_ok (vecOperands_ok (hmerge ▸ huse)),
      act_bind_ok (readUse_ok (has_one (canUse_of_canUseVectors huse)) hclean)]
    refine (need_bind_true halign _ _ _).trans ?_
    rw [act_get_bind, mergePoison_eq hread, hmerge]
    exact ht
  next sw v xa xb ty k =>
    obtain ⟨hpre, hcleanA, hcleanB, halign⟩ := hok
    have hread := (operandsRead_afterRead (s.afterRead xa) xb).trans (operandsRead_afterRead s xa)
    have hmerge := mergeReads_eq s ty k v
    obtain ⟨⟨n, hasA⟩, hasB⟩ := has_two (canUse_of_canUseVectors huse)
    refine ⟨(s.afterRead xa).afterRead xb, [], [(s.value xa).v, ((s.afterRead xa).value xb).v], hread, maskPiece_nil rfl,
      fun t ht => instr_ok (meets_of_plain ⟨hpre, hrep⟩ rfl rfl) ?_⟩
    rw [act_get_bind, act_bind_ok (vecOperands_ok (hmerge ▸ huse)), act_bind_ok (readUse_ok hasA hcleanA),
      act_bind_ok (readUse_ok hasB hcleanB)]
    have haligned : misalignedLane (ty.width / 8) (strideLanes s.thr ty k (s.value xa).v ((s.afterRead xa).value xb).v)
        = none := misalignedLane_none halign
    simp only [haligned]
    rw [act_get_bind, mergePoison_eq hread, hmerge]
    exact ht
  next sw v xa vi ty k =>
    obtain ⟨hpre, hsize, hwindow, hclean0, hclean1, halign, hpoison⟩ := hok
    have hmerge := mergeReads_eq s ty k v
    refine ⟨s, _, [(s.value xa).v, (s.value (xa + 1)).v], operandsRead_refl s, maskPiece_returnedMask rfl,
      fun t ht => instr_ok (meets_of_plain ⟨hpre, hrep⟩ rfl rfl) ?_⟩
    rw [act_get_bind, act_bind_ok (indexOperands_ok hsize hwindow (hmerge ▸ huse) hclean0 hclean1 halign hpoison .load)]
    dsimp only
    rw [act_get_bind, mergePoison_eq (operandsRead_refl s), hmerge]
    exact ht

/-- Settles O15: the lanes found at issue stand in the result, and one request goes for the others. -/
theorem vectorLoadResult : Obligations.VectorLoadResult := by
  intro s i x hi hrep hroom w is merge huse hok
  obtain ⟨u, ps, oprs, hread, hmask, hrun⟩ := vectorLoad_issues hi hrep huse hok
  have howes := loadIssued_owes hread x.v w (s.laneTargets x) ps (s.vectorPoison merge (selK x.k)) oprs x.sw
  rw [State.laneTargets, loadPieces_eq hread] at howes
  refine ⟨_, s.foundData x.v w is x.target, ps, hrun _ (issueVecLoad_ok (hread.vectorRoom hroom) ..), ⟨hmask, ?owes⟩,
    loadIssued_vq hread .., fun k _ => ?lane, ?request⟩
  case owes =>
    have hmark : ∀ k, ((s.laneFound w (x.target k)).getD (0, false)).2 = match x.target k with
        | .access ea => decide (0xFFFFFFFFFFFF0000 ≤ ea.toNat) && (s.localRead s.cur ea (w / 8)).2
        | .out => false
        | .poisoned => true := by
      intro k
      cases x.target k with
      | access ea =>
        rw [laneFound_access]
        split
        next hea => simp [hea]
        next hea => simp [hea]
      | out => rfl
      | poisoned => rfl
    simp only [hmark] at howes
    exact howes
  case lane =>
    refine (laneOf_foundData s x.v w (nodup_accessLanes s x) x.target k).trans (if_congr Iff.rfl ?_ rfl)
    cases x.target k with
    | access ea =>
      rw [laneFound_access]
      dsimp only
      split <;> rfl
    | out => exact Nat.zero_mod _
    | poisoned => exact Nat.zero_mod _
  case request =>
    rw [awayLanes_eq]
    exact loadIssued_sends hread ..

end Sys2Proof.Machine
end
section
/-! Vector stores and scatters (R141, R143, R242): the lanes in the local window at issue, and the request for the rest. -/

namespace Sys2Proof.Machine

/-! ### Lanes stored at issue (R141) -/

/-- A lane of a store of core n: its bytes, where they lie in the local window. -/
def State.storeLane (s : State) (n size v : Nat) : LaneTarget → State
  | .access ea => if inLocalWindow ea then s.localWrite n ea size v else s
  | _ => s

theorem SameMem.storeLane {u s : State} (h : SameMem u s) (n size v : Nat) (g : LaneTarget) :
    SameMem (u.storeLane n size v g) (s.storeLane n size v g) := by
  cases g with
  | access ea =>
    rw [State.storeLane, State.storeLane]
    split
    · exact h.localWrite n ea size v
    · exact h
  | out => exact h
  | poisoned => exact h

/-- A store of one lane stores what the lane's bytes are, whatever it notes for fetch (R43). -/
theorem storeLanes_cons (s : State) (size : Nat) (data : Nat → Nat) (k : Nat) (g : LaneTarget) (ts : List (Nat × LaneTarget)) :
    ∃ v, s.storeLanes size data ((k, g) :: ts) = v.storeLanes size data ts ∧ v.cur = s.cur
      ∧ SameMem v (s.storeLane s.cur size (data k) g) := by
  cases g with
  | access ea =>
    refine ⟨_, rfl, ?_, ?_⟩
    · split
      · exact (noteWrite_stored s ea size (data k)).cur
      · rfl
    · rw [State.storeLane]
      split
      · exact (sameMem_modThread s s.cur s.ctx _).localWrite s.cur ea size (data k)
      · exact SameMem.refl s
  | out => exact ⟨s, rfl, rfl, SameMem.refl s⟩
  | poisoned => exact ⟨s, rfl, rfl, SameMem.refl s⟩

/-- The lanes of a store leave the memory that storing their bytes one after the other leaves. -/
theorem storeLanes_sameMem (size : Nat) (data : Nat → Nat) (target : Nat → LaneTarget) (n : Nat) (is : List Nat) {u s : State}
    (h : SameMem u s) (hn : u.cur = n) :
    SameMem (u.storeLanes size data (is.map (fun k => (k, target k))))
      (is.foldl (fun v k => v.storeLane n size (data k) (target k)) s) := by
  induction is generalizing u s with
  | nil => exact h
  | cons k is ih =>
    obtain ⟨v, hv, hcur, hmem⟩ := storeLanes_cons u size data k (target k) (is.map (fun k => (k, target k)))
    rw [List.map_cons, List.foldl_cons, hv]
    exact ih (hmem.trans (hn ▸ h.storeLane u.cur size (data k) (target k))) (hcur.trans hn)

/-! ### Issuing a store (R141, R170) -/

/-- A store's place in the vector queue, with an outstanding result where a mask is returned (R143, R170). -/
def State.storeQueued (s : State) (extra : List Piece) : State :=
  if extra.isEmpty then s.modCore s.cur (fun c => { c with vq := c.vq ++ [⟨s.ctx, s.fresh⟩] }) else s.queued .other extra 0

/-- A store that has entered the vector queue, with its local lanes stored. -/
def State.storeLocal (s : State) (v : VReg) (w : Nat) (ts : List (Nat × LaneTarget)) (extra : List Piece) : State :=
  (s.storeQueued extra).storeLanes (w / 8) (fun k => laneOf (s.vec v).data w k) ts

/-- The lanes outside the local window go as one request. -/
def State.storeIssued (s : State) (v : VReg) (w : Nat) (ts : List (Nat × LaneTarget)) (extra : List Piece)
    (oprs : List Word) : State :=
  let u := s.storeLocal v w ts extra
  let ls := remoteLanes (w / 8) (fun k => laneOf (s.vec v).data w k) ts
  if ls = [] then { u with fresh := u.fresh + 1 }
  else u.addReq .store ls true .thread 0 (if extra = [] then none else some s.fresh) oprs

theorem queueStore_ok {s : State} (h : s.vectorRoom) :
    queueStore s = .ok ((), s.modCore s.cur (fun c => { c with vq := c.vq ++ [⟨s.ctx, s.fresh⟩] })) := by
  have hlt : decide ((s.core s.cur).vq.length < Config.vectorQueueEntries) = true := decide_eq_true h
  rw [queueStore, act_get_bind, need_bind_true hlt]
  rfl

/-- What follows a choice follows each of its cases. -/
theorem ite_bind {p : Prop} [Decidable p] (x y : Act Unit) (f : Unit → Act Unit) (s : State) :
    (if p then x >>= f else y >>= f) s = ((if p then x else y) >>= f) s := by
  split <;> rfl

theorem issueVecStore_ok {s : State} (hroom : s.vectorRoom) (sw : Bool) {v : VReg} {w : Nat} {ts : List (Nat × LaneTarget)}
    (hclean : ∀ y ∈ ts, ∀ ea, y.2 = .access ea → (s.vec v).lanePoison w y.1 = false) (extra : List Piece)
    (oprs : List Word) : issueVecStore sw v w ts extra oprs s = .ok ((), (s.storeIssued v w ts extra oprs).moved sw) := by
  have hpass : ts.all (fun l => l.2 == .out || l.2 == .poisoned || !(s.vec v).lanePoison w l.1) = true := by
    rw [List.all_eq_true]
    intro y hy
    cases hg : y.2 with
    | access ea => simp [hclean y hy ea hg]
    | out => rfl
    | poisoned => rfl
  have hqueue : (if extra.isEmpty then queueStore else enqueueVec .other extra 0) s = .ok ((), s.storeQueued extra) := by
    rw [State.storeQueued]
    split
    · exact queueStore_ok hroom
    · exact enqueueVec_ok hroom _ _ _
  rw [issueVecStore, act_get_bind]
  refine (need_bind_true hpass _ _ _).trans ?_
  refine (ite_bind ..).trans ((act_bind_ok hqueue).trans ?_)
  rw [State.storeIssued, State.storeLocal, State.vec]
  simp only [← List.isEmpty_iff (l := extra)]
  cases remoteLanes (w / 8) (fun k => laneOf (s.readVec s.cur s.thr v).data w k) ts <;> rfl

/-- A store in the vector queue: its place there, the outstanding result of a returned mask, and all else of the thread's place
and requests as before (R143, R170). -/
structure StoreQueued (u s : State) (extra : List Piece) : Prop where
  cur : u.cur = s.cur
  ctx : u.ctx = s.ctx
  reqs : u.reqs = s.reqs
  vq : (u.core s.cur).vq = (s.core s.cur).vq ++ [⟨s.ctx, s.fresh⟩]
  outst : u.thr.outst = if extra = [] then s.thr.outst else s.thr.outst ++ [⟨s.fresh, .other, extra, 0, false⟩]
  flow : FlowEq u.thr s.thr

theorem sameMem_pushVq (s : State) (n : Nat) (e : VqEntry) :
    SameMem (s.modCore n (fun c => { c with vq := c.vq ++ [e] })) s := by
  refine ⟨rfl, rfl, fun _ => rfl, fun m => ?_⟩
  rw [State.jobTag, core_modCore]
  split
  next hm => rw [hm]; rfl
  next => rfl

theorem sameMem_queued (s : State) (k : OutKind) (ps : List Piece) (f : Flags) : SameMem (s.queued k ps f) s := by
  obtain ⟨hmem, hotag, hcur, hjob⟩ :=
    sameMem_modThread s s.cur s.ctx (fun t => { t with outst := t.outst ++ [⟨s.fresh, k, ps, f, false⟩] })
  exact (sameMem_pushVq (s.addOutst s.cur s.ctx k ps f false) s.cur ⟨s.ctx, s.fresh⟩).trans ⟨hmem, hotag, hcur, hjob⟩

theorem sameMem_storeQueued (s : State) (extra : List Piece) : SameMem (s.storeQueued extra) s := by
  rw [State.storeQueued]
  split
  · exact sameMem_pushVq ..
  · exact sameMem_queued ..

theorem storeQueued_spec {u s : State} (h : OperandsRead u s) (extra : List Piece) :
    StoreQueued (u.storeQueued extra) s extra := by
  rw [State.storeQueued]
  cases extra with
  | nil =>
    rw [List.isEmpty_nil, if_pos rfl]
    have hthr := thr_modCore u u.cur (fun c => { c with vq := c.vq ++ [⟨u.ctx, u.fresh⟩] }) rfl
    refine ⟨h.cur, h.ctx, h.reqs, ?_, by rw [hthr, h.outst, if_pos rfl], hthr ▸ h.flowEq⟩
    rw [core_modCore, if_pos h.cur.symm, h.cur, h.ctx, h.fresh]
    exact congrArg (· ++ [⟨s.ctx, s.fresh⟩]) h.vq
  | cons p ps =>
    rw [List.isEmpty_cons, if_neg Bool.false_ne_true]
    refine ⟨h.cur, h.ctx, h.reqs, by rw [← h.cur, vq_queued, h.cur, h.vq, h.ctx, h.fresh], ?_, ?_⟩
    · rw [queued_thr, if_neg (List.cons_ne_nil p ps), h.outst, h.fresh]
    · obtain ⟨r, hthr⟩ := h.thr
      rw [queued_thr, hthr]
      constructor <;> rfl

/-- Storing the local lanes changes nothing of it. -/
theorem StoreQueued.localStored {t u s : State} {extra : List Piece} (h : StoreQueued u s extra) (hl : LocalStored t u) :
    StoreQueued t s extra := by
  obtain ⟨sh, hthr⟩ := hl.thr
  obtain ⟨c, hcore⟩ := hl.core
  rw [h.cur] at hcore
  refine ⟨hl.cur.trans h.cur, hl.ctx.trans h.ctx, hl.reqs.trans h.reqs, by rw [hcore, h.vq], by rw [hthr, h.outst], ?_⟩
  obtain ⟨pc, pre, repA, repFrm, repJ, repI, lpD, lc0, ls0, le0, lc1, ls1, le1⟩ := h.flow
  rw [hthr]
  exact ⟨pc, pre, repA, repFrm, repJ, repI, lpD, lc0, ls0, le0, lc1, ls1, le1⟩

section
variable (s : State) (v : VReg) (w : Nat) (ts : List (Nat × LaneTarget)) (extra : List Piece) (oprs : List Word)

theorem storeIssued_thr : (s.storeIssued v w ts extra oprs).thr = (s.storeLocal v w ts extra).thr := by
  rw [State.storeIssued]
  split
  · rfl
  · exact addReq_thr ..

theorem storeIssued_vq (n : Nat) :
    ((s.storeIssued v w ts extra oprs).core n).vq = ((s.storeLocal v w ts extra).core n).vq := by
  rw [State.storeIssued]
  split
  · rfl
  · exact vq_addReq ..

theorem storeIssued_stored : (s.storeIssued v w ts extra oprs).mem = (s.storeLocal v w ts extra).mem
    ∧ (s.storeIssued v w ts extra oprs).otag = (s.storeLocal v w ts extra).otag := by
  rw [State.storeIssued]
  split
  · exact ⟨rfl, rfl⟩
  · obtain ⟨r, p, c, heq, -⟩ := addReq_frame (s.storeLocal v w ts extra) .store
      (remoteLanes (w / 8) (fun k => laneOf (s.vec v).data w k) ts) true .thread 0
      (if extra = [] then none else some s.fresh) oprs
    rw [heq]
    exact ⟨rfl, rfl⟩

end

section
variable {u s : State} (h : OperandsRead u s) (v : VReg) (w : Nat) (is : List Nat) (target : Nat → LaneTarget)
  (extra : List Piece) (oprs : List Word) (sw : Bool)
include h

theorem storeLocal_queued (ts : List (Nat × LaneTarget)) : StoreQueued (u.storeLocal v w ts extra) s extra :=
  (storeQueued_spec h extra).localStored (storeLanes_stored ..)

theorem storeLocal_sameMem : SameMem (u.storeLocal v w (is.map (fun k => (k, target k))) extra)
    (is.foldl (fun t k => t.storeLane s.cur (w / 8) (laneOf (s.vec v).data w k) (target k)) s) := by
  rw [State.storeLocal, h.vec]
  exact storeLanes_sameMem _ _ _ _ _ ((sameMem_storeQueued u extra).trans h.same) (storeQueued_spec h extra).cur

theorem storeIssued_reqs (ts : List (Nat × LaneTarget)) :
    let t := u.storeIssued v w ts extra oprs
    let ls := remoteLanes (w / 8) (fun k => laneOf (s.vec v).data w k) ts
    if ls = [] then t.reqs = s.reqs
    else ∃ r, t.reqs = s.reqs ++ [r] ∧ r.core = s.cur ∧ r.ctx = s.ctx ∧ r.kind = .store ∧ r.lanes = ls
      ∧ r.out = (if extra = [] then none else some s.fresh) ∧ r.held = false := by
  intro t ls
  have hq := storeLocal_queued h v w extra ts
  rw [show t = u.storeIssued v w ts extra oprs from rfl, State.storeIssued, h.vec, h.fresh]
  split
  · exact hq.reqs
  · obtain ⟨r, p, c, heq, -, -, hcore, hctx, hkind, hlanes, hout, hheld, -⟩ :=
      addReq_frame (u.storeLocal v w ts extra) .store ls true .thread 0 (if extra = [] then none else some s.fresh) oprs
    refine ⟨r, ?_, hcore.trans hq.cur, hctx.trans hq.ctx, hkind, hlanes, hout, hheld⟩
    rw [heq]
    exact congrArg (· ++ [r]) hq.reqs

end

/-! ### Vector stores -/

/-- Every vector store that can issue issues its lanes (R140, R143). -/
theorem vectorStore_issues {s : State} {i : Instr} {x : VectorAccess} (hi : s.vectorStore i = some x)
    (hrep : s.thr.repA = false) (hrel : s.thr.releases = []) (huse : s.canUseVectors x.reads [] x.xs []) (hok : s.accessOk i x) :
    s.issues i x (fun ps oprs => issueVecStore x.sw x.v x.ty.width (s.laneTargets x) ps oprs) := by
  have hgate := operandsRead_gated s
  unfold State.vectorStore at hi
  split at hi <;> cases hi
  next sw v xa off ty k =>
    obtain ⟨hclean, halign⟩ := hok
    have halign : alignedTo (effective (s.value xa).v 64 (s.thr.imm off)) 64 = true := beq_iff_eq.2 halign
    have hreadA := readUse_ok (has_gated (has_one (canUse_of_canUseVectors huse))) (by rwa [gated_value])
    rw [gated_value] at hreadA
    refine ⟨s.gated.afterRead xa, [], [(s.value xa).v], (operandsRead_afterRead s.gated xa).trans hgate, maskPiece_nil rfl,
      fun t ht => instr_ok (meets_ext hrep) ?_⟩
    rw [act_bind_ok (vecOperands_ok huse), act_bind_ok (heldGate_ok hrel), act_get_bind, act_bind_ok hreadA, gated_thr]
    exact (need_bind_true halign _ _ _).trans ht
  next sw v xa xb ty k =>
    obtain ⟨hpre, hcleanA, hcleanB, halign⟩ := hok
    obtain ⟨⟨n, hasA⟩, hasB⟩ := has_two (canUse_of_canUseVectors huse)
    have hreadA := readUse_ok (has_gated hasA) (by rwa [gated_value])
    have hreadB := readUse_ok (has_gated hasB) (by rwa [gated_value])
    rw [gated_value] at hreadA hreadB
    rw [← gated_afterRead] at hreadB
    refine ⟨(s.gated.afterRead xa).afterRead xb, [], [(s.value xa).v, ((s.afterRead xa).value xb).v],
      ((operandsRead_afterRead _ xb).trans (operandsRead_afterRead s.gated xa)).trans hgate, maskPiece_nil rfl,
      fun t ht => instr_ok (meets_of_plain ⟨hpre, hrep⟩ rfl rfl) ?_⟩
    rw [act_bind_ok (vecOperands_ok huse), act_bind_ok (heldGate_ok hrel), act_get_bind, act_bind_ok hreadA,
      act_bind_ok hreadB, gated_thr]
    have haligned : misalignedLane (ty.width / 8)
        (strideLanes { s.thr with releases := [] } ty k (s.value xa).v ((s.afterRead xa).value xb).v) = none :=
      misalignedLane_none halign
    simp only [haligned]
    exact ht
  next sw v xa vi ty k =>
    obtain ⟨hpre, hsize, hwindow, hclean0, hclean1, halign, hpoison⟩ := hok
    refine ⟨s.gated, _, [(s.value xa).v, (s.value (xa + 1)).v], hgate, maskPiece_returnedMask rfl,
      fun t ht => instr_ok (meets_of_plain ⟨hpre, hrep⟩ rfl rfl) ?_⟩
    rw [act_bind_ok (indexOperands_ok hsize hwindow huse hclean0 hclean1 halign hpoison .store)]
    dsimp only
    rw [act_bind_ok (heldGate_ok hrel), act_get_bind, gated_thr]
    exact ht

/-- Settles O16: the local lanes are stored in order, and one request goes for the others. -/
theorem vectorStoreResult : Obligations.VectorStoreResult := by
  intro s i x hi hrep hroom hrel w is data huse hok hclean
  obtain ⟨u, ps, oprs, hread, hmask, hrun⟩ := vectorStore_issues hi hrep hrel huse hok
  have hdata : ∀ y ∈ s.laneTargets x, ∀ ea, y.2 = .access ea → (u.vec x.v).lanePoison w y.1 = false := by
    intro y hy ea hea
    obtain ⟨k, hk, rfl⟩ := List.mem_map.1 hy
    rw [hread.vec]
    exact hclean k hk ea hea
  have hqueued := storeLocal_queued hread x.v w ps (s.laneTargets x)
  obtain ⟨hmem, hotag⟩ := storeIssued_stored u x.v w (s.laneTargets x) ps oprs
  have hsame := storeLocal_sameMem hread x.v w is x.target ps
  refine ⟨_, ps, hrun _ (issueVecStore_ok (hread.vectorRoom hroom) x.sw hdata ps oprs), hmask, ?queue, ?outst, ?pc, ?stored,
    ?request⟩
  case queue => rw [vq_moved, storeIssued_vq, hqueued.vq]
  case outst =>
    rw [moved_outst, storeIssued_thr, hqueued.outst]
    split <;> rfl
  case pc =>
    rw [moved_pc, storeIssued_thr]
    exact hqueued.flow.pc_eq
  case stored =>
    have hlane : ∀ (t : State) (k : Nat), t.storeLane s.cur (w / 8) (data k) (x.target k) = match x.target k with
        | .access ea => if 0xFFFFFFFFFFFF0000 ≤ ea.toNat then t.localWrite s.cur ea (w / 8) (data k) else t
        | _ => t := by
      intro t k
      cases x.target k with
      | access ea => simp only [State.storeLane, inLocalWindow_iff]
      | out => rfl
      | poisoned => rfl
    simp only [data] at hlane
    simp only [hlane] at hsame
    exact ⟨hmem.trans hsame.mem, hotag.trans hsame.otag⟩
  case request =>
    rw [awayLanes_eq]
    exact storeIssued_reqs hread x.v w ps oprs (s.laneTargets x)

end Sys2Proof.Machine
end
section
/-! What instructions of threads and messages share (R96, R154, R174, R242): window registers read in the state that the other
operands leave, operands of a held instruction, and the window that a new thread starts with. -/

namespace Sys2Proof.Machine

theorem whenEnabled_true {b : Bool} (h : b = true) (s : State) : whenEnabled b s = .next s := if_pos h

/-- The core that was changed. -/
theorem core_modCore_self (s : State) (n : Nat) (f : Core → Core) : (s.modCore n f).core n = f (s.core n) :=
  State.core_setCore s n _

/-- Moving on changes contexts only. -/
theorem core_moved (s : State) (sw : Bool) (n : Nat) : ∃ c, (s.moved sw).core n = { s.core n with ctxs := c } :=
  core_modThread s s.cur s.ctx n _

/-! ### What reading operands leaves -/

theorem afterReads_cores (s : State) (rs : List Reg) : ∃ c, s.afterReads rs = { s with cores := c } := by
  induction rs generalizing s with
  | nil => exact ⟨_, rfl⟩
  | cons r rs ih =>
    obtain ⟨c, hread, -⟩ := afterRead_frame s r
    obtain ⟨c', hreads⟩ := ih (s.afterRead r)
    exact ⟨c', hreads.trans (by rw [hread])⟩

/-- Reading fields takes from queues of the core only (R96). -/
theorem afterReads_core (s : State) (rs : List Reg) (n : Nat) :
    ∃ f t, (s.afterReads rs).core n = { s.core n with fifos := f, strm := t } := by
  induction rs generalizing s with
  | nil => exact ⟨_, _, rfl⟩
  | cons r rs ih =>
    obtain ⟨f, t, hread⟩ := afterRead_core s r n
    obtain ⟨f', t', hreads⟩ := ih (s.afterRead r)
    exact ⟨f', t', hreads.trans (by rw [hread])⟩

theorem afterReads_thr (s : State) (rs : List Reg) : (s.afterReads rs).thr = s.thr := by
  induction rs generalizing s with
  | nil => rfl
  | cons r rs ih => exact (ih (s.afterRead r)).trans (afterRead_thr s r)

theorem operandsRead_afterReads (s : State) (rs : List Reg) : OperandsRead (s.afterReads rs) s := by
  induction rs generalizing s with
  | nil => exact operandsRead_refl s
  | cons r rs ih => exact (ih (s.afterRead r)).trans (operandsRead_afterRead s r)

theorem unjoined_afterRead (s : State) (r : Reg) (n x : Nat) : (s.afterRead r).unjoined n x = s.unjoined n x := by
  obtain ⟨f, t, hcore⟩ := afterRead_core s r n
  obtain ⟨c, hframe, -⟩ := afterRead_frame s r
  rw [State.unjoined, hcore, hframe]
  rfl

theorem thread_afterRead (s : State) (r : Reg) (n x : Nat) : (s.afterRead r).thread n x = s.thread n x := by
  obtain ⟨f, t, hcore⟩ := afterRead_core s r n
  rw [State.thread, hcore]
  rfl

/-! ### Reads of two operands (R96, R242) -/

/-- Two clean operands are read one after the other. -/
theorem readUse_two {s : State} {a b : Reg} (h : s.clean [a, b]) :
    readUse a s = .ok (s.operand [a, b] 0, s.afterRead a)
      ∧ readUse b (s.afterRead a) = .ok (s.operand [a, b] 1, s.afterReads [a, b]) := by
  obtain ⟨huse, hmarks⟩ := h
  obtain ⟨⟨k, hasA⟩, hasB⟩ := has_two huse
  exact ⟨readUse_ok hasA (hmarks 0 a rfl), readUse_ok hasB (hmarks 1 b rfl)⟩

/-- So they are by an instruction that no release holds. -/
theorem readUse_two_gated {s : State} {a b : Reg} (h : s.clean [a, b]) :
    readUse a s.gated = .ok (s.operand [a, b] 0, s.gated.afterRead a)
      ∧ readUse b (s.gated.afterRead a) = .ok (s.operand [a, b] 1, s.gated.afterReads [a, b]) := by
  obtain ⟨huse, hmarks⟩ := h
  obtain ⟨⟨k, hasA⟩, hasB⟩ := has_two huse
  have hreadA := readUse_ok (has_gated hasA) (by rw [gated_value]; exact hmarks 0 a rfl)
  have hreadB := readUse_ok (has_gated hasB) (by rw [gated_value]; exact hmarks 1 b rfl)
  rw [gated_value] at hreadA hreadB
  rw [← gated_afterRead] at hreadB
  exact ⟨hreadA, hreadB⟩

/-! ### Window registers -/

theorem inFifo_window {r : Reg} (h : r.toNat < 0x80) : inFifo r.toNat = none := by
  unfold inFifo
  split
  case h_6 => rfl
  all_goals omega

theorem streamOf_window {r : Reg} (h : r.toNat < 0x80) : streamOf r.toNat = none := if_neg (by omega)

/-- The registers of a group inside the window space are window registers. -/
theorem toNat_regsFrom {d : Reg} {n : Nat} (hd : d.toNat + n ≤ 0x80) {i : Nat} (hi : i < n) :
    (d + BitVec.ofNat 8 i).toNat = d.toNat + i := by
  rw [BitVec.toNat_add, BitVec.toNat_ofNat]
  omega

theorem window_of_mem_regsFrom {d : Reg} {n : Nat} (hd : n ≠ 0 → d.toNat + n ≤ 0x80) :
    ∀ r ∈ regsFrom d n, r.toNat < 0x80 := by
  intro r hr
  obtain ⟨i, hi, rfl⟩ := List.mem_map.1 hr
  have hi := List.mem_range.1 hi
  have hd := hd (by omega)
  rw [toNat_regsFrom hd hi]
  omega

/-- Reading window registers takes nothing away. -/
theorem foldl_afterRead_window {rs : List Reg} (h : ∀ r ∈ rs, r.toNat < 0x80) (s : State) :
    rs.foldl State.afterRead s = s := by
  induction rs with
  | nil => rfl
  | cons r rs ih =>
    have hr := h r (List.mem_cons_self ..)
    rw [List.foldl_cons, afterRead_plain s (by omega)]
    exact ih fun q hq => h q (List.mem_cons_of_mem _ hq)

theorem value_clean_of_window {s : State} {rs : List Reg} (hclean : s.clean rs) (hwin : ∀ r ∈ rs, r.toNat < 0x80) :
    ∀ r ∈ rs, (s.value r).p = false := by
  intro r hr
  obtain ⟨k, hk, rfl⟩ := List.mem_iff_getElem.1 hr
  have h := hclean.2 k rs[k] (List.getElem?_eq_getElem hk)
  rwa [foldl_afterRead_window fun q hq => hwin q (List.mem_of_mem_take hq)] at h

section
variable {u s : State} (h : OperandsRead u s)
include h

theorem OperandsRead.reg (i : Nat) : (u.core u.cur).reg i = (s.core s.cur).reg i := by
  obtain ⟨f, t, c, hcore⟩ := h.core
  rw [h.cur, hcore]
  rfl

theorem OperandsRead.size_eq : u.thr.size = s.thr.size := by
  obtain ⟨r, hthr⟩ := h.thr
  rw [hthr]

theorem OperandsRead.base_eq : u.thr.base = s.thr.base := by
  obtain ⟨r, hthr⟩ := h.thr
  rw [hthr]

theorem OperandsRead.value_window {r : Reg} (hr : r.toNat < 0x80) : u.value r = s.value r := by
  simp only [State.value, hr, if_true, h.reg, h.base_eq]

/-- Window registers that could be used when the instruction issued can be used after other operands are read. -/
theorem OperandsRead.canUse_window {rs : List Reg} (hwin : ∀ r ∈ rs, r.toNat < 0x80) (huse : s.canUse rs []) :
    u.canUse rs [] := by
  obtain ⟨hread, -, -, -, hpark, -⟩ := huse
  refine ⟨by rwa [h.size_eq], by simp, fun r hr => ?_, by simp, fun r hr => ?_, by simp⟩
  · simp only [State.srcFault, inFifo_window (hwin r hr), streamOf_window (hwin r hr)]
  · have hpark := hpark r hr
    simp only [State.srcPark, hwin r hr, if_true, h.base_eq, h.reg] at hpark ⊢
    exact hpark

/-- Clean window registers pass the checks and are read. -/
theorem OperandsRead.readWindow {rs : List Reg} (hwin : ∀ r ∈ rs, r.toNat < 0x80) (hclean : s.clean rs) :
    operands rs [] u = .ok ((), u) ∧ rs.mapM readUse u = .ok (rs.map (fun r => (s.value r).v), u) := by
  have huse := h.canUse_window hwin hclean.1
  refine ⟨operands_ok huse, ?_⟩
  have hone : ∀ r ∈ rs, readUse r u = .ok ((s.value r).v, u) := fun r hr => by
    have hr80 := hwin r hr
    have hhas : u.has r 1 := .inr ⟨huse.1 r hr, by simp [inFifo_window hr80], by simp [streamOf_window hr80]⟩
    have hread := readUse_ok hhas (by rw [h.value_window hr80]; exact value_clean_of_window hclean hwin r hr)
    rwa [h.value_window hr80, afterRead_plain u (by omega)] at hread
  clear huse hclean hwin
  induction rs with
  | nil => rfl
  | cons r rs ih =>
    rw [List.mapM_cons, act_bind_ok (hone r (List.mem_cons_self ..)),
      act_bind_ok (ih fun q hq => hone q (List.mem_cons_of_mem _ hq))]
    rfl

end

/-! ### The window of a new thread (R154, R174) -/

/-- Core c whose context x holds t, with the window cleared and its first registers filled. -/
def Core.startThread (c : Core) (x base size : Nat) (t : Ctx) (vs : List Word) : Core :=
  ({ c with rf := clearRegs c.rf base size }.setCtx x t).fillRegs base vs

theorem startThread_frame (c : Core) (x base size : Nat) (t : Ctx) (vs : List Word) :
    ∃ rf, c.startThread x base size t vs = { c.setCtx x t with rf := rf } := by
  obtain ⟨rf, hfill, -⟩ := fillRegs_frame vs ({ c with rf := clearRegs c.rf base size }.setCtx x t) base
  exact ⟨rf, hfill⟩

theorem ctx_startThread (c : Core) (x base size : Nat) (t : Ctx) (vs : List Word) (y : Nat) :
    (c.startThread x base size t vs).ctx y = if y = x then t else c.ctx y := by
  obtain ⟨rf, h⟩ := startThread_frame c x base size t vs
  rw [h]
  exact ctx_setCtx_if c x y t

/-- A register of the window is full, with its value or zero. -/
theorem reg_startThread (c : Core) (x base size : Nat) (t : Ctx) (vs : List Word) {i : Nat}
    (hi : i < size ∨ i < vs.length) :
    (c.startThread x base size t vs).reg (base + i) = ⟨vs.getD i 0, true, false, false⟩ := by
  obtain ⟨rf, hfill, hreg⟩ := fillRegs_frame vs ({ c with rf := clearRegs c.rf base size }.setCtx x t) base
  rw [Core.startThread, hfill]
  refine (hreg _).trans ?_
  by_cases hlen : i < vs.length
  · rw [if_pos ⟨Nat.le_add_right _ _, Nat.add_lt_add_left hlen _⟩, Nat.add_sub_cancel_left]
  · rw [if_neg (by omega), List.getD_eq_default _ _ (not_lt.1 hlen)]
    refine (clearRegs_get _ _ _ _).trans (if_pos ?_)
    omega

end Sys2Proof.Machine
end
section
/-! Ports and barges (R168, R173, R174, R310, R314, R315): words and error tokens enter a FIFO, and a barge waits at a core, is
held, becomes a thread and ends. -/

namespace Sys2Proof.Machine

/-! ### Held barges (R310) -/

/-- Doublewords written to the service area change memory, tags, poison marks and codes only. -/
theorem writeService_frame (ws : List Word) (a : Nat) (s : State) :
    ∃ m o p cd, writeService ws a s = { s with mem := m, otag := o, poison := p, code := cd } := by
  induction ws generalizing a s with
  | nil => exact ⟨_, _, _, _, rfl⟩
  | cons w ws ih =>
    obtain ⟨m, o, p, cd, hstore⟩ := storeSector_frame s (sectorOf a)
      ((s.storedSector (sectorOf a)).write (s.slotTag 0) (a % 16) 8 w.toNat)
    obtain ⟨m', o', p', cd', hrest⟩ := ih (a + 8) (s.hbmWrite (s.slotTag 0) a w)
    refine ⟨m', o', p', cd', hrest.trans ?_⟩
    rw [State.hbmWrite, hstore]

/-- A held barge stands in its slot, and one record of BARGE_NO_CONTEXT waits for the ring; no core changes (R310). -/
theorem holdBarge_held (s : State) (p c i : Nat) (g : Barge) :
    (∀ n, (s.holdBarge p c i g).core n = s.core n) ∧ Tab.find ((s.holdBarge p c i g).part p).holdBarges i = some g
      ∧ ∃ e, ((s.holdBarge p c i g).part p).recs = (s.part p).recs ++ [e] ∧ e.code = 0x0D ∧ e.core = c := by
  obtain ⟨m, o, q, cd, hframe⟩ := writeService_frame g.image (s.holdSlot p i) s
  rw [State.holdBarge, hframe]
  refine ⟨fun n => rfl, ?held, ?record, ?recs, ?code, ?core⟩
  case held =>
    refine (congrArg (fun v : Part => Tab.find v.holdBarges i) (State.part_setPart _ p _)).trans ?_
    refine (congrArg (fun v : Part => Tab.find v.holdBarges i) (State.part_setPart _ p _)).trans ?_
    exact Tab.find_set_self _ _ _
  case recs =>
    refine (congrArg Part.recs (State.part_setPart _ p _)).trans ?_
    exact congrArg (fun v : Part => v.recs ++ [_]) (State.part_setPart _ p _)
  case code | core => rfl

/-! ### A barge becomes a thread (R174) -/

/-- Core k whose context x takes barge g, with `rest` behind it. -/
def Core.bargeTaken (k : Core) (x : Nat) (g : Barge) (rest : List Barge) : Core :=
  { k with bargeq := rest }.startThread x (k.ctx x).base (k.ctx x).size (g.thread (k.ctx x) k.cycle) g.regs

theorem exec_bargeTake {s : State} {c x : Nat} {g : Barge} {rest : List Barge} (hq : (s.core c).bargeq = g :: rest)
    (hst : (s.thread c x).st = .empty) (hctx : (s.thread c x).bargeCtx = true) (hsealed : (s.core c).sealed = false) :
    exec (.bargeTake c x) s = .next (s.modCore c (fun k => k.bargeTaken x g rest)) := by
  have hst : ((s.core c).ctx x).st = .empty := hst
  have hctx : ((s.core c).ctx x).bargeCtx = true := hctx
  show execBargeTake c x s = _
  simp only [execBargeTake, hq]
  exact whenEnabled_true (by simp [hst, hctx, hsealed]) _

theorem bargeq_bargeTaken (k : Core) (x : Nat) (g : Barge) (rest : List Barge) : (k.bargeTaken x g rest).bargeq = rest := by
  obtain ⟨rf, h⟩ := startThread_frame { k with bargeq := rest } x (k.ctx x).base (k.ctx x).size
    (g.thread (k.ctx x) k.cycle) g.regs
  rw [Core.bargeTaken, h]
  rfl

theorem reg_bargeTaken (k : Core) (x : Nat) (g : Barge) (rest : List Barge) {i : Nat} {v : Word} (hv : g.regs[i]? = some v) :
    (k.bargeTaken x g rest).reg ((k.ctx x).base + i) = ⟨v, true, false, false⟩ := by
  obtain ⟨hi, -⟩ := List.getElem?_eq_some_iff.1 hv
  rw [Core.bargeTaken, reg_startThread _ _ _ _ _ _ (.inr hi), List.getD_eq_getElem?_getD, hv]
  rfl

/-! ### The events -/

/-- Settles O31, one clause after the other. -/
theorem portBargeEvents : Obligations.PortBargeEvents := by
  refine ⟨?word, ?token, fun s c g rest hwait => ⟨?arrival, ?hold⟩, ?take, ?ended⟩
  case word =>
    intro s c port w rest hflight hsealed
    refine ⟨s.modCore c (fun k => { k with
      flying := Tab.set k.flying (portKey port) rest, fifos := Tab.set k.fifos (portKey port) (k.fifo port ++ [w]) }),
      ?_, ?_, ?_⟩
    · show execPortWordArrival c port s = _
      simp only [execPortWordArrival, hflight]
      exact whenEnabled_true (by simp [hsealed]) _
    · rw [core_modCore_self]
      exact Tab.getD_set_self _ _ _ _
    · rw [core_modCore_self]
      exact Tab.getD_set_self _ _ _ _
  case token =>
    intro s c m port hpartner hsealed hflight hroom
    refine ⟨s.modCore c (fun k => { k with fifos := Tab.set k.fifos (portKey port) (k.fifo port ++ [⟨0, true⟩]) }), ?_, ?_⟩
    · show execErrorToken c port s = _
      simp only [execErrorToken, hpartner]
      exact whenEnabled_true (by simp [hsealed, hflight, hroom]) _
    · rw [core_modCore_self]
      exact Tab.getD_set_self _ _ _ _
  case arrival =>
    intro hroom
    refine ⟨s.modCore c (fun k => { k with bargeWait := rest, bargeq := k.bargeq ++ [g] }), ?_, ?_, ?_⟩
    · show execBargeArrival c s = _
      simp only [execBargeArrival, hwait]
      exact whenEnabled_true hroom _
    all_goals rw [core_modCore_self]
  case hold =>
    intro p i hpart hfree hrepart hno
    have henabled : ((!(s.core c).hasBarge || (s.core c).sealed) && !(s.core c).inRepart) = true := by
      rcases hno with h | h <;> simp [h, hrepart]
    obtain ⟨hcore, hheld, e, hrecs, hcode, he⟩ := holdBarge_held (s.modCore c (fun k => { k with bargeWait := rest })) p c i g
    refine ⟨_, e, ?_, ?_, hheld, hrecs, hcode, he⟩
    · show execBargeHold c s = _
      simp only [execBargeHold, hwait, hpart, hfree]
      exact whenEnabled_true henabled _
    · rw [hcore, core_modCore_self]
  case take =>
    intro s c x g rest hq hst hctx hsealed
    have hthread : ((s.core c).bargeTaken x g rest).ctx x = g.thread ((s.core c).ctx x) (s.core c).cycle :=
      (ctx_startThread _ x _ _ _ _ x).trans (if_pos rfl)
    refine ⟨_, exec_bargeTake hq hst hctx hsealed, ?_, ?_, ?_⟩
    · rw [core_modCore_self, bargeq_bargeTaken]
    · rw [State.thread, core_modCore_self, hthread]
      exact ⟨rfl, rfl, rfl, rfl, rfl, rfl, rfl, rfl, rfl, rfl, rfl⟩
    · intro i v hv
      rw [core_modCore_self]
      exact reg_bargeTaken _ x g rest hv
  case ended =>
    intro s c x hst hbarge hwake houtst hjoined
    refine ⟨s.endBarge c x, ?_, ?_, ?_, fun r hr => ?_⟩
    · exact whenEnabled_true (by simp [hst, hbarge, hwake, houtst, hjoined]) _
    · rw [thread_endBarge]
    · rw [thread_endBarge]
    · rw [reg_endBarge]
      exact if_pos ⟨Nat.le_add_right _ _, Nat.add_lt_add_left hr _⟩

end Sys2Proof.Machine
end
section
/-! Messages that reach a core (R157, R160 to R164, R300): a SEND fills a register, waits for the mailbox or is refused, and an
entry is taken when one is neither occupied nor reserved. -/

namespace Sys2Proof.Machine

/-! ### The mailbox (R163, R164) -/

/-- A message that a core receives after a change that keeps its mailbox. -/
theorem received_modCore (s : State) (c : Nat) (m : Mail) {f : Core → Core} (hmail : (f (s.core c)).mail = (s.core c).mail) :
    s.received c m (s.modCore c (fun k => (f k).receive m)) := by
  rw [State.received, State.thread, core_modCore_self]
  exact ⟨congrArg (· ++ [m]) hmail, congrArg Ctx.wake (Core.ctx_setCtx _ _ _)⟩

theorem mailRoom_true {k : Core} (h : k.mail.length + k.reserved < Config.mailboxEntries) : k.mailRoom = true :=
  decide_eq_true h

/-! ### An arriving SEND (R160) -/

/-- The state whose core c has taken the oldest message from its inbox. -/
def State.inboxTaken (s : State) (c : Nat) (rest : List Body) : State := s.modCore c (fun k => { k with inbox := rest })

theorem core_inboxTaken (s : State) (c : Nat) (rest : List Body) :
    (s.inboxTaken c rest).core c = { s.core c with inbox := rest } := core_modCore_self s c _

theorem waitRefuse_inboxTaken (s : State) (c : Nat) (rest : List Body) (n : Nat) :
    ((s.inboxTaken c rest).core n).waitRefuse = (s.core n).waitRefuse := by
  rw [State.inboxTaken, core_modCore]
  split
  next h => rw [h]
  next => rfl

theorem exec_sendArrival {s : State} {c : Nat} {m : SendMsg} {rest : List Body} (hinbox : (s.core c).inbox = .send m :: rest)
    (hready : m.core ≠ c ∨ m.notBefore ≤ (s.core c).cycle) :
    exec (.sendArrival c) s = .next ((s.inboxTaken c rest).takeSend c m) := by
  show execSendArrival c s = _
  simp only [execSendArrival, hinbox]
  exact whenEnabled_true (by rcases hready with h | h <;> simp [h]) _

theorem service_false {m : SendMsg} (h : m.priv = false ∨ m.desc.extractLsb' 60 4 = 0) : m.service = false := by
  rcases h with h | h <;> simp [SendMsg.service, sendCmd, h]

/-- A SEND that finds its context, and for a fill its register, is not refused (R160). -/
theorem refuses_inboxTaken {s : State} {c : Nat} {m : SendMsg} (h : s.sendReaches c m)
    (hreg : sendMb m.desc = false → sendReg m.desc < (s.thread c (sendCtx m.desc)).size)
    (rest : List Body) : (s.inboxTaken c rest).refuses c m = false := by
  obtain ⟨hpanel, -, -, hsealed, hpart, hctx, hst, hstopped, hended, hrepart⟩ := h
  have hadmits : (s.inboxTaken c rest).admits c m = true := by
    rw [State.admits, hpanel]
    exact beq_iff_eq.2 hpart
  have hreach : ((s.core c).ctx (sendCtx m.desc)).st.reachable = true := by
    rcases hst with h | h | h | h <;> exact (congrArg CtxState.reachable h).trans rfl
  have hrepart : ((s.core c).inRepart && sendCtx m.desc != 0) = false := by
    cases hr : (s.core c).inRepart with
    | false => rfl
    | true => exact bne_eq_false_iff_eq.2 (hrepart hr)
  have hreg : (!sendMb m.desc && decide (((s.core c).ctx (sendCtx m.desc)).size ≤ sendReg m.desc)) = false := by
    cases hmb : sendMb m.desc with
    | true => rfl
    | false => exact decide_eq_false (not_le.2 (hreg hmb))
  have hctx : decide ((s.core c).n ≤ sendCtx m.desc) = false := decide_eq_false (not_le.2 hctx)
  simp only [State.refuses, hadmits, core_inboxTaken]
  show ((s.core c).sealed || !true || decide ((s.core c).n ≤ sendCtx m.desc)
    || !((s.core c).ctx (sendCtx m.desc)).st.reachable || (s.core c).stopped || (s.core c).ended
    || ((s.core c).inRepart && sendCtx m.desc != 0)
    || (!sendMb m.desc && decide (((s.core c).ctx (sendCtx m.desc)).size ≤ sendReg m.desc))) = false
  rw [hsealed, hctx, hreach, hstopped, hended, hrepart, hreg]
  rfl

section
variable {s : State} {c : Nat} {m : SendMsg} (hservice : m.service = false)
include hservice

theorem takeSend_refused (h : s.refuses c m = true) :
    s.takeSend c m = s.refuse m.desc m.core m.ctx m.twin m.panel c (s.core c).sealed := by
  rw [State.takeSend, if_neg (by simp [hservice]), if_pos h]

/-- A SEND with MB = 1 that is not refused waits for the mailbox (R163). -/
theorem takeSend_message (h : s.refuses c m = false) (hmb : sendMb m.desc = true) :
    s.takeSend c m = s.modCore c (fun k => { k with waitSend := k.waitSend ++ [m.mail] }) := by
  rw [State.takeSend, if_neg (by simp [hservice]), if_neg (by simp [h]), if_pos hmb]

/-- One with MB = 0 fills its register (R157). -/
theorem takeSend_fill (h : s.refuses c m = false) (hmb : sendMb m.desc = false) :
    s.takeSend c m = s.modCore c (fun k => k.fillReg (sendCtx m.desc) (sendReg m.desc) m.val) := by
  rw [State.takeSend, if_neg (by simp [hservice]), if_neg (by simp [h]), if_neg (by simp [hmb])]

end

/-- A fill leaves its register full with the value, and the wake bit of its context set (R124, R157). -/
theorem fillReg_spec (k : Core) (x r : Nat) (v : Word) : (k.fillReg x r v).inbox = k.inbox
    ∧ (k.fillReg x r v).reg ((k.ctx x).base + r) = ⟨v, true, false, false⟩ ∧ ((k.fillReg x r v).ctx x).wake = true :=
  ⟨rfl, Core.reg_setReg _ _ _, congrArg Ctx.wake (Core.ctx_setCtx _ _ _)⟩

/-! ### Refusals (R160, R319) -/

theorem refuses_of_free {s : State} {c : Nat} {m : SendMsg} (h : (s.thread c (m.desc.extractLsb' 13 6).toNat).st = .free)
    (rest : List Body) : (s.inboxTaken c rest).refuses c m = true := by
  have hst : (((s.inboxTaken c rest).core c).ctx (sendCtx m.desc)).st = .free := by
    rw [core_inboxTaken]
    exact h
  simp [State.refuses, hst, CtxState.reachable]

theorem waitRefuse_refuseAt (s : State) (desc : Word) (core x : Nat) (sealed : Bool) (n : Nat) :
    ((s.refuseAt desc core x sealed).core n).waitRefuse
      = (s.core n).waitRefuse ++ (if n = core then [refusal desc x sealed] else []) := by
  rw [State.refuseAt, core_modCore]
  split
  next h => rw [h]
  next => rw [List.append_nil]

theorem inbox_refuseAt (s : State) (desc : Word) (core x : Nat) (sealed : Bool) (n : Nat) :
    ((s.refuseAt desc core x sealed).core n).inbox = (s.core n).inbox := by
  rw [State.refuseAt, core_modCore]
  split
  next h => rw [h]
  next => rfl

/-- A refusal goes to the sender, and a copy of it to the thread that sent the twin; no inbox changes (R160, R319). -/
theorem refuse_local (s : State) (desc : Word) (core x at_ : Nat) (twin : Option (Nat × Nat)) (sealed : Bool) :
    let t := s.refuse desc core x twin none at_ sealed
    (∀ n, (t.core n).inbox = (s.core n).inbox)
    ∧ (twin = none → (t.core core).waitRefuse = (s.core core).waitRefuse ++ [refusal desc x sealed])
    ∧ ∀ n y, twin = some (n, y) → n ≠ core →
      (t.core core).waitRefuse = (s.core core).waitRefuse ++ [refusal desc x sealed]
      ∧ (t.core n).waitRefuse = (s.core n).waitRefuse ++ [refusal desc y sealed] := by
  cases twin with
  | none =>
    refine ⟨fun n => inbox_refuseAt s desc core x sealed n, fun _ => ?_, nofun⟩
    exact (waitRefuse_refuseAt s desc core x sealed core).trans (by rw [if_pos rfl])
  | some p =>
    obtain ⟨n', y'⟩ := p
    refine ⟨fun n => (inbox_refuseAt _ desc n' y' sealed n).trans (inbox_refuseAt s desc core x sealed n), nofun, ?_⟩
    intro n y hp hne
    obtain ⟨rfl, rfl⟩ : n' = n ∧ y' = y := by simpa using hp
    constructor
    · refine (waitRefuse_refuseAt _ desc n' y' sealed core).trans ?_
      rw [waitRefuse_refuseAt, if_pos rfl, if_neg hne.symm, List.append_nil]
    · refine (waitRefuse_refuseAt _ desc n' y' sealed n').trans ?_
      rw [waitRefuse_refuseAt, if_pos rfl, if_neg hne, List.append_nil]

/-! ### The events -/

/-- Settles O30: a SEND is taken or refused as its context stands, and an entry goes to the mailbox that has room for it. -/
theorem messageEvents : Obligations.MessageEvents := by
  refine ⟨fun s c m rest hinbox hreach => ⟨?fill, ?message⟩, ?refused, fun s c m rest hroom => ⟨?refusal, ?notice⟩, ?mailbox⟩
  case fill =>
    intro hmb hreg
    have ⟨_, hservice, hready, _⟩ := hreach
    have hexec := exec_sendArrival hinbox hready
    rw [takeSend_fill (service_false hservice) (refuses_inboxTaken hreach (fun _ => hreg) rest) hmb] at hexec
    obtain ⟨hin, hval, hwake⟩ := fillReg_spec ((s.inboxTaken c rest).core c) (sendCtx m.desc) (sendReg m.desc) m.val
    rw [core_inboxTaken] at hin hval hwake
    refine ⟨_, hexec, ?_, ?_, ?_⟩
    · rw [core_modCore_self, core_inboxTaken, hin]
    · rw [core_modCore_self, core_inboxTaken]
      exact hval
    · rw [State.thread, core_modCore_self, core_inboxTaken]
      exact hwake
  case message =>
    intro hmb
    have ⟨_, hservice, hready, _⟩ := hreach
    have hmb : sendMb m.desc = true := hmb
    have hexec := exec_sendArrival hinbox hready
    rw [takeSend_message (service_false hservice) (refuses_inboxTaken hreach (by simp [hmb]) rest) hmb] at hexec
    refine ⟨_, hexec, ?_, ?_⟩
    · rw [core_modCore_self, core_inboxTaken]
    · rw [core_modCore_self, core_inboxTaken, SendMsg.mail, sendCtx, BitVec.ofNat_toNat, BitVec.setWidth_eq]
      rfl
  case refused =>
    intro s c m rest hinbox hpanel hservice hcore hfree
    have hexec := exec_sendArrival hinbox (.inl hcore)
    rw [takeSend_refused (service_false hservice) (refuses_of_free hfree rest), hpanel] at hexec
    obtain ⟨hin, hone, htwo⟩ := refuse_local (s.inboxTaken c rest) m.desc m.core m.ctx c m.twin
      ((s.inboxTaken c rest).core c).sealed
    simp only [waitRefuse_inboxTaken] at hone htwo
    exact ⟨_, _, hexec, (hin c).trans (by rw [core_inboxTaken]), rfl, rfl, hone, htwo⟩
  case refusal =>
    intro hwait
    refine ⟨s.modCore c (fun k => { k with waitRefuse := rest }.receive m), ?_, received_modCore s c m rfl, ?_⟩
    · show execRefusalDelivery c s = _
      simp only [execRefusalDelivery, hwait]
      exact whenEnabled_true (mailRoom_true hroom) _
    · rw [core_modCore_self]
      rfl
  case notice =>
    intro hwait
    refine ⟨s.modCore c (fun k => { k with waitNotice := rest }.receive m), ?_, received_modCore s c m rfl, ?_⟩
    · show execNoticeDelivery c s = _
      simp only [execNoticeDelivery, hwait]
      exact whenEnabled_true (mailRoom_true hroom) _
    · rw [core_modCore_self]
      rfl
  case mailbox =>
    intro s c m rest hroom hwait
    refine ⟨s.modCore c (fun k => { k with waitSend := rest }.receive m), ?_, received_modCore s c m rfl, ?_⟩
    · show execMailboxMessageArrival c s = _
      simp only [execMailboxMessageArrival, hwait]
      exact whenEnabled_true (mailRoom_true hroom) _
    · rw [core_modCore_self]
      rfl

end Sys2Proof.Machine
end
section
/-! SPAWN, REAP, REPART and CLRF (R154 to R158): contexts that are made, freed and resized by context 0. -/

namespace Sys2Proof.Machine

/-! ### SPAWN (R154) -/

/-- The fields of a spawn descriptor that must be zero, as one mask. -/
theorem zeros_of_mask {a : Word} (h : a &&& 0xFC0000007E0000C0 = (0 : Word)) : (spawnDesc a).zeros = true := by
  have hbit : ∀ i, i < 64 → (0xFC0000007E0000C0 : Word).getLsbD i = true → a.getLsbD i = false := fun i _ hi => by
    have hand : (a &&& 0xFC0000007E0000C0).getLsbD i = (0 : Word).getLsbD i := by rw [h]
    rwa [BitVec.getLsbD_and, hi, Bool.and_true, BitVec.ofNat_eq_ofNat, BitVec.getLsbD_zero] at hand
  have hfield : ∀ b w, (∀ i, i < w → b + i < 64 ∧ (0xFC0000007E0000C0 : Word).getLsbD (b + i) = true) →
      a.extractLsb' b w = 0 := fun b w hw => by
    refine BitVec.eq_of_getLsbD_eq fun i hi => ?_
    obtain ⟨hlt, hmask⟩ := hw i hi
    simp [BitVec.getLsbD_extractLsb', hbit _ hlt hmask]
  simp only [spawnDesc, Bool.and_eq_true, beq_iff_eq]
  exact ⟨⟨hfield 58 6 (by decide), hfield 25 6 (by decide)⟩, hfield 6 2 (by decide)⟩

/-- A descriptor that fits passes the CONTEXT_STATE checks of SPAWN. -/
theorem spawnOk_of_fits {c : Core} {a : Word} (h : spawnFits c a) : c.spawnOk (spawnDesc a) = true := by
  obtain ⟨hmask, hx, hn, hfree, hargs, hfile, hwin, hbarge⟩ := h
  have hmeets : c.windowMeets (spawnDesc a).base (spawnDesc a).size = false := by
    rw [Core.windowMeets, List.any_eq_false]
    intro e he hmeet
    simp only [Bool.and_eq_true, decide_eq_true_eq] at hmeet
    obtain ⟨⟨hlive, hlow⟩, hhigh⟩ := hmeet
    rcases hwin e he hlive with h | h
    · exact absurd hlow (not_lt.2 h)
    · exact absurd hhigh (not_lt.2 h)
  have hbarge : (!((spawnDesc a).barge && ((spawnDesc a).size != 24 || (spawnDesc a).ctx == 1))) = true := by
    cases hb : (spawnDesc a).barge with
    | false => rfl
    | true =>
      obtain ⟨hsize, hone⟩ := hbarge hb
      have hsize : (spawnDesc a).size = 24 := hsize
      have hone : (spawnDesc a).ctx ≠ 1 := hone
      simp [hsize, hone]
  have hx : (spawnDesc a).ctx ≠ 0 := hx
  have hn : (spawnDesc a).ctx < c.n := hn
  have hfree : (c.ctx (spawnDesc a).ctx).st = .free := hfree
  have hargs : (spawnDesc a).args ≤ 8 := hargs
  have hfile : (spawnDesc a).base + (spawnDesc a).size ≤ Config.fileEntries := hfile
  simp only [Core.spawnOk, zeros_of_mask hmask, hmeets, hbarge, hfree, hn, hargs, hfile, bne_iff_ne.2 hx, decide_true,
    beq_self_eq_true, Bool.not_false, Bool.and_self]

/-- The names whose values SPAWN copies: none for a barge context (R154). -/
def spawnNames (p : SpawnDesc) (d : Reg) : List Reg := if p.barge then [] else regsFrom d p.args

/-- The state that SPAWN with descriptor p and place y leaves of s, with the values vs for the child. -/
def State.spawned (s : State) (p : SpawnDesc) (y : Word) (vs : List Word) : State :=
  s.modCore s.cur (fun c => c.startThread p.ctx p.base p.size (Machine.spawned p (c.ctx p.ctx) s.thr y c.cycle) vs)

theorem exec_spawn {s : State} {d a b : Reg} (hplain : s.plain) (hctx : s.ctx = 0) (hclean : s.clean [a, b])
    (hfits : spawnFits (s.core s.cur) (s.operand [a, b] 0))
    (hwin : (spawnDesc (s.operand [a, b] 0)).args ≠ 0 → d.toNat + (spawnDesc (s.operand [a, b] 0)).args ≤ s.thr.size
      ∧ d.toNat + (spawnDesc (s.operand [a, b] 0)).args ≤ 0x80)
    (hplace : (spawnDesc (s.operand [a, b] 0)).barge = false → (s.operand [a, b] 1).toNat % 4 = 0
      ∧ s.clean (regsFrom d (spawnDesc (s.operand [a, b] 0)).args)) (sw : Bool) :
    exec (.spawn sw d a b) s = .next (((s.afterReads [a, b]).spawned (spawnDesc (s.operand [a, b] 0)) (s.operand [a, b] 1)
      ((spawnNames (spawnDesc (s.operand [a, b] 0)) d).map (fun r => (s.value r).v))).moved sw) := by
  have hread := operandsRead_afterReads s [a, b]
  obtain ⟨hreadA, hreadB⟩ := readUse_two hclean
  generalize hp : spawnDesc (s.operand [a, b] 0) = p at hwin hplace ⊢
  have hnames : (∀ r ∈ spawnNames p d, r.toNat < 0x80) ∧ s.clean (spawnNames p d) := by
    rw [spawnNames]
    split
    next => exact ⟨nofun, ⟨by simp, by simp, by simp, by simp, by simp, by simp⟩, nofun⟩
    next hb => exact ⟨window_of_mem_regsFrom fun h => (hwin h).2, (hplace (by simpa using hb)).2⟩
  obtain ⟨hchecked, hvalues⟩ := hread.readWindow hnames.1 hnames.2
  have hgroup : (p.args == 0 || groupInWindow (s.afterReads [a, b]).thr.size p.args d) = true := by
    by_cases h0 : p.args = 0
    · simp [h0]
    · rw [hread.size_eq]
      simp [groupInWindow, hwin h0]
  have hok : ((s.afterReads [a, b]).core (s.afterReads [a, b]).cur).spawnOk p = true := by
    obtain ⟨f, t, hcore⟩ := afterReads_core s [a, b] s.cur
    rw [hread.cur, hcore, ← hp]
    exact spawnOk_of_fits hfits
  have haligned : (p.barge || !misaligned4 (s.operand [a, b] 1)) = true := by
    cases hb : p.barge with
    | true => rfl
    | false => simp [misaligned4, (hplace hb).1]
  refine instr_ok ⟨.inr hplain.1, .inr hplain.2, nofun, fun x hx => by rw [hctx]; exact Option.some.inj hx⟩ ?_
  rw [act_bind_ok (operands_ok hclean.1), act_bind_ok hreadA, act_bind_ok hreadB]
  simp only [hp]
  rw [act_get_bind, need_bind_true hgroup, need_bind_true hok, need_bind_true haligned]
  refine (act_bind_ok hchecked).trans ((act_bind_ok hvalues).trans ?_)
  rfl

/-- What SPAWN leaves: the child in its context with its window, the thread that spawned it, and memory (R154). -/
theorem spawned_spec {s : State} {p : SpawnDesc} (hp : p.ctx ≠ s.ctx) (y : Word) (vs : List Word) (sw : Bool) :
    let t := (s.spawned p y vs).moved sw
    t.thread s.cur p.ctx = Machine.spawned p (s.thread s.cur p.ctx) s.thr y (s.core s.cur).cycle
      ∧ (∀ r, r < p.size → (t.core s.cur).reg (p.base + r) = ⟨vs.getD r 0, true, false, false⟩)
      ∧ s.passes t ∧ s.sameMemory t := by
  intro t
  have hcore : (s.spawned p y vs).core s.cur = _ := core_modCore_self s s.cur _
  have hthr : (s.spawned p y vs).thr = s.thr := by
    rw [State.thr_eq]
    refine (congrArg (fun c : Core => c.ctx s.ctx) hcore).trans ?_
    exact (ctx_startThread _ _ _ _ _ _ _).trans (if_neg (Ne.symm hp))
  refine ⟨?_, fun r hr => ?_, ⟨(moved_pc _ sw).trans (by rw [hthr]), (moved_outst _ sw).trans (by rw [hthr])⟩, rfl, rfl⟩
  · refine (thread_modThread _ _ _ _ _ _).trans ((if_neg fun h => hp h.2).trans ?_)
    rw [State.thread, hcore]
    exact (ctx_startThread _ _ _ _ _ _ _).trans (if_pos rfl)
  · obtain ⟨c, hmoved⟩ := core_moved (s.spawned p y vs) sw s.cur
    rw [hmoved, hcore]
    exact reg_startThread _ _ _ _ _ _ (.inl hr)

/-- The values that SPAWN copies, by the register of the window that takes each. -/
theorem getD_spawnNames (s : State) (p : SpawnDesc) (d : Reg) (r : Nat) :
    ((spawnNames p d).map (fun q => (s.value q).v)).getD r 0
      = if p.barge = false ∧ r < p.args then (s.value (d + BitVec.ofNat 8 r)).v else 0 := by
  rw [spawnNames]
  cases p.barge with
  | true => rfl
  | false =>
    rw [if_neg Bool.false_ne_true, regsFrom, List.map_map, List.getD_eq_getElem?_getD, List.getElem?_map]
    by_cases hr : r < p.args
    · rw [if_pos ⟨rfl, hr⟩, List.getElem?_range hr]
      rfl
    · rw [if_neg fun h => hr h.2, List.getElem?_eq_none (by simpa using hr)]
      rfl

/-! ### REAP (R155) -/

theorem reapResult_afterRead (s : State) (r : Reg) (n x : Nat) : (s.afterRead r).reapResult n x = s.reapResult n x := by
  obtain ⟨f, t, hcore⟩ := afterRead_core s r n
  have hreg : ∀ i, ((s.afterRead r).core n).reg i = (s.core n).reg i := fun i => by
    rw [hcore]
    rfl
  simp only [State.reapResult, thread_afterRead, unjoined_afterRead, hreg]

/-- An operand field takes a write alike after another context is changed. -/
theorem takes_modThread {s : State} {d : Reg} (h : s.takes d) {x : Nat} (hx : s.ctx ≠ x) (f : Ctx → Ctx) :
    (s.modThread s.cur x f).takes d := by
  obtain ⟨c, hcore⟩ := core_modThread s s.cur x s.cur f
  refine takes_congr h (congrArg Ctx.size ?_) (congrArg Core.strm hcore :)
  exact (thread_modThread s s.cur x s.cur s.ctx f).trans (if_neg fun h => hx h.2)

theorem exec_reap {s : State} {d a : Reg} {v : PVal} (hplain : s.plain) (hctx : s.ctx = 0) (huse : s.canUse [a] [d])
    (hclean : (s.value a).p = false) (hpos : 0 < (s.value a).v.toNat) (hlt : (s.value a).v.toNat < (s.core s.cur).n)
    (hmark : unmarked d = true → v.p = false) (hlive : (s.thread s.cur (s.value a).v.toNat).st ≠ .free)
    (hresult : s.reapResult s.cur (s.value a).v.toNat = some v) (sw : Bool) :
    exec (.reap sw d a) s = .next ((((s.afterRead a).modThread s.cur (s.value a).v.toNat
      (fun t => { Ctx.free with recNo := t.recNo })).afterWrite d v.v v.p).moved sw) := by
  have hneed : ((s.value a).v != 0 && decide ((s.value a).v.toNat < ((s.afterRead a).core s.cur).n)
      && (s.thread s.cur (s.value a).v.toNat).st != .free) = true := by
    obtain ⟨f, t, hcore⟩ := afterRead_core s a s.cur
    have hne : (s.value a).v ≠ 0 := fun h => by simp [h] at hpos
    rw [hcore, bne_iff_ne.2 hne, decide_eq_true hlt, bne_iff_ne.2 hlive]
    rfl
  have htakes : ((s.afterRead a).modThread (s.afterRead a).cur (s.value a).v.toNat
      (fun t => t.released .free)).takes d :=
    takes_modThread (takes_afterRead (canUse_takes huse (List.mem_singleton_self d)))
      (by rw [afterRead_ctx, hctx]; omega) _
  refine instr_ok ⟨.inr hplain.1, .inr hplain.2, nofun, fun x hx => by rw [hctx]; exact Option.some.inj hx⟩ ?_
  rw [act_bind_ok (operands_ok huse), act_bind_ok (readUse_ok (has_one huse) hclean), act_get_bind]
  simp only [afterRead_cur, thread_afterRead, reapResult_afterRead, hresult]
  rw [need_bind_true hneed, act_onState_bind]
  rw [afterRead_cur] at htakes ⊢
  exact act_bind_ok (setReg_ok htakes hmark)

/-! ### REPART (R156) -/

theorem repartN_eq (x : Word) (n : Nat) :
    repartN x n = if x.toNat = 1 then n / 2 else if x.toNat = 2 then n * 2 else n := by
  have hone : x = 1 ↔ x.toNat = 1 := BitVec.toNat_inj.symm
  have htwo : x = 2 ↔ x.toNat = 2 := BitVec.toNat_inj.symm
  simp only [repartN, hone, htwo]

theorem meets_repart {s : State} (hplain : s.plain) (hctx : s.ctx = 0) (hpriv : s.thr.priv = true) :
    s.meets { priv := true, ctx := some 0 } :=
  ⟨.inr hplain.1, .inr hplain.2, fun _ => hpriv, fun x hx => by rw [hctx]; exact Option.some.inj hx⟩

/-- REPART with a command that it accepts (R156). -/
theorem exec_repart {s : State} {d a : Reg} (hplain : s.plain) (hctx : s.ctx = 0) (hpriv : s.thr.priv = true)
    (huse : s.canUse [a] []) (hclean : (s.value a).p = false)
    (hcommand : (s.value a).v.toNat = 0 ∨ (s.value a).v.toNat = 1 ∧ (s.core s.cur).n ≠ 8
      ∨ (s.value a).v.toNat = 2 ∧ (s.core s.cur).n ≠ 64)
    (h80 : d.toNat < 0x80) (hsize : d.toNat < s.thr.size)
    (hwindow : d.toNat < windowOf (repartN (s.value a).v (s.core s.cur).n))
    (hquiet : (s.value a).v.toNat ≠ 0 → (s.core s.cur).quiescent = true) (sw : Bool) :
    exec (.repart sw d a) s = .next (((if (s.value a).v.toNat = 0 then s.afterRead a else
        (s.afterRead a).modCore s.cur (fun c => c.repartTo (repartN (s.value a).v (s.core s.cur).n))).afterWrite d
      (BitVec.ofNat 64 (repartN (s.value a).v (s.core s.cur).n)) false).moved sw) := by
  obtain ⟨f, t, hcore⟩ := afterRead_core s a s.cur
  have hn : ((s.afterRead a).core s.cur).n = (s.core s.cur).n := by rw [hcore]
  have hquiescent : ((s.afterRead a).core s.cur).quiescent = (s.core s.cur).quiescent := by
    rw [hcore]
    rfl
  have hzero : (s.value a).v = 0 ↔ (s.value a).v.toNat = 0 := BitVec.toNat_inj.symm
  have hone : ((s.value a).v == 1) = decide ((s.value a).v.toNat = 1) := by
    rw [Bool.eq_iff_iff, beq_iff_eq, decide_eq_true_eq]
    exact BitVec.toNat_inj.symm
  have htwo : ((s.value a).v == 2) = decide ((s.value a).v.toNat = 2) := by
    rw [Bool.eq_iff_iff, beq_iff_eq, decide_eq_true_eq]
    exact BitVec.toNat_inj.symm
  have haccepts : (!(decide (2 < (s.value a).v.toNat) || (s.value a).v == 1 && (s.core s.cur).n == 8
      || (s.value a).v == 2 && (s.core s.cur).n == 64)) = true := by
    rw [hone, htwo]
    rcases hcommand with h | ⟨h, hne⟩ | ⟨h, hne⟩ <;> simp [*]
  have hdest : (decide (d.toNat < 0x80)
      && decide (d.toNat < min s.thr.size (windowOf (repartN (s.value a).v (s.core s.cur).n)))) = true := by
    rw [decide_eq_true h80, decide_eq_true (Nat.lt_min.2 ⟨hsize, hwindow⟩)]
    rfl
  refine instr_ok (meets_repart hplain hctx hpriv) ?_
  rw [act_bind_ok (operands_ok huse), act_bind_ok (readUse_ok (has_one huse) hclean), act_get_bind]
  simp only [afterRead_cur, afterRead_thr, hn]
  rw [need_bind_true haccepts, need_bind_true hdest]
  have hwrite : ∀ (u : State) (v : Word), (setReg d v false >>= fun _ => retire sw) u = .ok ((), (u.afterWrite d v false).moved sw) := by
    intro u v
    refine act_bind_ok (s' := u.afterWrite d v false) (a := ()) ?_
    rw [setReg, act_get_bind]
    simp only [State.afterWrite, h80, if_true]
    rfl
  by_cases h0 : (s.value a).v.toNat = 0
  · rw [if_pos (hzero.2 h0), if_pos h0]
    exact hwrite _ _
  · rw [if_neg (mt hzero.1 h0), if_neg h0]
    rw [need_bind_true (hquiescent.trans (hquiet h0)), act_onState_bind, afterRead_cur]
    exact hwrite _ _

/-- What a change of the number of contexts leaves of a core: the window of context 0 is the first of the file, and what
lies beyond the old or the new size is clear (R156). -/
theorem repartTo_spec (c : Core) (n : Nat) :
    (c.repartTo n).n = n ∧ (c.repartTo n).ctx 0 = { c.ctx 0 with base := 0, size := windowOf n }
      ∧ ∀ r, (c.repartTo n).reg r = if min (c.ctx 0).size (windowOf n) ≤ r ∧ r < 128 then RegEntry.clear else c.reg r := by
  refine ⟨rfl, Core.ctx_setCtx _ _ _, fun r => (clearRegs_get _ _ _ _).trans ?_⟩
  have hle : windowOf n ≤ 128 := by
    unfold windowOf
    split
    next => exact le_rfl
    next => split <;> omega
  rw [Nat.add_sub_cancel' (le_trans (min_le_right _ _) hle)]
  rfl

theorem moved_window (s : State) (sw : Bool) : (s.moved sw).thr.base = s.thr.base ∧ (s.moved sw).thr.size = s.thr.size := by
  obtain ⟨x, p, hsettle⟩ := settle_cases s.thr.advance sw
  obtain ⟨pc, pre, a, f, j, i, lc0, lc1, d, n, hadvance⟩ := advance_frame s.thr
  rw [moved_thr, hsettle, hadvance]
  exact ⟨rfl, rfl⟩

theorem afterWrite_window {d : Reg} (h80 : d.toNat < 0x80) (s : State) (v : Word) (p : Bool) :
    s.afterWrite d v p = s.modCore s.cur (fun c => c.setReg (s.thr.base + d.toNat) ⟨v, true, false, p⟩) := if_pos h80

/-- What REPART leaves when it changes the number of contexts (R156). -/
theorem repart_changed {u : State} {d : Reg} (hctx : u.ctx = 0) (h80 : d.toNat < 0x80) (n : Nat) (v : Word) (sw : Bool) :
    let t := ((u.modCore u.cur (fun c => c.repartTo n)).afterWrite d v false).moved sw
    (t.core u.cur).n = n ∧ t.thr.base = 0 ∧ t.thr.size = windowOf n
      ∧ (t.core u.cur).reg d.toNat = ⟨v, true, false, false⟩
      ∧ (∀ r, r ≠ d.toNat → (t.core u.cur).reg r
        = if min u.thr.size (windowOf n) ≤ r ∧ r < 128 then RegEntry.clear else (u.core u.cur).reg r)
      ∧ u.passes t ∧ u.sameMemory t := by
  intro t
  let w := u.modCore u.cur (fun c => c.repartTo n)
  have hcore : w.core u.cur = (u.core u.cur).repartTo n := core_modCore_self _ _ _
  have hthr0 : u.thr = (u.core u.cur).ctx 0 := by rw [State.thr_eq, hctx]
  obtain ⟨hn, hctx0, hreg⟩ := repartTo_spec (u.core u.cur) n
  have hthr : w.thr = { u.thr with base := 0, size := windowOf n } := by
    rw [hthr0, ← hctx0, ← hcore, ← hctx]
    rfl
  let x := w.modCore u.cur (fun c => c.setReg d.toNat ⟨v, true, false, false⟩)
  have ht : t = x.moved sw := by
    show (w.afterWrite d v false).moved sw = _
    rw [afterWrite_window h80, hthr, Nat.zero_add]
    rfl
  have hxcore : x.core u.cur = ((u.core u.cur).repartTo n).setReg d.toNat ⟨v, true, false, false⟩ := by
    rw [core_modCore_self, hcore]
  have hxthr : x.thr = { u.thr with base := 0, size := windowOf n } := (thr_modCore _ _ _ rfl).trans hthr
  obtain ⟨hbase, hsize⟩ := moved_window x sw
  obtain ⟨c, hmoved⟩ := core_moved x sw u.cur
  rw [ht, hmoved, hxcore]
  refine ⟨hn, by rw [hbase, hxthr], by rw [hsize, hxthr], Core.reg_setReg _ _ _, fun r hr => ?_, ⟨?_, ?_⟩, rfl, rfl⟩
  · refine (Core.reg_setReg_ne _ _ hr).trans ?_
    rw [hreg, hthr0]
  · rw [moved_pc, hxthr]
    exact FlowEq.pc_eq (by constructor <;> rfl)
  · rw [moved_outst, hxthr]

/-! ### CLRF (R158) -/

theorem exec_clrf {s : State} {d : Reg} (hplain : s.plain) (hsize : d.toNat < s.thr.size) (h80 : d.toNat < 0x80) (sw : Bool) :
    exec (.clrf sw d) s = .next ((s.modCore s.cur (fun c => c.setReg (s.thr.base + d.toNat)
      { c.reg (s.thr.base + d.toNat) with armed := true, full := false })).moved sw) := by
  refine instr_ok (meets_of_plain hplain rfl rfl) ?_
  rw [act_get_bind, need_bind_true (by simp [inWindow, hsize, h80])]
  rfl

/-! ### The statement -/

/-- Settles O17: what each of the four instructions leaves. -/
theorem spawnReapResult : Obligations.SpawnReapResult := by
  refine ⟨?spawn, ?reap, fun s sw d a hplain hctx hpriv huse hclean => ?repart, ?clrf⟩
  case spawn =>
    intro s sw d a b hplain hctx hclean x y n c base size barge hfits hwin hplace
    have hread := operandsRead_afterReads s [a, b]
    have hne : (spawnDesc x).ctx ≠ (s.afterReads [a, b]).ctx := by
      obtain ⟨-, hx, -⟩ := hfits
      rw [hread.ctx, hctx]
      exact hx
    obtain ⟨hchild, hregs, ⟨hpc, houtst⟩, hmem, hotag⟩ := spawned_spec hne y
      ((spawnNames (spawnDesc x) d).map (fun r => (s.value r).v)) sw
    rw [hread.cur] at hchild hregs
    rw [afterReads_thr] at hchild hpc houtst
    refine ⟨_, exec_spawn hplain hctx hclean hfits hwin hplace sw, ?_⟩
    rw [show c = (spawnDesc x).ctx from rfl, hchild]
    refine ⟨rfl, rfl, rfl, rfl, rfl, ?rasp, rfl, rfl, rfl, fun hb => ?place, fun r hr => ?regs, ⟨hpc, houtst⟩,
      hmem.trans hread.same.mem, hotag.trans hread.same.otag⟩
    case rasp =>
      have hlt := (x.extractLsb' 31 13).isLt
      show (BitVec.ofNat 64 ((x.extractLsb' 31 13).toNat * 8)).toNat = _
      rw [BitVec.toNat_ofNat]
      omega
    case place =>
      have hb : (spawnDesc x).barge = false := hb
      simp [spawned, hb]
    case regs =>
      refine (hregs r hr).trans ?_
      rw [getD_spawnNames]
      rfl
  case reap =>
    intro s sw d a v hplain hctx huse hclean x k hpos hlt hmark hcases
    have hk : s.thread s.cur x = k := rfl
    have hresult : s.reapResult s.cur x = some v ∧ k.st ≠ .free := by
      rw [State.reapResult, hk]
      rcases hcases with ⟨hst, rfl⟩ | ⟨hst, rfl⟩ | ⟨hst, rfl⟩ | ⟨hst, hbarge, houtst, hjoined, rfl⟩
      · simp [hst]
      · simp [hst]
      · simp [hst]
      · simp [hst, hbarge, houtst, hjoined]
    exact exec_reap hplain hctx huse hclean hpos hlt hmark hresult.2 hresult.1 sw
  case repart =>
    intro x n n' w h80 hsize hw
    have hn' : repartN (s.value a).v n = n' := repartN_eq _ _
    have hwindow : d.toNat < windowOf (repartN (s.value a).v n) := by
      rw [hn']
      exact hw
    refine ⟨fun hx => ?same, fun hx hfree houtst => ?changed⟩
    case same =>
      have hexec := exec_repart hplain hctx hpriv huse hclean (.inl hx) h80 hsize hwindow (absurd hx) sw
      rwa [if_pos hx, hn', show n' = n by simp [n', hx]] at hexec
    case changed =>
      have hquiet : (s.core s.cur).quiescent = true := by
        have hnone : ((s.core s.cur).ctx 0).outst = [] := by rwa [State.thr_eq, hctx] at houtst
        simp only [Core.quiescent, hnone, List.isEmpty_nil, Bool.and_true, List.all_eq_true, Bool.or_eq_true, beq_iff_eq]
        exact hfree
      have hne : (s.value a).v.toNat ≠ 0 := by
        rcases hx with ⟨h, -⟩ | ⟨h, -⟩ <;> exact fun h0 => by simp [x, h0] at h
      have hexec := exec_repart hplain hctx hpriv huse hclean (.inr hx) h80 hsize hwindow (fun _ => hquiet) sw
      rw [if_neg hne, hn'] at hexec
      have hread := operandsRead_afterRead s a
      obtain ⟨hcount, hbase, hwin, hdest, hregs, ⟨hpc, hkept⟩, hmem, hotag⟩ :=
        repart_changed (u := s.afterRead a) (d := d) (hread.ctx.trans hctx) h80 n' (BitVec.ofNat 64 n') sw
      rw [afterRead_thr] at hregs hpc hkept
      rw [afterRead_cur] at hcount hbase hwin hdest hregs hpc hkept hmem hotag
      have hkeep : d.toNat < min s.thr.size w := Nat.lt_min.2 ⟨hsize, hw⟩
      refine ⟨_, hexec, hcount, hbase, hwin, hdest, fun r hr hlt => ?_, fun r hle hlt => ?_, ⟨hpc, hkept⟩,
        hmem.trans hread.same.mem, hotag.trans hread.same.otag⟩
      · refine (hregs r hr).trans ((if_neg fun h => absurd h.1 (not_le.2 hlt)).trans ?_)
        rw [← hread.reg, afterRead_cur]
      · exact (hregs r (by omega)).trans (if_pos ⟨hle, hlt⟩)
  case clrf =>
    intro s sw d hplain hsize h80
    exact exec_clrf hplain hsize h80 sw

end Sys2Proof.Machine
end
section
/-! Messages of a core on their streams (R318, R335): what posting one leaves, and one that may wait for its twin. -/

namespace Sys2Proof.Machine

/-! ### Streams -/

/-- Writing a stream leaves the others. -/
theorem stream_setStream_ne (s : State) {t : Stream} {a b : Station} {o : Bool} (h : t.is a b o = false) :
    (s.setStream t).stream a b o = s.stream a b o := by
  have hother : ∀ u : Stream, u.is t.src t.dst t.ordered = true → u.is a b o = false := fun u hu => by
    obtain ⟨hsrc, hdst, hord⟩ := is_fields hu
    rw [← h, Stream.is, Stream.is, hsrc, hdst, hord]
  have hself : t.is t.src t.dst t.ordered = true := by simp [Stream.is]
  unfold State.setStream State.stream
  split
  · have hmap : (fun u : Stream => u.is a b o) ∘ (fun u => if u.is t.src t.dst t.ordered then t else u)
        = fun u => u.is a b o := by
      funext u
      simp only [Function.comp_apply]
      split
      next hu => rw [hother t hself, hother u hu]
      next => rfl
    have hkeep : ∀ u : Stream, u.is a b o = true → (if u.is t.src t.dst t.ordered then t else u) = u := fun u hu =>
      if_neg fun hk => by rw [hother u hk] at hu; cases hu
    show ((s.streams.map _).find? _).getD _ = _
    rw [List.find?_map, hmap]
    cases hfind : s.streams.find? (fun u => u.is a b o) with
    | none => rfl
    | some u => exact hkeep u (List.find?_some (p := fun u : Stream => u.is a b o) hfind)
  · show ((s.streams ++ [t]).find? _).getD _ = _
    rw [List.find?_append, List.find?_cons_of_neg (by simp [h]), List.find?_nil, Option.or_none]

/-- What is unacknowledged on a stream stays so when a message is posted. -/
theorem unacked_post {s : State} {a b : Station} {o : Bool} {e : BitVec 16 × Body} (h : e ∈ (s.stream a b o).unacked)
    (src dst : Station) (m : Body) : e ∈ ((s.post src dst m).stream a b o).unacked := by
  by_cases hsame : (s.stream src dst true).is a b o = true
  · obtain ⟨hsrc, hdst, hord⟩ := is_fields (stream_is s src dst true)
    obtain ⟨ha, hb, ho⟩ := is_fields hsame
    obtain rfl : src = a := hsrc.symm.trans ha
    obtain rfl : dst = b := hdst.symm.trans hb
    obtain rfl : true = o := hord.symm.trans ho
    rw [post_stream]
    exact List.mem_append_left _ h
  · have hne : ∀ t : Stream, t.src = (s.stream src dst true).src → t.dst = (s.stream src dst true).dst →
        t.ordered = (s.stream src dst true).ordered → (s.setStream t).stream a b o = s.stream a b o := fun t h1 h2 h3 =>
      stream_setStream_ne s (by rw [Stream.is, h1, h2, h3]; exact Bool.eq_false_iff.2 hsame)
    unfold State.post State.postOn
    extract_lets t t' u
    have hstream : u.stream a b o = s.stream a b o := hne t' rfl rfl rfl
    rw [← hstream] at h
    split
    · exact h
    · exact h

/-! ### Messages that may wait for a twin (R318, R319) -/

/-- What posting from a core changes: streams, flights, and for a compared message the pairs and the core's count. -/
theorem postFrom_frame (s : State) (n : Nat) (dst : Station) (b : Body) (outside : Bool) (hash : Word) :
    ∃ cs st fl ps, s.postFrom n dst b outside hash = { s with cores := cs, streams := st, flights := fl, pairs := ps }
      ∧ ∀ k, ∃ p, (s.postFrom n dst b outside hash).core k = { s.core k with pairNo := p } := by
  unfold State.postFrom
  split
  · obtain ⟨cs, hbump, hcore⟩ := bumpPair_frame s n
    exact ⟨cs, _, _, _, by rw [hbump], hcore⟩
  · obtain ⟨st, fl, hpost⟩ := post_frame s (.core n) dst b
    exact ⟨_, st, fl, _, hpost, fun k => ⟨_, by rw [hpost]; rfl⟩⟩

theorem postFrom_thr (s : State) (n : Nat) (dst : Station) (b : Body) (outside : Bool) (hash : Word) :
    (s.postFrom n dst b outside hash).thr = s.thr := by
  obtain ⟨cs, st, fl, ps, hframe, hcore⟩ := postFrom_frame s n dst b outside hash
  obtain ⟨p, hp⟩ := hcore s.cur
  have hcur : (s.postFrom n dst b outside hash).cur = s.cur := by rw [hframe]
  have hctx : (s.postFrom n dst b outside hash).ctx = s.ctx := by rw [hframe]
  rw [State.thr_eq, hcur, hctx, hp]
  rfl

/-- A compared message waits for its twin, with the count of its core (R318, R319). -/
theorem postFrom_paired {s : State} {n k : Nat} (h : s.nextPair n = some k) (dst : Station) (b : Body) (hash : Word) :
    ∃ p : PairMsg, (s.postFrom n dst b true hash).pairs = s.pairs ++ [p] ∧ p.count = k ∧ p.twin = (s.core n).twin
      ∧ p.body = some (.core n, dst, b) := by
  unfold State.postFrom
  rw [h]
  exact ⟨_, rfl, rfl, rfl, rfl⟩

theorem postFrom_posts (s : State) (dst : Station) (b : Body) (outside : Bool) (hash : Word) :
    s.posts (s.postFrom s.cur dst b outside hash) dst b := by
  unfold State.postFrom
  split
  · exact .inl ⟨_, rfl, rfl⟩
  · refine .inr ?_
    rw [post_stream]
    exact List.mem_append_right _ (List.mem_singleton_self _)

/-- Reading operands posts nothing. -/
theorem posts_of_cores {u s t : State} (hcores : ∃ c, u = { s with cores := c }) {dst : Station} {b : Body}
    (h : u.posts t dst b) : s.posts t dst b := by
  obtain ⟨c, rfl⟩ := hcores
  exact h

/-! ### Scopes that a message waits at (R190, R194, R240) -/

section
variable {u : State} {idx : BitVec 4} {r : Release} (h : u.scoped idx r)
include h

/-- What is sampled at an index is the scope of what the thread waits for there. -/
theorem sampleAct_ok (oprs : List Word) : sampleAct idx oprs u = .ok (r.scope, u) := by
  rw [sampleAct, act_get_bind]
  rcases h with hwaited | ⟨hnone, hsample, -⟩
  · rw [hwaited]
    rfl
  · rw [hnone, hsample]
    rfl

theorem waitRelease_eq : u.waitRelease idx r.scope = r := by
  rw [State.waitRelease]
  rcases h with hwaited | ⟨hnone, -, hbefore⟩
  · rw [hwaited]
    rfl
  · rw [hnone, ← hbefore]
    rfl

theorem writesGate_ok (hdone : u.writesDone u.cur u.ctx r = true) : writesGate idx r.scope u = .ok ((), u.passGate r.scope) := by
  rw [writesGate, act_get_bind]
  simp only [waitRelease_eq h, hdone, if_true]
  rfl

end

end Sys2Proof.Machine
end
section
/-! MIGRATE, TRIGGER and BAR (R171, R172, R190, R194): messages that a thread sends to another core. -/

namespace Sys2Proof.Machine

/-! ### MIGRATE (R171, R172) -/

theorem storesAcked_afterRead (s : State) (r : Reg) (n x : Nat) : (s.afterRead r).storesAcked n x = s.storesAcked n x := by
  rw [State.storesAcked, thread_afterRead, afterRead_reqs]
  rfl

/-- The state in which the thread at hand of s has left in barge g, for core dst (R148, R172). -/
def State.departed (s : State) (g : Barge) (dst : Nat) : State :=
  let u := s.post (.core s.cur) (.core dst) (.barge g.flits g.region)
  if s.thr.bargeCtx then u.endBarge u.cur u.ctx else u.modThr (fun t => t.released .departed)

theorem departed_spec (s : State) (g : Barge) (dst : Nat) :
    s.posts (s.departed g dst) (.core dst) (.barge g.flits g.region)
      ∧ (s.departed g dst).thr.st = (if s.thr.bargeCtx then .empty else .departed) ∧ s.sameMemory (s.departed g dst) := by
  let u := s.post (.core s.cur) (.core dst) (.barge g.flits g.region)
  have hposted : ((s.stream (.core s.cur) (.core dst) true).nextSeq, Body.barge g.flits g.region)
      ∈ (u.stream (.core s.cur) (.core dst) true).unacked := by
    rw [post_stream]
    exact List.mem_append_right _ (List.mem_singleton_self _)
  obtain ⟨st, fl, hframe⟩ := post_frame s (.core s.cur) (.core dst) (.barge g.flits g.region)
  have hmem : u.mem = s.mem ∧ u.otag = s.otag := by
    show (s.post _ _ _).mem = _ ∧ (s.post _ _ _).otag = _
    rw [hframe]
    exact ⟨rfl, rfl⟩
  unfold State.departed
  split
  · exact ⟨.inr hposted, congrArg Ctx.st (thread_endBarge u u.cur u.ctx), hmem⟩
  · exact ⟨.inr hposted, congrArg Ctx.st (modThr_thr u _), hmem⟩

/-- MIGRATE of a thread that may leave, to a home that translates (R172). -/
theorem exec_migrate {s : State} {a : Reg} {home : Nat} (hplain : s.plain) (hclean : s.clean [a]) (hctx : 2 ≤ s.ctx)
    (hsize : 24 ≤ s.thr.size) (hloops : s.thr.lpD = 0) (hdepth : s.thr.rasd = 0) (hstore : s.thr.rasp.toNat = s.thr.rbase * 8)
    (hjoined : s.unjoined s.cur s.ctx = false) (houtst : s.thr.outst = []) (hacked : s.storesAcked s.cur s.ctx = true)
    (hrel : s.thr.releases = []) (hregs : s.clean (regsFrom 0 24)) (hmask0 : s.thr.poison0 = false)
    (hmask1 : s.thr.poison1 = false) (hhome : (s.afterRead a).migrateHome s.cur s.thr (s.value a).v = .ok home) (sw : Bool) :
    let dst := home * 8 + ((s.value a).v.extractLsb' 6 3).toNat
    exec (.migrate sw a) s = .next ((s.afterRead a).gated.departed
      ((s.afterRead a).packBarge dst (s.thr.opw + 4) ((regsFrom 0 24).map (fun r => (s.value r).v))) dst) := by
  intro dst
  obtain ⟨huse, hmarks⟩ := hclean
  have hread : OperandsRead (s.afterRead a).gated s := (operandsRead_gated _).trans (operandsRead_afterRead s a)
  obtain ⟨hchecked, hvalues⟩ := hread.readWindow (window_of_mem_regsFrom fun _ => by decide) hregs
  have hstate : (!(decide (s.ctx < 2) || decide (s.thr.size < 24) || decide (0 < s.thr.lpD) || decide (0 < s.thr.rasd)
      || decide (s.thr.rasp.toNat ≠ s.thr.rbase * 8) || s.unjoined s.cur s.ctx)) = true := by
    simp [show 1 < s.ctx from hctx, hsize, hloops, hdepth, hstore, hjoined]
  have hidle : (s.thr.outst.isEmpty && s.storesAcked s.cur s.ctx) = true := by simp [houtst, hacked]
  have hmasks : (!(s.thr.poison0 || s.thr.poison1)) = true := by simp [hmask0, hmask1]
  refine instr_ok (meets_of_plain hplain rfl rfl) ?_
  rw [act_bind_ok (operands_ok huse), act_bind_ok (readUse_ok (has_one huse) (hmarks 0 a rfl)), act_get_bind]
  simp only [afterRead_cur, afterRead_ctx, afterRead_thr, unjoined_afterRead, storesAcked_afterRead, hhome]
  rw [need_bind_true hstate, need_bind_true hidle, act_bind_ok (heldGate_ok (by rw [afterRead_thr, hrel])),
    act_bind_ok hchecked, need_bind_true hmasks]
  refine (act_bind_ok hvalues).trans ?_
  have hbarge : (s.afterRead a).gated.thr.bargeCtx = s.thr.bargeCtx := by rw [gated_thr, afterRead_thr]
  rw [State.departed, hbarge]
  rfl

/-! ### TRIGGER (R190) -/

/-- The state in which the thread at hand of u has sent its TRIGGER to the lock-keeper. -/
def State.triggered (u : State) (x y : Word) (t : Ctx) : State :=
  u.postFrom u.cur (.core (u.keeperCore u.cur))
    (.trigger (y.extractLsb' 4 2).toNat x t.vahi u.cur u.ctx (u.core u.cur).root t.priv) true
    (Config.pairHash 5 [(u.physTarget u.cur (u.core u.cur).root t.vahi x .load t.priv, 8, 0xFF, y.toNat)])

theorem exec_trigger {s : State} {a b : Reg} {r : Release} (hplain : s.plain) (hrel : s.thr.releases = [])
    (hclean : s.clean [a, b]) (hdesc : (s.operand [a, b] 1).toNat < 64)
    (hkind : ((s.operand [a, b] 1).extractLsb' 4 2).toNat < 3)
    (halign : (s.operand [a, b] 0).toNat % (if ((s.operand [a, b] 1).extractLsb' 4 2).toNat = 2 then 64 else 128) = 0)
    (hscope : (s.gated.afterReads [a, b]).scoped ((s.operand [a, b] 1).extractLsb' 0 4) r)
    (hdone : (s.gated.afterReads [a, b]).writesDone (s.gated.afterReads [a, b]).cur (s.gated.afterReads [a, b]).ctx r = true)
    (sw : Bool) :
    exec (.trigger sw a b) s = .next ((((s.gated.afterReads [a, b]).passGate r.scope).triggered (s.operand [a, b] 0)
      (s.operand [a, b] 1) s.thr).moved sw) := by
  obtain ⟨hreadA, hreadB⟩ := readUse_two_gated hclean
  refine instr_ok (meets_of_plain hplain rfl rfl) ?_
  rw [act_bind_ok (operands_ok hclean.1), act_bind_ok (heldGate_ok hrel), act_get_bind, act_bind_ok hreadA,
    act_bind_ok hreadB, gated_thr]
  refine (need_bind_true (by rw [decide_eq_true hdesc, decide_eq_true hkind]; rfl) _ _ _).trans ?_
  refine (need_bind_true (beq_iff_eq.2 halign) _ _ _).trans ?_
  refine (act_bind_ok (sampleAct_ok hscope _)).trans ((act_bind_ok (writesGate_ok hscope hdone)).trans ?_)
  rfl

theorem triggered_thr (u : State) (x y : Word) (t : Ctx) : (u.triggered x y t).thr = u.thr := postFrom_thr _ _ _ _ _ _

theorem triggered_posts (u : State) (x y : Word) (t : Ctx) (sw : Bool) :
    u.posts ((u.triggered x y t).moved sw) (.core (u.keeperCore u.cur))
      (.trigger (y.extractLsb' 4 2).toNat x t.vahi u.cur u.ctx (u.core u.cur).root t.priv) :=
  postFrom_posts u _ _ _ _

/-! ### BAR (R194) -/

theorem barOk_of_fields {s : State} {y : Word} (hhigh : y.toNat < 2 ^ 32) (hzero : y.getLsbD 13 = false)
    (hmember : (y.extractLsb' 16 6).toNat ≤ (y.extractLsb' 22 6).toNat) (hhome : barHome y < Config.cores)
    {n : Nat} (hpart : s.partOfCore (barHome y) = s.partOfCore n) : s.barOk n y = true := by
  have htop : y.extractLsb' 32 32 = 0 := by
    refine BitVec.eq_of_toNat_eq ?_
    rw [BitVec.extractLsb'_toNat, Nat.shiftRight_eq_div_pow, Nat.div_eq_of_lt hhigh]
    rfl
  have hlt : barMember y < barMembers y := Nat.lt_succ_of_le hmember
  rw [State.barOk, htop, hzero, hpart, decide_eq_true hhome, decide_eq_true hlt, beq_self_eq_true, beq_self_eq_true]
  rfl

/-- The arrival of the thread at hand of u at a barrier, of a thread that issued as t. -/
def State.arrival (u : State) (x y : Word) (t : Ctx) : BarMsg :=
  { core := u.cur, ctx := u.ctx, a0 := x, a1 := y, vahi := t.vahi, root := (u.core u.cur).root, priv := t.priv,
    out := u.fresh, ipc := t.pc }

/-- The state in which the thread at hand of u has sent its arrival, and owes the result of its BAR. -/
def State.arrived (u : State) (d : Reg) (x y : Word) (t : Ctx) : State :=
  let home := u.twinTarget u.cur (barHome y)
  (u.addOutst u.cur u.ctx .bar [.reg d 0 false] 0 false).postFrom u.cur (.core home) (.bar (u.arrival x y t))
    (!u.sameCopy u.cur home) (Config.pairHash 6 [(home, 16, 2 ^ 16 - 1,
      u.physTarget u.cur (u.core u.cur).root t.vahi x .load t.priv + 2 ^ 64 * y.toNat)])

theorem arrived_thr (u : State) (d : Reg) (x y : Word) (t : Ctx) : (u.arrived d x y t).thr
    = { u.thr with outst := u.thr.outst ++ [⟨u.fresh, .bar, [.reg d 0 false], 0, false⟩] } :=
  (postFrom_thr _ _ _ _ _ _).trans (addOutst_thr u _ _ _ _)

theorem arrived_owes (u : State) (d : Reg) (x y : Word) (t : Ctx) (sw : Bool) :
    u.owes ((u.arrived d x y t).moved sw) ⟨u.fresh, .bar, [.reg d 0 false], 0, false⟩ := by
  refine ⟨?_, ?_⟩
  · rw [moved_outst, arrived_thr]
  · rw [moved_pc, arrived_thr]
    exact FlowEq.pc_eq (by constructor <;> rfl)

theorem arrived_posts (u : State) (d : Reg) (x y : Word) (t : Ctx) (sw : Bool) :
    u.posts ((u.arrived d x y t).moved sw) (.core (u.twinTarget u.cur (barHome y))) (.bar (u.arrival x y t)) :=
  postFrom_posts (u.addOutst u.cur u.ctx .bar [.reg d 0 false] 0 false) _ _ _ _

theorem exec_bar {s : State} {d a : Reg} {r : Release} (hplain : s.plain) (hrel : s.thr.releases = [])
    (hclean : s.clean [a, a + 1]) (hsize : a.toNat + 2 ≤ s.thr.size) (h80 : a.toNat + 2 ≤ 0x80)
    (hout : outWritable s.thr.size d = true) (hok : s.barOk s.cur (s.value (a + 1)).v = true)
    (halign : (s.value a).v.toNat % 64 = 0) (hscope : s.gated.scoped (barScope (s.value (a + 1)).v) r)
    (hdone : s.gated.writesDone s.cur s.ctx r = true) (sw : Bool) :
    exec (.bar sw d a) s = .next (((s.gated.passGate r.scope).arrived d (s.value a).v (s.value (a + 1)).v s.thr).moved sw) := by
  have hnext : (a + 1).toNat = a.toNat + 1 := toNat_regsFrom h80 (by omega : 1 < 2)
  obtain ⟨hreadA, hreadB⟩ := readUse_two_gated hclean
  have hvalue : s.operand [a, a + 1] 1 = (s.value (a + 1)).v := by
    show ((s.afterRead a).value (a + 1)).v = _
    rw [afterRead_plain s (by omega)]
  have hstate : s.gated.afterReads [a, a + 1] = s.gated :=
    foldl_afterRead_window (by simp only [List.mem_cons, List.not_mem_nil, or_false]; rintro r (rfl | rfl) <;> omega) _
  rw [hvalue, hstate] at hreadB
  refine instr_ok (meets_of_plain hplain rfl rfl) ?_
  rw [act_get_bind, need_bind_true (by simp [groupInWindow, hsize, h80]), need_bind_true hout,
    act_bind_ok (operands_ok hclean.1), act_bind_ok (heldGate_ok hrel), act_bind_ok hreadA, act_bind_ok hreadB, act_get_bind]
  refine (need_bind_true hok _ _ _).trans ((need_bind_true (beq_iff_eq.2 halign) _ _ _).trans ?_)
  refine (act_bind_ok (sampleAct_ok hscope _)).trans ((act_bind_ok (writesGate_ok hscope hdone)).trans ?_)
  rfl

/-! ### The statement -/

/-- Settles O19: each of the three posts its message; MIGRATE ends the thread, and the others go on. -/
theorem migrateTriggerBar : Obligations.MigrateTriggerBar := by
  refine ⟨?migrate, ?trigger, ?bar⟩
  case migrate =>
    intro s sw a home hplain hclean hctx hsize hloops hdepth hstore hjoined houtst hacked hrel hregs hmask0 hmask1 x hhome
    have hexec := exec_migrate hplain hclean hctx hsize hloops hdepth hstore hjoined houtst hacked hrel hregs hmask0 hmask1
      hhome sw
    rw [Nat.mul_comm home 8] at hexec
    have hread : OperandsRead (s.afterRead a).gated s := (operandsRead_gated _).trans (operandsRead_afterRead s a)
    obtain ⟨c, hframe, hthr⟩ := afterRead_frame s a
    let g := (s.afterRead a).packBarge (8 * home + (x.extractLsb' 6 3).toNat) (s.thr.opw + 4)
      ((regsFrom 0 24).map (fun r => (s.value r).v))
    obtain ⟨hposts, hst, hmem, hotag⟩ := departed_spec (s.afterRead a).gated g (8 * home + (x.extractLsb' 6 3).toNat)
    refine ⟨_, g, hexec, posts_of_cores ⟨_, congrArg State.gated hframe⟩ hposts, rfl, congrArg Ctx.pred hthr,
      congrArg Ctx.rm hthr, congrArg Ctx.flags hthr, congrArg Ctx.vahi hthr, afterRead_cur s a, afterRead_ctx s a, rfl, ?_,
      hmem.trans hread.same.mem, hotag.trans hread.same.otag⟩
    refine hst.trans ?_
    rw [gated_thr, hthr]
  case trigger =>
    intro s sw a b r hplain hrel hclean x y kind v hdesc hkind halign hscope hdone u
    refine ⟨_, exec_trigger hplain hrel hclean hdesc hkind halign hscope hdone sw, ⟨?_, ?_⟩, triggered_posts u x y s.thr sw⟩
    · rw [moved_pc, triggered_thr]
    · rw [moved_outst, triggered_thr]
  case bar =>
    intro s sw d a r hplain hrel hclean hsize h80 hout x y home hhigh hzero hmember hhome hpart halign hscope hdone u
    exact ⟨_, u.arrival x y s.thr,
      exec_bar hplain hrel hclean hsize h80 hout (barOk_of_fields hhigh hzero hmember hhome hpart) halign hscope hdone sw,
      arrived_owes u d x y s.thr sw, arrived_posts u d x y s.thr sw, rfl, rfl, rfl, rfl, rfl, rfl, rfl⟩

end Sys2Proof.Machine
end
section
/-! SEND, WAITM and RECVM (R159 to R166, R318): messages that leave a core, and the mailbox. -/

namespace Sys2Proof.Machine

/-! ### The send queue (R161, R335) -/

/-- Moving SENDs to their streams changes streams, flights and the queue. -/
theorem drainSends_frame (n : Nat) (l : List SendMsg) (s : State) :
    ∃ st fl q, drainSends n l s = ({ s with streams := st, flights := fl } : State).modCore n (fun c => { c with sendq := q }) := by
  induction l generalizing s with
  | nil => exact ⟨_, _, _, rfl⟩
  | cons m l ih =>
    rw [drainSends]
    split
    next dst _ =>
      split
      · obtain ⟨st, fl, hpost⟩ := post_frame s (.core n) dst (.send m)
        obtain ⟨st', fl', q, hrest⟩ := ih (s.post (.core n) dst (.send m))
        exact ⟨st', fl', q, hrest.trans (by rw [hpost])⟩
      · exact ⟨_, _, _, rfl⟩
    next => exact ⟨_, _, _, rfl⟩

theorem unacked_drainSends {n : Nat} {l : List SendMsg} {s : State} {a b : Station} {o : Bool} {e : BitVec 16 × Body}
    (h : e ∈ (s.stream a b o).unacked) : e ∈ ((drainSends n l s).stream a b o).unacked := by
  induction l generalizing s with
  | nil => exact h
  | cons m l ih =>
    rw [drainSends]
    split
    next dst _ =>
      split
      · exact ih (unacked_post h _ dst _)
      · exact h
    next => exact h

/-- Of a queue of SENDs as many leave, oldest first, as their streams take (R161). -/
theorem drainSends_spec (n : Nat) (l : List SendMsg) (s : State) : ∃ k,
    ((drainSends n l s).core n).sendq = l.drop k ∧ (∀ q ∈ l.take k, ∃ dst i, s.sendStation q.desc = some dst
      ∧ (i, Body.send q) ∈ ((drainSends n l s).stream (.core n) dst true).unacked)
    ∧ ∀ q, (l.drop k).head? = some q → ∀ dst, s.sendStation q.desc = some dst →
      ((drainSends n l s).stream (.core n) dst true).room = false := by
  induction l generalizing s with
  | nil => exact ⟨0, congrArg Core.sendq (core_modCore_self s n _), nofun, nofun⟩
  | cons m l ih =>
    cases hdst : s.sendStation m.desc with
    | none =>
      have hrun : drainSends n (m :: l) s = s.modCore n (fun c => { c with sendq := m :: l }) := by rw [drainSends, hdst]
      rw [hrun]
      refine ⟨0, congrArg Core.sendq (core_modCore_self s n _), nofun, fun q hq dst h => ?_⟩
      obtain rfl : m = q := Option.some.inj hq
      rw [hdst] at h
      cases h
    | some dst =>
      by_cases hroom : (s.stream (.core n) dst true).room = true
      · have hrun : drainSends n (m :: l) s = drainSends n l (s.post (.core n) dst (.send m)) := by
          rw [drainSends, hdst]
          exact if_pos hroom
        have hstation : ∀ d, (s.post (.core n) dst (.send m)).sendStation d = s.sendStation d := fun d => by
          obtain ⟨st, fl, h⟩ := post_frame s (.core n) dst (.send m)
          rw [h]
          exact sendStation_congr rfl rfl rfl d
        obtain ⟨k, hqueue, hposted, hstop⟩ := ih (s.post (.core n) dst (.send m))
        rw [hrun]
        refine ⟨k + 1, hqueue, fun q hq => ?_, fun q hq dst' h => hstop q hq dst' ((hstation _).trans h)⟩
        rcases List.mem_cons.1 hq with rfl | hq
        · refine ⟨dst, (s.stream (.core n) dst true).nextSeq, hdst, unacked_drainSends ?_⟩
          rw [post_stream]
          exact List.mem_append_right _ (List.mem_singleton_self _)
        · obtain ⟨dst', i, h, hmem⟩ := hposted q hq
          exact ⟨dst', i, (hstation _).symm.trans h, hmem⟩
      · have hrun : drainSends n (m :: l) s = s.modCore n (fun c => { c with sendq := m :: l }) := by
          rw [drainSends, hdst]
          exact if_neg hroom
        rw [hrun]
        refine ⟨0, congrArg Core.sendq (core_modCore_self s n _), nofun, fun q hq dst' h => ?_⟩
        obtain rfl : m = q := Option.some.inj hq
        obtain rfl : dst = dst' := Option.some.inj (hdst.symm.trans h)
        exact Bool.eq_false_iff.2 hroom

/-! ### A SEND (R159 to R161, R318) -/

/-- Whether a descriptor names another panel. -/
def State.sendsAway (s : State) (a : Word) : Bool := sendFab a && sendPanel a != s.panel

/-- The core that a SEND of the thread at hand goes to: in a second copy, its own (R318). -/
def State.sendTarget (s : State) (a : Word) : Nat :=
  if s.sendsAway a then sendCore a else s.twinTarget s.cur (sendCore a)

/-- The message that a SEND of the thread at hand makes. -/
def State.sendMessage (s : State) (a b : Word) : SendMsg :=
  { desc := (a &&& ~~~0x1FFF) ||| BitVec.ofNat 64 (s.sendTarget a), val := b, core := s.cur, ctx := s.ctx, priv := s.thr.priv,
    root := (s.core s.cur).root, vahi := s.thr.vahi, notBefore := (s.core s.cur).cycle + 4, panel := none, twin := none }

/-- Whether a SEND waits for its twin (R318). -/
def State.sendPaired (s : State) (a : Word) : Bool :=
  (s.nextPair s.cur).isSome && (s.sendsAway a || !s.sameCopy s.cur (s.sendTarget a))

section
variable {s : State} {a : Word}

theorem queueSend_refused (haway : s.sendsAway a = false) (h : Config.cores ≤ sendCore a) (b : Word) :
    s.queueSend a b = s.modCore s.cur (fun c => { c with waitRefuse := c.waitRefuse ++ [refusal a s.ctx false] }) :=
  if_pos (by rw [decide_eq_true h]; exact (Bool.and_true _).trans (congrArg not haway))

/-- A SEND that names a core is not refused at once. -/
theorem sendNamed (h : s.sendsAway a = true ∨ sendCore a < Config.cores) :
    ¬ (!s.sendsAway a && decide (Config.cores ≤ sendCore a)) = true := by
  rcases h with h | h <;> simp [h]

theorem queueSend_paired (h : s.sendsAway a = true ∨ sendCore a < Config.cores) (hpair : s.sendPaired a = true) (b : Word) :
    ∃ dst hash, s.queueSend a b = s.postFrom s.cur dst (.send (s.sendMessage a b)) true hash :=
  ⟨_, _, (if_neg (sendNamed h)).trans (if_pos hpair)⟩

theorem queueSend_queued (h : s.sendsAway a = true ∨ sendCore a < Config.cores) (hpair : s.sendPaired a = false) (b : Word) :
    s.queueSend a b = drainSends s.cur (s.sendq ++ [s.sendMessage a b]) s :=
  (if_neg (sendNamed h)).trans (if_neg (Bool.eq_false_iff.1 hpair))

/-- A SEND leaves the thread and memory as they are. -/
theorem queueSend_keeps (h : s.sendsAway a = true ∨ sendCore a < Config.cores) (b : Word) :
    (s.queueSend a b).thr = s.thr ∧ (s.queueSend a b).cur = s.cur ∧ s.sameMemory (s.queueSend a b) := by
  cases hpair : s.sendPaired a with
  | true =>
    obtain ⟨dst, hash, hrun⟩ := queueSend_paired h hpair b
    rw [hrun]
    obtain ⟨cs, st, fl, ps, hframe, -⟩ := postFrom_frame s s.cur dst (.send (s.sendMessage a b)) true hash
    refine ⟨postFrom_thr _ _ _ _ _ _, ?_⟩
    rw [hframe]
    exact ⟨rfl, rfl, rfl⟩
  | false =>
    obtain ⟨st, fl, q, hframe⟩ := drainSends_frame s.cur (s.sendq ++ [s.sendMessage a b]) s
    rw [queueSend_queued h hpair b, hframe]
    exact ⟨thr_modCore _ _ _ rfl, rfl, rfl, rfl⟩

end

theorem getLsbD_low13 (i : Fin 64) : (0x1FFF : Word).getLsbD i = decide (i.1 < 13) := by
  revert i
  decide

/-- A descriptor whose core number is put in again is as it was. -/
theorem desc_restored (a : Word) : (a &&& ~~~0x1FFF) ||| BitVec.ofNat 64 (sendCore a) = a := by
  refine BitVec.eq_of_getLsbD_eq fun i hi => ?_
  have hlow := getLsbD_low13 ⟨i, hi⟩
  rw [sendCore, BitVec.ofNat_toNat, BitVec.getLsbD_or, BitVec.getLsbD_and, BitVec.getLsbD_not, hlow, BitVec.getLsbD_setWidth,
    BitVec.getLsbD_extractLsb', decide_eq_true hi, Nat.zero_add]
  by_cases h : i < 13 <;> simp [h]

theorem twinTarget_of_not_twin {s : State} {n : Nat} (h : (s.core n).twin = false) (m : Nat) : s.twinTarget n m = m := by
  rw [State.twinTarget]
  split
  · rw [if_neg (by simp [h])]
  · rfl

/-! ### What reading operands leaves of a region (R318) -/

section
variable {u s : State} {n : Nat} (hregions : u.regions = s.regions)
  (hcore : ∃ f t c, u.core n = { s.core n with fifos := f, strm := t, ctxs := c })
include hregions hcore

theorem nextPair_operandsRead : u.nextPair n = s.nextPair n := by
  obtain ⟨f, t, c, hcore⟩ := hcore
  rw [State.nextPair, State.nextPair, State.regionOf, State.regionOf, hcore, hregions]

theorem twinTarget_operandsRead (m : Nat) : u.twinTarget n m = s.twinTarget n m := by
  obtain ⟨f, t, c, hcore⟩ := hcore
  rw [State.twinTarget, State.twinTarget, State.regionOf, State.regionOf, hcore, hregions]

theorem sameCopy_operandsRead (m : Nat) : u.sameCopy n m = s.sameCopy n m := by
  obtain ⟨f, t, c, hcore⟩ := hcore
  rw [State.sameCopy, State.sameCopy, State.regionOf, State.regionOf, hcore, hregions]

end

/-! ### The instruction SEND -/

theorem instr_forfeit {f : Form} {a : Act Unit} {s : State} (hf : s.meets f) (h : a s = .error .forfeit) :
    instr f a s = .next (s.modThr (fun t => { t with pre := [] })) := by
  rw [instr, finish, (act_bind_ok (formGate_ok hf)).trans h]

theorem operandsRead_gatedReads (s : State) (rs : List Reg) : OperandsRead (s.gated.afterReads rs) s :=
  (operandsRead_afterReads s.gated rs).trans (operandsRead_gated s)

theorem gatedReads_cores (s : State) (rs : List Reg) : ∃ c, s.gated.afterReads rs = { s with cores := c } := by
  obtain ⟨c, h⟩ := afterReads_cores s.gated rs
  exact ⟨c, h⟩

theorem sendq_gatedReads (s : State) (rs : List Reg) :
    ((s.gated.afterReads rs).core (s.gated.afterReads rs).cur).sendq = s.sendq := by
  have hread := operandsRead_gatedReads s rs
  obtain ⟨f, t, c, hcore⟩ := hread.core
  rw [hread.cur, hcore]
  rfl

section
variable {s : State} {a b : Reg} (hclean : s.clean [a, b]) (hrel : s.thr.releases = [])
include hclean hrel

/-- The operands of a held instruction that nothing holds. -/
theorem heldOperands_run (f : Word → Word → Act Unit) :
    (do operands [a, b] []; heldGate; let x ← readUse a; let y ← readUse b; f x y) s
      = f (s.operand [a, b] 0) (s.operand [a, b] 1) (s.gated.afterReads [a, b]) := by
  obtain ⟨hreadA, hreadB⟩ := readUse_two_gated hclean
  rw [act_bind_ok (operands_ok hclean.1), act_bind_ok (heldGate_ok hrel), act_bind_ok hreadA, act_bind_ok hreadB]

/-- A full send queue forfeits the slot (R161). -/
theorem exec_send_full (hplain : s.plain) (hfull : Config.sendQueueEntries ≤ s.sendq.length) (sw : Bool) :
    exec (.send sw a b) s = .next (s.modThr (fun t => { t with pre := [] })) := by
  refine instr_forfeit (meets_of_plain hplain rfl rfl) ((heldOperands_run hclean hrel _).trans ?_)
  rw [act_get_bind, sendq_gatedReads]
  exact need_bind_false (decide_eq_false (not_lt.2 hfull)) _ _ _

theorem exec_send (hplain : s.plain) (hroom : s.sendq.length < Config.sendQueueEntries) (sw : Bool) :
    exec (.send sw a b) s
      = .next (((s.gated.afterReads [a, b]).queueSend (s.operand [a, b] 0) (s.operand [a, b] 1)).moved sw) := by
  refine instr_ok (meets_of_plain hplain rfl rfl) ((heldOperands_run hclean hrel _).trans ?_)
  rw [act_get_bind, sendq_gatedReads]
  exact need_bind_true (decide_eq_true hroom) _ _ _

end

/-- The message that leaves once the operands are read is the thread's own (R159). -/
theorem ownSend_gatedReads (s : State) (rs : List Reg) (x y : Word) : s.ownSend x y ((s.gated.afterReads rs).sendMessage x y) := by
  have hread := operandsRead_gatedReads s rs
  obtain ⟨f, t, c, hcore⟩ := hread.core
  obtain ⟨r, hthr⟩ := hread.thr
  refine ⟨rfl, hread.cur, hread.ctx, by rw [State.sendMessage, hthr], by rw [State.sendMessage, hthr],
    by rw [State.sendMessage, hread.cur, hcore], fun htwin => ?_⟩
  have htarget : (s.gated.afterReads rs).sendTarget x = sendCore x := by
    rw [State.sendTarget, twinTarget_of_not_twin (by rw [hread.cur, hcore]; exact htwin), ite_self]
  exact (congrArg (fun n => (x &&& ~~~0x1FFF) ||| BitVec.ofNat 64 n) htarget).trans (desc_restored x)

/-! ### WAITM and RECVM (R165, R166) -/

theorem exec_waitm_ready {s : State} (hplain : s.plain) (h : (s.core s.cur).mailFor s.ctx = true) (sw : Bool) :
    exec (.waitm sw) s = .next (s.moved sw) := by
  refine instr_ok (meets_of_plain hplain rfl rfl) ?_
  rw [act_get_bind]
  exact need_bind_true h _ _ _

theorem exec_waitm_parks {s : State} (hplain : s.plain) (h : (s.core s.cur).mailFor s.ctx = false) (sw : Bool) :
    exec (.waitm sw) s = .next (s.parkedFor .mail) := by
  refine instr_park (meets_of_plain hplain rfl rfl) ?_
  rw [act_get_bind]
  exact need_bind_false h _ _ _

section
variable {α : Type} {p : α → Bool} {before : List α} (h : ∀ e ∈ before, p e = false)
include h

theorem find?_skip (after : List α) : (before ++ after).find? p = after.find? p := by
  rw [List.find?_append, List.find?_eq_none.2 fun e he => by simp [h e he], Option.none_or]

theorem removeFirst_skip (after : List α) : removeFirst p (before ++ after) = before ++ removeFirst p after := by
  induction before with
  | nil => rfl
  | cons e before ih =>
    rw [List.cons_append, removeFirst, if_neg (by simp [h e (List.mem_cons_self ..)]),
      ih fun q hq => h q (List.mem_cons_of_mem _ hq)]
    rfl

end

/-- RECVM takes what the first entry of the thread holds, or zeros (R166). -/
theorem exec_recvm {s : State} {d : Reg} {h p : Word} (hplain : s.plain) (hsize : d.toNat + 2 ≤ s.thr.size)
    (h80 : d.toNat + 2 ≤ 0x80)
    (hfirst : (s.core s.cur).mail.find? (fun m => m.ctx.toNat == s.ctx) = none ∧ h = 0 ∧ p = 0
      ∨ ∃ e, (s.core s.cur).mail.find? (fun m => m.ctx.toNat == s.ctx) = some e ∧ h = e.header ∧ p = e.payload) (sw : Bool) :
    exec (.recvm sw d) s = .next (((s.modCore s.cur (fun c =>
      { c with mail := removeFirst (fun m => m.ctx.toNat == s.ctx) c.mail })).addOutst s.cur s.ctx
        .recvm [.reg d h false, .reg (d + 1) p false] 0 true).moved sw) := by
  refine instr_ok (meets_of_plain hplain rfl rfl) ?_
  rw [act_get_bind]
  refine (need_bind_true (by simp [groupInWindow, hsize, h80]) _ _ _).trans ?_
  rcases hfirst with ⟨hnone, rfl, rfl⟩ | ⟨e, hsome, rfl, rfl⟩
  · simp only [hnone]
    rfl
  · simp only [hsome]
    rfl

/-- RECVM needs two window registers. -/
theorem exec_recvm_fault {s : State} {d : Reg} (hplain : s.plain) (h : s.thr.size < d.toNat + 2 ∨ 0x80 < d.toNat + 2)
    (sw : Bool) : exec (.recvm sw d) s = .next (s.faulted { code := 0x02 }) := by
  refine instr_fault (meets_of_plain hplain rfl rfl) ?_
  rw [act_get_bind]
  refine need_bind_false ?_ _ _ _
  rw [groupInWindow, ← Bool.decide_and]
  exact decide_eq_false (by omega)

/-! ### The statement -/

theorem sendsAway_gatedReads (s : State) (rs : List Reg) (x : Word) : (s.gated.afterReads rs).sendsAway x = s.sendsAway x := by
  obtain ⟨c, h⟩ := gatedReads_cores s rs
  rw [h]
  rfl

/-- Whether a SEND waits for its twin is known before its operands are read. -/
theorem sendPaired_gatedReads (s : State) (rs : List Reg) (x : Word) :
    (s.gated.afterReads rs).sendPaired x = s.sendPaired x := by
  have hread := operandsRead_gatedReads s rs
  obtain ⟨f, t, c, hcore⟩ := hread.core
  obtain ⟨cs, hcores⟩ := gatedReads_cores s rs
  have hregions : (s.gated.afterReads rs).regions = s.regions := by rw [hcores]
  simp only [State.sendPaired, State.sendTarget, sendsAway_gatedReads, hread.cur,
    nextPair_operandsRead hregions ⟨f, t, c, hcore⟩, twinTarget_operandsRead hregions ⟨f, t, c, hcore⟩,
    sameCopy_operandsRead hregions ⟨f, t, c, hcore⟩]

section
variable {s : State} {x : Word}

theorem sendPaired_false (h : s.nextPair s.cur = none
    ∨ s.sendsAway x = false ∧ s.sameCopy s.cur (s.twinTarget s.cur (sendCore x)) = true) : s.sendPaired x = false := by
  rw [State.sendPaired, State.sendTarget]
  rcases h with h | ⟨haway, hcopy⟩
  · rw [h]
    rfl
  · simp [haway, hcopy]

theorem sendPaired_true {k : Nat} (hpair : s.nextPair s.cur = some k)
    (h : s.sendsAway x = true ∨ s.sameCopy s.cur (s.twinTarget s.cur (sendCore x)) = false) : s.sendPaired x = true := by
  rw [State.sendPaired, State.sendTarget, hpair]
  cases haway : s.sendsAway x with
  | true => rfl
  | false => simpa [haway] using h

end

section
variable {s : State} {rs : List Reg} {x : Word} (hname : s.sendsAway x = true ∨ sendCore x < Config.cores)
include hname

/-- A SEND that a queue takes lets the thread go on. -/
theorem send_passes (y : Word) (sw : Bool) : s.passes (((s.gated.afterReads rs).queueSend x y).moved sw) := by
  have hread := operandsRead_gatedReads s rs
  obtain ⟨hthr, -, -⟩ := queueSend_keeps ((sendsAway_gatedReads s rs x).symm ▸ hname) y
  refine ⟨?_, ?_⟩
  · rw [moved_pc, hthr]
    exact hread.flowEq.pc_eq
  · rw [moved_outst, hthr, hread.outst]

theorem send_sameMemory (y : Word) (sw : Bool) : s.sameMemory (((s.gated.afterReads rs).queueSend x y).moved sw) := by
  have hread := operandsRead_gatedReads s rs
  obtain ⟨-, -, hmem, hotag⟩ := queueSend_keeps ((sendsAway_gatedReads s rs x).symm ▸ hname) y
  exact ⟨hmem.trans hread.same.mem, hotag.trans hread.same.otag⟩

/-- A SEND that waits for no twin goes behind those of its core, of which as many leave as their streams take (R161). -/
theorem send_queued (hpair : s.sendPaired x = false) (y : Word) (sw : Bool) :
    let msg := (s.gated.afterReads rs).sendMessage x y
    let t := ((s.gated.afterReads rs).queueSend x y).moved sw
    ∃ k, t.sendq = (s.sendq ++ [msg]).drop k
      ∧ (∀ q ∈ (s.sendq ++ [msg]).take k, ∃ dst n, s.sendStation q.desc = some dst
        ∧ (n, .send q) ∈ (t.stream (.core s.cur) dst true).unacked)
      ∧ ∀ q, t.sendq.head? = some q → ∀ dst, s.sendStation q.desc = some dst →
        (t.stream (.core s.cur) dst true).room = false := by
  intro msg t
  have hread := operandsRead_gatedReads s rs
  have haway := (sendsAway_gatedReads s rs x).symm ▸ hname
  have hqueue : (s.gated.afterReads rs).sendq = s.sendq := sendq_gatedReads s rs
  have hstation : ∀ d, (s.gated.afterReads rs).sendStation d = s.sendStation d := fun d => by
    obtain ⟨c, h⟩ := gatedReads_cores s rs
    rw [h]
    rfl
  have hrun : t = (drainSends s.cur (s.sendq ++ [msg]) (s.gated.afterReads rs)).moved sw := by
    show State.moved _ sw = _
    rw [queueSend_queued haway ((sendPaired_gatedReads s rs x).trans hpair) y, hqueue, hread.cur]
  have hcur : t.cur = s.cur := ((queueSend_keeps haway y).2.1).trans hread.cur
  obtain ⟨k, hdrop, htake, hstop⟩ := drainSends_spec s.cur (s.sendq ++ [msg]) (s.gated.afterReads rs)
  obtain ⟨c, hcore⟩ := core_moved (drainSends s.cur (s.sendq ++ [msg]) (s.gated.afterReads rs)) sw s.cur
  have hsendq : t.sendq = (s.sendq ++ [msg]).drop k := by
    rw [State.sendq, hcur, hrun, hcore]
    exact hdrop
  simp only [hstation] at htake hstop
  rw [hsendq, hrun]
  exact ⟨k, rfl, htake, hstop⟩

/-- A SEND that leaves the copy of a PAIRED region waits for its twin (R318). -/
theorem send_paired {k : Nat} (hnext : s.nextPair s.cur = some k) (hpair : s.sendPaired x = true) (y : Word) (sw : Bool) :
    let t := ((s.gated.afterReads rs).queueSend x y).moved sw
    t.sendq = s.sendq ∧ ∃ p, t.pairs = s.pairs ++ [p] ∧ p.count = k ∧ p.twin = (s.core s.cur).twin
      ∧ ∃ dst, p.body = some (.core s.cur, dst, .send ((s.gated.afterReads rs).sendMessage x y)) := by
  intro t
  have hread := operandsRead_gatedReads s rs
  have haway := (sendsAway_gatedReads s rs x).symm ▸ hname
  obtain ⟨f, st, c, hcore⟩ := hread.core
  obtain ⟨cs, hcores⟩ := gatedReads_cores s rs
  have hnext' : (s.gated.afterReads rs).nextPair s.cur = some k :=
    (nextPair_operandsRead (by rw [hcores]) ⟨f, st, c, hcore⟩).trans hnext
  have hpairs : (s.gated.afterReads rs).pairs = s.pairs := by rw [hcores]
  obtain ⟨dst, hash, hrun⟩ := queueSend_paired haway ((sendPaired_gatedReads s rs x).trans hpair) y
  rw [hread.cur] at hrun
  obtain ⟨p, hadded, hcount, htwin, hbody⟩ := postFrom_paired hnext' dst (.send ((s.gated.afterReads rs).sendMessage x y)) hash
  refine ⟨?_, p, ?_, hcount, ?_, dst, hbody⟩
  · have hcur : t.cur = s.cur := ((queueSend_keeps haway y).2.1).trans hread.cur
    obtain ⟨-, -, -, -, -, hkept⟩ := postFrom_frame (s.gated.afterReads rs) s.cur dst
      (.send ((s.gated.afterReads rs).sendMessage x y)) true hash
    obtain ⟨no, hno⟩ := hkept s.cur
    obtain ⟨cm, hmoved⟩ := core_moved ((s.gated.afterReads rs).queueSend x y) sw s.cur
    rw [State.sendq, hcur, hmoved, hrun, hno, hcore]
    rfl
  · rw [← hpairs, ← hadded, ← hrun]
    rfl
  · rw [htwin, hcore]

end

/-- Settles O18: a SEND is refused, queued or paired; WAITM and RECVM follow the mailbox of the core. -/
theorem sendMailboxResult : Obligations.SendMailboxResult := by
  refine ⟨?send, ?waitm, ?recvm, fun s sw d hplain h => exec_recvm_fault hplain h sw⟩
  case send =>
    intro s sw a b hplain hrel hclean x y u away m
    have hread := operandsRead_gatedReads s [a, b]
    refine ⟨fun hfull => exec_send_full hclean hrel hplain hfull sw, fun hroom haway hm => ?_, fun hroom hname => ?_⟩
    · have haway' : u.sendsAway x = false := (sendsAway_gatedReads s [a, b] x).trans haway
      rw [exec_send hclean hrel hplain hroom sw, queueSend_refused haway' hm, hread.cur, hread.ctx, refusal, sendCore, sendCtx,
        BitVec.ofNat_toNat, BitVec.ofNat_toNat, BitVec.setWidth_eq, BitVec.setWidth_eq]
      rfl
    · exact ⟨_, u.sendMessage x y, exec_send hclean hrel hplain hroom sw, send_passes hname y sw, send_sameMemory hname y sw,
        ownSend_gatedReads s [a, b] x y, fun h => send_queued hname (sendPaired_false h) y sw,
        fun k hnext h => send_paired hname hnext (sendPaired_true hnext h) y sw⟩
  case waitm =>
    intro s sw hplain
    refine ⟨fun h => exec_waitm_ready hplain ?_ sw, fun h => exec_waitm_parks hplain ?_ sw⟩
    · obtain ⟨e, he, hctx⟩ := h
      exact List.any_eq_true.2 ⟨e, he, beq_iff_eq.2 hctx⟩
    · exact List.any_eq_false.2 fun e he => by simpa using h e he
  case recvm =>
    intro s sw d before after h p hplain hsize h80 hbefore hmail
    have hskip : ∀ e ∈ before, (fun m : Mail => m.ctx.toNat == s.ctx) e = false := fun e he => by simpa using hbefore e he
    have hrest : removeFirst (fun m => m.ctx.toNat == s.ctx) (s.core s.cur).mail = before ++ after := by
      rcases hmail with ⟨hall, rfl, -, -⟩ | ⟨e, hall, he, -, -⟩
      · simpa [hall, removeFirst] using removeFirst_skip hskip []
      · rw [hall, removeFirst_skip hskip, removeFirst, if_pos (beq_iff_eq.2 he)]
    have hfirst : (s.core s.cur).mail.find? (fun m => m.ctx.toNat == s.ctx) = none ∧ h = 0 ∧ p = 0
        ∨ ∃ e, (s.core s.cur).mail.find? (fun m => m.ctx.toNat == s.ctx) = some e ∧ h = e.header ∧ p = e.payload := by
      rcases hmail with ⟨hall, -, hh, hp⟩ | ⟨e, hall, he, hh, hp⟩
      · refine .inl ⟨?_, hh, hp⟩
        simpa [hall] using find?_skip hskip []
      · refine .inr ⟨e, ?_, hh, hp⟩
        exact hall ▸ (find?_skip hskip _).trans (List.find?_cons_of_pos (by simpa using he))
    have hcore : s.modCore s.cur (fun c => { c with mail := removeFirst (fun m => m.ctx.toNat == s.ctx) c.mail })
        = s.modCore s.cur (fun c => { c with mail := before ++ after }) := by
      rw [State.modCore, State.modCore, hrest]
    rw [← hcore]
    exact exec_recvm hplain hsize h80 hfirst sw

end Sys2Proof.Machine
end

section
/-! The completion window of a queue (R180, R185): LOW and DONE after a packet has completed. -/

namespace Sys2Proof.Machine

/-- LOW passes the packets that are done, up to the first that is not, and DONE follows it (R185). -/
theorem lowAfter_spec (n : Nat) (l d : BitVec 32) (h : ∃ j, j < n ∧ d.getLsbD j = false) :
    ∃ k, k < n ∧ (lowAfter n l d).1 = l + BitVec.ofNat 32 (k + 1) ∧ (∀ i, i < k → d.getLsbD i = true) ∧ d.getLsbD k = false
      ∧ ∀ i, (lowAfter n l d).2.getLsbD i = d.getLsbD (k + 1 + i) := by
  induction n generalizing l d with
  | zero => exact absurd h (by simp)
  | succ n ih =>
    obtain ⟨j, hj, hdj⟩ := h
    rw [lowAfter]
    split
    next hd =>
      obtain ⟨m, rfl⟩ : ∃ m, j = m + 1 := Nat.exists_eq_succ_of_ne_zero fun h0 => by rw [h0, hd] at hdj; cases hdj
      obtain ⟨k, hk, hlow, hdone, hzero, hshift⟩ := ih (l + 1) (d >>> 1) ⟨m, by omega, by simpa [Nat.add_comm] using hdj⟩
      refine ⟨k + 1, by omega, ?_, fun i hi => ?_, by simpa [Nat.add_comm] using hzero, fun i => ?_⟩
      · rw [hlow, BitVec.add_assoc, BitVec.ofNat_add (k + 1) 1, BitVec.add_comm 1]
        rfl
      · cases i with
        | zero => exact hd
        | succ i => simpa [Nat.add_comm] using hdone i (by omega)
      · rw [hshift, BitVec.getLsbD_ushiftRight]
        congr 1
        omega
    next hd =>
      exact ⟨0, by omega, rfl, fun i hi => by omega, by simpa using hd, fun i => by rw [BitVec.getLsbD_ushiftRight]⟩

/-- The one bit of DONE that a packet above LOW sets (R180). -/
theorem doneBit_iff {q l : BitVec 32} (hne : q ≠ l) (hle : (q - l).toNat ≤ 32) {i : Nat} (hi : i < 32) :
    i = (q - l).toNat - 1 ↔ l + 1 + BitVec.ofNat 32 i = q := by
  bv_omega

/-- Settles O39: a packet above LOW sets its bit, and packet LOW moves the window to the first packet not completed. -/
theorem completionWindow : Obligations.CompletionWindow := by
  refine ⟨fun q l d hne hle => ?_, fun l d => ?_⟩
  · rw [markDone, if_neg hne]
    refine ⟨rfl, fun i hi => ?_⟩
    rw [BitVec.getLsbD_or]
    congr 1
    rw [Bool.eq_iff_iff, decide_eq_true_iff, ← doneBit_iff hne hle hi, Nat.shiftLeft_eq, Nat.one_mul, BitVec.natCast_eq_ofNat,
      BitVec.getLsbD_ofNat, Nat.testBit_two_pow]
    simp [hi, eq_comm]
  · obtain ⟨k, hk, h⟩ := lowAfter_spec 33 l d ⟨32, by omega, BitVec.getLsbD_of_ge d 32 le_rfl⟩
    rw [markDone, if_pos rfl]
    exact ⟨k, by omega, h⟩

end Sys2Proof.Machine
end

section
/-! RESERVE (R220, R221, R223): a raised reservation takes held lines of the job into the slice; a backed line that leaves the
slice for one of them is written back, so the storage in HBM changes. -/

namespace Sys2Proof.Machine

/-! ### Sectors that leave a slice (R203) -/

/-- A sector stored takes its tag, and no other sector loses its own. -/
theorem find_otag_storeSector {s : State} {j : Nat} (h : Tab.find s.otag j ≠ none) (k : Nat) (x : SectorVal) :
    Tab.find (s.storeSector k x).otag j ≠ none := by
  rw [State.storeSector]
  split
  next => exact h
  next t _ =>
    split
    next =>
      by_cases hj : j = k
      · rw [hj]
        simp
      · exact (congrArg (· ≠ none) (Tab.find_set_ne s.otag t hj)).mpr h
    next => exact h

/-- Slice `home` writes sector k back, if it holds it dirty, and drops it. -/
def State.dropSector (s : State) (home k : Nat) : State :=
  match Tab.find s.l2 k with
  | some x => if x.home = home then (s.flushHome k).dropHome k else s
  | none => s

theorem dropSlice_eq_foldl (s : State) (home line : Nat) :
    s.dropSlice home line = (lineSectors line).foldl (fun s k => s.dropSector home k) s := rfl

theorem find_otag_dropSector {s : State} {j : Nat} (h : Tab.find s.otag j ≠ none) (home k : Nat) :
    Tab.find (s.dropSector home k).otag j ≠ none := by
  rw [State.dropSector]
  split
  next =>
    split
    next =>
      show Tab.find (s.flushHome k).otag j ≠ none
      rw [State.flushHome]
      split
      next =>
        split
        next => exact find_otag_storeSector h _ _
        next => exact h
      next => exact h
    next => exact h
  next => exact h

/-- A dirty sector leaves its tag in storage when it leaves its slice. -/
theorem find_otag_dropSector_dirty {s : State} {k : Nat} {x : L2Sector} (hx : Tab.find s.l2 k = some x)
    (hdirty : x.dirty = true) (hcurrent : s.tagCurrent x.tag = true) :
    Tab.find (s.dropSector x.home k).otag k = some x.tag := by
  simp [State.dropSector, hx, State.dropHome, State.flushHome, hdirty, State.storeSector, hcurrent]

/-- So does the line of such a sector, the first of the line. -/
theorem find_otag_dropSlice {s : State} {line : Nat} {x : L2Sector} (hx : Tab.find s.l2 (4 * line) = some x)
    (hdirty : x.dirty = true) (hcurrent : s.tagCurrent x.tag = true) :
    Tab.find (s.dropSlice x.home line).otag (4 * line) ≠ none := by
  rw [dropSlice_eq_foldl, show lineSectors line = 4 * line :: [4 * line + 1, 4 * line + 2, 4 * line + 3] from rfl, List.foldl_cons]
  refine List.foldlRecOn (motive := fun u : State => Tab.find u.otag (4 * line) ≠ none) _ _ ?_
    fun u hu k _ => find_otag_dropSector hu x.home k
  rw [find_otag_dropSector_dirty hx hdirty hcurrent]
  exact Option.some_ne_none _

/-! ### A full slice makes room (R220, R223) -/

/-- A slice whose one bank for lines is full has no free place. -/
theorem freePlace_of_full {s : State} {c b : Nat} (hbank : (List.range 32).filter (s.chip c).allocates = [b])
    (hfull : ∀ r, r < bankLines → bankLines * b + r ∈ s.usedPlaces c) : s.freePlace c = none := by
  have hrow : freeRow (s.usedPlaces c) b = none := by
    rw [freeRow, Option.map_eq_none_iff, List.find?_eq_none]
    intro r _ hr
    simp only [Bool.and_eq_true, decide_eq_true_eq, Bool.not_eq_true', List.contains_eq_mem, decide_eq_false_iff_not] at hr
    exact hr.2 (hfull r hr.1)
  simp only [State.freePlace, hbank, List.findSome?_cons, hrow, List.findSome?_nil]

/-- A job of one slice takes its one held line into it, for which a backed line leaves. -/
theorem raiseQuota_otag {s : State} {slot : BitVec 6} {c k line p : Nat} {u : UbLine} (hdom : s.domain slot = [c])
    (hheld : s.ub.filter (fun e => e.2.st == .held && e.2.home == c && e.2.tag.slot == slot) = [(line, u)])
    (hquota : s.residents u.tag.slot c < s.quota u.tag.slot) (hroom : s.roomAt c = some (s.dropSlice c k, p)) :
    (s.raiseQuota slot).otag = (s.dropSlice c k).otag := by
  rw [State.raiseQuota, hdom, List.foldl_cons, List.foldl_nil, hheld, unholdLines, if_pos hquota, hroom]
  rfl

/-! ### A RESERVE (R221) -/

/-- An answer stores nothing. -/
theorem otag_answer (s : State) (n x id : Nat) (v : Word) : (s.answer n x id v).otag = s.otag := by
  obtain ⟨c, g, m, hframe⟩ := answerTo_frame s n x id (fun t i => t.answerOutst i v false)
  rw [State.answer, hframe]

/-- A RESERVE that is granted raises the quota of its job, and is answered. -/
theorem exec_reserveRequest_granted {s u v : State} {p core ctx out g : Nat} {a : Word} {rest : List Body} {r : Region}
    (hqueue : (s.part p).resq = .reserve core ctx out a :: rest) (hu : s.modPart p (fun q => { q with resq := rest }) = u)
    (hg : (u.core core).region - 1 = g) (hregion : u.regionOf core = some r) (hstatus : u.reserveStatus g r a = 0)
    (hmore : r.reserved < a.toNat) (hv : u.modRegion g (fun q => { q with reserved := a.toNat }) = v) :
    exec (.reserveRequest p) s
      = .next ((v.raiseQuota r.slot).answer core ctx out (BitVec.ofNat 64 (0 * 2 ^ 32 + a.toNat))) := by
  show execReserveRequest p s = _
  simp only [execReserveRequest, hqueue, hu, hg, hregion, hstatus, if_true, hv, hmore]

/-! ### The job of the counterexample: one region on chiplet 0, whose slice is full -/

def claimFields : Fields where
  prio := 0
  fdom := 0
  mxshare := 1
  nctx := 8
  link := 0
  place := false
  paired := false
  vahi := 0
  stragn := 0
  gx := 1
  gy := 1
  cores := 8
  basin := 256
  unbk := 1
  straglag := 0xFFFFFFFF
  scopetab := 0
  entry := 0
  arg := 0
  latepool := 0
  save := 0
  ckdir := 0
  ckoff := 0
  cksize := 0

/-- A running region of key slot 1 with `lines` unbacked lines reserved, of at most one. -/
def claimRegion (lines : Nat) : Region where
  part := 0
  slot := 1
  root := ⟨0, 1⟩
  block := 0
  vahi := 0
  chain := [0]
  f := claimFields
  signal := 0
  st := .running
  packet := none
  argovr := 0
  tasks := [0]
  copy := []
  reserved := lines
  grade := 0
  lasting := []
  forwarded := false
  mismatch := false
  pool := none
  order := 0
  rank := 0
  since := 0
  waited := 0
  saved := []
  savedReqs := []

/-- A sector of the job at a place of slice 0. -/
def claimSector (dirty : Bool) (place : Nat) : L2Sector := ⟨1, dirty, ⟨1, 0⟩, false, 0, none, place⟩

/-- One sector of each of 8,192 lines, which fill bank 0; the first is dirty. -/
def claimLines : Tab L2Sector :=
  (0, claimSector true 0) :: (List.range 8191).map (fun i => (4 * (i + 1), claimSector false (i + 1)))

/-- A chiplet that holds an unbacked line and keeps its lines in bank 0 alone. -/
def claimChip : Chiplet :=
  { Chiplet.clear with
    banks := (List.range 31).map (fun b => (b + 1, { Bank.clear with mode := .scratch, holder := some 0 }))
    hold := [2 ^ 43] }

/-- The region runs on core 0, with the lines of its slice, the RESERVEs that wait, and the lines reserved. -/
def claimState (l : Tab L2Sector) (queue : List Body) (lines : Nat) : State :=
  { State.reset with
    cores := [(0, { Core.clear with region := 1 })]
    chips := [(0, claimChip)]
    l2 := l
    ub := [(2 ^ 43, ⟨.held, 0, ⟨1, 0⟩, none, 0⟩)]
    slots := [(1, { KeySlot.clear with root := some ⟨0, 1⟩ })]
    parts := [(0, { Part.clear with chiplets := [0], resq := queue })]
    regions := [(0, claimRegion lines)] }

theorem filter_range_zero {n : Nat} {p : Nat → Bool} (hzero : p 0 = true) (hsucc : ∀ c, p (c + 1) = false) :
    (List.range (n + 1)).filter p = [0] := by
  rw [List.range_succ_eq_map, List.filter_cons_of_pos hzero, List.filter_eq_nil_iff.2]
  intro c hc
  obtain ⟨i, -, rfl⟩ := List.mem_map.1 hc
  simp [hsucc]

section

variable (l : Tab L2Sector) (queue : List Body) (lines : Nat)

theorem domain_claimState : (claimState l queue lines).domain 1 = [0] := by
  rw [State.domain, if_neg (by decide)]
  exact filter_range_zero (n := 575) rfl fun _ => rfl

theorem quota_claimState : (claimState l queue lines).quota 1 = lines := by
  rw [State.quota, domain_claimState, show (claimState l queue lines).jobLines 1 = lines from rfl]
  simp

theorem sliceFits_claimState : (claimState l queue 1).sliceFits 0 = true := by
  have hbanks : ((claimState l queue 1).chip 0).cacheBanks = 1 := by
    show claimChip.cacheBanks = 1
    decide
  rw [State.sliceFits, State.reservedLines, show (claimState l queue 1).busySlots = [1] from rfl, hbanks, List.map_singleton,
    domain_claimState, quota_claimState]
  rfl

/-- One line fits the budget of the region and its slice. -/
theorem reserveStatus_claimState : (claimState l queue 0).reserveStatus 0 (claimRegion 0) 1 = 0 := by
  have hbudget : (claimState l queue 0).fitsBudget (claimRegion 0) Fields.unbk unbkClaim 1 = true := by rfl
  have hslices : ((claimState l queue 0).domain 1).all (claimState l queue 1).sliceFits = true := by
    rw [domain_claimState, List.all_cons, sliceFits_claimState]
    rfl
  rw [State.reserveStatus, if_neg (by decide), if_neg (by decide), if_neg, if_neg]
  · show ¬ (!((claimState l queue 0).domain 1).all (claimState l queue 1).sliceFits) = true
    rw [hslices]
    decide
  · show ¬ (!(claimState l queue 0).fitsBudget (claimRegion 0) Fields.unbk unbkClaim 1) = true
    rw [hbudget]
    decide

theorem exec_reserveRequest_claimState : exec (.reserveRequest 0) (claimState l [.reserve 0 0 0 1] 0)
    = .next (((claimState l [] 1).raiseQuota 1).answer 0 0 0 (BitVec.ofNat 64 (0 * 2 ^ 32 + (1 : Word).toNat))) :=
  exec_reserveRequest_granted (u := claimState l [] 0) (v := claimState l [] 1) (g := 0) (r := claimRegion 0) rfl rfl rfl rfl
    (reserveStatus_claimState l []) (by decide) rfl

end

theorem roomAt_claimState (queue : List Body) (lines : Nat) :
    (claimState claimLines queue lines).roomAt 0 = some ((claimState claimLines queue lines).dropSlice 0 0, 0) := by
  have hnone : (claimState claimLines queue lines).freePlace 0 = none := by
    refine freePlace_of_full (b := 0) (by show (List.range 32).filter claimChip.allocates = [0]; decide) fun r hr => ?_
    refine List.mem_append_left _ (List.mem_map.2 ?_)
    cases r with
    | zero => exact ⟨_, List.mem_filter.2 ⟨List.mem_cons_self, rfl⟩, rfl⟩
    | succ r =>
      have hr' : r < 8191 := Nat.lt_of_succ_lt_succ hr
      refine ⟨(4 * (r + 1), claimSector false (r + 1)), List.mem_filter.2 ⟨List.mem_cons_of_mem _ ?_, rfl⟩, ?_⟩
      · exact List.mem_map.2 ⟨r, List.mem_range.2 hr', rfl⟩
      · show r + 1 = bankLines * 0 + (r + 1)
        omega
  rw [State.roomAt, hnone]
  show Option.map _ (List.find? _ ((0, claimSector true 0) :: _)) = _
  rw [List.find?_cons_of_pos (by rfl)]
  rfl

/-- Granting the line makes the slice write its dirty sector to HBM. -/
theorem otag_raiseQuota_claimState (queue : List Body) : ((claimState claimLines queue 1).raiseQuota 1).otag ≠ [] := by
  have hquota : (claimState claimLines queue 1).residents 1 0 < (claimState claimLines queue 1).quota 1 := by
    rw [quota_claimState]
    exact Nat.zero_lt_one
  have hotag := raiseQuota_otag (s := claimState claimLines queue 1) (u := ⟨.held, 0, ⟨1, 0⟩, none, 0⟩) (domain_claimState ..) rfl
    hquota (roomAt_claimState queue 1)
  intro hnil
  have htag := find_otag_dropSlice (s := claimState claimLines queue 1) (line := 0) (x := claimSector true 0) rfl rfl rfl
  exact htag (congrArg (Tab.find · 0) (hotag.symm.trans hnil))

/-- Refutes O34, at its clause of RESERVE: the RESERVE of one line is granted, a held line enters the slice, and the dirty
sector that makes room for it goes to HBM. -/
theorem not_syncEvents : ¬ Obligations.SyncEvents := by
  rintro ⟨-, -, -, hreserve, -⟩
  obtain ⟨t, st, n, hexec, -, -, -, -, -, htags⟩ := hreserve (claimState claimLines [.reserve 0 0 0 1] 0) 0 0 0 0 1 [] rfl
  rw [exec_reserveRequest_claimState, Host.Outcome.next.injEq] at hexec
  have hotag : t.otag = ((claimState claimLines [] 1).raiseQuota 1).otag := hexec ▸ otag_answer ..
  exact otag_raiseQuota_claimState [] (hotag.symm.trans htags)

end Sys2Proof.Machine
end

section
/-! Stores of an agent through a view (R179, R195, R223, R233): of a core they change its first-level cache only. -/

namespace Sys2Proof.Machine

/-- From s to u no core changes but in its first-level cache. -/
structure SameButL1 (u s : State) : Prop where
  core : ∀ n, ∃ l, u.core n = { s.core n with l1 := l }

namespace SameButL1

theorem of_cores_eq {u s : State} (h : u.cores = s.cores) : SameButL1 u s :=
  ⟨fun n => ⟨(s.core n).l1, by rw [State.core, State.core, h]⟩⟩

theorem refl (s : State) : SameButL1 s s := of_cores_eq rfl

theorem trans {u v w : State} (h : SameButL1 u v) (h' : SameButL1 v w) : SameButL1 u w := ⟨fun n => by
  obtain ⟨l, hl⟩ := h.core n
  obtain ⟨m, hm⟩ := h'.core n
  exact ⟨l, by rw [hl, hm]⟩⟩

/-- A list of steps that each keep the cores keeps them. -/
theorem foldl {α : Type} {f : State → α → State} (h : ∀ s a, SameButL1 (f s a) s) (l : List α) (s : State) :
    SameButL1 (l.foldl f s) s := by
  induction l generalizing s with
  | nil => exact refl s
  | cons a l ih => exact (ih (f s a)).trans (h s a)

end SameButL1

/-! ### Caches (R203) -/

theorem storeSector_sameButL1 (s : State) (k : Nat) (x : SectorVal) : SameButL1 (s.storeSector k x) s := by
  obtain ⟨m, o, p, cd, h⟩ := storeSector_frame s k x
  exact .of_cores_eq (by rw [h])

theorem putHome_sameButL1 (s : State) (k : Nat) (pin : Option Nat) (x : SectorVal) : SameButL1 (s.putHome k pin x) s := by
  obtain ⟨m, o, p, l, cd, h⟩ := putHome_frame s k pin x
  exact .of_cores_eq (by rw [h])

theorem putL1_sameButL1 (s : State) (n k : Nat) (x : L1Sector) : SameButL1 (s.putL1 n k x) s := ⟨fun m => by
  by_cases h : m = n
  · subst h
    exact ⟨_, core_putL1 s m k x⟩
  · exact ⟨_, Tab.getD_set_ne s.cores _ _ h⟩⟩

/-- Dropping copies changes the first-level caches only. -/
theorem getD_dropCopies (k n : Nat) (t : Tab Core) :
    ∃ l, Tab.getD (dropCopies k t) n Core.clear = { Tab.getD t n Core.clear with l1 := l } := by
  induction t with
  | nil => exact ⟨_, rfl⟩
  | cons e t ih =>
    obtain ⟨m, c⟩ := e
    simp only [Tab.getD, dropCopies, Tab.find] at ih ⊢
    by_cases h : m = n
    · simp only [h, if_true, Option.getD_some]
      split
      · split <;> exact ⟨_, rfl⟩
      · exact ⟨_, rfl⟩
    · simp only [h, if_false]
      exact ih

theorem dropCopies_sameButL1 (s : State) (k : Nat) : SameButL1 { s with cores := dropCopies k s.cores } s :=
  ⟨fun n => getD_dropCopies k n s.cores⟩

theorem flushDrop_sameButL1 (s : State) (k : Nat) : SameButL1 ((s.flushHome k).dropHome k) s :=
  ⟨(flushHome_flush s k).core⟩

theorem dropSlice_sameButL1 (s : State) (home line : Nat) : SameButL1 (s.dropSlice home line) s := by
  refine SameButL1.foldl (fun u k => ?_) _ s
  split
  · split
    · exact flushDrop_sameButL1 u k
    · exact .refl u
  · exact .refl u

theorem cohWrite_sameButL1 (s : State) (n : Nat) (t : Tag) (pa size v : Nat) (pin : Option Nat) (fill : Bool) :
    SameButL1 (s.cohWrite n t pa size v pin fill) s := by
  unfold State.cohWrite
  extract_lets k x u
  have hdrop : SameButL1 u s := dropCopies_sameButL1 s k
  split
  · split
    · exact (putL1_sameButL1 ..).trans hdrop
    · exact (putHome_sameButL1 ..).trans hdrop
  · exact .refl s

theorem ncWrite_sameButL1 (s : State) (n : Nat) (t : Tag) (pa size v : Nat) : SameButL1 (s.ncWrite n t pa size v) s := by
  unfold State.ncWrite
  extract_lets
  split
  · exact putL1_sameButL1 ..
  · exact .refl s

/-! ### Lines at their homes (R223, R341) -/

theorem allocate_sameButL1 (s : State) (t : Tag) (pin : Option Nat) (pa : Nat) : SameButL1 (s.allocate t pin pa) s := by
  unfold State.allocate
  split
  · split <;> exact .of_cores_eq rfl
  · exact .refl s

theorem passOn_sameButL1 (s : State) (home line : Nat) : SameButL1 (s.passOn home line) s := by
  unfold State.passOn
  extract_lets ks
  split
  · exact .refl s
  · split
    · exact .of_cores_eq rfl
    · exact SameButL1.foldl flushDrop_sameButL1 ks s

theorem refillSectors_sameButL1 (line pa : Nat) (t : Tag) (l : List Nat) (s : State) :
    SameButL1 (refillSectors line pa t l s) s := by
  induction l generalizing s with
  | nil => exact .refl s
  | cons j l ih =>
    unfold refillSectors
    extract_lets x
    refine (ih _).trans ?_
    split
    · exact storeSector_sameButL1 ..
    · exact .refl s

theorem bring_sameButL1 {s u : State} {l : Leaf} {pa : Nat} (h : s.bring l pa = some u) : SameButL1 u s := by
  unfold State.bring at h
  extract_lets line home at h
  split at h
  next =>
    split at h
    next =>
      split at h
      · cases h; exact .refl s
      · obtain ⟨p, -, rfl⟩ := Option.map_eq_some_iff.1 h
        exact .of_cores_eq rfl
    next =>
      split at h
      · cases h; exact .refl s
      · split at h
        · cases h; exact .of_cores_eq rfl
        · cases h
    next =>
      obtain ⟨p, -, rfl⟩ := Option.map_eq_some_iff.1 h
      exact ⟨(refillSectors_sameButL1 ..).core⟩
  next =>
    cases h
    exact passOn_sameButL1 ..

theorem roomAt_sameButL1 {s : State} {c : Nat} {r : State × Nat} (h : s.roomAt c = some r) : SameButL1 r.1 s := by
  unfold State.roomAt at h
  split at h
  · cases h; exact .refl s
  · obtain ⟨e, -, rfl⟩ := Option.map_eq_some_iff.1 h
    exact dropSlice_sameButL1 ..

theorem makeRoom_sameButL1 {s u : State} {write : Bool} {l : Leaf} {pa : Nat} (h : s.makeRoom write l pa = some u) :
    SameButL1 u s := by
  unfold State.makeRoom at h
  split at h
  · obtain ⟨v, hv, hu⟩ := Option.bind_eq_some_iff.1 h
    refine SameButL1.trans ?_ (bring_sameButL1 hv)
    split at hu
    · obtain ⟨r, hr, rfl⟩ := Option.map_eq_some_iff.1 hu
      exact roomAt_sameButL1 hr
    · cases hu; exact .refl _
  · cases h; exact .refl s

/-! ### Doublewords through a view (R179) -/

theorem endWrite_sameButL1 (s : State) (n : Nat) (l : Leaf) (pa size v : Nat) (fill : Bool) :
    SameButL1 (s.endWrite n l pa size v fill) s := by
  unfold State.endWrite
  extract_lets t
  split
  · exact .of_cores_eq (State.physWrite_cores ..)
  · exact .of_cores_eq (State.physWrite_cores ..)
  · split
    · exact (cohWrite_sameButL1 ..).trans (allocate_sameButL1 ..)
    · exact ncWrite_sameButL1 ..

theorem cores_postOn (s : State) (ordered : Bool) (a b : Station) (m : Body) : (s.postOn ordered a b m).cores = s.cores := by
  unfold State.postOn
  extract_lets t t' u
  have hu : u.cores = s.cores := by
    obtain ⟨st, h⟩ := setStream_frame s t'
    rw [show u = s.setStream t' from rfl, h]
  split
  · exact hu
  · exact hu

theorem cores_sendAccess {s u : State} {src : Station} {ordered : Bool} {x : BitVec 12 × Config.FabricAccess}
    (h : s.sendAccess src ordered x = some u) : u.cores = s.cores := by
  unfold State.sendAccess at h
  split at h
  · cases h
  · split at h
    · cases h
      exact cores_postOn ..
    · cases h

theorem cores_askFabric {s : State} {src : Station} {ord : Bool} {l : Leaf} {pa size kind : Nat} {a : BitVec 128}
    {r : State × Option (BitVec 128)} (h : s.askFabric src ord l pa size kind a = some r) : r.1.cores = s.cores := by
  obtain ⟨x, -, hx⟩ := Option.bind_eq_some_iff.1 h
  obtain ⟨u, hu, rfl⟩ := Option.map_eq_some_iff.1 hx
  exact cores_sendAccess hu

theorem cores_keeperAsks {s : State} {core : Nat} {l : Leaf} {pa size kind : Nat} {a : BitVec 128} {r : State × Nat}
    (h : s.keeperAsks core l pa size kind a = .ok r) : r.1.cores = s.cores := by
  unfold State.keeperAsks at h
  generalize hq : (s.askFabric (.core core) true l pa size kind a).getD _ = q at h
  have hcores : q.1.cores = s.cores := by
    cases hask : s.askFabric (.core core) true l pa size kind a with
    | none => rw [hask] at hq; subst hq; rfl
    | some r => rw [hask] at hq; subst hq; exact cores_askFabric hask
  obtain ⟨u, v⟩ := q
  cases v with
  | none => cases h
  | some w => cases h; exact hcores

theorem writeAt_sameButL1 {s u : State} {core : Nat} {l : Leaf} {pa size v : Nat} (h : s.writeAt core l pa size v = .ok u) :
    SameButL1 u s := by
  unfold State.writeAt at h
  split at h
  · cases hask : s.keeperAsks core l pa size 1 (BitVec.ofNat 128 v) with
    | error e => rw [hask] at h; cases h
    | ok r =>
      rw [hask] at h
      cases h
      exact .of_cores_eq (cores_keeperAsks hask)
  · cases h
    refine (endWrite_sameButL1 ..).trans ?_
    cases hroom : s.makeRoom true l pa with
    | none => exact .refl s
    | some w => exact makeRoom_sameButL1 hroom

theorem storeD_sameButL1 {s u : State} {v : View} {ea w : Word} (h : s.storeD v ea w = .ok u) : SameButL1 u s := by
  unfold State.storeD at h
  split at h
  · cases h
  · exact writeAt_sameButL1 h

theorem storeDs_sameButL1 {v : View} {ws : List Word} {ea : Word} {s u : State} (h : State.storeDs v ws ea s = .ok u) :
    SameButL1 u s := by
  induction ws generalizing ea s with
  | nil => cases h; exact .refl u
  | cons w ws ih =>
    unfold State.storeDs at h
    split at h
    · cases h
    next hw => exact (ih h).trans (storeD_sameButL1 hw)

theorem tryStores_sameButL1 (s : State) (v : View) (ws : List Word) (ea : Word) : SameButL1 (s.tryStores v ws ea) s := by
  unfold State.tryStores
  split
  next h => exact storeDs_sameButL1 h
  next => exact .refl s

end Sys2Proof.Machine
end

section
/-! The lock-keeper's events of regions and packets (R181, R183 to R191, R249, R263). -/

namespace Sys2Proof.Machine

/-! ### TRIGGERs (R190, R191) -/

/-- Bits 3:0 of a doubleword of a block. -/
theorem fieldAt_low4 (i : Nat) (ws : List Word) : fieldAt i 3 0 ws = (wordAt i ws).toNat % 16 := by
  simp [fieldAt, fieldOf, wordAt]

/-- The oldest TRIGGER is taken off its queue and handled; then the lock-keeper selects. -/
theorem triggerEvent_taken {s : State} {p kind core x : Nat} {a : Word} {vahi : BitVec 8} {root : Root} {rest : List Body}
    (h : s.trigger p kind a vahi core x root rest) (f : Word → BitVec 8 → Nat → Nat → Root → State → State) :
    triggerEvent p kind f s = .next ((f a vahi core x root (s.modPart p (fun v => { v with trigq := rest }))).select p) := by
  obtain ⟨priv, h⟩ := h
  simp only [triggerEvent, h, if_true]

section Taken

variable {s : State} {p core x : Nat} {a : Word} {vahi : BitVec 8} {root : Root} {rest : List Body}

theorem exec_triggerDec (h : s.trigger p 0 a vahi core x root rest) : exec (.triggerDec p) s
    = .next (((s.modPart p (fun v => { v with trigq := rest })).decBlock p a vahi core x root).select p) :=
  triggerEvent_taken h fun a vahi core x root s => s.decBlock p a vahi core x root

theorem exec_triggerArm (h : s.trigger p 1 a vahi core x root rest) : exec (.triggerArm p) s
    = .next (((s.modPart p (fun v => { v with trigq := rest })).armTrigger p a vahi core x root).select p) :=
  triggerEvent_taken h fun a vahi core x root s => s.armTrigger p a vahi core x root

theorem exec_triggerNotify (h : s.trigger p 2 a vahi core x root rest) : exec (.triggerNotify p) s
    = .next (((s.modPart p (fun v => { v with trigq := rest })).notifyTrigger p a vahi core x root).select p) :=
  triggerEvent_taken h fun a vahi core x root s => s.notifyTrigger p a vahi core x root

end Taken

section Trigger

variable {s u : State} {p core x : Nat} {a : Word} {vahi : BitVec 8} {root : Root}

theorem decBlock_ready {k : Launch} (hl : (s.part p).launches.find? (fun l => l.is root vahi a) = some k) (hk : k.ready = true) :
    s.decBlock p a vahi core x root = s.lkMessage p core x 1 a := by
  simp only [State.decBlock, hl, hk, if_true]

theorem decBlock_armed {k : Launch} {w z : State} {y : Word}
    (hl : (s.part p).launches.find? (fun l => l.is root vahi a) = some k) (hk : k.ready = false)
    (hload : s.loadD (s.blockView p root vahi) (a + 0x70) = .ok (w, y))
    (hstore : w.storeD (s.blockView p root vahi) (a + 0x70) (BitVec.ofNat 64 (y.toNat % 2 ^ 32 - 1)) = .ok z) :
    s.decBlock p a vahi core x root = if y.toNat % 2 ^ 32 ≤ 1 then z.readyLaunch p root vahi a else z := by
  simp only [State.decBlock, hl, hk, hload, hstore, Bool.false_eq_true, if_false]

theorem decBlock_launched {n : Nat} (hl : (s.part p).launches.find? (fun l => l.is root vahi a) = none)
    (hstate : s.blockState (s.blockView p root vahi) a = some n) (hn : 2 ≤ n) :
    s.decBlock p a vahi core x root = s.lkMessage p core x 1 a := by
  simp only [State.decBlock, hl, hstate, hn, if_true]

theorem decBlock_held {n : Nat} (hl : (s.part p).launches.find? (fun l => l.is root vahi a) = none)
    (hstate : s.blockState (s.blockView p root vahi) a = none)
    (hheld : Tab.find (s.part p).heldCounts (heldKey root.slot vahi a) = some n) :
    s.decBlock p a vahi core x root
      = s.modPart p (fun q => { q with heldCounts := Tab.set q.heldCounts (heldKey root.slot vahi a) (n + 1) }) := by
  simp only [State.decBlock, hl, hstate, State.holdDec, hheld, State.modPart_eq]

theorem armTrigger_armed {w : State} {ws : List Word} (hload : State.loadDs (s.blockView p root vahi) 16 a s = .ok (w, ws))
    (hstate : (wordAt 13 ws).toNat % 16 ≠ 0) : s.armTrigger p a vahi core x root = w.lkMessage p core x 2 a := by
  simp only [State.armTrigger, hload, fieldAt_low4, hstate, ne_eq, not_false_eq_true, if_true]

/-- A block that does not resolve, or is no child of a running region, is BAD (R176, R191). -/
theorem armTrigger_bad {w y : State} {ws : List Word} (hload : State.loadDs (s.blockView p root vahi) 16 a s = .ok (w, ws))
    (hstate : (wordAt 13 ws).toNat % 16 = 0) (hbad : w.resolve p root vahi a = none ∧ y = w
      ∨ ∃ r, w.resolve p root vahi a = some (y, r) ∧ y.runsBlock root vahi (wordAt 0 ws) = false) :
    s.armTrigger p a vahi core x root = y.armBad p a vahi core x root := by
  rcases hbad with ⟨hres, rfl⟩ | ⟨r, hres, hrun⟩
  · simp only [State.armTrigger, hload, fieldAt_low4, hstate, ne_eq, not_true_eq_false, if_false, hres]
  · simp only [State.armTrigger, hload, fieldAt_low4, hstate, ne_eq, not_true_eq_false, if_false, hres, hrun, Bool.false_eq_true]

theorem armTrigger_child {w y : State} {ws : List Word} {r : Resolved}
    (hload : State.loadDs (s.blockView p root vahi) 16 a s = .ok (w, ws)) (hstate : (wordAt 13 ws).toNat % 16 = 0)
    (hres : w.resolve p root vahi a = some (y, r)) (hrun : y.runsBlock root vahi (wordAt 0 ws) = true) :
    s.armTrigger p a vahi core x root = y.armBlock p a vahi core x root r.deps := by
  simp only [State.armTrigger, hload, fieldAt_low4, hstate, ne_eq, not_true_eq_false, if_false, hres, hrun, if_true]

end Trigger

/-! ### Set-up (R188) -/

/-- Filling registers from the first one on changes the register file only. -/
theorem fillRegs_zero (c : Core) (vs : List Word) : ∃ rf, c.fillRegs 0 vs = { c with rf := rf }
    ∧ ∀ i v, vs[i]? = some v → ((c.fillRegs 0 vs).reg i).val = v := by
  obtain ⟨rf, hfill, hreg⟩ := fillRegs_frame vs c 0
  refine ⟨rf, hfill, fun i v hi => ?_⟩
  have hlt := (List.getElem?_eq_some_iff.1 hi).1
  rw [hfill, Core.reg, hreg, if_pos ⟨Nat.zero_le i, by rwa [Nat.zero_add]⟩, Nat.sub_zero, List.getD_eq_getElem?_getD, hi]
  rfl

/-- The first registers of a core that is set up: task, block, argument, place and grid (R188). -/
def Region.taskRegs (r : Region) (t : Nat) : List Word :=
  [BitVec.ofNat 64 t, r.block, if r.argovr = 0 then r.f.arg else r.argovr,
    BitVec.ofNat 64 (t % r.f.gx + 2 ^ 16 * (t / r.f.gx)), BitVec.ofNat 64 (r.f.gx + 2 ^ 16 * r.f.gy)]

/-- Context 0 of a core that is set up stands at ENTRY, and the first registers hold what R188 gives. -/
theorem setUp_spec (c : Core) (g : Nat) (r : Region) (cs : List Nat) (t : Nat) (twin : Bool) (tag : Tag)
    (scopes : Tab ScopeEntry) :
    let k := c.setUp g r cs t twin tag scopes
    k.ctx 0 = startCtx r.f tag ∧ k.n = r.f.nctx ∧ k.region = g + 1 ∧ k.task = t
      ∧ ∀ i v, (r.taskRegs t)[i]? = some v → (k.reg i).val = v := by
  unfold Core.setUp
  extract_lets f x y vacant k0 k
  obtain ⟨rf, hfill, hreg⟩ := fillRegs_zero (k0.setCtx 0 (startCtx f tag)) (r.taskRegs t)
  have hk : k = { k0.setCtx 0 (startCtx f tag) with rf := rf } := hfill
  refine ⟨?_, by rw [hk]; rfl, by rw [hk]; rfl, by rw [hk]; rfl, hreg⟩
  rw [hk]
  exact Core.ctx_setCtx k0 0 (startCtx f tag)

/-! ### The end of a part (R188) -/

theorem showRegion_sameButL1 (s : State) (r : Region) (st : RegionState) : SameButL1 (s.showRegion r st) s :=
  tryStores_sameButL1 ..

/-- A part that ends leaves its core ended, with no barrier unit bound. -/
theorem endPart_core (s : State) (c : Nat) : ((s.endPart c).core c).ended = true ∧ ((s.endPart c).core c).units = [] := by
  unfold State.endPart
  generalize endBindings c (List.range 8) s = u
  extract_lets w v
  have hself : v.core c = { w.core c with ended := true, units := [] } := core_modCore_self w c _
  clear_value v
  split
  next r _ =>
    obtain ⟨l, hl⟩ := (showRegion_sameButL1 v r .running).core c
    rw [hl, hself]
    exact ⟨rfl, rfl⟩
  next =>
    rw [hself]
    exact ⟨rfl, rfl⟩

/-! ### The statement -/

/-- Settles O38, one clause after the other. -/
theorem regionEvents : Obligations.RegionEvents := by
  refine ⟨?notify, ?trigger, ?aging, ?place, ?setUp, ?partEnd, ?complete, ?packet⟩
  case notify =>
    intro s f q
    refine ⟨fun hnone hf => ?_, fun p k hsome => ?_⟩
    · show execNotify f q s = _
      simp only [execNotify, hnone]
      exact whenEnabled_true (decide_eq_true hf) s
    · show execNotify f q s = _
      simp only [execNotify, hsome]
      rfl
  case trigger =>
    intro s p core x a vahi root rest u v l
    refine ⟨fun htrig => ?_, fun htrig w ws hload => ?_, fun htrig => ?_⟩
    · have hexec := exec_triggerDec htrig
      refine ⟨fun k hl hk => ?_, fun k w y z hl hk hd hw => ?_, fun n hl hn h2 => ?_, fun n hl hn hheld => ?_⟩
      · rw [hexec, decBlock_ready hl hk]
      · rw [hexec, decBlock_armed hl hk hd hw]
      · rw [hexec, decBlock_launched hl hn h2]
      · rw [hexec, decBlock_held hl hn hheld]
    · have hexec := exec_triggerArm htrig
      refine ⟨fun hstate => ?_, fun y hstate hbad => ⟨fun z hz => ?_, fun e he => ?_⟩, fun y r hstate hres hrun => ?_⟩
      · rw [hexec, armTrigger_armed hload hstate]
      · rw [hexec, armTrigger_bad hload hstate hbad, State.armBad, hz]
      · rw [hexec, armTrigger_bad hload hstate hbad, State.armBad, he]
      · rw [hexec, armTrigger_child hload hstate hres hrun]
    · have hexec := exec_triggerNotify htrig
      refine ⟨fun q hq => ?_, fun hq => ?_⟩
      · rw [hexec, State.notifyTrigger, hq]
        rfl
      · rw [hexec, State.notifyTrigger, hq]
  case aging =>
    intro s p k t w hk hearlier
    have hall : (s.waitTimes p).all (fun x => !decide (x.1 < t) || decide (w + (s.part p).age ≤ x.2)) = true :=
      List.all_eq_true.2 fun y hy => by simpa [or_iff_not_imp_left] using hearlier y hy
    refine ⟨s.ageAt p t, ?_, rfl, ?_, ?_, ⟨rfl, rfl⟩, rfl⟩
    · show execPriorityAging p k s = _
      simp only [execPriorityAging, hk]
      exact whenEnabled_true hall _
    · exact congrArg Part.launches (State.part_setPart s p _)
    · exact congrArg Part.queues (State.part_setPart s p _)
  case place =>
    intro s p g r cs ds hfirst hr hst hfits hplace
    show execRegionPlace p s = _
    simp only [execRegionPlace, hfirst, hr, hst, hfits, hplace, and_self, if_true]
  case setUp =>
    intro c g r cs t twin tag scopes k
    obtain ⟨hctx, hn, hregion, htask, hregs⟩ := setUp_spec c g r cs t twin tag scopes
    rw [hctx]
    exact ⟨rfl, rfl, rfl, rfl, rfl, rfl, hn, hregion, htask, hregs 0 _ rfl, hregs 1 _ rfl, hregs 2 _ rfl, hregs 3 _ rfl,
      hregs 4 _ rfl⟩
  case partEnd =>
    intro s c hregion hended hst hwake hsealed hstopped hctxs hpending
    refine ⟨s.endPart c, whenEnabled_true ?_ _, rfl, endPart_core s c⟩
    have hall : (s.core c).ctxs.all (fun e => e.1 == 0 || e.2.st == .free) = true :=
      List.all_eq_true.2 fun e he => by simpa using hctxs e he
    simp only [State.thread] at hst hwake
    simp [hregion, hended, hst, hwake, hsealed, hstopped, hall, hpending]
  case complete =>
    intro s g order r hr hst hcores hops killed u
    have hdone : (r.allCores.all (fun n => (s.core n).ended) && s.ops.all (fun o => o.region != g + 1)) = true := by
      rw [Bool.and_eq_true, List.all_eq_true, List.all_eq_true]
      exact ⟨hcores, fun o ho => bne_iff_ne.2 (hops o ho)⟩
    show execRegionComplete ⟨g, order⟩ s = _
    simp only [execRegionComplete, hr]
    exact if_pos ⟨hst, hdone⟩
  case packet =>
    intro s p k hk
    show execPacketCompletion p s = _
    simp only [execPacketCompletion, hk]

end Sys2Proof.Machine
end

section
/-! Notices, the end of a request, and what the service logic writes to HBM (R332, R352, R353, R358): each changes its own part
of the state only. -/

namespace Sys2Proof.Machine

/-! ### Notices (R353) -/

theorem noticeTo_frame (s : State) (f kind code queue part : Nat) (value : Word) :
    ∃ fs, s.noticeTo f kind code queue part value = { s with funcs := fs } := by
  unfold State.noticeTo
  extract_lets u
  split
  · exact ⟨_, rfl⟩
  · exact ⟨_, rfl⟩

theorem notice_frame (s : State) (p kind code queue : Nat) (value : Word) :
    ∃ fs, s.notice p kind code queue value = { s with funcs := fs } := by
  unfold State.notice
  extract_lets f u
  obtain ⟨fs, hfs⟩ := noticeTo_frame s f kind code queue p value
  split
  · exact ⟨fs, hfs⟩
  · obtain ⟨gs, hgs⟩ := noticeTo_frame u 0 kind code queue p value
    exact ⟨gs, by rw [hgs, show u = _ from hfs]⟩

theorem noticeAll_frame (kind : Nat) (value : Word) (l : List Nat) (s : State) :
    ∃ fs, noticeAll kind value l s = { s with funcs := fs } := by
  induction l generalizing s with
  | nil => exact ⟨_, rfl⟩
  | cons f l ih =>
    obtain ⟨fs, hfs⟩ := noticeTo_frame s f kind 0 0 (funcPart f) value
    obtain ⟨gs, hgs⟩ := ih (s.noticeTo f kind 0 0 (funcPart f) value)
    exact ⟨gs, by rw [noticeAll, hgs, hfs]⟩

/-- The end of a request changes the requests and the registers of functions. -/
theorem endRequest_frame (s : State) (gst gval : Nat) : ∃ l fs, s.endRequest gst gval = { s with guast := l, funcs := fs } := by
  unfold State.endRequest
  split
  · exact ⟨_, _, rfl⟩
  next f t _ =>
    extract_lets u v w x
    obtain ⟨fs, hfs⟩ := noticeTo_frame v f 3 gst 0 (funcPart f) w
    have hx : x = { s with guast := t, funcs := fs } := hfs
    split
    · exact ⟨_, _, hx⟩
    · obtain ⟨gs, hgs⟩ := noticeTo_frame x 0 3 gst 0 (funcPart f) w
      exact ⟨_, _, by rw [hgs, hx]⟩

/-- A partition that changes its state changes nothing else but the notices. -/
theorem setPartState_frame (s : State) (p : Nat) (st : PartState) :
    ∃ fs, s.setPartState p st = { s.setPart p { s.part p with st := st } with funcs := fs } :=
  notice_frame (s.modPart p (fun v => { v with st := st })) p 2 st.code 0 0

/-! ### The service area (R332, R358) -/

/-- From s to u nothing changes but stored bytes, their tags, marks and codes. -/
def Stored (u s : State) : Prop := ∃ m o p cd, u = { s with mem := m, otag := o, poison := p, code := cd }

theorem Stored.refl (s : State) : Stored s s := ⟨_, _, _, _, rfl⟩

theorem Stored.trans {u v w : State} (h : Stored u v) (h' : Stored v w) : Stored u w := by
  obtain ⟨m, o, p, cd, rfl⟩ := h
  obtain ⟨m', o', p', cd', rfl⟩ := h'
  exact ⟨m, o, p, cd, rfl⟩

theorem hbmWrite_stored (s : State) (t : Tag) (pa : Nat) (v : Word) : Stored (s.hbmWrite t pa v) s := storeSector_frame s _ _

theorem setControl_stored (s : State) (tg : BitVec 16) (acks phase : Nat) : Stored (s.setControl tg acks phase) s :=
  hbmWrite_stored ..

theorem writeService_stored (l : List Word) (a : Nat) (s : State) : Stored (writeService l a s) s := by
  induction l generalizing a s with
  | nil => exact .refl s
  | cons w l ih => exact (ih _ _).trans (hbmWrite_stored ..)

theorem writeWords_stored (base : Nat) (l : List (Nat × Word)) (s : State) : Stored (writeWords base l s) s := by
  induction l generalizing s with
  | nil => exact .refl s
  | cons e l ih =>
    obtain ⟨o, w⟩ := e
    refine (ih _).trans ?_
    split
    · exact .refl s
    · exact hbmWrite_stored ..

theorem beginUpdate_stored (s : State) (u : Update) : Stored (s.beginUpdate u) s :=
  (setControl_stored ..).trans ((writeService_stored ..).trans (hbmWrite_stored ..))

/-- A refresh numbers the survey anew and turns to its other buffer; the rest it changes is stored, or a notice (R358). -/
theorem refresh_frame (s : State) : ∃ m o p cd fs, s.refresh = { s with
    mem := m, otag := o, poison := p, code := cd, funcs := fs,
    survey := { s.survey with gen := (s.survey.gen + 1) % 2 ^ 64, cur := !s.survey.cur } } := by
  unfold State.refresh
  extract_lets gen cur base ws u v w
  have hu : Stored u s := (writeWords_stored base ws _).trans ⟨_, _, _, s.code, rfl⟩
  have hw : Stored w s := (hbmWrite_stored ..).trans ((hbmWrite_stored ..).trans hu)
  obtain ⟨m, o, p, cd, hw⟩ := hw
  obtain ⟨fs, hfs⟩ := noticeAll_frame 5 (BitVec.ofNat 64 gen) (w.funcs.map Prod.fst)
    { w with survey := { w.survey with gen := gen, cur := cur } }
  exact ⟨m, o, p, cd, fs, by rw [hfs, hw]⟩

end Sys2Proof.Machine
end

section
/-! Heartbeats, the reset and the end of a drain of a partition (R198, R357, R360), the survey (R358), and the oldest update of the
remap table (R332, R333, R339, R341, R361). -/

namespace Sys2Proof.Machine

/-! ### What an update leaves of the tables -/

/-- From s to u nothing changes of the routers' table, of their generation, or of the updates that wait. -/
structure SameTable (u s : State) : Prop where
  remap : u.remap = s.remap
  tg : u.tg = s.tg
  updates : u.updates = s.updates

theorem SameTable.trans {u v w : State} (h : SameTable u v) (h' : SameTable v w) : SameTable u w :=
  ⟨h.remap.trans h'.remap, h.tg.trans h'.tg, h.updates.trans h'.updates⟩

theorem SameTable.of_flush {u s : State} (h : FlushFrame u s) : SameTable u s := by
  obtain ⟨m, o, p, l, cd, c, rfl⟩ := h.eq
  exact ⟨rfl, rfl, rfl⟩

theorem SameTable.of_stored {u s : State} (h : Stored u s) : SameTable u s := by
  obtain ⟨m, o, p, cd, rfl⟩ := h
  exact ⟨rfl, rfl, rfl⟩

theorem flushOwn_sameTable (s : State) (c k : Nat) : SameTable (s.flushOwn c k) s := by
  unfold State.flushOwn
  split
  next x _ =>
    split
    · obtain ⟨m, o, p, cd, h⟩ := storeSector_frame s k (x.onto (s.storedSector k))
      rw [h]
      exact ⟨rfl, rfl, rfl⟩
    · exact ⟨rfl, rfl, rfl⟩
  next => exact ⟨rfl, rfl, rfl⟩

theorem evictL1_sameTable (s : State) (c k : Nat) : SameTable (s.evictL1 c k) s := by
  unfold State.evictL1
  split
  next => exact ⟨rfl, rfl, rfl⟩
  next x _ =>
    refine SameTable.trans (v := if x.coh then (if x.dirty then s.recall k else s) else s.flushOwn c k) ⟨rfl, rfl, rfl⟩ ?_
    split
    · split
      · exact .of_flush (recall_flush s k)
      · exact ⟨rfl, rfl, rfl⟩
    · exact flushOwn_sameTable s c k

theorem evictAll_sameTable (n : Nat) (l : List Nat) (s : State) : SameTable (evictAll n l s) s := by
  induction l generalizing s with
  | nil => exact ⟨rfl, rfl, rfl⟩
  | cons k l ih => exact (ih (s.evictL1 n k)).trans (evictL1_sameTable s n k)

/-- What is done before the table changes leaves it (R339). -/
theorem prepareUpdate_sameTable (s : State) (u : Update) : SameTable (s.prepareUpdate u) s := by
  cases u with
  | retire n pc old =>
    exact SameTable.trans (v := evictAll n ((s.core n).l1.map Prod.fst) s) ⟨rfl, rfl, rfl⟩ (evictAll_sameTable ..)
  | boot | restart | death => exact ⟨rfl, rfl, rfl⟩

/-- The routers load the table that HBM holds (R332 step 1). -/
theorem loadTables_spec (s : State) (failed : List Nat) : let t := s.loadTables failed
    t.pending = some s.readRemap ∧ t.flipped = 0 ∧ SameTable t s := by
  obtain ⟨m, o, p, cd, h⟩ := setControl_stored ({ s with pending := some s.readRemap, flipped := 0 } : State) s.nextTg
    ((allSites.filter (fun p => s.siteOpen p.1 p.2)).filter (fun p => !failed.contains (siteKey p.1 p.2))).length 1
  intro t
  have ht : t = _ := h
  rw [ht]
  exact ⟨rfl, rfl, rfl, rfl, rfl⟩

/-! ### The flip (R332 step 2) -/

theorem flipSites_frame (s : State) (r : Remap) (u : Update) :
    ∃ chips sites, s.flipSites r u = { s with chips := chips, sites := sites } := by
  cases u with
  | death px py ns cs =>
    simp only [State.flipSites]
    generalize hdead : cs.foldl _ s = v
    have hv : ∃ chips sites, v = { s with chips := chips, sites := sites } := by
      rw [← hdead]
      refine List.foldlRecOn (motive := fun v : State => ∃ chips sites, v = { s with chips := chips, sites := sites }) cs _
        ⟨s.chips, s.sites, rfl⟩ fun v hv c _ => ?_
      obtain ⟨chips, sites, rfl⟩ := hv
      exact ⟨_, _, rfl⟩
    refine List.foldlRecOn (motive := fun v : State => ∃ chips sites, v = { s with chips := chips, sites := sites }) allSites _
      hv fun v hv p _ => ?_
    obtain ⟨chips, sites, rfl⟩ := hv
    split <;> exact ⟨_, _, rfl⟩
  | boot | retire | restart => exact ⟨_, _, rfl⟩

/-- The last router takes the table: it is the active one, under the next generation. -/
theorem commitTable_spec (s : State) (r : Remap) (u : Update) : let t := s.commitTable r u
    t.remap = r ∧ t.former = some s.remap ∧ t.pending = none ∧ t.tg = s.nextTg ∧ t.flipped = 0 := by
  obtain ⟨chips, sites, h⟩ := flipSites_frame
    ({ s with former := some s.remap, remap := r, pending := none, tg := s.nextTg, flipped := 0 } : State) r u
  intro t
  have ht : t = _ := h
  rw [ht]
  exact ⟨rfl, rfl, rfl, rfl, rfl⟩

/-- Routers of a set take the table: with the last one the flip is done, and before it they alone have switched. -/
theorem flipRouters_spec {s : State} {r : Remap} {u : Update} {rest : List Update} (routers : BitVec 624)
    (hpending : s.pending = some r) (hupdates : s.updates = u :: rest)
    (hphase : (s.phase = 1 ∧ s.acks = s.liveSites) ∨ s.phase = 2) :
    let live := siteSet (fun p => s.siteOpen p.1 p.2)
    let done := (s.flipped ||| routers) &&& live
    ∃ t, flipRouters routers s = .next t
      ∧ (done = live → t.remap = r ∧ t.former = some s.remap ∧ t.pending = none ∧ t.tg = s.nextTg ∧ t.flipped = 0)
      ∧ (done ≠ live → t.remap = s.remap ∧ t.pending = some r ∧ t.tg = s.tg ∧ t.flipped = done) := by
  intro live done
  obtain ⟨m, o, p, cd, hv⟩ := setControl_stored s s.nextTg (siteCount done) 2
  have hready : ((s.phase == 1 && s.acks == s.liveSites) || s.phase == 2) = true := by simpa using hphase
  refine ⟨if done = live then (s.setControl s.nextTg (siteCount done) 2).commitTable r u
    else { s.setControl s.nextTg (siteCount done) 2 with flipped := done }, ?_, fun hdone => ?_, fun hdone => ?_⟩
  · simp only [flipRouters, hpending, hupdates]
    exact whenEnabled_true hready _
  · rw [if_pos hdone, hv]
    exact commitTable_spec _ r u
  · rw [if_neg hdone, hv]
    exact ⟨rfl, hpending, rfl, rfl⟩

/-! ### Fences (R332 step 3) -/

theorem site_setSite_fenced {s : State} {px py : Nat} (h : (s.site px py).fenced = true) (x y : Nat) :
    ((s.setSite x y { s.site x y with fenced := true }).site px py).fenced = true := by
  simp only [State.site, State.setSite, Tab.getD_set]
  split
  · rfl
  · exact h

/-- Fencing changes sites only; no fence is taken down, and the sites that no entry names any longer have one. -/
theorem fenceUnnamed_spec (r : Remap) (l : List (BitVec 32)) (s : State) :
    (∃ sites, fenceUnnamed r l s = { s with sites := sites })
    ∧ (∀ px py, (s.site px py).fenced = true → ((fenceUnnamed r l s).site px py).fenced = true)
    ∧ ∀ e ∈ l, e.getLsbD 31 = true → r.namesSite (entryPx e) (entryPy e) = false →
      ((fenceUnnamed r l s).site (entryPx e) (entryPy e)).fenced = true := by
  induction l generalizing s with
  | nil => exact ⟨⟨_, rfl⟩, fun _ _ h => h, nofun⟩
  | cons e l ih =>
    unfold fenceUnnamed
    extract_lets x y
    split
    next hfence =>
      obtain ⟨⟨sites, hframe⟩, hkeep, hnew⟩ := ih (s.setSite x y { s.site x y with fenced := true })
      refine ⟨⟨sites, hframe⟩, fun px py h => hkeep px py (site_setSite_fenced h x y), fun d hd hset hname => ?_⟩
      rcases List.mem_cons.1 hd with rfl | hd
      · refine hkeep _ _ ?_
        show (Tab.getD (Tab.set s.sites (siteKey x y) _) (siteKey x y) _).fenced = true
        rw [Tab.getD_set_self]
      · exact hnew d hd hset hname
    next hfence =>
      obtain ⟨hframe, hkeep, hnew⟩ := ih s
      refine ⟨hframe, hkeep, fun d hd hset hname => ?_⟩
      rcases List.mem_cons.1 hd with rfl | hd
      · exact absurd (by rw [hset, hname]; rfl) hfence
      · exact hnew d hd hset hname

/-! ### What ends an update (R333, R339) -/

theorem endRetire_frame (s : State) (n gst : Nat) : ∃ l fs, s.endRetire n gst = { s with guast := l, funcs := fs } := by
  unfold State.endRetire
  split
  · exact ⟨_, _, rfl⟩
  · extract_lets u
    split
    · exact endRequest_frame ..
    · exact ⟨_, _, rfl⟩

/-- A retired core goes on, under the table as it is (R339 step 5). -/
theorem finishRetire_spec (s : State) (n : Nat) (old : BitVec 32) : let t := s.finishRetire n old
    (t.core n).retiring = false ∧ t.remap = s.remap ∧ t.tg = s.tg := by
  let u := (s.loseCore old).modCore n (fun c => { c with retiring := false })
  have hcore : (u.core n).retiring = false := congrArg Core.retiring (core_modCore_self (s.loseCore old) n _)
  cases hp : u.partOfCore n with
  | some p =>
    obtain ⟨l, fs, h⟩ := endRetire_frame (u.modPart p (fun v => v.dropNotices n)) n 0
    simp only [State.finishRetire, u, hp] at h hcore ⊢
    rw [h]
    exact ⟨hcore, rfl, rfl⟩
  | none =>
    obtain ⟨l, fs, h⟩ := endRetire_frame u n 0
    simp only [State.finishRetire, u, hp] at h hcore ⊢
    rw [h]
    exact ⟨hcore, rfl, rfl⟩

/-! ### The statement -/

/-- Settles O42, one clause after the other. -/
theorem partitionRemapEvents : Obligations.PartitionRemapEvents := by
  refine ⟨?heartbeat, ?reset, ?drained, ?survey, ?load, ?flip, ?flips, ?confirm, ?idle, ?retire, ?boot⟩
  case heartbeat =>
    intro s p v hv w
    refine ⟨fun hw => ?_, fun hw => ?_⟩
    · show execHeartbeatRead p s = _
      simp only [execHeartbeatRead, hv]
      rw [if_pos hw]
    · show execHeartbeatRead p s = _
      simp only [execHeartbeatRead, hv]
      rw [if_neg hw]
  case reset =>
    intro s p landed v hv hbeat
    have hlate : ¬ v.beatSame < 64 := Nat.not_lt.2 hbeat
    refine ⟨fun hp => ?_, fun hp => ?_⟩
    · show execPartitionReset p landed s = _
      simp only [execPartitionReset, hv, hlate, if_false]
      rw [if_pos hp]
    · show execPartitionReset p landed s = _
      simp only [execPartitionReset, hv, hlate, hp, if_false]
  case drained =>
    intro s p hst hregions
    have hall : s.regions.all (fun e => e.2.part != p || !(e.2.st == .running || e.2.st == .preempted)) = true :=
      List.all_eq_true.2 fun e he => by simpa [or_iff_not_imp_left] using hregions e he
    obtain ⟨fs, hframe⟩ := setPartState_frame s p .drained
    refine ⟨s.setPartState p .drained, whenEnabled_true (by rw [hst, hall]; rfl) _, ?_, ?_⟩
    · rw [hframe]
      exact congrArg Part.st (State.part_setPart s p _)
    · rw [hframe]
      exact ⟨rfl, rfl⟩
  case survey =>
    intro s
    obtain ⟨m, o, p, cd, fs, hframe⟩ := refresh_frame s
    refine ⟨s.refresh, rfl, ?_⟩
    rw [hframe]
    exact ⟨rfl, rfl, rfl, rfl⟩
  case load =>
    intro s failed u rest hupdates
    refine ⟨fun hphase hvoid => ?_, fun hphase hvoid hready => ?_, fun hphase hacks => ?_⟩
    · show execRemapLoad failed s = _
      simp only [execRemapLoad, hupdates, hphase, hvoid, if_true]
    · obtain ⟨hpending, hflipped, htable⟩ := loadTables_spec ((s.prepareUpdate u).beginUpdate u) failed
      obtain ⟨hremap, htg, hupd⟩ :=
        htable.trans ((SameTable.of_stored (beginUpdate_stored _ u)).trans (prepareUpdate_sameTable s u))
      refine ⟨_, ?_, hpending, hflipped, hremap, htg, hupd⟩
      show execRemapLoad failed s = _
      simp only [execRemapLoad, hupdates, hphase, hvoid, if_true, Bool.false_eq_true, if_false]
      exact whenEnabled_true hready _
    · show execRemapLoad failed s = _
      simp only [execRemapLoad, hupdates, hphase, Nat.one_ne_zero, if_false]
      exact whenEnabled_true (by simpa using hacks) _
  case flip =>
    intro s r u rest hpending hupdates hphase
    obtain ⟨t, hexec, hdone, -⟩ := flipRouters_spec (BitVec.allOnes 624) hpending hupdates hphase
    exact ⟨t, hexec, hdone (by rw [BitVec.or_allOnes, BitVec.allOnes_and])⟩
  case flips =>
    intro s v routers later r u rest hpre hagenda hv hpending hupdates hphase live done
    obtain ⟨t, hexec, hdone⟩ := flipRouters_spec routers hpending hupdates hphase
    refine ⟨t, ?_, hdone⟩
    rw [step, hpre, List.isEmpty_nil, if_pos rfl, hagenda]
    rw [hv] at hexec
    exact hexec
  case confirm =>
    intro s hpending hphase hreleased
    have hready : (s.pending.isNone && (s.phase == 2 || s.phase == 3) && s.released) = true := by
      simpa [hpending, hreleased] using hphase
    refine ⟨_, whenEnabled_true hready _, ?_⟩
    cases hformer : s.former with
    | none =>
      obtain ⟨m, o, p, cd, hstored⟩ := setControl_stored ({ s with former := none } : State) s.tg s.liveSites 3
      dsimp only
      rw [hstored]
      exact ⟨rfl, rfl, rfl, rfl, nofun⟩
    | some old =>
      obtain ⟨⟨sites, hframe⟩, -, hfenced⟩ := fenceUnnamed_spec s.remap (changedEntries old s.remap) s
      dsimp only
      obtain ⟨m, o, p, cd, hstored⟩ := setControl_stored
        ({ fenceUnnamed s.remap (changedEntries old s.remap) s with former := none } : State)
        (fenceUnnamed s.remap (changedEntries old s.remap) s).tg (fenceUnnamed s.remap (changedEntries old s.remap) s).liveSites 3
      rw [hstored]
      refine ⟨by rw [hframe], by rw [hframe], by rw [hframe], rfl, fun old' e hold he hset hname => ?_⟩
      obtain rfl : old = old' := Option.some.inj hold
      exact hfenced e he hset hname
  case idle =>
    intro s u rest hupdates hphase hpending hacks
    show execRemapIdle s = _
    simp only [execRemapIdle, hupdates]
    exact whenEnabled_true (by simp [hphase, hpending, hacks]) _
  case retire =>
    intro s n pc old
    exact finishRetire_spec s n old
  case boot =>
    intro s r t
    refine ⟨fun haccept => ?_, fun haccept => ?_⟩
    · have ht : t = _ := if_pos haccept
      rw [ht]
      exact ⟨rfl, rfl⟩
    · have ht : t = _ := if_neg (by rw [haccept]; exact Bool.false_ne_true)
      rw [ht]
      exact ⟨rfl, rfl⟩

end Sys2Proof.Machine
end

section
/-! Requests of Guast (R352 to R358): the oldest request, the arguments that name bits of GARG, and what each granted request
leaves. -/

namespace Sys2Proof.Machine

/-! ### The oldest request (R352, R354) -/

/-- A request that its function may make, with an argument that is not bad, is carried out. -/
theorem requestEvent_run {s : State} {f op g : Nat} {rest : List Nat} {sub bad : Nat → Nat → State → Bool}
    (h : s.asksFor f op g rest) (hsub : sub f g s = true) (hbad : bad f g s = false) (run : Nat → Nat → State → Out) :
    requestEvent op sub bad run s = run f g s := by
  obtain ⟨hguast, hop, harg, hmay⟩ := h
  simp only [requestEvent, hguast, hop, harg, hsub, hmay, hbad, and_self, if_true, Bool.not_true, Bool.false_eq_true, if_false]

/-- A request that its function may not make ends with GST 1. -/
theorem requestEvent_forbidden {s : State} {f op : Nat} {rest : List Nat} {sub : Nat → Nat → State → Bool}
    (hguast : s.guast = f :: rest) (hop : (s.func f).gop.toNat = op) (hsub : sub f (s.func f).garg.toNat s = true)
    (hmay : mayRequest f op = false) (bad : Nat → Nat → State → Bool) (run : Nat → Nat → State → Out) :
    requestEvent op sub bad run s = .next (s.endRequest 1 0) := by
  simp only [requestEvent, hguast, hop, hsub, hmay, and_self, if_true, Bool.not_false]

theorem func_noticeTo (s : State) (f kind code queue part : Nat) (value : Word) (n : Nat) :
    let u := (s.noticeTo f kind code queue part value).func n
    u.done = (s.func n).done ∧ u.gst = (s.func n).gst ∧ u.gval = (s.func n).gval := by
  simp only [State.noticeTo]
  split
  · exact ⟨rfl, rfl, rfl⟩
  · by_cases h : n = f
    · subst h
      rw [State.func_setFunc]
      exact ⟨rfl, rfl, rfl⟩
    · rw [State.func_setFunc_ne _ _ h]
      exact ⟨rfl, rfl, rfl⟩

/-- The end of the oldest request: its registers say so, and the next request is the oldest. -/
theorem ended_endRequest {s : State} {f : Nat} {rest : List Nat} (h : s.guast = f :: rest) (gst gval : Nat) :
    (s.endRequest gst gval).ended f gst gval rest := by
  unfold State.endRequest
  rw [h]
  dsimp only
  generalize BitVec.ofNat 64 ((s.func f).gop.toNat * 2 ^ 56 + gval % 2 ^ 48) = w
  generalize hv : State.setFunc { s with guast := rest } f _ = v
  have hguast : v.guast = rest := by rw [← hv]; rfl
  have hfunc : v.func f = { s.func f with gst := BitVec.ofNat 8 gst, gval := BitVec.ofNat 48 gval, done := true } := by
    rw [← hv, State.func_setFunc]
  obtain ⟨fs, hfs⟩ := noticeTo_frame v f 3 gst 0 (funcPart f) w
  obtain ⟨hdone, hgst, hgval⟩ := func_noticeTo v f 3 gst 0 (funcPart f) w f
  obtain ⟨gs, hgs⟩ := noticeTo_frame (v.noticeTo f 3 gst 0 (funcPart f) w) 0 3 gst 0 (funcPart f) w
  obtain ⟨hdone', hgst', hgval'⟩ := func_noticeTo (v.noticeTo f 3 gst 0 (funcPart f) w) 0 3 gst 0 (funcPart f) w f
  rw [hfunc] at hdone hgst hgval
  split
  · exact ⟨by rw [hfs]; exact hguast, hdone, hgst, hgval⟩
  · exact ⟨by rw [hgs, hfs]; exact hguast, hdone'.trans hdone, hgst'.trans hgst, hgval'.trans hgval⟩

section
variable (s : State) (gst gval : Nat)

@[simp] theorem part_endRequest (p : Nat) : (s.endRequest gst gval).part p = s.part p := by
  obtain ⟨l, fs, hframe⟩ := endRequest_frame s gst gval
  rw [hframe]
  rfl

@[simp] theorem slot_endRequest (k : BitVec 6) : (s.endRequest gst gval).slot k = s.slot k := by
  obtain ⟨l, fs, hframe⟩ := endRequest_frame s gst gval
  rw [hframe]
  rfl

@[simp] theorem chip_endRequest (c : Nat) : (s.endRequest gst gval).chip c = s.chip c := by
  obtain ⟨l, fs, hframe⟩ := endRequest_frame s gst gval
  rw [hframe]
  rfl

@[simp] theorem tout_endRequest : (s.endRequest gst gval).tout = s.tout := by
  obtain ⟨l, fs, hframe⟩ := endRequest_frame s gst gval
  rw [hframe]

@[simp] theorem power_endRequest : (s.endRequest gst gval).power = s.power := by
  obtain ⟨l, fs, hframe⟩ := endRequest_frame s gst gval
  rw [hframe]

@[simp] theorem survey_endRequest : (s.endRequest gst gval).survey = s.survey := by
  obtain ⟨l, fs, hframe⟩ := endRequest_frame s gst gval
  rw [hframe]

end

theorem sameMemory_endRequest {s u : State} (h : s.sameMemory u) (gst gval : Nat) : s.sameMemory (u.endRequest gst gval) := by
  obtain ⟨l, fs, hframe⟩ := endRequest_frame u gst gval
  rw [hframe]
  exact h

/-- The same of a state that holds the requests of one in which a request is the oldest. -/
theorem State.asksFor.ended {s u : State} {f op g : Nat} {rest : List Nat} {gst gval : Nat} (h : s.asksFor f op g rest)
    (hguast : u.guast = s.guast) : (u.endRequest gst gval).ended f gst gval rest :=
  ended_endRequest (hguast.trans h.1) gst gval

/-! ### The state of a partition (R357) -/

theorem part_modPart (s : State) (p : Nat) (f : Part → Part) : (s.modPart p f).part p = f (s.part p) :=
  State.part_setPart s p _

@[simp] theorem st_setPartState (s : State) (p : Nat) (st : PartState) : ((s.setPartState p st).part p).st = st := by
  obtain ⟨fs, hstate⟩ := setPartState_frame s p st
  rw [hstate]
  exact congrArg Part.st (State.part_setPart s p _)

@[simp] theorem guast_setPartState (s : State) (p : Nat) (st : PartState) : (s.setPartState p st).guast = s.guast := by
  obtain ⟨fs, hstate⟩ := setPartState_frame s p st
  rw [hstate]
  rfl

theorem sameMemory_setPartState (s : State) (p : Nat) (st : PartState) : s.sameMemory (s.setPartState p st) := by
  obtain ⟨fs, hstate⟩ := setPartState_frame s p st
  rw [hstate]
  exact ⟨rfl, rfl⟩

/-! ### Bits of GARG (R354) -/

/-- An argument within the low bits of a mask of ones has no unnamed bit. -/
theorem unnamed_of_lt {g n : Nat} (h : g < 2 ^ n) : unnamed g (2 ^ n - 1) = false := by
  rw [unnamed, Nat.and_two_pow_sub_one_eq_mod, Nat.mod_eq_of_lt h, bne_self_eq_false]

/-- Fields that stand above one another have no unnamed bit when neither has. -/
theorem unnamed_add {a b ma mb n : Nat} (hb : b < 2 ^ n) (hmb : mb < 2 ^ n) (hlow : unnamed b mb = false)
    (hhigh : unnamed a ma = false) : unnamed (b + 2 ^ n * a) (mb + 2 ^ n * ma) = false := by
  have hlow : b &&& mb = b := bne_eq_false_iff_eq.1 hlow
  have hhigh : a &&& ma = a := bne_eq_false_iff_eq.1 hhigh
  refine bne_eq_false_iff_eq.2 (Nat.eq_of_testBit_eq fun i => ?_)
  rw [Nat.testBit_and, Nat.add_comm b, Nat.add_comm mb, Nat.testBit_two_pow_mul_add a hb, Nat.testBit_two_pow_mul_add ma hmb]
  split
  · rw [← Nat.testBit_and, hlow]
  · rw [← Nat.testBit_and, hhigh]

/-- A flag at bit 40 and SUB above a field of n bits, in the mask of SET_FABRIC. -/
theorem unnamed_fabric {b n : Nat} (hb : b < 2 ^ n) {a ma : Nat} (hhigh : a &&& ma = a) :
    unnamed (b + 2 ^ n * a) (2 ^ n - 1 + 2 ^ n * ma) = false :=
  unnamed_add hb (Nat.sub_lt (Nat.two_pow_pos n) Nat.one_pos) (unnamed_of_lt hb) (bne_eq_false_iff_eq.2 hhigh)

theorem testBit_eq_of_div {g i : Nat} {v : Bool} (h : g / 2 ^ i % 2 = v.toNat) : g.testBit i = v := by
  rw [Nat.testBit_eq_decide_div_mod_eq, h]
  cases v <;> rfl

/-- The partition that an argument names: PART for the physical function, and its own for a virtual one. -/
theorem argPart_eq {f g p : Nat} (hp : p = if f = 0 then g else f) (hg : if f = 0 then g ≤ 64 else g = 0) :
    argPart f g = p ∧ ∀ s, badDrain f g s = false := by
  by_cases hf : f = 0
  · rw [if_pos hf] at hp hg
    have hnamed : unnamed g 0x7F = false := unnamed_of_lt (n := 7) (by omega)
    refine ⟨by rw [argPart, if_pos hf, hp, Nat.mod_eq_of_lt (by omega)], fun s => ?_⟩
    simp only [badDrain, badPart, hf, hnamed, if_true, Bool.false_or, decide_eq_false_iff_not]
    omega
  · rw [if_neg hf] at hp hg
    refine ⟨by rw [argPart, if_neg hf, hp], fun s => ?_⟩
    subst hg
    simp only [badDrain, badPart, if_neg hf]
    decide

/-! ### OFFLINE (R357) -/

/-- Returning banks to CACHE mode changes chiplets and storage only. -/
theorem freeBanks_frame (c : Nat) (l : List Nat) (s : State) :
    ∃ h m o p, freeBanks c l s = { s with chips := h, mem := m, otag := o, poison := p } := by
  induction l generalizing s with
  | nil => exact ⟨_, _, _, _, rfl⟩
  | cons b l ih =>
    obtain ⟨h, m, o, p, hframe⟩ := ih ((s.nullBank c b).modChip c (fun h =>
      h.setBank b { h.bank b with mode := .cache, moveTo := none, holder := none, bufs := [] }))
    exact ⟨h, m, o, p, hframe⟩

theorem cacheBanks_frame (l : List Nat) (s : State) :
    ∃ h m o p, cacheBanks l s = { s with chips := h, mem := m, otag := o, poison := p } := by
  induction l generalizing s with
  | nil => exact ⟨_, _, _, _, rfl⟩
  | cons c l ih =>
    obtain ⟨h, m, o, p, hframe⟩ := ih (freeBanks c ((s.chip c).banks.map Prod.fst) s)
    obtain ⟨h', m', o', p', hfree⟩ := freeBanks_frame c ((s.chip c).banks.map Prod.fst) s
    exact ⟨h, m, o, p, by rw [cacheBanks, hframe, hfree]⟩

/-- Bank b of chiplet c is in CACHE mode. -/
def State.cached (s : State) (c b : Nat) : Prop := ((s.chip c).bank b).mode = .cache

theorem mode_setBank (h : Chiplet) (b j : Nat) (v : Bank) (hv : v.mode = .cache) :
    ((h.setBank b v).bank j).mode = if j = b then .cache else (h.bank j).mode := by
  simp only [Chiplet.bank, Chiplet.setBank, Tab.getD_set]
  split
  · exact hv
  · rfl

/-- The banks returned are in CACHE mode, and so are those that were. -/
theorem freeBanks_cached (c : Nat) (l : List Nat) (s : State) :
    (∀ n b, s.cached n b → (freeBanks c l s).cached n b) ∧ ∀ b ∈ l, (freeBanks c l s).cached c b := by
  induction l generalizing s with
  | nil => exact ⟨fun _ _ h => h, nofun⟩
  | cons b l ih =>
    obtain ⟨hkeep, hlist⟩ := ih ((s.nullBank c b).modChip c (fun h =>
      h.setBank b { h.bank b with mode := .cache, moveTo := none, holder := none, bufs := [] }))
    refine ⟨fun n j h => hkeep n j ?_, fun j hj => ?_⟩
    · rw [State.cached, State.modChip_eq]
      by_cases hn : n = c
      · subst hn
        rw [State.chip_setChip, mode_setBank _ _ _ _ rfl]
        split
        · rfl
        · exact h
      · rw [State.chip_setChip_ne _ _ hn]
        exact h
    · rcases List.mem_cons.1 hj with rfl | hj
      · refine hkeep c j ?_
        rw [State.cached, State.modChip_eq, State.chip_setChip, mode_setBank _ _ _ _ rfl, if_pos rfl]
      · exact hlist j hj

theorem mem_of_find {α : Type} {t : Tab α} {k : Nat} {v : α} (h : Tab.find t k = some v) : (k, v) ∈ t := by
  induction t with
  | nil => cases h
  | cons e t ih =>
    obtain ⟨j, w⟩ := e
    rw [Tab.find] at h
    split at h
    next hj =>
      cases h
      exact hj ▸ List.mem_cons_self
    next => exact List.mem_cons_of_mem _ (ih h)

/-- A bank that a chiplet does not list is in CACHE mode (R206). -/
theorem cached_of_not_mem {s : State} {c b : Nat} (h : b ∉ (s.chip c).banks.map Prod.fst) : s.cached c b := by
  cases hb : Tab.find (s.chip c).banks b with
  | none => simp [State.cached, Chiplet.bank, Tab.getD, hb, Bank.clear]
  | some v => exact absurd (List.mem_map.2 ⟨_, mem_of_find hb, rfl⟩) h

/-- Every bank of the chiplets is in CACHE mode afterwards. -/
theorem cacheBanks_cached (l : List Nat) (s : State) :
    (∀ n b, s.cached n b → (cacheBanks l s).cached n b) ∧ ∀ c ∈ l, ∀ b, (cacheBanks l s).cached c b := by
  induction l generalizing s with
  | nil => exact ⟨fun _ _ h => h, nofun⟩
  | cons c l ih =>
    obtain ⟨hold, hlist⟩ := ih (freeBanks c ((s.chip c).banks.map Prod.fst) s)
    obtain ⟨hkeep, hfree⟩ := freeBanks_cached c ((s.chip c).banks.map Prod.fst) s
    refine ⟨fun n b h => hold n b (hkeep n b h), fun d hd b => ?_⟩
    rcases List.mem_cons.1 hd with rfl | hd
    · by_cases hb : b ∈ (s.chip d).banks.map Prod.fst
      · exact hold d b (hfree b hb)
      · exact hold d b (hkeep d b (cached_of_not_mem hb))
    · exact hlist d hd b

theorem retireSlots_frame (l : List (Nat × KeySlot)) (p : Nat) (s : State) :
    ∃ ks, retireSlots l p s = { s with slots := ks } := by
  induction l generalizing s with
  | nil => exact ⟨_, rfl⟩
  | cons e l ih =>
    obtain ⟨k, v⟩ := e
    unfold retireSlots
    split
    · obtain ⟨ks, hks⟩ := ih (s.retireSlot (BitVec.ofNat 6 k))
      exact ⟨ks, hks⟩
    · exact ih s

theorem slot_modSlot (s : State) (j k : BitVec 6) (f : KeySlot → KeySlot) :
    (s.modSlot j f).slot k = if k = j then f (s.slot j) else s.slot k := by
  rw [State.slot, State.modSlot, Tab.getD_set, State.slot]
  simp only [BitVec.toNat_inj]
  rfl

/-- A slot retired holds no job, nor does one that held none. -/
theorem root_retireSlot (s : State) (j k : BitVec 6) (h : k = j ∨ (s.slot k).root = none) :
    ((s.retireSlot j).slot k).root = none := by
  rw [State.retireSlot, slot_modSlot]
  split
  next =>
    split
    · rfl
    · rfl
  next hne => exact h.resolve_left hne

/-- The slots of a partition's jobs are retired. -/
theorem retireSlots_root (l : List (Nat × KeySlot)) (p : Nat) (s : State) :
    (∀ k, (s.slot k).root = none → ((retireSlots l p s).slot k).root = none)
    ∧ ∀ e ∈ l, e.2.root.isSome → e.2.part = p → ((retireSlots l p s).slot (BitVec.ofNat 6 e.1)).root = none := by
  induction l generalizing s with
  | nil => exact ⟨fun _ h => h, nofun⟩
  | cons e l ih =>
    obtain ⟨k, v⟩ := e
    unfold retireSlots
    split
    next =>
      obtain ⟨hkeep, hlist⟩ := ih (s.retireSlot (BitVec.ofNat 6 k))
      refine ⟨fun j h => hkeep j (root_retireSlot s _ j (.inr h)), fun d hd hroot hpart => ?_⟩
      rcases List.mem_cons.1 hd with rfl | hd
      · exact hkeep _ (root_retireSlot s _ _ (.inl rfl))
      · exact hlist d hd hroot hpart
    next hnot =>
      obtain ⟨hkeep, hlist⟩ := ih s
      refine ⟨hkeep, fun d hd hroot hpart => ?_⟩
      rcases List.mem_cons.1 hd with rfl | hd
      · exact absurd ⟨hroot, hpart⟩ hnot
      · exact hlist d hd hroot hpart

/-- No slot of a partition but the service partition holds a job once its slots are retired. -/
theorem root_retireSlots_part {s u : State} (hslots : u.slots = s.slots) {p : Nat} (hp : 0 < p) {k : BitVec 6}
    (hk : (s.slot k).part = p) : ((retireSlots s.slots p u).slot k).root = none := by
  obtain ⟨hkeep, hlist⟩ := retireSlots_root s.slots p u
  cases hfind : Tab.find s.slots k.toNat with
  | none =>
    simp only [State.slot, Tab.getD, hfind, Option.getD_none, KeySlot.clear] at hk
    omega
  | some v =>
    have hslot : s.slot k = v := by simp only [State.slot, Tab.getD, hfind, Option.getD_some]
    cases hroot : v.root with
    | none =>
      refine hkeep k ?_
      rw [State.slot, hslots]
      exact (congrArg KeySlot.root hslot).trans hroot
    | some r =>
      have hnone := hlist _ (mem_of_find hfind) (by rw [hroot]; rfl) (hslot ▸ hk)
      rwa [BitVec.ofNat_toNat, BitVec.setWidth_eq] at hnone

/-! ### Tables of admission (R343, R345) -/

theorem mem_admitted {α : Type} [DecidableEq α] (l : List α) (x : α) (add : Bool) : x ∈ admitted l x add ↔ add = true := by
  cases add with
  | false => simp [admitted]
  | true =>
    simp only [admitted, if_true, iff_true]
    split
    next h => exact List.contains_iff_mem.1 h
    next => simp

/-! ### The fields of GARG of SET_FABRIC (R343, R345, R346) -/

theorem flag_eq_mul_toNat (v : Bool) (n : Nat) : (if v then n else 0) = n * v.toNat := by
  cases v <;> simp

/-- SUB 0: the slot, its panel, remote slot and generation, and whether it is valid. -/
theorem fabricSlot_fields {k r : BitVec 6} {panel : BitVec 12} {gen : BitVec 16} {v : Bool} {g : Nat}
    (hg : g = k.toNat + 2 ^ 6 * panel.toNat + 2 ^ 18 * r.toNat + 2 ^ 24 * gen.toNat + if v then 2 ^ 40 else 0) :
    subOf g = 0 ∧ unnamed g (2 ^ 41 - 1) = false ∧ BitVec.ofNat 6 g = k ∧ g.testBit 40 = v
      ∧ BitVec.ofNat 12 (fieldOf g 17 6) = panel ∧ BitVec.ofNat 6 (fieldOf g 23 18) = r
      ∧ BitVec.ofNat 16 (fieldOf g 39 24) = gen := by
  have hk := k.isLt
  have hp := panel.isLt
  have hr := r.isLt
  have hn := gen.isLt
  have hv : g = k.toNat + 2 ^ 6 * panel.toNat + 2 ^ 18 * r.toNat + 2 ^ 24 * gen.toNat + 2 ^ 40 * v.toNat := by
    rw [hg, flag_eq_mul_toNat]
  have hb : v.toNat ≤ 1 := v.toNat_le
  clear hg
  refine ⟨?_, unnamed_of_lt (n := 41) (by omega), ?_, testBit_eq_of_div (by omega), ?_, ?_, ?_⟩
  · rw [subOf, fieldOf]
    omega
  · exact BitVec.eq_of_toNat_eq (by rw [BitVec.toNat_ofNat]; omega)
  · exact BitVec.eq_of_toNat_eq (by rw [BitVec.toNat_ofNat, fieldOf]; omega)
  · exact BitVec.eq_of_toNat_eq (by rw [BitVec.toNat_ofNat, fieldOf]; omega)
  · exact BitVec.eq_of_toNat_eq (by rw [BitVec.toNat_ofNat, fieldOf]; omega)

/-- SUB 1: the slot, the panel and slot admitted, and whether they are added. -/
theorem fabricAdmission_fields {k r : BitVec 6} {panel : BitVec 12} {add : Bool} {g : Nat}
    (hg : g = k.toNat + 2 ^ 6 * panel.toNat + 2 ^ 18 * r.toNat + (if add then 2 ^ 40 else 0) + 2 ^ 52) :
    subOf g = 1 ∧ unnamed g (0xFFFFFF + 2 ^ 40 + 15 * 2 ^ 52) = false ∧ BitVec.ofNat 6 g = k ∧ g.testBit 40 = add
      ∧ BitVec.ofNat 12 (fieldOf g 17 6) = panel ∧ BitVec.ofNat 6 (fieldOf g 23 18) = r := by
  have hk := k.isLt
  have hp := panel.isLt
  have hr := r.isLt
  have hv : g = k.toNat + 2 ^ 6 * panel.toNat + 2 ^ 18 * r.toNat + 2 ^ 24 * (2 ^ 16 * add.toNat + 2 ^ 28) := by
    rw [hg, flag_eq_mul_toNat]
    omega
  have hb : add.toNat ≤ 1 := add.toNat_le
  have hnamed := unnamed_fabric (b := k.toNat + 2 ^ 6 * panel.toNat + 2 ^ 18 * r.toNat) (n := 24) (by omega)
    (a := 2 ^ 16 * add.toNat + 2 ^ 28) (ma := 2 ^ 16 + 15 * 2 ^ 28) (by cases add <;> decide)
  rw [← hv, show 2 ^ 24 - 1 + 2 ^ 24 * (2 ^ 16 + 15 * 2 ^ 28) = 0xFFFFFF + 2 ^ 40 + 15 * 2 ^ 52 by norm_num] at hnamed
  clear hg
  refine ⟨?_, hnamed, ?_, testBit_eq_of_div (by omega), ?_, ?_⟩
  · rw [subOf, fieldOf]
    omega
  · exact BitVec.eq_of_toNat_eq (by rw [BitVec.toNat_ofNat]; omega)
  · exact BitVec.eq_of_toNat_eq (by rw [BitVec.toNat_ofNat, fieldOf]; omega)
  · exact BitVec.eq_of_toNat_eq (by rw [BitVec.toNat_ofNat, fieldOf]; omega)

/-- SUB 2: the partition, the panel admitted, and whether it is added. -/
theorem fabricSend_fields {p : Nat} {panel : BitVec 12} {add : Bool} {g : Nat} (hp : p ≤ 64)
    (hg : g = p + 2 ^ 7 * panel.toNat + (if add then 2 ^ 40 else 0) + 2 * 2 ^ 52) :
    subOf g = 2 ∧ unnamed g (0x7FF7F + 2 ^ 7 + 2 ^ 40 + 15 * 2 ^ 52) = false ∧ g % 128 = p ∧ g.testBit 40 = add
      ∧ BitVec.ofNat 12 (fieldOf g 18 7) = panel := by
  have hn := panel.isLt
  have hv : g = p + 2 ^ 7 * panel.toNat + 2 ^ 19 * (2 ^ 21 * add.toNat + 2 * 2 ^ 33) := by
    rw [hg, flag_eq_mul_toNat]
    omega
  have hb : add.toNat ≤ 1 := add.toNat_le
  have hnamed := unnamed_fabric (b := p + 2 ^ 7 * panel.toNat) (n := 19) (by omega)
    (a := 2 ^ 21 * add.toNat + 2 * 2 ^ 33) (ma := 2 ^ 21 + 15 * 2 ^ 33) (by cases add <;> decide)
  rw [← hv, show 2 ^ 19 - 1 + 2 ^ 19 * (2 ^ 21 + 15 * 2 ^ 33) = 0x7FF7F + 2 ^ 7 + 2 ^ 40 + 15 * 2 ^ 52 by norm_num] at hnamed
  clear hg
  refine ⟨?_, hnamed, by omega, testBit_eq_of_div (by omega), ?_⟩
  · rw [subOf, fieldOf]
    omega
  · exact BitVec.eq_of_toNat_eq (by rw [BitVec.toNat_ofNat, fieldOf]; omega)

/-- SUB 3: the panel and the mask of its wharves. -/
theorem fabricRoute_fields {panel : BitVec 12} {mask : BitVec 16} {g : Nat}
    (hg : g = panel.toNat + 2 ^ 12 * mask.toNat + 3 * 2 ^ 52) :
    subOf g = 3 ∧ unnamed g (0xFFFFFFF + 15 * 2 ^ 52) = false ∧ g % 4096 = panel.toNat
      ∧ BitVec.ofNat 16 (fieldOf g 27 12) = mask := by
  have hp := panel.isLt
  have hm := mask.isLt
  have hv : g = panel.toNat + 2 ^ 12 * mask.toNat + 2 ^ 28 * (3 * 2 ^ 24) := by omega
  have hnamed := unnamed_fabric (b := panel.toNat + 2 ^ 12 * mask.toNat) (n := 28) (by omega)
    (a := 3 * 2 ^ 24) (ma := 15 * 2 ^ 24) (by decide)
  rw [← hv, show 2 ^ 28 - 1 + 2 ^ 28 * (15 * 2 ^ 24) = 0xFFFFFFF + 15 * 2 ^ 52 by norm_num] at hnamed
  refine ⟨?_, hnamed, by omega, ?_⟩
  · rw [subOf, fieldOf]
    omega
  · exact BitVec.eq_of_toNat_eq (by rw [BitVec.toNat_ofNat, fieldOf]; omega)

/-! ### Changes of a partition's state (R357) -/

/-- A change that the state of the partition allows is made, and one that it refuses ends with GST 1. -/
theorem partEvent_run {s : State} {f op g p : Nat} {rest : List Nat} {bad : Nat → Nat → State → Bool} {ok : PartState → Bool}
    (h : s.asksFor f op g rest) (hp : argPart f g = p) (hbad : bad f g s = false) (hpart : s.hasPart p = true)
    (run : Nat → State → State) : partEvent op bad ok run s
      = if ok (s.part p).st then .next ((run p s).endRequest 0 0) else .next (s.endRequest 1 0) := by
  rw [partEvent, requestEvent_run h rfl hbad]
  simp only [hp, hpart, Bool.true_and]

theorem badOffline_of_lt {g : Nat} (h0 : 0 < g) (h64 : g ≤ 64) (s : State) : badOffline 0 g s = false := by
  rw [badOffline, (argPart_eq (f := 0) (g := g) rfl h64).2, Bool.false_or, decide_eq_false_iff_not]
  omega

/-- A partition that goes offline: its banks are in CACHE mode, and its key slots hold no job. -/
theorem offline_spec (s : State) {g : Nat} (hg : 0 < g) {rest : List Nat} (hguast : s.guast = 0 :: rest) :
    let t := ((retireSlots s.slots g (cacheBanks (s.part g).chiplets s)).setPartState g .offline).endRequest 0 0
    (t.part g).st = .offline ∧ t.ended 0 0 0 rest ∧ (∀ c ∈ (s.part g).chiplets, ∀ b, ((t.chip c).bank b).mode = .cache)
      ∧ ∀ k, (s.slot k).part = g → (t.slot k).root = none := by
  intro t
  obtain ⟨h, m, o, p, hbanks⟩ := cacheBanks_frame (s.part g).chiplets s
  obtain ⟨-, hcached⟩ := cacheBanks_cached (s.part g).chiplets s
  generalize hu : cacheBanks (s.part g).chiplets s = u at hbanks hcached
  obtain ⟨ks, hslots⟩ := retireSlots_frame s.slots g u
  have hroot : ∀ k, (s.slot k).part = g → ((retireSlots s.slots g u).slot k).root = none := fun k =>
    root_retireSlots_part (s := s) (u := u) (by rw [hbanks]) hg
  generalize hv : retireSlots s.slots g u = v at hslots hroot
  obtain ⟨fs, hstate⟩ := setPartState_frame v g .offline
  have hguast' : v.guast = 0 :: rest := by
    rw [hslots, hbanks]
    exact hguast
  have ht : t = (v.setPartState g .offline).endRequest 0 0 := by rw [← hv, ← hu]
  rw [ht]
  refine ⟨by rw [part_endRequest, st_setPartState], ended_endRequest ((guast_setPartState ..).trans hguast') 0 0, fun c hc b => ?_,
    fun k hk => ?_⟩
  · rw [chip_endRequest, hstate, hslots]
    exact hcached c hc b
  · rw [slot_endRequest, hstate]
    exact hroot k hk

/-! ### What each event does with a request that is granted (R354 to R358) -/

theorem exec_setPower_forbidden {s : State} {f : Nat} {rest : List Nat} (hguast : s.guast = f :: rest)
    (hop : (s.func f).gop.toNat = gSET_POWER) (hmay : mayRequest f gSET_POWER = false) :
    exec .setPower s = .next (s.endRequest 1 0) := by
  show execSetPower s = _
  rw [execSetPower, requestEvent_forbidden hguast hop rfl hmay]

theorem exec_drain {s : State} {f g p : Nat} {rest : List Nat} (hask : s.asksFor f gDRAIN g rest) (hp : argPart f g = p)
    (hbad : badDrain f g s = false) (hpart : s.hasPart p = true) : exec .drain s
      = if (s.part p).st = .active then .next ((s.setPartState p .draining).endRequest 0 0) else .next (s.endRequest 1 0) := by
  show execDrain s = _
  rw [execDrain, partEvent_run hask hp hbad hpart]
  simp only [beq_iff_eq]

theorem exec_undrain {s : State} {f g p : Nat} {rest : List Nat} (hask : s.asksFor f gUNDRAIN g rest) (hp : argPart f g = p)
    (hbad : badDrain f g s = false) (hpart : s.hasPart p = true) (hst : (s.part p).st = .draining ∨ (s.part p).st = .drained) :
    exec .undrain s = .next (((s.setPartState p .active).select p).endRequest 0 0) := by
  show execUndrain s = _
  rw [execUndrain, partEvent_run hask hp hbad hpart, if_pos]
  simpa using hst

theorem exec_offline {s : State} {g : Nat} {rest : List Nat} (hask : s.asksFor 0 gOFFLINE g rest) (h0 : 0 < g) (h64 : g ≤ 64)
    (hpart : s.hasPart g = true) (hst : (s.part g).st = .drained) : exec .offline s
      = .next (((retireSlots s.slots g (cacheBanks (s.part g).chiplets s)).setPartState g .offline).endRequest 0 0) := by
  show execOffline s = _
  rw [execOffline, partEvent_run (p := g) hask (argPart_eq (f := 0) (g := g) rfl h64).1 (badOffline_of_lt h0 h64 s) hpart,
    if_pos (beq_iff_eq.2 hst)]

theorem exec_online {s : State} {g : Nat} {rest : List Nat} (hask : s.asksFor 0 gONLINE g rest) (h0 : 0 < g) (h64 : g ≤ 64)
    (hpart : s.hasPart g = true) (hst : (s.part g).st = .offline) :
    exec .online s = .next (((s.setPartState g .active).select g).endRequest 0 0) := by
  show execOnline s = _
  rw [execOnline, partEvent_run (p := g) hask (argPart_eq (f := 0) (g := g) rfl h64).1 (badOffline_of_lt h0 h64 s) hpart,
    if_pos (beq_iff_eq.2 hst)]

theorem exec_killJob {s : State} {f g : Nat} {rest : List Nat} (hask : s.asksFor f gKILL_JOB g rest) (hg : g < 64) :
    exec .killJob s = if (s.slot (BitVec.ofNat 6 g)).root.isSome = true ∧ (f = 0 ∨ (s.slot (BitVec.ofNat 6 g)).part = f)
      then .next ((s.killJob (BitVec.ofNat 6 g) 0 []).endRequest 0 0) else .next (s.endRequest 1 0) := by
  show execKillJob s = _
  rw [execKillJob, requestEvent_run hask rfl (unnamed_of_lt (n := 6) hg)]
  simp only [Bool.and_eq_true, Bool.or_eq_true, beq_iff_eq]

theorem exec_setAge {s : State} {p a : Nat} {rest : List Nat} (hask : s.asksFor 0 gSET_AGE (p + 256 * a) rest) (hp : p ≤ 64)
    (hlow : 2 ^ 10 ≤ a) (hhigh : a ≤ 2 ^ 32) (hpart : s.hasPart p = true) : exec .setAge s
      = .next ((s.modPart p (fun v => { v with age := a })).endRequest 0 (s.part p).age) := by
  have hdiv : (p + 256 * a) / 2 ^ 8 = a := by omega
  have hmod : (p + 256 * a) % 128 = p := by omega
  have hnamed : unnamed (p + 2 ^ 8 * a) (2 ^ 7 - 1 + 2 ^ 8 * (2 ^ 33 - 1)) = false :=
    unnamed_add (by omega) (by omega) (unnamed_of_lt (by omega)) (unnamed_of_lt (by omega))
  have harg : argPart 0 (p + 256 * a) = p := by rw [argPart, if_pos rfl, hmod]
  show execSetAge s = _
  rw [execSetAge, requestEvent_run hask rfl]
  · dsimp only
    rw [harg, if_pos hpart, hdiv]
  · rw [hdiv, badPart, if_pos rfl, hmod, decide_eq_false (Nat.not_lt.2 hp), decide_eq_false (Nat.not_lt.2 hlow),
      decide_eq_false (Nat.not_lt.2 hhigh), Bool.or_false, Bool.or_false, Bool.or_false]
    exact hnamed

theorem exec_setStrength {s : State} {c b g : Nat} {st : Bool} {rest : List Nat} (hask : s.asksFor 0 gSET_STRENGTH g rest)
    (hg : g = c + 2 ^ 10 * b + if st then 2 ^ 16 else 0) (hc : c < 576) (hb : b < 32) :
    exec .setStrength s = .next ((s.setStrength c b st).endRequest 0 0) := by
  rw [flag_eq_mul_toNat] at hg
  have hst : st.toNat ≤ 1 := st.toNat_le
  have hmod : g % 1024 = c := by omega
  have hbank : g / 1024 % 64 = b := by omega
  show execSetStrength s = _
  rw [execSetStrength, requestEvent_run hask rfl]
  · rw [hmod, hbank, testBit_eq_of_div (v := st) (by omega)]
  · rw [show unnamed g 0x1FFFF = false from unnamed_of_lt (n := 17) (by omega), hmod, hbank, Config.chiplets,
      decide_eq_false (Nat.not_le.2 hc), decide_eq_false (by omega)]
    rfl

theorem exec_setTout {s : State} {g : Nat} {rest : List Nat} (hask : s.asksFor 0 gSET_TOUT g rest) (hlow : 10000 ≤ g)
    (hhigh : g ≤ 2 ^ 24) : exec .setTout s = .next (({ s with tout := g } : State).endRequest 0 s.tout) := by
  show execSetTout s = _
  rw [execSetTout, requestEvent_run hask rfl]
  rw [decide_eq_false (Nat.not_lt.2 hlow), decide_eq_false (Nat.not_lt.2 hhigh)]
  rfl

theorem exec_retireCore_of_none {s : State} {g : Nat} {rest : List Nat} (hask : s.asksFor 0 gRETIRE_CORE g rest) (hg : g < 4608)
    (hretiring : (s.core g).retiring = false) (hspare : s.siteSpare g = none) :
    exec .retireCore s = .next (s.endRequest 1 0) := by
  show execRetireCore s = _
  rw [execRetireCore, requestEvent_run hask rfl (decide_eq_false (Nat.not_le.2 hg))]
  simp only [hretiring, hspare, Bool.false_eq_true, if_false]

theorem exec_retireCore_of_spare {s : State} {g pc : Nat} {rest : List Nat} (hask : s.asksFor 0 gRETIRE_CORE g rest) (hg : g < 4608)
    (hretiring : (s.core g).retiring = false) (hspare : s.siteSpare g = some pc) :
    exec .retireCore s = .next (s.startRetire g pc) := by
  show execRetireCore s = _
  rw [execRetireCore, requestEvent_run hask rfl (decide_eq_false (Nat.not_le.2 hg))]
  simp only [hretiring, hspare, Bool.false_eq_true, if_false]

theorem exec_setPower {s : State} {g : Nat} {rest : List Nat} (hask : s.asksFor 0 gSET_POWER g rest) (hlow : 10000 ≤ g)
    (hhigh : g ≤ 21000) : exec .setPower s = .next (({ s with power := g } : State).endRequest 0 0) := by
  show execSetPower s = _
  rw [execSetPower, requestEvent_run hask rfl]
  rw [decide_eq_false (Nat.not_lt.2 hlow), decide_eq_false (Nat.not_lt.2 hhigh)]
  rfl

theorem exec_setFabricSlot {s : State} {k r : BitVec 6} {panel : BitVec 12} {gen : BitVec 16} {v : Bool} {g : Nat}
    {rest : List Nat} (hask : s.asksFor 0 gSET_FABRIC g rest)
    (hg : g = k.toNat + 2 ^ 6 * panel.toNat + 2 ^ 18 * r.toNat + 2 ^ 24 * gen.toNat + if v then 2 ^ 40 else 0) :
    exec .setFabricSlot s
      = .next ((s.modSlot k (fun x => { x with fabric := if v then some (panel, r, gen) else none })).endRequest 0 0) := by
  obtain ⟨hsub, hnamed, hk, hv, hpanel, hr, hgen⟩ := fabricSlot_fields hg
  show execSetFabricSlot s = _
  rw [execSetFabricSlot, requestEvent_run hask (by rw [hsub]; rfl) hnamed]
  dsimp only
  rw [hk, hv, hpanel, hr, hgen]

theorem exec_setFabricAdmission {s : State} {k r : BitVec 6} {panel : BitVec 12} {add : Bool} {g : Nat} {rest : List Nat}
    (hask : s.asksFor 0 gSET_FABRIC g rest)
    (hg : g = k.toNat + 2 ^ 6 * panel.toNat + 2 ^ 18 * r.toNat + (if add then 2 ^ 40 else 0) + 2 ^ 52) :
    exec .setFabricAdmission s
      = .next ((s.modSlot k (fun x => { x with allowed := admitted x.allowed (panel, r) add })).endRequest 0 0) := by
  obtain ⟨hsub, hnamed, hk, hadd, hpanel, hr⟩ := fabricAdmission_fields hg
  show execSetFabricAdmission s = _
  rw [execSetFabricAdmission, requestEvent_run hask (by rw [hsub]; rfl) hnamed]
  dsimp only
  rw [hk, hadd, hpanel, hr]

theorem exec_setFabricSendAdmission {s : State} {p : Nat} {panel : BitVec 12} {add : Bool} {g : Nat} {rest : List Nat}
    (hask : s.asksFor 0 gSET_FABRIC g rest) (hp : p ≤ 64) (hpart : s.hasPart p = true)
    (hg : g = p + 2 ^ 7 * panel.toNat + (if add then 2 ^ 40 else 0) + 2 * 2 ^ 52) : exec .setFabricSendAdmission s
      = .next ((s.modPart p (fun v => { v with allowed := admitted v.allowed panel add })).endRequest 0 0) := by
  obtain ⟨hsub, hnamed, hmod, hadd, hpanel⟩ := fabricSend_fields hp hg
  have harg : argPart 0 g = p := by rw [argPart, if_pos rfl, hmod]
  show execSetFabricSendAdmission s = _
  rw [execSetFabricSendAdmission, requestEvent_run hask (by rw [hsub]; rfl)]
  · dsimp only
    rw [harg, if_pos hpart, hadd, hpanel]
  · rw [hnamed, badPart, if_pos rfl, hmod, decide_eq_false (Nat.not_lt.2 hp)]
    rfl

theorem exec_setFabricRoute {s : State} {panel : BitVec 12} {mask : BitVec 16} {g : Nat} {rest : List Nat}
    (hask : s.asksFor 0 gSET_FABRIC g rest) (hg : g = panel.toNat + 2 ^ 12 * mask.toNat + 3 * 2 ^ 52) :
    exec .setFabricRoute s = .next ((drainWharves s.wharves
      (drainAll s.cores { s with routes := Tab.put s.routes panel.toNat mask 0 })).endRequest 0 0) := by
  obtain ⟨hsub, hnamed, hpanel, hmask⟩ := fabricRoute_fields hg
  show execSetFabricRoute s = _
  rw [execSetFabricRoute, requestEvent_run hask (by rw [hsub]; rfl) hnamed]
  dsimp only
  rw [hpanel, hmask]

theorem exec_surveyNow {s : State} {f : Nat} {rest : List Nat} (hask : s.asksFor f gSURVEY_NOW 0 rest) :
    exec .surveyNow s = .next (s.refresh.endRequest 0 s.refresh.survey.gen) := by
  show execSurveyNow s = _
  rw [execSurveyNow, requestEvent_run hask rfl rfl]

/-- A well-formed record that registers a queue not registered before. -/
theorem exec_setQueueRegister {s : State} {f g : Nat} {ws : List Word} {root : Root} {rest : List Nat}
    (hask : s.asksFor f gSET_QUEUE g rest) (hgood : badRecord f g s = false) (hrec : s.regRecord f g = some ws)
    (hjob : s.keyJob f ws = some root) (hbit : (wordAt 0 ws).getLsbD 16 = false) (hpart : s.hasPart f = true)
    (htrans : s.descTranslates f root (newQueue f ws).vahi (newQueue f ws).desc = true)
    (hfree : s.findQueue f f (newQueue f ws).num = none) : exec .setQueueRegister s
      = .next (((s.dropQueue f f (newQueue f ws).num).modPart f (fun v => { v with queues := v.queues ++ [newQueue f ws] })).endRequest
          0 0) := by
  have hremove : s.asksRemove f g = false := by
    rw [State.asksRemove, hrec]
    exact hbit
  show execSetQueueRegister s = _
  rw [execSetQueueRegister, requestEvent_run hask (by rw [hremove, Bool.not_false, Bool.or_true]) hgood]
  simp only [hrec, Option.getD_some, funcPart, hfree, hjob, hpart, htrans, Bool.and_self, if_true]

/-- A well-formed record that removes an idle queue. -/
theorem exec_setQueueRemove {s : State} {f g : Nat} {ws : List Word} {root : Root} {rest : List Nat} {q : HostQueue}
    (hask : s.asksFor f gSET_QUEUE g rest) (hgood : badRecord f g s = false) (hrec : s.regRecord f g = some ws)
    (hjob : s.keyJob f ws = some root) (hbit : (wordAt 0 ws).getLsbD 16 = true)
    (hfind : s.findQueue f f (fieldAt 0 7 0 ws) = some q) (hidle : s.queueIdle f q = true) :
    exec .setQueueRemove s = .next ((s.dropQueue f f (fieldAt 0 7 0 ws)).endRequest 0 0) := by
  have hremove : s.asksRemove f g = true := by
    rw [State.asksRemove, hrec]
    exact hbit
  show execSetQueueRemove s = _
  rw [execSetQueueRemove, requestEvent_run hask (by rw [hgood, hremove]; rfl) hgood]
  simp only [hrec, Option.getD_some, funcPart, hfind, hjob, hidle, Option.isSome_some, Bool.and_self, if_true]

/-! ### What the grants leave (R355, R356) -/

theorem setStrength_of_lt {s : State} {c b : Nat} (st : Bool) (hb : b < 32) : s.setStrength c b st
    = (s.modChip c (fun h => h.setBank b { h.bank b with strength := st })).modChip c
      (fun h => { h with sweepBasin := { h.sweepBasin with str := st } }) := by
  rw [State.setStrength, if_pos hb]

theorem strength_setStrength {s : State} {c b : Nat} (st : Bool) (hb : b < 32) :
    (((s.setStrength c b st).chip c).bank b).strength = st := by
  rw [setStrength_of_lt st hb, State.modChip_eq, State.chip_setChip, State.modChip_eq, State.chip_setChip]
  exact congrArg Bank.strength (Tab.getD_set_self ..)

theorem mem_queues_dropQueue {s : State} {p f num : Nat} {q : HostQueue} (h : q ∈ ((s.dropQueue p f num).part p).queues) :
    ¬ (q.func = f ∧ q.num = num) := by
  rw [State.dropQueue, part_modPart] at h
  simpa only [Bool.not_eq_true', Bool.and_eq_false_iff, beq_eq_false_iff_ne, not_and_or] using (List.mem_filter.1 h).2

/-! ### The statement -/

/-- Settles O45, one clause after the other. -/
theorem guastRequests : Obligations.GuastRequests := by
  refine ⟨?forbidden, ?drain, ?offline, ?kill, ?age, ?strength, ?tout, ?retire, ?power, ?slot, ?admission, ?send, ?route, ?survey,
    ?queue⟩
  case forbidden =>
    intro s f rest hguast hop hmay
    exact ⟨_, exec_setPower_forbidden hguast hop hmay, ended_endRequest hguast 1 0, power_endRequest ..⟩
  case drain =>
    intro s f g p rest hp hg
    obtain ⟨hpart, hbad⟩ := argPart_eq hp hg
    refine ⟨fun hask hhas => ⟨fun hst => ?_, fun hst => ?_⟩, fun hask hhas hst => exec_undrain hask hpart (hbad s) hhas hst⟩
    · refine ⟨_, (exec_drain hask hpart (hbad s) hhas).trans (if_pos hst), ?_, hask.ended ?_, ?_⟩
      · rw [part_endRequest, st_setPartState]
      · exact guast_setPartState ..
      · exact sameMemory_endRequest (sameMemory_setPartState ..) ..
    · rw [exec_drain hask hpart (hbad s) hhas, if_neg hst]
  case offline =>
    intro s g rest h0 h64 hhas
    exact ⟨fun hask hst => ⟨_, exec_offline hask h0 h64 hhas hst, offline_spec s h0 hask.1⟩,
      fun hask hst => exec_online hask h0 h64 hhas hst⟩
  case kill =>
    intro s f g rest hask hg
    refine ⟨fun hroot hfunc => ?_, fun hroot => ?_⟩
    · rw [exec_killJob hask hg, if_pos ⟨hroot, hfunc⟩]
    · rw [exec_killJob hask hg, hroot, if_neg (fun h => Bool.false_ne_true h.1)]
  case age =>
    intro s p a rest hask hp ha hle hhas
    refine ⟨_, exec_setAge hask hp ha hle hhas, ?_, hask.ended rfl, sameMemory_endRequest ⟨rfl, rfl⟩ ..⟩
    rw [part_endRequest, part_modPart]
  case strength =>
    intro s c b st rest hask hc hb
    have hset := setStrength_of_lt (s := s) (c := c) st hb
    refine ⟨_, exec_setStrength hask rfl hc hb, ?_, hask.ended ?_, ?_⟩
    · rw [chip_endRequest, strength_setStrength st hb]
    · rw [hset]
      rfl
    · rw [hset]
      exact sameMemory_endRequest ⟨rfl, rfl⟩ ..
  case tout =>
    intro s g rest hask hlow hhigh
    exact ⟨_, exec_setTout hask hlow hhigh, tout_endRequest .., hask.ended rfl, sameMemory_endRequest ⟨rfl, rfl⟩ ..⟩
  case retire =>
    intro s g rest hask hg hretiring
    refine ⟨exec_retireCore_of_none hask hg hretiring,
      fun pc hspare => ⟨_, exec_retireCore_of_spare hask hg hretiring hspare, ?_, rfl, rfl⟩⟩
    exact congrArg Core.retiring (core_modCore_self s g (fun c => { c with retiring := true }))
  case power =>
    intro s g rest hask hlow hhigh
    exact ⟨_, exec_setPower hask hlow hhigh, power_endRequest .., hask.ended rfl, sameMemory_endRequest ⟨rfl, rfl⟩ ..⟩
  case slot =>
    intro s k panel r gen v rest hask
    refine ⟨_, exec_setFabricSlot hask rfl, ?_, hask.ended rfl, sameMemory_endRequest ⟨rfl, rfl⟩ ..⟩
    rw [slot_endRequest, slot_modSlot, if_pos rfl]
  case admission =>
    intro s k panel r add rest hask
    refine ⟨_, exec_setFabricAdmission hask rfl, ?_, hask.ended rfl, sameMemory_endRequest ⟨rfl, rfl⟩ ..⟩
    rw [slot_endRequest, slot_modSlot, if_pos rfl, mem_admitted]
  case send =>
    intro s p panel add rest hask hp hhas
    refine ⟨_, exec_setFabricSendAdmission hask hp hhas rfl, ?_, hask.ended rfl, sameMemory_endRequest ⟨rfl, rfl⟩ ..⟩
    rw [part_endRequest, part_modPart, mem_admitted]
  case route =>
    intro s panel mask rest hask u
    exact exec_setFabricRoute hask rfl
  case survey =>
    intro s f rest hask
    obtain ⟨m, o, p, cd, fs, hrefresh⟩ := refresh_frame s
    refine ⟨_, exec_surveyNow hask, ?_⟩
    rw [survey_endRequest, hrefresh]
    exact ⟨rfl, rfl⟩
  case queue =>
    intro s f g ws root rest hask hg hrec hok hjob
    have hgood : badRecord f g s = false := by simp [badRecord, hg, hrec, hok]
    refine ⟨fun hbit hhas htrans hfree => ?_, fun q hbit hfind hidle => ?_⟩
    · refine ⟨_, exec_setQueueRegister hask hgood hrec hjob hbit hhas htrans hfree, ?_, hask.ended rfl,
        sameMemory_endRequest ⟨rfl, rfl⟩ ..⟩
      rw [part_endRequest, part_modPart]
      exact List.mem_append_right _ (List.mem_singleton_self _)
    · refine ⟨_, exec_setQueueRemove hask hgood hrec hjob hbit hfind hidle, sameMemory_endRequest ⟨rfl, rfl⟩ .., hask.ended rfl,
        fun k hk => ?_⟩
      rw [part_endRequest] at hk
      exact mem_queues_dropQueue hk

end Sys2Proof.Machine
end
